-- ==== Sys2Proof/Word.lean ====
section
/-! DEFINITION. Word: the byte and word types of the model and their plainest arithmetic (R3). -/

namespace Sys2Proof

/-- A byte of memory, of flash or of a message. -/
abbrev Byte := BitVec 8

/-- A 32-bit word. -/
abbrev Word32 := BitVec 32

/-- A 64-bit word: a control register (R4), a descriptor word (R143), a field of a header. -/
abbrev Word64 := BitVec 64

/-- The s16 value of a 16-bit pattern. -/
def sint16 (w : BitVec 16) : Int := w.toInt

end Sys2Proof
end

