-- ==== Sys2Proof/Syntax.lean ====
section
/-! DEFINITION. Syntax: the commands of the block, one constructor for each row of spec/opcode_table.json, and the
types of their operands. Numbers that the spec adds and compares are Nat; patterns are bit vectors. -/

namespace Sys2Proof

/-- Who makes a register access (R405). -/
inductive Requester where
  | hart (h : Nat)
  | rom
  | peer (node port : Nat)
  deriving DecidableEq, Repr

/-- A transaction of R258 (Table 10.6) with its data bytes, as an endpoint sees it. -/
structure Txn where
  ttype : Nat
  vc : Nat
  last : Bool
  once : Bool
  dst : Nat
  src : Nat
  len : Nat
  tag : Nat
  status : Nat
  addr : Nat
  arg0 : Word64
  arg1 : Word64
  data : List Byte
  deriving DecidableEq, Repr

/-- The PLLs of Table 16.13. -/
inductive Pll where
  | array
  | fabric (q : Nat)
  | memory (q : Nat)
  | control (q : Nat)
  | serdes (q : Nat)
  deriving DecidableEq, Repr

/-- The memories of R286. -/
inductive WipeMem where
  | hbm | panel | commons | table
  deriving DecidableEq, Repr

/-- What the security unit found of the signatures it checked at boot (R363, R366, R371). -/
structure Verdicts where
  fwA : Bool
  fwB : Bool
  cfg0 : Bool
  cfg1 : Bool
  life : Bool
  lifeNewKey : Bool
  deriving DecidableEq, Repr

/-- A unit that can be short, and so asks for holds (R107, Table 4.8). What it knows beside the model's state stands in its
operands: the entries queued at the pseudo-channel of the fill that a bellows awaits, and the entries of fills already
issued that land by the bell it decides for; that the quench write FIFO is full; that the lane's terms come too late; that a
collective engine takes or gives no data. -/
inductive HoldUnit where
  | bellows (site : Nat) (row : Bool) (idx queued due : Nat)
  | quench (site : Nat) (full : Bool)
  | finisher (q : Nat)
  | saddlebag (q : Nat) (late : Bool)
  | commons (q : Nat)
  | tableBuild (site : Nat)
  | collective (q : Nat) (busy : Bool)
  | relay (site : Nat)
  | throttle
  | loadShed
  deriving DecidableEq, Repr

/-- A soft error that strikes a drained block (R99): a bit of a group's V, or of a gauge value. -/
inductive Flip where
  | cell (grp bit : Nat)
  | gaugeRow (row bit : Nat)
  | gaugeCol (col bit : Nat)
  | gaugeCorner (bit : Nat)
  deriving DecidableEq, Repr

/-- A symbol of an HBM line in error: its position in the 72-byte codeword and the difference. -/
abbrev SymErr := Nat × Byte

/-- A word of a site's storage that BIST tests (R115); rows and columns are physical. -/
inductive BistLoc where
  | panel (block i j : Nat)
  | table (bank : Bool) (word : Nat)
  | rowBellows (row entry : Nat)
  | colBellows (col entry : Nat)
  | drain (row col : Nat)
  | buffer (k group : Nat)
  deriving DecidableEq, Repr

/-- A defect of a tile site that a proving run meets (R115, R116): bits of a storage word stuck at one and at zero; a cell, the
gauge cells at row or column 33, that adds a wrong amount at a step of a pass. -/
inductive Defect where
  | stuck (loc : BistLoc) (ones zeros : BitVec 520)
  | cell (row col pass step : Nat) (add : Int)
  deriving DecidableEq, Repr

/-- The defects of a site. -/
structure SiteDefects where
  site : Nat
  defects : List Defect
  deriving DecidableEq, Repr

/-- A defect of a quarter's compute die outside its sites (R117): of the relay of a tile column, or of the stamps that pass 4
needs, with the wrong amount that it brings into a group. -/
inductive OutsideDefect where
  | relay (col : Nat) (add : Int)
  | stamp (add : Int)
  deriving DecidableEq, Repr

/-- Where a SECDED word lies (R284). -/
inductive SramLoc where
  | commons (addr : Nat) (chunk : Bool)
  | panel (site addr : Nat)
  | table (site : Nat) (bank : Bool) (off : Nat)
  deriving DecidableEq, Repr

/-- How a SECDED error was met (R284). -/
inductive SramUse where
  | scrub
  | operation (seq : Nat)
  | peer (port : Nat) (txn : Txn)
  | stagedChunk (ctx inst chunk : Nat)
  deriving DecidableEq, Repr

/-- A register of a hart that a debug access reads (R287, R288). -/
inductive HartReg where
  | pc | mode
  | x (n : Nat)
  | f (n : Nat)
  | csr (n : Nat)
  | mtime | mtimecmp
  deriving DecidableEq, Repr

/-- What the instruction at a hart's pc does. Which instruction a word is, and what its arithmetic leaves, is the RISC-V
architecture's, to which R287 refers (log entry 130, DESIGN CHOICE): the step is given the result of an arithmetic
instruction, the kind and operands of the others, what an AMO stores, and whether a store-conditional succeeds. -/
inductive HartInstr where
  | compute (rd : Nat) (v : Word64)
  | computeF (rd : Nat) (v : Word64)
  | jump (rd : Nat) (target : Word64)
  | load (rd : Nat) (fp signed : Bool) (width base : Nat) (off : Word64)
  | store (src : Nat) (fp : Bool) (width base : Nat) (off : Word64)
  | amo (rd width base : Nat) (v : Word64)
  | storeCond (rd src width base : Nat) (ok : Bool)
  | csr (n rd : Nat) (v : Option Word64)
  | setTimeCmp (v : Word64)
  | ecall
  | ebreak
  | mret
  | sret
  deriving DecidableEq, Repr

/-- What a debug access to a hart does (Table 15.17). -/
inductive DbgOp where
  | halt | resume
  | step (i : HartInstr)
  | inspect (r : HartReg)
  deriving DecidableEq, Repr

/-- What the far end of ALIGN says: its PASSED and PROPOSED lanes (R242). -/
structure AlignFar where
  passed : BitVec 8
  proposed : BitVec 8
  deriving DecidableEq, Repr

/-- The symbols that the receiver corrected on a lane over some codewords (R246). -/
structure LaneErrors where
  lane : Nat
  codewords : Nat
  symbols : Nat
  deriving DecidableEq, Repr

/-- The commands. -/
inductive Instr where
  -- power, clocks, resets
  | pwrEnAssert
  | pwrGood (miss : Option Nat)
  | pwrEnDeassert
  | powerDownWaitEnd
  | inputUndervoltage (mv : Nat)
  | inputRecovered (mv : Nat)
  | inputBrownout (mv : Nat)
  | inputOvervoltageWarn (mv : Nat)
  | inputOvervoltageTrip (mv : Nat)
  | railShort (rail : Nat)
  | remoteSenseOpen
  | phaseLost
  | referenceLost (is156 : Bool)
  | pllLost (pll : Pll)
  | thermalTrip (src : Nat) (temp : BitVec 16)
  | thermalControlTick (temps : List (BitVec 16))
  | capControlTick (mv ma mw : Nat)
  | loadShedFall
  | loadShedRise
  | shedStepDown
  | resetNAssert
  -- boot
  | wipeDone (m : WipeMem) (ok : Bool)
  | firmwareVerified (v : Verdicts)
  | hbmTrainingDone (lost : List Nat)
  | bootLock
  -- bell and holds
  | bellCheckSend (q : Nat)
  | bellCheckArrive (src dst : Nat) (value : BitVec 48)
  | bellCheckMissing (src dst : Nat)
  | holdDecision (u : HoldUnit)
  | holdCycle (dom : Nat)
  -- tiles
  | stepIssue (site : Nat)
  | bellowsFill (site : Nat) (row : Bool) (idx : Nat)
  | panelFill (seq plc chunk : Nat) (isB : Bool) (block line word : Nat)
  | frontEnter (seq tile plc : Nat)
  | tongWaitEnd (tile : Nat)
  | quenchBlock (site : Nat) (flips : List Flip)
  | relayArrive (site grp : Nat)
  | finisherRow (q seq row : Nat)
  | saddlebagLaneTerms (site : Nat)
  | productTableBuild (site : Nat)
  | preemptDecision (dom : Nat)
  | preemptSave (seq : Nat)
  | holdWatchdogExpire (dom : Nat)
  | bellowsFetchTimeout (site : Nat) (addr : Nat)
  | modeBoundary
  | arrProveStart (req : Requester) (v : Word64)
  | provingRunEnd (q : Nat) (outside : List OutsideDefect) (sites : List SiteDefects)
  | arrModeWrite (req : Requester) (v : Word64)
  | glbQmaskWrite (req : Requester) (v : Word64)
  | tileRepairWrite (req : Requester) (site : Nat) (v : Word64)
  | tileStateWrite (req : Requester) (site : Nat) (v : Word64)
  | arrThrottleWrite (req : Requester) (v : Word64)
  -- the Ostler
  | ostlerSelect (dom : Nat)
  | completionRecord (seq : Nat)
  | budgetExpire (seq : Nat)
  -- operations
  | matmul (seq : Nat)
  | matvec (seq : Nat)
  | elemwiseUnary (seq : Nat)
  | elemwiseAdd (seq : Nat)
  | elemwiseSub (seq : Nat)
  | elemwiseMul (seq : Nat)
  | elemwiseFma (seq : Nat)
  | elemwiseMax (seq : Nat)
  | elemwiseMin (seq : Nat)
  | dropout (seq : Nat)
  | reduceSum (seq : Nat)
  | reduceSumsq (seq : Nat)
  | reduceMax (seq : Nat)
  | reduceMin (seq : Nat)
  | reduceVar (seq : Nat)
  | normLayer (seq : Nat)
  | normRms (seq : Nat)
  | softmax (seq : Nat)
  | attend (seq : Nat)
  | quant (seq : Nat)
  | fold (seq : Nat)
  | cbBuild (seq : Nat)
  | sbBuild (seq : Nat)
  | gather (seq : Nat)
  | scatterAcc (seq : Nat)
  | rngUniform (seq : Nat)
  | rngNormal (seq : Nat)
  | rngBernoulli (seq : Nat)
  | copy (seq : Nat)
  | collective (seq : Nat)
  | fusedGather (seq : Nat)
  | fusedAllGather (seq : Nat)
  | fusedReduce (seq : Nat)
  | fusedAllReduce (seq : Nat)
  | fusedReduceScatter (seq : Nat)
  | barrier (seq : Nat)
  | departure (dom : Nat)
  | scalarReduceSum (seq : Nat)
  | scalarReduceMax (seq : Nat)
  | scalarReduceMin (seq : Nat)
  | tableLoad (seq : Nat)
  | tableSwap (seq : Nat)
  | waymark (seq : Nat)
  | fence (seq : Nat)
  | nop (seq : Nat)
  -- register writes with a row of their own
  | roomDoorbell (req : Requester) (room : Nat) (v : Word64)
  | roomConfigWrite (req : Requester) (room : Nat) (size : Bool) (v : Word64)
  | roomEnableWrite (req : Requester) (room : Nat) (v : Word64)
  | trapClr (req : Requester)
  | aclLoad (req : Requester)
  | looseSwap (req : Requester)
  | errLogBaseWrite (req : Requester) (v : Word64)
  | eventAck (req : Requester) (off : Nat) (v : Word64)
  | hartKick (h : Nat) (bits : BitVec 16)
  | moduleKick (req : Requester)
  | detWrite (req : Requester) (off : Nat) (v : Word64)
  | waymarkCtlWrite (req : Requester) (v : Word64)
  | grpCfgWrite (req : Requester) (ctx : Nat) (v : Word64)
  | portEnableWrite (req : Requester) (p : Nat) (enable : Bool)
  | portRetrain (req : Requester) (p : Nat)
  | pwrCapWrite (req : Requester) (v : Word64)
  | twnAdopt (req : Requester) (v : Word64)
  | lifeReqGo (req : Requester)
  | registerWrite (req : Requester) (off width : Nat) (v : Word64)
  -- collectives
  | chunk (dst : Nat) (tag0 tag1 : Word64) (data : List Byte)
  | chunkAck (src : Nat) (tag0 tag1 : Word64)
  | stageAdd (ctx inst chunk : Nat) (flip : Option (Nat × Nat))
  | sealReportSend (ctx inst seg : Nat)
  | sealReport (dst : Nat) (tag0 tag1 : Word64) (data : List Byte)
  | sealMsg (dst : Nat) (tag0 tag1 : Word64) (data : List Byte)
  | barrierArrival (dst : Nat) (tag0 tag1 : Word64) (data : List Byte)
  | barrierRelease (dst port : Nat) (tag0 tag1 : Word64) (data : List Byte)
  | scalarContribution (dst : Nat) (tag0 tag1 : Word64) (data : List Byte)
  | scalarResult (dst : Nat) (tag0 tag1 : Word64) (data : List Byte)
  | collMsgAck (src : Nat) (tag0 tag1 : Word64)
  | collMsgResend (idx : Nat)
  | memberSuspect (ctx member : Nat)
  | twinWaitExpire (ctx : Nat)
  -- ports
  | portDetect (p : Nat)
  | equaliseDone (p : Nat) (failed : BitVec 8)
  | alignDone (p : Nat) (far : AlignFar)
  | alignTimeout (p : Nat)
  | configFlit (p : Nat) (payload : List Byte)
  | resumeFlit (p : Nat) (payload : List Byte)
  | probeSend (p : Nat)
  | probeFlit (p : Nat) (payload : List Byte)
  | probeReplyFlit (p : Nat) (payload : List Byte)
  | flitReceive (p : Nat) (flit : List Byte) (fecBad : Bool)
  | nakReceive (p : Nat) (ack : Nat) (cause : BitVec 8)
  | ackTimeout (p : Nat)
  | retrainTimeout (p : Nat)
  | fecUncorrectable (p : Nat)
  | laneWeak (p : Nat) (errors : LaneErrors)
  -- transactions
  | read (port : Nat) (t : Txn)
  | readRsp (port : Nat) (t : Txn)
  | write (port : Nat) (t : Txn)
  | writeAck (port : Nat) (t : Txn)
  | workOrder (port : Nat) (t : Txn)
  | workAck (port : Nat) (t : Txn)
  | mirrorGranule (port : Nat) (t : Txn)
  | mirrorConfig (port : Nat) (t : Txn)
  | mirrorSeal (port : Nat) (t : Txn)
  | heartbeat (port : Nat) (t : Txn)
  | adopt (port : Nat) (t : Txn)
  | mirrorAck (port : Nat) (t : Txn)
  | unreach (port : Nat) (t : Txn)
  | reach (port : Nat) (t : Txn)
  | rackUpdate (port : Nat) (t : Txn)
  | remoteTimeout (tag : Nat)
  -- memory
  | hbmLineRead (addr src seq : Nat) (err : List SymErr)
  | patrolScrub (stack : Nat) (errs : List (Nat × List SymErr))
  | rowRepair (pc row : Nat) (refused : Bool)
  | refresh (stack : Nat)
  | hbmTransactionTimeout (pc addr src seq : Nat)
  | retirementDone
  | exactAdd (seq elem : Nat)
  | sramScrub (loc : SramLoc) (dbl : Bool) (use : SramUse)
  -- watchdogs and twins
  | hartWdogExpire (h : Nat)
  | moduleWdogExpire
  | heartbeatSend
  | partnerSilence
  | partnerFailed
  | fencingEnd
  | partnerReplayEnd
  | contextSwitch
  | mirrorSend (granule : Nat)
  | adoptTimeout
  | handBack (newTwin : Nat)
  -- management
  | entdaa (da : BitVec 8)
  | setEndpointId (eid : BitVec 8)
  | getEndpointId
  | getMctpVersionSupport (msgType : BitVec 8)
  | getMessageTypeSupport
  | getVendorDefinedMsgSupport
  | pldmBaseCommand (cmd : BitVec 8)
  | getPdr (handle : Nat)
  | getSensorReading (id : Nat)
  | getStateSensorReadings (id : Nat)
  | getStatus (sq : BitVec 16)
  | readReg (sq : BitVec 16) (off : Nat)
  | clearAlert (sq : BitVec 16)
  | reset (sq : BitVec 16)
  | flashRead (sq : BitVec 16) (off len : Nat)
  | flashErase (sq : BitVec 16) (off : Nat)
  | flashWrite (sq : BitVec 16) (off : Nat) (data : List Byte)
  | bootSelect (sq : BitVec 16) (pref trial tries cfgNext : Byte)
  | commit (sq : BitVec 16)
  | getCert (sq : BitVec 16)
  | attest (sq : BitVec 16) (nonce : List Byte)
  | attestReportReady
  -- JTAG
  | bypass
  | idcode
  | samplePreload
  | extest
  | clamp
  | highz
  | extestPulse
  | extestTrain
  | dbgHart (h : Nat) (op : DbgOp)
  | dbgReg (off : Nat) (wr : Option Word64)
  -- added rows
  | flitSend (p : Nat)
  | inputInRange (mv : Nat)
  | resetNDeassert (straps : BitVec 6)
  | onceCacheExpiry (src tag : Nat)
  | controlComplexRestart (ok : Bool)
  deriving DecidableEq, Repr

end Sys2Proof
end

