-- ==== Sys2Proof/Decode.lean ====
section
/-! DEFINITION. Decode: the command that a word spells by the bits of spec/opcode_table.json. No row of the table gives
bits (every row's list of fields is empty): the commands come as register writes, messages, pins and events, whose
layouts the meanings read themselves. So no word spells a command. -/

namespace Sys2Proof

/-- The command of a word, by the table's bits: the table gives none for any row. -/
def decodeTableWord (_nbits _w : Nat) : Option Instr := none

end Sys2Proof
end

