-- ==== Sys2Proof/Config.lean ====
section
/-! DEFINITION. Config: the values that the spec leaves to the part, and the free values. Every constant here is
opaque: nothing can evaluate it, so that what is proved holds for every value of it. -/

namespace Sys2Proof.Config

/-- A fresh value for each use, counted by `State.freeCtr` (log entry 3, DESIGN CHOICE). -/
opaque freeValue : Nat → Word64

/-- Byte `i` of the built-in function image of slot `n` (R195; log entry 9, DESIGN CHOICE). -/
opaque builtinByte : Nat → Nat → Byte

/-- Byte `i` of the SLH-DSA-SHA2-128f signature that the security unit makes over a report (R375; log entry 10, DESIGN CHOICE). -/
opaque reportSignature : List Byte → Nat → Byte

/-- Byte `i` of the identity public key made from the device secret by FIPS 205 (R373; log entry 10, DESIGN CHOICE). -/
opaque identityKey : List Byte → Nat → Byte

/-- Isazo's JEP106 manufacturer identity in the JTAG IDCODE (R379; log entry 10, DESIGN CHOICE). -/
opaque manufacturerId : BitVec 11

/-- The SHA-256 digest of the boot ROM, word `w` (R374, measurement 0; log entry 10, DESIGN CHOICE). -/
opaque romDigest : Nat → Word64

/-- The contents of the REPAIR fuses as bytes: fused repairs, retired sites, rows repaired at test (R374, measurement 3;
log entry 28, DESIGN CHOICE). -/
opaque repairBytes : List (Nat × Nat × Nat) → List Nat → List (Nat × Nat) → List Byte

/-- Whether storage granule `l` of pseudo-channel `pc` lies in DRAM row `r` of its stack: the controller's own
placement, which the spec does not give (R267; log entry 11, DESIGN CHOICE). -/
opaque dramRow : Nat → Nat → Nat

/-- What an ATTEND output of a query row delivers when every key of the row is masked, so that the row sum is zero and
the quotient of R205 has no value: the element code of output `i` (log entry 14, DESIGN CHOICE). -/
opaque emptyRow : Nat → Word64

/-- Codes that the spec does not state: 0, the index of an element of class NAR that SB_BUILD puts under a codebook; 1, entry 15
of a CB4E codebook, by group (log entry 15, DESIGN CHOICE); 2, an output of a softmax row whose maximum is no s16 (log
entry 110, DESIGN CHOICE). -/
opaque openCode : Nat → Nat → Word64

/-- What a byte of the partner's memory reads as at the survivor where no granule of it has come over or been written:
R350 translates granules of the directory only (log entry 16, DESIGN CHOICE). -/
opaque untranslated : Nat → Byte

/-- Version entries of the answer to Get MCTP Version Support, by message type (R376; log entry 46, PRESUMED). -/
opaque mctpVersion : Nat → Word32

/-- What the module answers to a PLDM base command beside its types (R376; log entry 46, PRESUMED). -/
opaque pldmBase : Nat → List Byte

/-- The bytes of a platform descriptor record (R376; log entry 46, PRESUMED). -/
opaque pdr : Nat → List Byte

/-- The vendor-defined command set version of the answer to Get Vendor Defined Message Support (R376; log entry 46, PRESUMED). -/
opaque vendorSet : BitVec 16

end Sys2Proof.Config
end

