-- ==== Sys2Proof/Machine/Bits.lean ====
section
/-! DEFINITION. Bits: byte order, bit fields, checks and hashes that the spec takes from published standards: CRC-64 of
ECMA-182, CRC-32, SHA-256 of FIPS 180-4, Philox-4x32-10, and the RS(72,64) line code of R269. -/

namespace Sys2Proof.Machine

/-- The little-endian number of a byte string (R3). -/
def leNat : List Byte → Nat
  | [] => 0
  | b :: t => b.toNat + 256 * leNat t

/-- The `n` low bytes of a number, little-endian (R3). -/
def leBytes : Nat → Nat → List Byte
  | 0, _ => []
  | n + 1, v => BitVec.ofNat 8 v :: leBytes n (v / 256)

/-- The big-endian number of a byte string. -/
def beNat (l : List Byte) : Nat := l.foldl (fun a b => 256 * a + b.toNat) 0

/-- The `n` low bytes of a number, big-endian. -/
def beBytes (n v : Nat) : List Byte := (leBytes n v).reverse

/-- Bits [hi:lo] of a number. -/
def bitsOf (v hi lo : Nat) : Nat := v / 2 ^ lo % 2 ^ (hi + 1 - lo)

/-- Bits [hi:lo] of `v` replaced by `x` (taken modulo the field's width). -/
def setBits (v hi lo x : Nat) : Nat :=
  v - bitsOf v hi lo * 2 ^ lo + x % 2 ^ (hi + 1 - lo) * 2 ^ lo

/-- Two's complement value of the low `w` bits of `v`. -/
def signedOf (w v : Nat) : Int :=
  let r := v % 2 ^ w
  if 2 * r < 2 ^ w then (r : Int) else (r : Int) - 2 ^ w

/-- The residue of an integer modulo 2^w. -/
def modPow (w : Nat) (x : Int) : Nat := (x % (2 ^ w : Int)).toNat

/-- Ceiling division. -/
def ceilDiv (a b : Nat) : Nat := (a + b - 1) / b

/-- Split a list into pieces of `k` elements, at most `fuel` of them. -/
def piecesOf {α : Type} (k : Nat) : Nat → List α → List (List α)
  | 0, _ => []
  | _ + 1, [] => []
  | f + 1, l => l.take k :: piecesOf k f (l.drop k)

/-- One step of an MSB-first CRC of width `w` over one byte. -/
def crcByte (w poly : Nat) (crc : Nat) (b : Byte) : Nat :=
  (List.range 8).foldl
    (fun c _ => if c / 2 ^ (w - 1) % 2 = 1 then Nat.xor (c * 2 % 2 ^ w) poly else c * 2 % 2 ^ w)
    (Nat.xor crc (b.toNat * 2 ^ (w - 8)))

/-- CRC-64 with the ECMA-182 polynomial, most significant bit first, initial value 0 (R250). -/
def crc64 (l : List Byte) : Nat := l.foldl (crcByte 64 0x42F0E1EBA9EA3693) 0

/-- One byte of the reflected CRC-32 of IEEE 802.3. -/
def crc32Byte (crc : Nat) (b : Byte) : Nat :=
  (List.range 8).foldl
    (fun c _ => if c % 2 = 1 then Nat.xor (c / 2) 0xEDB88320 else c / 2) (Nat.xor crc b.toNat)

/-- CRC-32 of IEEE 802.3: reflected, initial value and final XOR all ones. -/
def crc32 (l : List Byte) : Nat := Nat.xor (l.foldl crc32Byte 0xFFFFFFFF) 0xFFFFFFFF

/-- The first 64 primes. -/
def primes64 : List Nat :=
  (List.range 312).filter fun n => decide (2 ≤ n) && (List.range 18).all fun d => decide (d < 2) || n % d != 0 || n == d

/-- The greatest x below 2^bits with x^k at most n. -/
def rootBelow (k n bits : Nat) : Nat :=
  ((List.range bits).reverse.map fun b => 2 ^ b).foldl (fun x b => if (x + b) ^ k ≤ n then x + b else x) 0

/-- The first 32 fraction bits of the k-th root of a prime: the constants of FIPS 180-4. -/
def rootWord (k p : Nat) : Word32 := BitVec.ofNat 32 (rootBelow k (p * 2 ^ (32 * k)) 40)

/-- The round constants: from the cube roots of the first 64 primes. -/
def sha256K : List Word32 := primes64.map (rootWord 3)

/-- The eight working words of SHA-256. -/
structure ShaState where
  a : Word32
  b : Word32
  c : Word32
  d : Word32
  e : Word32
  f : Word32
  g : Word32
  h : Word32
  deriving DecidableEq, Repr

/-- The initial hash value of SHA-256: from the square roots of the first eight primes. -/
def shaStart : ShaState :=
  let w (i : Nat) : Word32 := rootWord 2 (primes64.getD i 0)
  ⟨w 0, w 1, w 2, w 3, w 4, w 5, w 6, w 7⟩

/-- The xor of a word turned right by each amount of a list. -/
def turns (x : Word32) (l : List Nat) : Word32 := (l.map fun n => x.rotateRight n).foldl (fun a b => a ^^^ b) 0

/-- One SHA-256 round with constant plus schedule word `kw`. -/
def shaRound (s : ShaState) (kw : Word32) : ShaState :=
  let pick := (s.f &&& s.e) ||| (s.g &&& ~~~s.e)
  let most := (s.b &&& s.c) ||| (s.a &&& (s.b ||| s.c))
  let t := kw + s.h + pick + turns s.e [6, 11, 25]
  { a := t + most + turns s.a [2, 13, 22], b := s.a, c := s.b, d := s.c, e := t + s.d, f := s.e, g := s.f, h := s.g }

/-- Extend a message schedule, held newest first, by one word. -/
def shaExtend (w : List Word32) : List Word32 :=
  let back (n : Nat) : Word32 := w.getD (n - 1) 0
  (back 16 + back 7 + (turns (back 15) [7, 18] ^^^ (back 15 >>> 3)) + (turns (back 2) [17, 19] ^^^ (back 2 >>> 10))) :: w

/-- One 64-byte block of SHA-256. -/
def shaBlock (s : ShaState) (blk : List Byte) : ShaState :=
  let w0 : List Word32 := (piecesOf 4 16 blk).map fun p => BitVec.ofNat 32 (beNat p)
  let w := ((List.range 48).foldl (fun w _ => shaExtend w) w0.reverse).reverse
  let r := (sha256K.zip w).foldl (fun t kw => shaRound t (kw.1 + kw.2)) s
  ⟨s.a + r.a, s.b + r.b, s.c + r.c, s.d + r.d, s.e + r.e, s.f + r.f, s.g + r.g, s.h + r.h⟩

/-- SHA-256 of a byte string, as 32 bytes in the standard's order (FIPS 180-4). -/
def sha256 (m : List Byte) : List Byte :=
  let pad := (119 - m.length % 64) % 64
  let full := m ++ [0x80] ++ List.replicate pad 0 ++ beBytes 8 (8 * m.length)
  let r := (piecesOf 64 (full.length / 64) full).foldl shaBlock shaStart
  [r.a, r.b, r.c, r.d, r.e, r.f, r.g, r.h].flatMap fun w => beBytes 4 w.toNat

/-- One Philox-4x32 round on counter words and key words (R206). -/
def philoxRound (c : Word32 × Word32 × Word32 × Word32) (k : Word32 × Word32) :
    Word32 × Word32 × Word32 × Word32 :=
  let p0 := 0xD2511F53 * c.1.toNat
  let p1 := 0xCD9E8D57 * c.2.2.1.toNat
  (BitVec.ofNat 32 (p1 / 2 ^ 32) ^^^ c.2.1 ^^^ k.1, BitVec.ofNat 32 p1,
   BitVec.ofNat 32 (p0 / 2 ^ 32) ^^^ c.2.2.2 ^^^ k.2, BitVec.ofNat 32 p0)

/-- `n` Philox rounds, the key advancing by the Weyl constants. -/
def philoxRounds : Nat → Word32 × Word32 × Word32 × Word32 → Word32 × Word32 →
    Word32 × Word32 × Word32 × Word32
  | 0, c, _ => c
  | n + 1, c, k => philoxRounds n (philoxRound c k) (k.1 + 0x9E3779B9, k.2 + 0xBB67AE85)

/-- Philox-4x32-10: the four output words of a counter under a key (R206). -/
def philox (c : Word32 × Word32 × Word32 × Word32) (k : Word32 × Word32) : List Word32 :=
  let r := philoxRounds 10 c k
  [r.1, r.2.1, r.2.2.1, r.2.2.2]

/-- Multiplication by x in GF(2^8) with the polynomial 0x11D (R269). -/
def gfDouble (a : Nat) : Nat := if a < 128 then 2 * a else Nat.xor (2 * a) 0x11D

/-- Multiplication in GF(2^8). -/
def gfMul (a b : Nat) : Nat :=
  ((List.range 8).foldl
    (fun (acc : Nat × Nat) i => (if b / 2 ^ i % 2 = 1 then Nat.xor acc.1 acc.2 else acc.1, gfDouble acc.2)) (0, a)).1

/-- α to the power `n`, α = x. -/
def gfPow : Nat → Nat
  | 0 => 1
  | n + 1 => gfDouble (gfPow n)

/-- The value of a polynomial, highest coefficient first, at `x`. -/
def gfEval (p : List Nat) (x : Nat) : Nat := p.foldl (fun a c => Nat.xor (gfMul a x) c) 0

/-- The coefficients of the generator polynomial of R269 after its leading 1: the product of (x - α^i), i = 0 to 7. -/
def rsGen : List Nat :=
  ((List.range 8).foldl
    (fun p i => (List.range (p.length + 1)).map fun j =>
      Nat.xor (p.getD j 0) (if j = 0 then 0 else gfMul (p.getD (j - 1) 0) (gfPow i))) [1]).tail

/-- The check bytes of a line (R269): the remainder of d(x) x^8 by g(x). -/
def rsCheck (data : List Byte) : List Byte :=
  (data.foldl
    (fun (r : List Nat) d =>
      let f := Nat.xor d.toNat (r.headD 0)
      (List.range 8).map fun j => Nat.xor (r.getD (j + 1) 0) (gfMul f (rsGen.getD j 0)))
    (List.replicate 8 0)).map (BitVec.ofNat 8)

/-- The eight syndromes of a 72-byte word (R270). -/
def rsSyndromes (w : List Byte) : List Nat :=
  (List.range 8).map fun i => gfEval (w.map BitVec.toNat) (gfPow i)

/-- The syndromes of an error `v` at byte position `p` of the codeword. -/
def rsErrSyn (p v : Nat) : List Nat := (List.range 8).map fun i => gfMul v (gfPow (i * (71 - p)))

/-- XOR of two syndrome lists. -/
def synXor (a b : List Nat) : List Nat := (a.zip b).map fun t => Nat.xor t.1 t.2

/-- The one-symbol error with these syndromes, if there is one. -/
def rsOne (syn : List Nat) : Option (Nat × Nat) :=
  let v := syn.headD 0
  if v = 0 then none else
    (List.range 72).findSome? fun p => if rsErrSyn p v = syn then some (p, v) else none

/-- What the decoder of R270 finds: no error, a corrected pattern of one or two symbols, or a UE (none). -/
def rsDecode (syn : List Nat) : Option (List (Nat × Nat)) :=
  if syn.all (· == 0) then some [] else
    match rsOne syn with
    | some e => some [e]
    | none =>
      (List.range 72).findSome? fun p =>
        (List.range 255).findSome? fun v =>
          (rsOne (synXor syn (rsErrSyn p (v + 1)))).map fun e => [(p, v + 1), e]

end Sys2Proof.Machine
end

