-- ==== Sys2Proof/Machine/Operands.lean ====
section
/-! DEFINITION. Operands: the format codes of Table 2.1 with their roles and parameters, and the decoding of every
element to an exact value (R27 to R46). -/

namespace Sys2Proof.Machine

/-- The formats of Table 2.1. -/
inductive Fmt where
  | posit8 | posit16 | posit32 | posit64 | binary16 | bfloat16 | binary32 | binary64
  | e4m3 | e5m2 | e2m3 | e3m2 | e2m1 | e8m0 | int4 | uint4 | int8 | uint8 | int16 | int32
  | cb4 | cb4e | sp8 | q128 | q256 | q512 | q1024 | packed
  deriving DecidableEq, Repr

/-- The format of a code (R27); none is a code outside Table 2.1. -/
def fmtOfCode : Nat → Option Fmt
  | 0x10 => some .posit8 | 0x11 => some .posit16 | 0x12 => some .posit32 | 0x13 => some .posit64
  | 0x20 => some .binary16 | 0x21 => some .bfloat16 | 0x22 => some .binary32 | 0x23 => some .binary64
  | 0x30 => some .e4m3 | 0x31 => some .e5m2 | 0x32 => some .e2m3 | 0x33 => some .e3m2
  | 0x34 => some .e2m1 | 0x35 => some .e8m0
  | 0x40 => some .int4 | 0x41 => some .uint4 | 0x42 => some .int8 | 0x43 => some .uint8
  | 0x44 => some .int16 | 0x45 => some .int32
  | 0x50 => some .cb4 | 0x51 => some .cb4e | 0x60 => some .sp8
  | 0x70 => some .q128 | 0x71 => some .q256 | 0x72 => some .q512 | 0x73 => some .q1024
  | 0x78 => some .packed
  | _ => none

/-- Element bits (Table 2.1); PACK has no fixed width. -/
def Fmt.bits : Fmt → Nat
  | .posit8 => 8 | .posit16 => 16 | .posit32 => 32 | .posit64 => 64
  | .binary16 => 16 | .bfloat16 => 16 | .binary32 => 32 | .binary64 => 64
  | .e4m3 => 8 | .e5m2 => 8 | .e2m3 => 6 | .e3m2 => 6 | .e2m1 => 4 | .e8m0 => 8
  | .int4 => 4 | .uint4 => 4 | .int8 => 8 | .uint8 => 8 | .int16 => 16 | .int32 => 32
  | .cb4 => 4 | .cb4e => 4 | .sp8 => 8
  | .q128 => 128 | .q256 => 256 | .q512 => 512 | .q1024 => 1024 | .packed => 0

/-- Array class of an operand format: 0 C8, 1 C16, 2 C32, 3 C64 (Table 2.1). -/
def Fmt.cls : Fmt → Option Nat
  | .posit8 | .e4m3 | .e5m2 | .e2m3 | .e3m2 | .e2m1 | .int4 | .uint4 | .cb4 | .cb4e | .sp8 => some 0
  | .posit16 | .binary16 | .bfloat16 | .int8 | .uint8 => some 1
  | .posit32 | .binary32 | .int16 => some 2
  | .posit64 | .binary64 => some 3
  | _ => none

/-- Group width of a class (R61). -/
def clsWidth (c : Nat) : Nat := 128 * 2 ^ c

/-- Operand formats of the array (Table 2.1). -/
def Fmt.operand (f : Fmt) : Bool := f.cls.isSome

/-- Width of a quire format. -/
def Fmt.quireW : Fmt → Option Nat
  | .q128 => some 128 | .q256 => some 256 | .q512 => some 512 | .q1024 => some 1024
  | _ => none

/-- Quire formats. -/
def Fmt.isQuire (f : Fmt) : Bool := f.quireW.isSome

/-- Formats that the quench writes directly (Table 2.1), the group writes of the quires apart. -/
def Fmt.quenchOut : Fmt → Bool
  | .posit8 | .posit16 | .posit32 | .posit64 | .binary16 | .bfloat16 | .binary32 | .binary64
  | .e4m3 | .e5m2 | .int8 | .uint8 | .int16 | .int32 => true
  | _ => false

/-- Formats that an operation reading elements may read: every format but E8M0, PACK and the quires, which have rules
of their own (Table 2.1). -/
def Fmt.readable : Fmt → Bool
  | .e8m0 | .packed | .q128 | .q256 | .q512 | .q1024 => false
  | _ => true

/-- Posit formats, with their width. -/
def Fmt.posit : Fmt → Option Nat
  | .posit8 => some 8 | .posit16 => some 16 | .posit32 => some 32 | .posit64 => some 64
  | _ => none

/-- FP8, FP6 and FP4: the MX element formats. -/
def Fmt.mx : Fmt → Bool
  | .e4m3 | .e5m2 | .e2m3 | .e3m2 | .e2m1 => true
  | _ => false

/-- FP8 formats. -/
def Fmt.fp8 : Fmt → Bool
  | .e4m3 | .e5m2 => true
  | _ => false

/-- Codebook formats. -/
def Fmt.codebook : Fmt → Bool
  | .cb4 | .cb4e => true
  | _ => false

/-- Integer formats: (signed, bits) of Table 2.8. -/
def Fmt.int : Fmt → Option (Bool × Nat)
  | .int4 => some (true, 4) | .uint4 => some (false, 4) | .int8 => some (true, 8) | .uint8 => some (false, 8)
  | .int16 => some (true, 16) | .int32 => some (true, 32)
  | _ => none

/-- Exponent field bits and fraction bits of the IEEE-style and MX formats (Tables 2.6 and 2.7). -/
def Fmt.ieee : Fmt → Option (Nat × Nat)
  | .binary16 => some (5, 10) | .bfloat16 => some (8, 7) | .binary32 => some (8, 23) | .binary64 => some (11, 52)
  | .e4m3 => some (4, 3) | .e5m2 => some (5, 2) | .e2m3 => some (2, 3) | .e3m2 => some (3, 2) | .e2m1 => some (2, 1)
  | _ => none

/-- The reach R of a format (Table 3.3). -/
def Fmt.reach : Fmt → Int
  | .posit8 => 25 | .posit16 => 57 | .posit32 => 121 | .posit64 => 249
  | .binary16 => 16 | .bfloat16 => 58 | .binary32 => 128 | .binary64 => 250
  | .e4m3 => 9 | .e5m2 => 16 | .e2m3 => 3 | .e3m2 => 5 | .e2m1 => 3
  | .int4 | .uint4 => 4 | .int8 | .uint8 => 8 | .int16 => 16 | .int32 => 32
  | .cb4 | .cb4e => 57 | .sp8 => 25
  | _ => 0

/-- The variance anchor a1 of a format without and with a scale pointer (Table 3.3). -/
def Fmt.varAnchor (f : Fmt) (scaled : Bool) : Int :=
  match f with
  | .posit8 => -24 | .posit16 => -56 | .posit32 => -120 | .posit64 => -248
  | .binary16 => -24 | .bfloat16 => -133 | .binary32 => -149 | .binary64 => -238
  | .e4m3 => if scaled then -136 else -9
  | .e5m2 => if scaled then -143 else -16
  | .e2m3 => if scaled then -130 else -3
  | .e3m2 => if scaled then -131 else -4
  | .e2m1 => if scaled then -128 else -1
  | .cb4 | .cb4e => -56
  | .sp8 => -151
  | _ => 0

/-- An exact decoded value: the classes of Table 2.2, NORMAL as (-1)^neg * m * 2^e with m > 0. -/
inductive Val where
  | zero (neg : Bool)
  | fin (neg : Bool) (m : Nat) (e : Int)
  | nar
  | inf (neg : Bool)
  deriving DecidableEq, Repr

/-- The value of a signed integer times a power of two. -/
def valOfInt (v : Int) (e : Int) : Val :=
  if v = 0 then .zero false else .fin (v < 0) v.natAbs e

/-- The 76-bit common form of a value (R30, Table 2.2). -/
def commonForm (x : Val) : BitVec 76 :=
  match x with
  | .zero neg => BitVec.ofNat 76 (neg.toNat * 2 ^ 72)
  | .nar => BitVec.ofNat 76 (2 * 2 ^ 73)
  | .inf neg => BitVec.ofNat 76 (3 * 2 ^ 73 + neg.toNat * 2 ^ 72)
  | .fin neg m e =>
    let l := Nat.log2 m
    BitVec.ofNat 76 (2 ^ 73 + neg.toNat * 2 ^ 72 + modPow 12 (e + l) * 2 ^ 60 + m * 2 ^ 59 / 2 ^ l)

/-- The length of the regime that starts below bit `n - 1` (R34): equal bits `r0` from bit `i` downward, at most
`fuel` of them. -/
def regimeRun (m r0 : Nat) : Nat → Nat → Nat
  | 0, _ => 0
  | fuel + 1, i => if m / 2 ^ i % 2 = r0 then 1 + (if i = 0 then 0 else regimeRun m r0 fuel (i - 1)) else 0

/-- Decode an n-bit posit code (R34). -/
def decodePosit (n p : Nat) : Val :=
  if p = 0 then .zero false
  else if p = 2 ^ (n - 1) then .nar
  else
    let neg := p / 2 ^ (n - 1) = 1
    let m := if neg then 2 ^ n - p else p
    let r0 := m / 2 ^ (n - 2) % 2
    let run := regimeRun m r0 (n - 1) (n - 2)
    let k : Int := if r0 = 1 then (run : Int) - 1 else -(run : Int)
    let avail := n - 2 - run
    let ebits := min 2 avail
    let nf := avail - ebits
    let e := m / 2 ^ nf % 2 ^ ebits * 2 ^ (2 - ebits)
    let f := m % 2 ^ nf
    .fin neg (2 ^ nf + f) (4 * k + e - nf)

/-- Decode an IEEE-style or MX element of `ew` exponent and `fw` fraction bits (R37, R38). `E4M3` has NaN only at the
all-ones code, FP6 and FP4 have neither infinity nor NaN. -/
def decodeIeee (f : Fmt) (ew fw p : Nat) : Val :=
  let neg : Bool := p / 2 ^ (ew + fw) % 2 == 1
  let ex := p / 2 ^ fw % 2 ^ ew
  let fr := p % 2 ^ fw
  let bias := 2 ^ (ew - 1) - 1
  let top := ex = 2 ^ ew - 1
  let special : Option Val :=
    match f with
    | .e4m3 => if top ∧ fr = 7 then some .nar else none
    | .e2m3 | .e3m2 | .e2m1 => none
    | _ => if top then some (if fr = 0 then .inf neg else .nar) else none
  match special with
  | some v => v
  | none =>
    if ex = 0 then (if fr = 0 then .zero neg else .fin neg fr (1 - (bias : Int) - fw))
    else .fin neg (2 ^ fw + fr) ((ex : Int) - bias - fw)

/-- Decode an integer element (R41). -/
def decodeInt (signed : Bool) (w p : Nat) : Val :=
  valOfInt (if signed then signedOf w p else (p % 2 ^ w : Nat)) 0

/-- Whether a posit16 codebook entry has at most 6 significant bits (R43). -/
def cbRepresentable (p : Nat) : Bool :=
  match decodePosit 16 p with
  | .fin _ m _ => m % 2 ^ (Nat.log2 m - 5) == 0
  | _ => true

/-- Multiply a value by 2^(c - 127) (R39); 0xFF makes NAR of everything (R40). -/
def applyScale (c : Nat) (x : Val) : Val :=
  if c = 0xFF then .nar
  else match x with
    | .fin neg m e => .fin neg m (e + c - 127)
    | x => x

/-- Decode an element code without scale (R33 to R45). `cb` is the group's codebook, 16 posit16 codes. The quire codes,
E8M0 and PACK never enter the common form. -/
def decodeCode (f : Fmt) (cb : List Nat) (p : Nat) : Val :=
  match f.posit with
  | some n => decodePosit n p
  | none =>
    match f.ieee with
    | some (ew, fw) => decodeIeee f ew fw p
    | none =>
      match f.int with
      | some (sg, w) => decodeInt sg w p
      | none =>
        match f with
        | .sp8 => decodePosit 8 p
        | .cb4 => if cbRepresentable (cb.getD p 0) then decodePosit 16 (cb.getD p 0) else .nar
        | .cb4e =>
          if p = 15 then .zero false
          else if cbRepresentable (cb.getD p 0) then decodePosit 16 (cb.getD p 0) else .nar
        | _ => .zero false

/-- Whether decoding logs CB_WIDE (R43). -/
def codeCbWide (f : Fmt) (cb : List Nat) (p : Nat) : Bool :=
  match f with
  | .cb4 => !cbRepresentable (cb.getD p 0)
  | .cb4e => p != 15 && !cbRepresentable (cb.getD p 0)
  | _ => false

/-- A quire element: NaR for the pattern with only its top bit set, else the integer at anchor `a` (R46). -/
def decodeQuire (w : Nat) (a : Int) (p : Nat) : Val :=
  if p = 2 ^ (w - 1) then .nar else valOfInt (signedOf w p) a

/-- Element `i` of a row of packed elements whose bytes are `row` (R29). -/
def packedElem (w i : Nat) (row : List Byte) : Nat :=
  let b0 := w * i / 8
  let n := ceilDiv (w * i % 8 + w) 8
  leNat ((row.drop b0).take n) / 2 ^ (w * i % 8) % 2 ^ w

/-- The largest |x| + 1 bound 2^T of Table 3.3 is not needed by the step; the default anchor of R66. -/
def defaultAnchor (f g : Fmt) (w : Nat) : Int := f.reach + g.reach - ((w : Int) - 24)

/-- Width of the group of a pair (R27): the wider class, int32 counting as C32 (512 bits). -/
def pairWidth (f g : Fmt) : Nat :=
  let w (h : Fmt) : Nat := match h.cls with
    | some c => clsWidth c
    | none => if h = .int32 then 512 else (h.quireW.getD 128)
  max (w f) (w g)

/-- Whether a pair accumulates in a posit quire (R64). -/
def quirePair (f g : Fmt) : Bool := f.posit.isSome && f == g

/-- The quire anchor of width W (R64): 16 - W/2. -/
def quireAnchor (w : Nat) : Int := 16 - (w : Int) / 2

/-- The AUTO code of ANCHOR (R65). -/
def anchorAuto : Int := -4096

/-- The anchor of an accumulation (R64 to R66): `anc` is the descriptor's s13 field. -/
def pairAnchor (f g : Fmt) (anc : Int) : Int :=
  if anc ≠ anchorAuto then anc
  else if quirePair f g then quireAnchor (pairWidth f g)
  else defaultAnchor f g (pairWidth f g)

end Sys2Proof.Machine
end

