-- ==== Sys2Proof/Machine/Flags.lean ====
section
/-! DEFINITION. Flags: accumulator groups, their terms, the three flags and the range test (R60 to R75), and pack form
(R76 to R78). -/

namespace Sys2Proof.Machine

/-- A group: the extended value V, held as a signed integer of W + 8 bits, and the flags (R60). The anchor and W belong
to the operation. -/
structure Grp where
  v : Int := 0
  nar : Bool := false
  sLo : Bool := false
  sHi : Bool := false
  deriving DecidableEq, Repr

/-- The signed residue of an integer in w bits. -/
def wrapS (w : Nat) (x : Int) : Int := signedOf w (modPow w x)

/-- One term: its contribution t in units of 2^a and the flags it sets (R69, Table 3.5). -/
abbrev Term := Grp

/-- The contribution of an exact non-zero p = (-1)^neg m 2^e at width W and anchor a (R69, R70). -/
def finTerm (w : Nat) (a : Int) (neg : Bool) (m : Nat) (e : Int) : Term :=
  let sh := e - a
  let t := if 0 ≤ sh then m * 2 ^ sh.toNat else m / 2 ^ (-sh).toNat
  let lost : Bool := decide (sh < 0) && m % 2 ^ (-sh).toNat != 0
  if 2 ^ (w - 1) ≤ t then { sHi := true }
  else { v := if neg then -(t : Int) else (t : Int), sLo := lost }

/-- The term of a product of two decoded operands (Table 3.5; the first row that matches). -/
def prodTerm (w : Nat) (a : Int) : Val → Val → Term
  | .nar, _ => { nar := true }
  | _, .nar => { nar := true }
  | .zero _, .inf _ => { nar := true }
  | .inf _, .zero _ => { nar := true }
  | .inf _, _ => { sHi := true }
  | _, .inf _ => { sHi := true }
  | .zero _, _ => {}
  | _, .zero _ => {}
  | .fin n1 m1 e1, .fin n2 m2 e2 => finTerm w a (n1 != n2) (m1 * m2) (e1 + e2)

/-- The value 1.0. -/
def valOne : Val := .fin false 1 0

/-- The term x times 1.0 (R69, R79). -/
def unitTerm (w : Nat) (a : Int) (x : Val) : Term := prodTerm w a x valOne

/-- Addition into a group: V modulo 2^(W+8), flags by OR (R60, R69, R74). -/
def Grp.add (w : Nat) (g t : Grp) : Grp :=
  { v := wrapS (w + 8) (g.v + t.v), nar := g.nar || t.nar, sLo := g.sLo || t.sLo, sHi := g.sHi || t.sHi }

/-- The sum of a list of terms into a group. -/
def Grp.addAll (w : Nat) (g : Grp) (ts : List Term) : Grp := ts.foldl (Grp.add w) g

/-- The range test of R71, made when a group leaves the array. -/
def Grp.rangeTest (w : Nat) (g : Grp) : Grp :=
  if g.v < -(2 ^ (w - 1) - 1) ∨ 2 ^ (w - 1) - 1 < g.v then { g with sHi := true } else g

/-! ### Residues (R93) -/

/-- The modulus of the gauges. -/
def gaugeM : Nat := 2 ^ 24 - 1

/-- res(x) of an integer. -/
def res (x : Int) : Nat := (x % gaugeM).toNat

/-- The residue of (-1)^neg m 2^e: 2^24 is 1 modulo M, so a scale is a rotation. -/
def resFin (neg : Bool) (m : Nat) (e : Int) : Nat :=
  let r := (m % gaugeM) * 2 ^ (e % 24).toNat % gaugeM
  if neg then (gaugeM - r) % gaugeM else r

/-- The residue of an element in units of 2^a; class ZERO, NAR and INF count as zero. -/
def resVal (a : Int) : Val → Nat
  | .fin n m e => resFin n m (e - a)
  | _ => 0

/-- The residue of a product in units of 2^a; elements of class ZERO, NAR and INF count as zero. -/
def resProd (a : Int) (x y : Val) : Nat := resVal 0 x * resVal a y % gaugeM

/-- A group loaded from an element of its own quire code (R69). -/
def quireLoad (w p : Nat) : Grp :=
  if p = 2 ^ (w - 1) then { nar := true } else { v := signedOf w p }

/-- The element that a group writes into a quire tensor of width W (R46): NaR pattern for NAR or SPILL_HI. -/
def quireStore (w : Nat) (g : Grp) : Nat :=
  if g.nar || g.sHi then 2 ^ (w - 1) else modPow w g.v

/-- Index of the lowest 1 bit of a non-zero number, at most `fuel`. -/
def lowBit : Nat → Nat → Nat
  | 0, _ => 0
  | fuel + 1, v => if v % 2 = 1 then 0 else 1 + lowBit fuel (v / 2)

/-- The least h with -2^h ≤ V ≤ 2^h - 1 (R77). -/
def signBits (v : Int) : Nat :=
  if 0 ≤ v then (if v = 0 then 0 else Nat.log2 v.toNat + 1)
  else (if v = -1 then 0 else Nat.log2 (-v - 1).toNat + 1)

/-- The canonical pack of a group (R76, R77): header and payload. -/
def packGroup (w : Nat) (g : Grp) : List Byte :=
  let head (full len pos : Nat) := leBytes 2 (full * 2 ^ 15 + len * 2 ^ 12 + pos)
  if g.nar && g.sHi then head 0 6 0
  else if g.nar then head 0 4 0
  else if g.sHi then head 0 5 0
  else
    let u := modPow (w + 8) g.v
    let lo := if g.v = 0 then 0 else lowBit (w + 8) u
    let hi := if g.v = 0 then 0 else max lo (signBits g.v)
    let span := hi - lo + 1
    let win (i l : Nat) : Option (Nat × Nat) := if span ≤ l ∧ l < w + 8 then some (i, l) else none
    match (win 0 64).or ((win 1 128).or (win 2 256)) with
    | some (i, l) =>
      let pos := min lo (w + 8 - l)
      head 0 i pos ++ leBytes (l / 8) (u / 2 ^ pos)
    | none => head 1 3 0 ++ leBytes ((w + 8) / 8) u

/-- The next pack of a byte stream at width W: the group and the bytes after it; none if malformed (R78) or cut. -/
def unpackGroup (w : Nat) (l : List Byte) : Option (Grp × List Byte) :=
  if l.length < 2 then none else
    let h := leNat (l.take 2)
    let full := h / 2 ^ 15
    let len := h / 2 ^ 12 % 8
    let pos := h % 2 ^ 12
    let rest := l.drop 2
    if len = 7 ∨ (full = 1) ≠ (len = 3) ∨ (pos ≠ 0 ∧ (full = 1 ∨ 4 ≤ len)) then none
    else if 4 ≤ len then some ({ nar := len = 4 ∨ len = 6, sHi := len = 5 ∨ len = 6 }, rest)
    else
      let bits := if len = 3 then w + 8 else 64 * 2 ^ len
      if w + 8 < pos + bits ∨ rest.length < bits / 8 then none
      else some ({ v := wrapS (w + 8) (signedOf bits (leNat (rest.take (bits / 8))) * 2 ^ pos) },
                 rest.drop (bits / 8))

/-- All packs of a byte stream, at most `fuel`; none if one is malformed or bytes are left over. -/
def unpackAll (w : Nat) : Nat → List Byte → Option (List Grp)
  | 0, l => if l.isEmpty then some [] else none
  | fuel + 1, l =>
    if l.isEmpty then some []
    else match unpackGroup w l with
      | none => none
      | some (g, rest) => (unpackAll w fuel rest).map (g :: ·)

end Sys2Proof.Machine
end

