-- ==== Sys2Proof/Machine/RegMap.lean ====
section
/-! DEFINITION. RegMap: the register map of R403 (Tables 17.1 and 17.2) and the fields of every register with their
access codes (Table 0.4), writers (R405) and reset values (R407). -/

namespace Sys2Proof.Machine

/-- The registers of Table 17.2, one name for all instances of a register. -/
inductive Reg where
  | glbId | glbArev | glbNode | glbBell | glbLife | glbQmask
  | ostCtl | ostCur | ostToOp | ostClassWt | roomBase | roomSize
  | roomHead | roomTail | roomAttr | roomBell | arrMode | arrDepth
  | arrThrottle | arrGaugeEvt | arrGaugeAck | arrProve | arrHoldCause | tileMap
  | tileState | tileRepair | tblGen | tblState | qchFin | memCtl
  | memCeEvt | memCeAck | memUeEvt | memUeAck | memScrub | memPpr
  | memRetire | memPswin | memWipe | portCtl | portStat | portLanes
  | portRetryEvt | portRetryAck | vcWt | routeCtl | routeAlias | colThreshP
  | colThreshT | colThreshK | colThreshS | colChunk | colMode | colFaultEvt
  | colFaultAck | grpCfg | grpAux | grpStat | grpBell | toLimit
  | errLogBase | errEvt | errAck | rasKick | detStep | detCount
  | detCause | detStrict | waymarkCtl | detSeed | twnCtl | twnPartner
  | twnReserve | twnLag | twnState | twnAdopt | secBootStat | secFwver
  | secRollback | secLifeReq | secMeas | pwrInV | pwrInI | pwrCap
  | pwrStat | clkStat | therm | mgtI3c | mgtCtl
  deriving DecidableEq, Repr

/-- Access codes (Table 0.4, R5). -/
inductive Acc where
  | ro | rw | wo | w1s | ack | rwl
  deriving DecidableEq, Repr

/-- The writers of a field (R405). -/
inductive Who where
  | nobody | rom | hart | principal | hartG
  deriving DecidableEq, Repr

/-- A field: bits [hi:lo] of each instance of a register, its access code, its writers and its reset value where that
is one number for every instance. -/
structure Fld where
  reg : Reg
  hi : Nat
  lo : Nat
  acc : Acc
  who : Who
  reset : Nat
  deriving DecidableEq, Repr

/-- First offset, instances and stride of a register (Table 17.2). -/
def Reg.place : Reg → Nat × Nat × Nat
  | .glbId => (0x0, 1, 0x8)
  | .glbArev => (0x8, 1, 0x8)
  | .glbNode => (0x10, 1, 0x8)
  | .glbBell => (0x18, 1, 0x8)
  | .glbLife => (0x20, 1, 0x8)
  | .glbQmask => (0x28, 1, 0x8)
  | .ostCtl => (0x10000, 1, 0x8)
  | .ostCur => (0x10008, 1, 0x8)
  | .ostToOp => (0x10010, 1, 0x8)
  | .ostClassWt => (0x10040, 8, 0x8)
  | .roomBase => (0x1100000, 4096, 0x8)
  | .roomSize => (0x1108000, 4096, 0x8)
  | .roomHead => (0x1110000, 4096, 0x8)
  | .roomTail => (0x1118000, 4096, 0x8)
  | .roomAttr => (0x1120000, 4096, 0x8)
  | .roomBell => (0x1128000, 4096, 0x8)
  | .arrMode => (0x20000, 1, 0x8)
  | .arrDepth => (0x20008, 1, 0x8)
  | .arrThrottle => (0x20010, 1, 0x8)
  | .arrGaugeEvt => (0x20018, 1, 0x8)
  | .arrGaugeAck => (0x20020, 1, 0x8)
  | .arrProve => (0x20028, 1, 0x8)
  | .arrHoldCause => (0x20100, 16, 0x8)
  | .tileMap => (0x1200000, 4096, 0x8)
  | .tileState => (0x1210000, 4224, 0x8)
  | .tileRepair => (0x1220000, 4224, 0x8)
  | .tblGen => (0x30000, 1, 0x8)
  | .tblState => (0x30008, 1, 0x8)
  | .qchFin => (0x30010, 1, 0x8)
  | .memCtl => (0x40000, 8, 0x40)
  | .memCeEvt => (0x40008, 8, 0x40)
  | .memCeAck => (0x40010, 8, 0x40)
  | .memUeEvt => (0x40018, 8, 0x40)
  | .memUeAck => (0x40020, 8, 0x40)
  | .memScrub => (0x40028, 8, 0x40)
  | .memPpr => (0x40030, 8, 0x40)
  | .memRetire => (0x40400, 1, 0x8)
  | .memPswin => (0x40408, 1, 0x8)
  | .memWipe => (0x40410, 1, 0x8)
  | .portCtl => (0x50000, 12, 0x40)
  | .portStat => (0x50008, 12, 0x40)
  | .portLanes => (0x50010, 12, 0x40)
  | .portRetryEvt => (0x50018, 12, 0x40)
  | .portRetryAck => (0x50020, 12, 0x40)
  | .vcWt => (0x50028, 12, 0x40)
  | .routeCtl => (0x50400, 1, 0x8)
  | .routeAlias => (0x50480, 16, 0x8)
  | .colThreshP => (0x60000, 1, 0x8)
  | .colThreshT => (0x60008, 1, 0x8)
  | .colThreshK => (0x60010, 1, 0x8)
  | .colThreshS => (0x60018, 1, 0x8)
  | .colChunk => (0x60020, 1, 0x8)
  | .colMode => (0x60028, 1, 0x8)
  | .colFaultEvt => (0x60030, 1, 0x8)
  | .colFaultAck => (0x60038, 1, 0x8)
  | .grpCfg => (0x62000, 1024, 0x20)
  | .grpAux => (0x62008, 1024, 0x20)
  | .grpStat => (0x62010, 1024, 0x20)
  | .grpBell => (0x62018, 1024, 0x20)
  | .toLimit => (0x70000, 11, 0x8)
  | .errLogBase => (0x70100, 1, 0x8)
  | .errEvt => (0x70108, 1, 0x8)
  | .errAck => (0x70110, 1, 0x8)
  | .rasKick => (0x70118, 1, 0x8)
  | .detStep => (0x80000, 1, 0x8)
  | .detCount => (0x80008, 1, 0x8)
  | .detCause => (0x80010, 1, 0x8)
  | .detStrict => (0x80018, 1, 0x8)
  | .waymarkCtl => (0x80020, 1, 0x8)
  | .detSeed => (0x80100, 16, 0x8)
  | .twnCtl => (0x90000, 1, 0x8)
  | .twnPartner => (0x90008, 1, 0x8)
  | .twnReserve => (0x90010, 1, 0x8)
  | .twnLag => (0x90018, 1, 0x8)
  | .twnState => (0x90020, 1, 0x8)
  | .twnAdopt => (0x90028, 1, 0x8)
  | .secBootStat => (0xa0000, 1, 0x8)
  | .secFwver => (0xa0008, 1, 0x8)
  | .secRollback => (0xa0010, 1, 0x8)
  | .secLifeReq => (0xa0018, 1, 0x8)
  | .secMeas => (0xa0100, 24, 0x8)
  | .pwrInV => (0xb0000, 1, 0x8)
  | .pwrInI => (0xb0008, 1, 0x8)
  | .pwrCap => (0xb0010, 1, 0x8)
  | .pwrStat => (0xb0018, 1, 0x8)
  | .clkStat => (0xb0020, 1, 0x8)
  | .therm => (0xb0100, 16, 0x8)
  | .mgtI3c => (0xc0000, 1, 0x8)
  | .mgtCtl => (0xc0008, 1, 0x8)

/-- Every register name, in the order of Table 17.2. -/
def Reg.all : List Reg :=
  [.glbId, .glbArev, .glbNode, .glbBell, .glbLife, .glbQmask,
   .ostCtl, .ostCur, .ostToOp, .ostClassWt, .roomBase, .roomSize,
   .roomHead, .roomTail, .roomAttr, .roomBell, .arrMode, .arrDepth,
   .arrThrottle, .arrGaugeEvt, .arrGaugeAck, .arrProve, .arrHoldCause, .tileMap,
   .tileState, .tileRepair, .tblGen, .tblState, .qchFin, .memCtl,
   .memCeEvt, .memCeAck, .memUeEvt, .memUeAck, .memScrub, .memPpr,
   .memRetire, .memPswin, .memWipe, .portCtl, .portStat, .portLanes,
   .portRetryEvt, .portRetryAck, .vcWt, .routeCtl, .routeAlias, .colThreshP,
   .colThreshT, .colThreshK, .colThreshS, .colChunk, .colMode, .colFaultEvt,
   .colFaultAck, .grpCfg, .grpAux, .grpStat, .grpBell, .toLimit,
   .errLogBase, .errEvt, .errAck, .rasKick, .detStep, .detCount,
   .detCause, .detStrict, .waymarkCtl, .detSeed, .twnCtl, .twnPartner,
   .twnReserve, .twnLag, .twnState, .twnAdopt, .secBootStat, .secFwver,
   .secRollback, .secLifeReq, .secMeas, .pwrInV, .pwrInI, .pwrCap,
   .pwrStat, .clkStat, .therm, .mgtI3c, .mgtCtl]

/-- GLB_ID.PART [23:8]. -/
def Fl.glbIdPart : Fld := ⟨.glbId, 23, 8, .ro, .nobody, 0x4096⟩
/-- GLB_ID.STEPPING [7:0]. -/
def Fl.glbIdStepping : Fld := ⟨.glbId, 7, 0, .ro, .nobody, 0x20⟩
/-- GLB_AREV.AREV [15:0]. -/
def Fl.glbArevArev : Fld := ⟨.glbArev, 15, 0, .ro, .nobody, 1⟩
/-- GLB_NODE.ROLE [19:18]. -/
def Fl.glbNodeRole : Fld := ⟨.glbNode, 19, 18, .rwl, .rom, 0⟩
/-- GLB_NODE.NODE [17:0]. -/
def Fl.glbNodeNode : Fld := ⟨.glbNode, 17, 0, .rwl, .rom, 0⟩
/-- GLB_BELL.BELL [63:0]. -/
def Fl.glbBellBell : Fld := ⟨.glbBell, 63, 0, .ro, .nobody, 0⟩
/-- GLB_LIFE.STATE [3:0]. -/
def Fl.glbLifeState : Fld := ⟨.glbLife, 3, 0, .ro, .nobody, 0⟩
/-- GLB_QMASK.PRINCIPAL [9:8]. -/
def Fl.glbQmaskPrincipal : Fld := ⟨.glbQmask, 9, 8, .ro, .nobody, 0⟩
/-- GLB_QMASK.BASE_Q [7:4]. -/
def Fl.glbQmaskBaseQ : Fld := ⟨.glbQmask, 7, 4, .ro, .nobody, 0⟩
/-- GLB_QMASK.ARRAY_Q [3:0]. -/
def Fl.glbQmaskArrayQ : Fld := ⟨.glbQmask, 3, 0, .rw, .principal, 0⟩
/-- OST_CTL.RUN [63:63]. -/
def Fl.ostCtlRun : Fld := ⟨.ostCtl, 63, 63, .rw, .hart, 0⟩
/-- OST_CTL.TRAP_CLR [62:62]. -/
def Fl.ostCtlTrapClr : Fld := ⟨.ostCtl, 62, 62, .wo, .principal, 0⟩
/-- OST_CTL.ACL_LOAD [61:61]. -/
def Fl.ostCtlAclLoad : Fld := ⟨.ostCtl, 61, 61, .wo, .hart, 0⟩
/-- OST_CTL.PREEMPT_EN [60:60]. -/
def Fl.ostCtlPreemptEn : Fld := ⟨.ostCtl, 60, 60, .rw, .hart, 1⟩
/-- OST_CTL.SAVE_GB [57:48]. -/
def Fl.ostCtlSaveGb : Fld := ⟨.ostCtl, 57, 48, .rw, .hart, 0⟩
/-- OST_CTL.ACL_64K [47:24]. -/
def Fl.ostCtlAcl64k : Fld := ⟨.ostCtl, 47, 24, .rw, .hart, 0⟩
/-- OST_CTL.PREEMPT_WAIT_US [23:16]. -/
def Fl.ostCtlPreemptWaitUs : Fld := ⟨.ostCtl, 23, 16, .rw, .hart, 0x14⟩
/-- OST_CUR.TRAPPED [63:63]. -/
def Fl.ostCurTrapped : Fld := ⟨.ostCur, 63, 63, .ro, .nobody, 0⟩
/-- OST_CUR.FENCE [62:62]. -/
def Fl.ostCurFence : Fld := ⟨.ostCur, 62, 62, .ro, .nobody, 0⟩
/-- OST_CUR.DEPART [61:61]. -/
def Fl.ostCurDepart : Fld := ⟨.ostCur, 61, 61, .ro, .nobody, 0⟩
/-- OST_CUR.BOUNDARY [60:60]. -/
def Fl.ostCurBoundary : Fld := ⟨.ostCur, 60, 60, .ro, .nobody, 0⟩
/-- OST_CUR.STOPPED [59:59]. -/
def Fl.ostCurStopped : Fld := ⟨.ostCur, 59, 59, .ro, .nobody, 1⟩
/-- OST_CUR.INFLIGHT [58:51]. -/
def Fl.ostCurInflight : Fld := ⟨.ostCur, 58, 51, .ro, .nobody, 0⟩
/-- OST_CUR.PREEMPTED [50:50]. -/
def Fl.ostCurPreempted : Fld := ⟨.ostCur, 50, 50, .ro, .nobody, 0⟩
/-- OST_CUR.LAST_ROOM [47:36]. -/
def Fl.ostCurLastRoom : Fld := ⟨.ostCur, 47, 36, .ro, .nobody, 0⟩
/-- OST_CUR.LAST_SEQ [31:0]. -/
def Fl.ostCurLastSeq : Fld := ⟨.ostCur, 31, 0, .ro, .nobody, 0⟩
/-- OST_TO_OP.DEFAULT_MS [15:0]. -/
def Fl.ostToOpDefaultMs : Fld := ⟨.ostToOp, 15, 0, .rw, .hart, 0x2710⟩
/-- OST_CLASS_WT_n.STRICT [63:63]. -/
def Fl.ostClassWtStrict : Fld := ⟨.ostClassWt, 63, 63, .rw, .hart, 0⟩
/-- OST_CLASS_WT_n.WT [15:0]. -/
def Fl.ostClassWtWt : Fld := ⟨.ostClassWt, 15, 0, .rw, .hart, 0⟩
/-- ROOM_BASE_n.BASE [39:8]. -/
def Fl.roomBaseBase : Fld := ⟨.roomBase, 39, 8, .rw, .hart, 0⟩
/-- ROOM_SIZE_n.LOG2 [4:0]. -/
def Fl.roomSizeLog2 : Fld := ⟨.roomSize, 4, 0, .rw, .hart, 4⟩
/-- ROOM_HEAD_n.HEAD [16:0]. -/
def Fl.roomHeadHead : Fld := ⟨.roomHead, 16, 0, .ro, .nobody, 0⟩
/-- ROOM_TAIL_n.TAIL [16:0]. -/
def Fl.roomTailTail : Fld := ⟨.roomTail, 16, 0, .ro, .nobody, 0⟩
/-- ROOM_ATTR_n.ENABLE [63:63]. -/
def Fl.roomAttrEnable : Fld := ⟨.roomAttr, 63, 63, .rw, .hart, 0⟩
/-- ROOM_ATTR_n.SRC [62:62]. -/
def Fl.roomAttrSrc : Fld := ⟨.roomAttr, 62, 62, .rw, .hart, 0⟩
/-- ROOM_ATTR_n.STOP_ON_ERR [61:61]. -/
def Fl.roomAttrStopOnErr : Fld := ⟨.roomAttr, 61, 61, .rw, .hart, 0⟩
/-- ROOM_ATTR_n.QUARTER [59:58]. -/
def Fl.roomAttrQuarter : Fld := ⟨.roomAttr, 59, 58, .rw, .hart, 0⟩
/-- ROOM_ATTR_n.CLASS [57:55]. -/
def Fl.roomAttrClass : Fld := ⟨.roomAttr, 57, 55, .rw, .hart, 0⟩
/-- ROOM_ATTR_n.ACL [54:51]. -/
def Fl.roomAttrAcl : Fld := ⟨.roomAttr, 54, 51, .rw, .hart, 0⟩
/-- ROOM_ATTR_n.QUANTUM [47:32]. -/
def Fl.roomAttrQuantum : Fld := ⟨.roomAttr, 47, 32, .rw, .hart, 1⟩
/-- ROOM_ATTR_n.DEFICIT [31:0]. -/
def Fl.roomAttrDeficit : Fld := ⟨.roomAttr, 31, 0, .ro, .nobody, 0⟩
/-- ROOM_BELL_n.TAIL [16:0]. -/
def Fl.roomBellTail : Fld := ⟨.roomBell, 16, 0, .wo, .hartG, 0⟩
/-- ARR_MODE.TEST [7:4]. -/
def Fl.arrModeTest : Fld := ⟨.arrMode, 7, 4, .rw, .principal, 0⟩
/-- ARR_MODE.LOCK [0:0]. -/
def Fl.arrModeLock : Fld := ⟨.arrMode, 0, 0, .rw, .principal, 0⟩
/-- ARR_DEPTH.DEPTH_Q3 [47:40]. -/
def Fl.arrDepthDepthQ3 : Fld := ⟨.arrDepth, 47, 40, .ro, .nobody, 0x40⟩
/-- ARR_DEPTH.DEPTH_Q2 [39:32]. -/
def Fl.arrDepthDepthQ2 : Fld := ⟨.arrDepth, 39, 32, .ro, .nobody, 0x40⟩
/-- ARR_DEPTH.DEPTH_Q1 [31:24]. -/
def Fl.arrDepthDepthQ1 : Fld := ⟨.arrDepth, 31, 24, .ro, .nobody, 0x40⟩
/-- ARR_DEPTH.DEPTH_Q0 [23:16]. -/
def Fl.arrDepthDepthQ0 : Fld := ⟨.arrDepth, 23, 16, .ro, .nobody, 0x40⟩
/-- ARR_DEPTH.PAD [9:8]. -/
def Fl.arrDepthPad : Fld := ⟨.arrDepth, 9, 8, .ro, .nobody, 0⟩
/-- ARR_DEPTH.REPAIR_DEPTH [7:0]. -/
def Fl.arrDepthRepairDepth : Fld := ⟨.arrDepth, 7, 0, .ro, .nobody, 0x40⟩
/-- ARR_THROTTLE.SHED_N_NOW [61:56]. -/
def Fl.arrThrottleShedNNow : Fld := ⟨.arrThrottle, 61, 56, .ro, .nobody, 0⟩
/-- ARR_THROTTLE.EFF_N [53:48]. -/
def Fl.arrThrottleEffN : Fld := ⟨.arrThrottle, 53, 48, .ro, .nobody, 0⟩
/-- ARR_THROTTLE.THERM_N [45:40]. -/
def Fl.arrThrottleThermN : Fld := ⟨.arrThrottle, 45, 40, .ro, .nobody, 0⟩
/-- ARR_THROTTLE.CAP_N [37:32]. -/
def Fl.arrThrottleCapN : Fld := ⟨.arrThrottle, 37, 32, .ro, .nobody, 0⟩
/-- ARR_THROTTLE.FW_N [5:0]. -/
def Fl.arrThrottleFwN : Fld := ⟨.arrThrottle, 5, 0, .rw, .hart, 0⟩
/-- ARR_GAUGE_EVT.COUNT [63:32]. -/
def Fl.arrGaugeEvtCount : Fld := ⟨.arrGaugeEvt, 63, 32, .ro, .nobody, 0⟩
/-- ARR_GAUGE_EVT.UNCHECKED [31:8]. -/
def Fl.arrGaugeEvtUnchecked : Fld := ⟨.arrGaugeEvt, 31, 8, .ro, .nobody, 0⟩
/-- ARR_GAUGE_EVT.PEND [0:0]. -/
def Fl.arrGaugeEvtPend : Fld := ⟨.arrGaugeEvt, 0, 0, .ro, .nobody, 0⟩
/-- ARR_GAUGE_ACK.COUNT [63:32]. -/
def Fl.arrGaugeAckCount : Fld := ⟨.arrGaugeAck, 63, 32, .ack, .principal, 0⟩
/-- ARR_PROVE.START [63:63]. -/
def Fl.arrProveStart : Fld := ⟨.arrProve, 63, 63, .wo, .principal, 0⟩
/-- ARR_PROVE.BUSY [62:62]. -/
def Fl.arrProveBusy : Fld := ⟨.arrProve, 62, 62, .ro, .nobody, 0⟩
/-- ARR_PROVE.QUARTER [61:60]. -/
def Fl.arrProveQuarter : Fld := ⟨.arrProve, 61, 60, .rw, .principal, 0⟩
/-- ARR_PROVE.RESULT [55:48]. -/
def Fl.arrProveResult : Fld := ⟨.arrProve, 55, 48, .ro, .nobody, 0⟩
/-- ARR_PROVE.REPAIRED [47:32]. -/
def Fl.arrProveRepaired : Fld := ⟨.arrProve, 47, 32, .ro, .nobody, 0⟩
/-- ARR_PROVE.RETIRED [31:16]. -/
def Fl.arrProveRetired : Fld := ⟨.arrProve, 31, 16, .ro, .nobody, 0⟩
/-- ARR_HOLD_CAUSE_n.CYCLES [63:0]. -/
def Fl.arrHoldCauseCycles : Fld := ⟨.arrHoldCause, 63, 0, .ro, .nobody, 0⟩
/-- TILE_MAP_n.HOME [63:63]. -/
def Fl.tileMapHome : Fld := ⟨.tileMap, 63, 63, .ro, .nobody, 1⟩
/-- TILE_MAP_n.SITE [12:0]. -/
def Fl.tileMapSite : Fld := ⟨.tileMap, 12, 0, .ro, .nobody, 0⟩
/-- TILE_STATE_i.STATE [1:0]. -/
def Fl.tileStateState : Fld := ⟨.tileState, 1, 0, .rw, .principal, 0⟩
/-- TILE_REPAIR_i.SPARE_COL_FOR [13:8]. -/
def Fl.tileRepairSpareColFor : Fld := ⟨.tileRepair, 13, 8, .rw, .principal, 0⟩
/-- TILE_REPAIR_i.SPARE_ROW_FOR [5:0]. -/
def Fl.tileRepairSpareRowFor : Fld := ⟨.tileRepair, 5, 0, .rw, .principal, 0⟩
/-- TBL_GEN.GEN [63:32]. -/
def Fl.tblGenGen : Fld := ⟨.tblGen, 63, 32, .ro, .nobody, 0⟩
/-- TBL_GEN.LOOSE_SWAP [1:1]. -/
def Fl.tblGenLooseSwap : Fld := ⟨.tblGen, 1, 1, .w1s, .hart, 0⟩
/-- TBL_GEN.CUR [0:0]. -/
def Fl.tblGenCur : Fld := ⟨.tblGen, 0, 0, .ro, .nobody, 0⟩
/-- TBL_STATE.VALID [63:32]. -/
def Fl.tblStateValid : Fld := ⟨.tblState, 63, 32, .ro, .nobody, 0⟩
/-- TBL_STATE.B1_STATE [7:6]. -/
def Fl.tblStateB1State : Fld := ⟨.tblState, 7, 6, .ro, .nobody, 0⟩
/-- TBL_STATE.B0_STATE [5:4]. -/
def Fl.tblStateB0State : Fld := ⟨.tblState, 5, 4, .ro, .nobody, 0⟩
/-- TBL_STATE.BOUND [3:2]. -/
def Fl.tblStateBound : Fld := ⟨.tblState, 3, 2, .ro, .nobody, 0⟩
/-- TBL_STATE.PROD [1:0]. -/
def Fl.tblStateProd : Fld := ⟨.tblState, 1, 0, .ro, .nobody, 0⟩
/-- QCH_FIN.BUSY [51:48]. -/
def Fl.qchFinBusy : Fld := ⟨.qchFin, 51, 48, .ro, .nobody, 0⟩
/-- QCH_FIN.ROWS [47:0]. -/
def Fl.qchFinRows : Fld := ⟨.qchFin, 47, 0, .ro, .nobody, 0⟩
/-- MEM_CTL_s.STATE [63:62]. -/
def Fl.memCtlState : Fld := ⟨.memCtl, 63, 62, .ro, .nobody, 0⟩
/-- MEM_CTL_s.HOT_LIM [47:40]. -/
def Fl.memCtlHotLim : Fld := ⟨.memCtl, 47, 40, .rwl, .rom, 0x30⟩
/-- MEM_CTL_s.UE_RETIRE [39:32]. -/
def Fl.memCtlUeRetire : Fld := ⟨.memCtl, 39, 32, .rwl, .rom, 8⟩
/-- MEM_CTL_s.RETIRED [26:24]. -/
def Fl.memCtlRetired : Fld := ⟨.memCtl, 26, 24, .ro, .nobody, 0⟩
/-- MEM_CE_EVT_s.COUNT [63:32]. -/
def Fl.memCeEvtCount : Fld := ⟨.memCeEvt, 63, 32, .ro, .nobody, 0⟩
/-- MEM_CE_EVT_s.SPC [31:26]. -/
def Fl.memCeEvtSpc : Fld := ⟨.memCeEvt, 31, 26, .ro, .nobody, 0⟩
/-- MEM_CE_EVT_s.SYMS [25:24]. -/
def Fl.memCeEvtSyms : Fld := ⟨.memCeEvt, 25, 24, .ro, .nobody, 0⟩
/-- MEM_CE_EVT_s.PEND [0:0]. -/
def Fl.memCeEvtPend : Fld := ⟨.memCeEvt, 0, 0, .ro, .nobody, 0⟩
/-- MEM_CE_ACK_s.COUNT [63:32]. -/
def Fl.memCeAckCount : Fld := ⟨.memCeAck, 63, 32, .ack, .principal, 0⟩
/-- MEM_UE_EVT_s.COUNT [63:32]. -/
def Fl.memUeEvtCount : Fld := ⟨.memUeEvt, 63, 32, .ro, .nobody, 0⟩
/-- MEM_UE_EVT_s.SPC [31:26]. -/
def Fl.memUeEvtSpc : Fld := ⟨.memUeEvt, 31, 26, .ro, .nobody, 0⟩
/-- MEM_UE_EVT_s.SRC [25:24]. -/
def Fl.memUeEvtSrc : Fld := ⟨.memUeEvt, 25, 24, .ro, .nobody, 0⟩
/-- MEM_UE_EVT_s.PEND [0:0]. -/
def Fl.memUeEvtPend : Fld := ⟨.memUeEvt, 0, 0, .ro, .nobody, 0⟩
/-- MEM_UE_ACK_s.COUNT [63:32]. -/
def Fl.memUeAckCount : Fld := ⟨.memUeAck, 63, 32, .ack, .principal, 0⟩
/-- MEM_SCRUB_s.PERIOD_H [63:56]. -/
def Fl.memScrubPeriodH : Fld := ⟨.memScrub, 63, 56, .rwl, .rom, 0x18⟩
/-- MEM_SCRUB_s.ENABLE [55:55]. -/
def Fl.memScrubEnable : Fld := ⟨.memScrub, 55, 55, .rwl, .rom, 1⟩
/-- MEM_SCRUB_s.PASSES [47:32]. -/
def Fl.memScrubPasses : Fld := ⟨.memScrub, 47, 32, .ro, .nobody, 0⟩
/-- MEM_SCRUB_s.POS [24:0]. -/
def Fl.memScrubPos : Fld := ⟨.memScrub, 24, 0, .ro, .nobody, 0⟩
/-- MEM_PPR_s.CE_THRESH [63:56]. -/
def Fl.memPprCeThresh : Fld := ⟨.memPpr, 63, 56, .rwl, .rom, 4⟩
/-- MEM_PPR_s.DONE [55:48]. -/
def Fl.memPprDone : Fld := ⟨.memPpr, 55, 48, .ro, .nobody, 0⟩
/-- MEM_PPR_s.PENDING [47:40]. -/
def Fl.memPprPending : Fld := ⟨.memPpr, 47, 40, .ro, .nobody, 0⟩
/-- MEM_PPR_s.FAILED [39:32]. -/
def Fl.memPprFailed : Fld := ⟨.memPpr, 39, 32, .ro, .nobody, 0⟩
/-- MEM_RETIRE.N [42:40]. -/
def Fl.memRetireN : Fld := ⟨.memRetire, 42, 40, .ro, .nobody, 0⟩
/-- MEM_RETIRE.VALID_0 [9:9]. -/
def Fl.memRetireValid0 : Fld := ⟨.memRetire, 9, 9, .ro, .nobody, 0⟩
/-- MEM_RETIRE.PC_0 [8:0]. -/
def Fl.memRetirePc0 : Fld := ⟨.memRetire, 8, 0, .ro, .nobody, 0⟩
/-- MEM_RETIRE.VALID_1 [19:19]. -/
def Fl.memRetireValid1 : Fld := ⟨.memRetire, 19, 19, .ro, .nobody, 0⟩
/-- MEM_RETIRE.PC_1 [18:10]. -/
def Fl.memRetirePc1 : Fld := ⟨.memRetire, 18, 10, .ro, .nobody, 0⟩
/-- MEM_RETIRE.VALID_2 [29:29]. -/
def Fl.memRetireValid2 : Fld := ⟨.memRetire, 29, 29, .ro, .nobody, 0⟩
/-- MEM_RETIRE.PC_2 [28:20]. -/
def Fl.memRetirePc2 : Fld := ⟨.memRetire, 28, 20, .ro, .nobody, 0⟩
/-- MEM_RETIRE.VALID_3 [39:39]. -/
def Fl.memRetireValid3 : Fld := ⟨.memRetire, 39, 39, .ro, .nobody, 0⟩
/-- MEM_RETIRE.PC_3 [38:30]. -/
def Fl.memRetirePc3 : Fld := ⟨.memRetire, 38, 30, .ro, .nobody, 0⟩
/-- MEM_PSWIN.SPARE [0:0]. -/
def Fl.memPswinSpare : Fld := ⟨.memPswin, 0, 0, .rw, .hart, 0⟩
/-- MEM_WIPE.HBM [63:63]. -/
def Fl.memWipeHbm : Fld := ⟨.memWipe, 63, 63, .ro, .nobody, 0⟩
/-- MEM_WIPE.PANEL [62:62]. -/
def Fl.memWipePanel : Fld := ⟨.memWipe, 62, 62, .ro, .nobody, 0⟩
/-- MEM_WIPE.COMMONS [61:61]. -/
def Fl.memWipeCommons : Fld := ⟨.memWipe, 61, 61, .ro, .nobody, 0⟩
/-- MEM_WIPE.TABLE [60:60]. -/
def Fl.memWipeTable : Fld := ⟨.memWipe, 60, 60, .ro, .nobody, 0⟩
/-- MEM_WIPE.END_BELL [47:0]. -/
def Fl.memWipeEndBell : Fld := ⟨.memWipe, 47, 0, .ro, .nobody, 0⟩
/-- PORT_CTL_p.ROLE [59:58]. -/
def Fl.portCtlRole : Fld := ⟨.portCtl, 59, 58, .rwl, .rom, 0⟩
/-- PORT_CTL_p.TWIN [57:57]. -/
def Fl.portCtlTwin : Fld := ⟨.portCtl, 57, 57, .rwl, .rom, 0⟩
/-- PORT_CTL_p.PEER_SLOT [56:55]. -/
def Fl.portCtlPeerSlot : Fld := ⟨.portCtl, 56, 55, .rwl, .rom, 0⟩
/-- PORT_CTL_p.MIN_WIDTH [49:48]. -/
def Fl.portCtlMinWidth : Fld := ⟨.portCtl, 49, 48, .rwl, .rom, 2⟩
/-- PORT_CTL_p.RETRAIN [1:1]. -/
def Fl.portCtlRetrain : Fld := ⟨.portCtl, 1, 1, .wo, .hart, 0⟩
/-- PORT_CTL_p.ENABLE [0:0]. -/
def Fl.portCtlEnable : Fld := ⟨.portCtl, 0, 0, .rw, .hart, 0⟩
/-- PORT_STAT_p.DELAY [63:48]. -/
def Fl.portStatDelay : Fld := ⟨.portStat, 63, 48, .ro, .nobody, 0⟩
/-- PORT_STAT_p.RETRAINS [47:40]. -/
def Fl.portStatRetrains : Fld := ⟨.portStat, 47, 40, .ro, .nobody, 0⟩
/-- PORT_STAT_p.STATE [39:36]. -/
def Fl.portStatState : Fld := ⟨.portStat, 39, 36, .ro, .nobody, 0⟩
/-- PORT_STAT_p.WIDTH [35:34]. -/
def Fl.portStatWidth : Fld := ⟨.portStat, 35, 34, .ro, .nobody, 3⟩
/-- PORT_STAT_p.PEER_NODE [25:8]. -/
def Fl.portStatPeerNode : Fld := ⟨.portStat, 25, 8, .ro, .nobody, 0⟩
/-- PORT_STAT_p.DOWN_CAUSE [7:0]. -/
def Fl.portStatDownCause : Fld := ⟨.portStat, 7, 0, .ro, .nobody, 0⟩
/-- PORT_LANES_p.ACTIVE [63:56]. -/
def Fl.portLanesActive : Fld := ⟨.portLanes, 63, 56, .ro, .nobody, 0⟩
/-- PORT_LANES_p.WEAK [55:48]. -/
def Fl.portLanesWeak : Fld := ⟨.portLanes, 55, 48, .ro, .nobody, 0⟩
/-- PORT_LANES_p.FAILED [47:40]. -/
def Fl.portLanesFailed : Fld := ⟨.portLanes, 47, 40, .ro, .nobody, 0⟩
/-- PORT_LANES_p.DISABLE [39:32]. -/
def Fl.portLanesDisable : Fld := ⟨.portLanes, 39, 32, .rwl, .rom, 0⟩
/-- PORT_LANES_p.SER_MAX [31:16]. -/
def Fl.portLanesSerMax : Fld := ⟨.portLanes, 31, 16, .rwl, .rom, 0x1000⟩
/-- PORT_RETRY_EVT_p.COUNT [63:32]. -/
def Fl.portRetryEvtCount : Fld := ⟨.portRetryEvt, 63, 32, .ro, .nobody, 0⟩
/-- PORT_RETRY_EVT_p.CAUSE [31:24]. -/
def Fl.portRetryEvtCause : Fld := ⟨.portRetryEvt, 31, 24, .ro, .nobody, 0⟩
/-- PORT_RETRY_EVT_p.PEND [0:0]. -/
def Fl.portRetryEvtPend : Fld := ⟨.portRetryEvt, 0, 0, .ro, .nobody, 0⟩
/-- PORT_RETRY_ACK_p.COUNT [63:32]. -/
def Fl.portRetryAckCount : Fld := ⟨.portRetryAck, 63, 32, .ack, .principal, 0⟩
/-- VC_WT_p.W_VC0 [7:0]. -/
def Fl.vcWtWVc0 : Fld := ⟨.vcWt, 7, 0, .rwl, .rom, 4⟩
/-- VC_WT_p.W_VC1 [15:8]. -/
def Fl.vcWtWVc1 : Fld := ⟨.vcWt, 15, 8, .rwl, .rom, 0x20⟩
/-- VC_WT_p.W_VC2 [23:16]. -/
def Fl.vcWtWVc2 : Fld := ⟨.vcWt, 23, 16, .rwl, .rom, 0x60⟩
/-- VC_WT_p.W_VC3 [31:24]. -/
def Fl.vcWtWVc3 : Fld := ⟨.vcWt, 31, 24, .rwl, .rom, 0x20⟩
/-- VC_WT_p.W_VC4 [39:32]. -/
def Fl.vcWtWVc4 : Fld := ⟨.vcWt, 39, 32, .rwl, .rom, 0x40⟩
/-- VC_WT_p.W_VC5 [47:40]. -/
def Fl.vcWtWVc5 : Fld := ⟨.vcWt, 47, 40, .rwl, .rom, 8⟩
/-- VC_WT_p.W_VC6 [55:48]. -/
def Fl.vcWtWVc6 : Fld := ⟨.vcWt, 55, 48, .rwl, .rom, 0x10⟩
/-- VC_WT_p.W_VC7 [63:56]. -/
def Fl.vcWtWVc7 : Fld := ⟨.vcWt, 63, 56, .rwl, .rom, 8⟩
/-- ROUTE_CTL.PLANES [63:52]. -/
def Fl.routeCtlPlanes : Fld := ⟨.routeCtl, 63, 52, .ro, .nobody, 0⟩
/-- ROUTE_CTL.RACK_TBL [39:0]. -/
def Fl.routeCtlRackTbl : Fld := ⟨.routeCtl, 39, 0, .rwl, .rom, 0⟩
/-- ROUTE_ALIAS_n.VALID [63:63]. -/
def Fl.routeAliasValid : Fld := ⟨.routeAlias, 63, 63, .rw, .hartG, 0⟩
/-- ROUTE_ALIAS_n.TO [35:18]. -/
def Fl.routeAliasTo : Fld := ⟨.routeAlias, 35, 18, .rw, .hartG, 0⟩
/-- ROUTE_ALIAS_n.FROM [17:0]. -/
def Fl.routeAliasFrom : Fld := ⟨.routeAlias, 17, 0, .rw, .hartG, 0⟩
/-- COL_THRESH_P.LIMIT [39:0]. -/
def Fl.colThreshPLimit : Fld := ⟨.colThreshP, 39, 0, .rwl, .rom, 0x40000⟩
/-- COL_THRESH_T.ALG_HI [63:62]. -/
def Fl.colThreshTAlgHi : Fld := ⟨.colThreshT, 63, 62, .rwl, .rom, 1⟩
/-- COL_THRESH_T.ALG_LO [61:60]. -/
def Fl.colThreshTAlgLo : Fld := ⟨.colThreshT, 61, 60, .rwl, .rom, 0⟩
/-- COL_THRESH_T.LIMIT [39:0]. -/
def Fl.colThreshTLimit : Fld := ⟨.colThreshT, 39, 0, .rwl, .rom, 0x40000⟩
/-- COL_THRESH_K.ALG_HI [63:62]. -/
def Fl.colThreshKAlgHi : Fld := ⟨.colThreshK, 63, 62, .rwl, .rom, 3⟩
/-- COL_THRESH_K.ALG_LO [61:60]. -/
def Fl.colThreshKAlgLo : Fld := ⟨.colThreshK, 61, 60, .rwl, .rom, 2⟩
/-- COL_THRESH_K.LIMIT [39:0]. -/
def Fl.colThreshKLimit : Fld := ⟨.colThreshK, 39, 0, .rwl, .rom, 0x10000⟩
/-- COL_THRESH_S.ALG_HI [63:62]. -/
def Fl.colThreshSAlgHi : Fld := ⟨.colThreshS, 63, 62, .rwl, .rom, 3⟩
/-- COL_THRESH_S.ALG_LO [61:60]. -/
def Fl.colThreshSAlgLo : Fld := ⟨.colThreshS, 61, 60, .rwl, .rom, 2⟩
/-- COL_THRESH_S.LIMIT [39:0]. -/
def Fl.colThreshSLimit : Fld := ⟨.colThreshS, 39, 0, .rwl, .rom, 0x100000⟩
/-- COL_CHUNK.SEG [39:24]. -/
def Fl.colChunkSeg : Fld := ⟨.colChunk, 39, 24, .rwl, .rom, 0x100⟩
/-- COL_CHUNK.INFLIGHT [15:8]. -/
def Fl.colChunkInflight : Fld := ⟨.colChunk, 15, 8, .rwl, .rom, 0x10⟩
/-- COL_CHUNK.CHUNK_KIB [7:0]. -/
def Fl.colChunkChunkKib : Fld := ⟨.colChunk, 7, 0, .ro, .nobody, 0x40⟩
/-- COL_MODE.RESEND_MAX [11:8]. -/
def Fl.colModeResendMax : Fld := ⟨.colMode, 11, 8, .rwl, .rom, 3⟩
/-- COL_MODE.SPEC_EN [0:0]. -/
def Fl.colModeSpecEn : Fld := ⟨.colMode, 0, 0, .rwl, .rom, 1⟩
/-- COL_FAULT_EVT.COUNT [63:32]. -/
def Fl.colFaultEvtCount : Fld := ⟨.colFaultEvt, 63, 32, .ro, .nobody, 0⟩
/-- COL_FAULT_EVT.GROUP [31:22]. -/
def Fl.colFaultEvtGroup : Fld := ⟨.colFaultEvt, 31, 22, .ro, .nobody, 0⟩
/-- COL_FAULT_EVT.CAUSE [15:8]. -/
def Fl.colFaultEvtCause : Fld := ⟨.colFaultEvt, 15, 8, .ro, .nobody, 0⟩
/-- COL_FAULT_EVT.PEND [0:0]. -/
def Fl.colFaultEvtPend : Fld := ⟨.colFaultEvt, 0, 0, .ro, .nobody, 0⟩
/-- COL_FAULT_ACK.COUNT [63:32]. -/
def Fl.colFaultAckCount : Fld := ⟨.colFaultAck, 63, 32, .ack, .principal, 0⟩
/-- GRP_CFG_n.VALID [63:63]. -/
def Fl.grpCfgValid : Fld := ⟨.grpCfg, 63, 63, .rw, .hart, 0⟩
/-- GRP_CFG_n.ON_LOSS [62:61]. -/
def Fl.grpCfgOnLoss : Fld := ⟨.grpCfg, 62, 61, .rw, .hart, 0⟩
/-- GRP_CFG_n.COUNT [60:42]. -/
def Fl.grpCfgCount : Fld := ⟨.grpCfg, 60, 42, .rw, .hart, 0⟩
/-- GRP_CFG_n.LIST_ADDR [39:0]. -/
def Fl.grpCfgListAddr : Fld := ⟨.grpCfg, 39, 0, .rw, .hart, 0⟩
/-- GRP_AUX_n.FIRST_K [63:46]. -/
def Fl.grpAuxFirstK : Fld := ⟨.grpAux, 63, 46, .rw, .hart, 0⟩
/-- GRP_STAT_n.STATE [63:62]. -/
def Fl.grpStatState : Fld := ⟨.grpStat, 63, 62, .ro, .nobody, 0⟩
/-- GRP_STAT_n.SELF [61:44]. -/
def Fl.grpStatSelf : Fld := ⟨.grpStat, 61, 44, .ro, .nobody, 0⟩
/-- GRP_STAT_n.FLAT [43:43]. -/
def Fl.grpStatFlat : Fld := ⟨.grpStat, 43, 43, .ro, .nobody, 0⟩
/-- GRP_STAT_n.EPOCH [39:32]. -/
def Fl.grpStatEpoch : Fld := ⟨.grpStat, 39, 32, .ro, .nobody, 0⟩
/-- GRP_STAT_n.SEQ [31:0]. -/
def Fl.grpStatSeq : Fld := ⟨.grpStat, 31, 0, .ro, .nobody, 0⟩
/-- GRP_BELL_n.OFFSET [63:0]. -/
def Fl.grpBellOffset : Fld := ⟨.grpBell, 63, 0, .ro, .nobody, 0⟩
/-- TO_LIMIT_x.LIMIT [31:0]. -/
def Fl.toLimitLimit : Fld := ⟨.toLimit, 31, 0, .rwl, .rom, 0⟩
/-- ERR_LOG_BASE.SIZE [58:56]. -/
def Fl.errLogBaseSize : Fld := ⟨.errLogBase, 58, 56, .rw, .hart, 0⟩
/-- ERR_LOG_BASE.ADDR [39:0]. -/
def Fl.errLogBaseAddr : Fld := ⟨.errLogBase, 39, 0, .rw, .hart, 0⟩
/-- ERR_EVT.COUNT [63:32]. -/
def Fl.errEvtCount : Fld := ⟨.errEvt, 63, 32, .ro, .nobody, 0⟩
/-- ERR_EVT.CODE [31:24]. -/
def Fl.errEvtCode : Fld := ⟨.errEvt, 31, 24, .ro, .nobody, 0⟩
/-- ERR_EVT.CLASS [23:21]. -/
def Fl.errEvtClass : Fld := ⟨.errEvt, 23, 21, .ro, .nobody, 0⟩
/-- ERR_EVT.PEND [0:0]. -/
def Fl.errEvtPend : Fld := ⟨.errEvt, 0, 0, .ro, .nobody, 0⟩
/-- ERR_ACK.COUNT [63:32]. -/
def Fl.errAckCount : Fld := ⟨.errAck, 63, 32, .ack, .principal, 0⟩
/-- RAS_KICK.MODULE [16:16]. -/
def Fl.rasKickModule : Fld := ⟨.rasKick, 16, 16, .wo, .principal, 0⟩
/-- RAS_KICK.HART [15:0]. -/
def Fl.rasKickHart : Fld := ⟨.rasKick, 15, 0, .wo, .hart, 0⟩
/-- DET_STEP.STEP [47:0]. -/
def Fl.detStepStep : Fld := ⟨.detStep, 47, 0, .rw, .hart, 0⟩
/-- DET_COUNT.COUNT [63:0]. -/
def Fl.detCountCount : Fld := ⟨.detCount, 63, 0, .ro, .nobody, 0⟩
/-- DET_CAUSE.EVER [7:4]. -/
def Fl.detCauseEver : Fld := ⟨.detCause, 7, 4, .ro, .nobody, 0⟩
/-- DET_CAUSE.STEP [3:0]. -/
def Fl.detCauseStep : Fld := ⟨.detCause, 3, 0, .ro, .nobody, 0⟩
/-- DET_STRICT.STRICT [0:0]. -/
def Fl.detStrictStrict : Fld := ⟨.detStrict, 0, 0, .rw, .hart, 0⟩
/-- WAYMARK_CTL.LOG_EN [63:63]. -/
def Fl.waymarkCtlLogEn : Fld := ⟨.waymarkCtl, 63, 63, .rw, .hart, 0⟩
/-- WAYMARK_CTL.BROKEN [62:62]. -/
def Fl.waymarkCtlBroken : Fld := ⟨.waymarkCtl, 62, 62, .ro, .nobody, 0⟩
/-- WAYMARK_CTL.LOG_BASE [55:36]. -/
def Fl.waymarkCtlLogBase : Fld := ⟨.waymarkCtl, 55, 36, .rw, .hart, 0⟩
/-- WAYMARK_CTL.LOG_MIB [35:28]. -/
def Fl.waymarkCtlLogMib : Fld := ⟨.waymarkCtl, 35, 28, .rw, .hart, 0x40⟩
/-- DET_SEED_n.SEED [63:0]. -/
def Fl.detSeedSeed : Fld := ⟨.detSeed, 63, 0, .rw, .hart, 0⟩
/-- TWN_CTL.ENABLE [63:63]. -/
def Fl.twnCtlEnable : Fld := ⟨.twnCtl, 63, 63, .rwl, .rom, 0⟩
/-- TWN_CTL.RES_BASE_GB [49:40]. -/
def Fl.twnCtlResBaseGb : Fld := ⟨.twnCtl, 49, 40, .rwl, .rom, 0⟩
/-- TWN_CTL.HB_MS [39:32]. -/
def Fl.twnCtlHbMs : Fld := ⟨.twnCtl, 39, 32, .rwl, .rom, 0xa⟩
/-- TWN_PARTNER.NODE [17:0]. -/
def Fl.twnPartnerNode : Fld := ⟨.twnPartner, 17, 0, .rwl, .rom, 0⟩
/-- TWN_RESERVE.GIB [9:0]. -/
def Fl.twnReserveGib : Fld := ⟨.twnReserve, 9, 0, .rwl, .rom, 0x100⟩
/-- TWN_LAG.GRANULES [63:32]. -/
def Fl.twnLagGranules : Fld := ⟨.twnLag, 63, 32, .ro, .nobody, 0⟩
/-- TWN_LAG.AGE_US [31:0]. -/
def Fl.twnLagAgeUs : Fld := ⟨.twnLag, 31, 0, .ro, .nobody, 0⟩
/-- TWN_STATE.SELF [63:60]. -/
def Fl.twnStateSelf : Fld := ⟨.twnState, 63, 60, .ro, .nobody, 0⟩
/-- TWN_STATE.PARTNER [59:56]. -/
def Fl.twnStatePartner : Fld := ⟨.twnState, 59, 56, .ro, .nobody, 0⟩
/-- TWN_STATE.TAKEOVERS [55:48]. -/
def Fl.twnStateTakeovers : Fld := ⟨.twnState, 55, 48, .ro, .nobody, 0⟩
/-- TWN_STATE.SEALED [47:0]. -/
def Fl.twnStateSealed : Fld := ⟨.twnState, 47, 0, .ro, .nobody, 0⟩
/-- TWN_ADOPT.GO [63:63]. -/
def Fl.twnAdoptGo : Fld := ⟨.twnAdopt, 63, 63, .w1s, .principal, 0⟩
/-- TWN_ADOPT.NODE [17:0]. -/
def Fl.twnAdoptNode : Fld := ⟨.twnAdopt, 17, 0, .rw, .principal, 0⟩
/-- SEC_BOOT_STAT.LOCK [63:63]. -/
def Fl.secBootStatLock : Fld := ⟨.secBootStat, 63, 63, .ro, .nobody, 0⟩
/-- SEC_BOOT_STAT.STAGE [62:60]. -/
def Fl.secBootStatStage : Fld := ⟨.secBootStat, 62, 60, .ro, .nobody, 0⟩
/-- SEC_BOOT_STAT.SLOT [59:59]. -/
def Fl.secBootStatSlot : Fld := ⟨.secBootStat, 59, 59, .ro, .nobody, 0⟩
/-- SEC_BOOT_STAT.TRIAL [58:58]. -/
def Fl.secBootStatTrial : Fld := ⟨.secBootStat, 58, 58, .ro, .nobody, 0⟩
/-- SEC_BOOT_STAT.CFG [57:57]. -/
def Fl.secBootStatCfg : Fld := ⟨.secBootStat, 57, 57, .ro, .nobody, 0⟩
/-- SEC_BOOT_STAT.CFG_OK [56:56]. -/
def Fl.secBootStatCfgOk : Fld := ⟨.secBootStat, 56, 56, .ro, .nobody, 0⟩
/-- SEC_BOOT_STAT.ERR [55:48]. -/
def Fl.secBootStatErr : Fld := ⟨.secBootStat, 55, 48, .ro, .nobody, 0⟩
/-- SEC_BOOT_STAT.START_BELL [47:0]. -/
def Fl.secBootStatStartBell : Fld := ⟨.secBootStat, 47, 0, .ro, .nobody, 0⟩
/-- SEC_FWVER.VERSION [63:32]. -/
def Fl.secFwverVersion : Fld := ⟨.secFwver, 63, 32, .ro, .nobody, 0⟩
/-- SEC_FWVER.SVN [31:24]. -/
def Fl.secFwverSvn : Fld := ⟨.secFwver, 31, 24, .ro, .nobody, 0⟩
/-- SEC_ROLLBACK.REVOKED [31:28]. -/
def Fl.secRollbackRevoked : Fld := ⟨.secRollback, 31, 28, .ro, .nobody, 0⟩
/-- SEC_ROLLBACK.ENROLLED [27:24]. -/
def Fl.secRollbackEnrolled : Fld := ⟨.secRollback, 27, 24, .ro, .nobody, 0⟩
/-- SEC_ROLLBACK.CFG_EPOCH [23:16]. -/
def Fl.secRollbackCfgEpoch : Fld := ⟨.secRollback, 23, 16, .ro, .nobody, 0⟩
/-- SEC_ROLLBACK.A [15:8]. -/
def Fl.secRollbackA : Fld := ⟨.secRollback, 15, 8, .ro, .nobody, 0⟩
/-- SEC_ROLLBACK.B [7:0]. -/
def Fl.secRollbackB : Fld := ⟨.secRollback, 7, 0, .ro, .nobody, 0⟩
/-- SEC_LIFE_REQ.RESULT [63:56]. -/
def Fl.secLifeReqResult : Fld := ⟨.secLifeReq, 63, 56, .ro, .nobody, 0⟩
/-- SEC_LIFE_REQ.GO [8:8]. -/
def Fl.secLifeReqGo : Fld := ⟨.secLifeReq, 8, 8, .wo, .principal, 0⟩
/-- SEC_LIFE_REQ.OP [3:0]. -/
def Fl.secLifeReqOp : Fld := ⟨.secLifeReq, 3, 0, .ro, .nobody, 0⟩
/-- SEC_MEAS_n.DIGEST [63:0]. -/
def Fl.secMeasDigest : Fld := ⟨.secMeas, 63, 0, .ro, .nobody, 0⟩
/-- PWR_IN_V.MIN_MV [63:32]. -/
def Fl.pwrInVMinMv : Fld := ⟨.pwrInV, 63, 32, .ro, .nobody, 0xffffffff⟩
/-- PWR_IN_V.MV [31:0]. -/
def Fl.pwrInVMv : Fld := ⟨.pwrInV, 31, 0, .ro, .nobody, 0⟩
/-- PWR_IN_I.MW [63:32]. -/
def Fl.pwrInIMw : Fld := ⟨.pwrInI, 63, 32, .ro, .nobody, 0⟩
/-- PWR_IN_I.MA [31:0]. -/
def Fl.pwrInIMa : Fld := ⟨.pwrInI, 31, 0, .ro, .nobody, 0⟩
/-- PWR_CAP.LIMIT_W [63:48]. -/
def Fl.pwrCapLimitW : Fld := ⟨.pwrCap, 63, 48, .rw, .hart, 0xfa0⟩
/-- PWR_CAP.SHED_N [45:40]. -/
def Fl.pwrCapShedN : Fld := ⟨.pwrCap, 45, 40, .rw, .hart, 0x30⟩
/-- PWR_CAP.PHASES [3:0]. -/
def Fl.pwrCapPhases : Fld := ⟨.pwrCap, 3, 0, .ro, .nobody, 8⟩
/-- PWR_STAT.LOAD_SHED [61:61]. -/
def Fl.pwrStatLoadShed : Fld := ⟨.pwrStat, 61, 61, .ro, .nobody, 0⟩
/-- PWR_STAT.SHED_RAMP [60:60]. -/
def Fl.pwrStatShedRamp : Fld := ⟨.pwrStat, 60, 60, .ro, .nobody, 0⟩
/-- PWR_STAT.UV_WARN [59:59]. -/
def Fl.pwrStatUvWarn : Fld := ⟨.pwrStat, 59, 59, .ro, .nobody, 0⟩
/-- PWR_STAT.OV_WARN [58:58]. -/
def Fl.pwrStatOvWarn : Fld := ⟨.pwrStat, 58, 58, .ro, .nobody, 0⟩
/-- PWR_STAT.SENSE_LOCAL [57:57]. -/
def Fl.pwrStatSenseLocal : Fld := ⟨.pwrStat, 57, 57, .ro, .nobody, 0⟩
/-- PWR_STAT.PHASE_LOST [56:56]. -/
def Fl.pwrStatPhaseLost : Fld := ⟨.pwrStat, 56, 56, .ro, .nobody, 0⟩
/-- PWR_STAT.RAIL_FAULT [47:32]. -/
def Fl.pwrStatRailFault : Fld := ⟨.pwrStat, 47, 32, .ro, .nobody, 0⟩
/-- CLK_STAT.REF100 [63:63]. -/
def Fl.clkStatRef100 : Fld := ⟨.clkStat, 63, 63, .ro, .nobody, 0⟩
/-- CLK_STAT.REF156 [62:62]. -/
def Fl.clkStatRef156 : Fld := ⟨.clkStat, 62, 62, .ro, .nobody, 0⟩
/-- CLK_STAT.ARRAY [61:61]. -/
def Fl.clkStatArray : Fld := ⟨.clkStat, 61, 61, .ro, .nobody, 0⟩
/-- CLK_STAT.FABRIC [59:56]. -/
def Fl.clkStatFabric : Fld := ⟨.clkStat, 59, 56, .ro, .nobody, 0⟩
/-- CLK_STAT.MEMORY [55:52]. -/
def Fl.clkStatMemory : Fld := ⟨.clkStat, 55, 52, .ro, .nobody, 0⟩
/-- CLK_STAT.CONTROL [51:48]. -/
def Fl.clkStatControl : Fld := ⟨.clkStat, 51, 48, .ro, .nobody, 0⟩
/-- CLK_STAT.SERDES [47:44]. -/
def Fl.clkStatSerdes : Fld := ⟨.clkStat, 47, 44, .ro, .nobody, 0⟩
/-- THERM_n.VALID [32:32]. -/
def Fl.thermValid : Fld := ⟨.therm, 32, 32, .ro, .nobody, 0⟩
/-- THERM_n.MAX [31:16]. -/
def Fl.thermMax : Fld := ⟨.therm, 31, 16, .ro, .nobody, 0⟩
/-- THERM_n.TEMP [15:0]. -/
def Fl.thermTemp : Fld := ⟨.therm, 15, 0, .ro, .nobody, 0⟩
/-- MGT_I3C.DA [63:56]. -/
def Fl.mgtI3cDa : Fld := ⟨.mgtI3c, 63, 56, .ro, .nobody, 0⟩
/-- MGT_I3C.PID [55:8]. -/
def Fl.mgtI3cPid : Fld := ⟨.mgtI3c, 55, 8, .ro, .nobody, 0⟩
/-- MGT_I3C.ALERT_N [7:7]. -/
def Fl.mgtI3cAlertN : Fld := ⟨.mgtI3c, 7, 7, .ro, .nobody, 0⟩
/-- MGT_CTL.IANA [63:32]. -/
def Fl.mgtCtlIana : Fld := ⟨.mgtCtl, 63, 32, .ro, .nobody, 0⟩
/-- MGT_CTL.MTU [24:16]. -/
def Fl.mgtCtlMtu : Fld := ⟨.mgtCtl, 24, 16, .rwl, .nobody, 0x40⟩
/-- MGT_CTL.ALERT [0:0]. -/
def Fl.mgtCtlAlert : Fld := ⟨.mgtCtl, 0, 0, .w1s, .hart, 0⟩

/-- The fields of a register that are not RSVD. -/
def Reg.fields : Reg → List Fld
  | .glbId => [Fl.glbIdPart, Fl.glbIdStepping]
  | .glbArev => [Fl.glbArevArev]
  | .glbNode => [Fl.glbNodeRole, Fl.glbNodeNode]
  | .glbBell => [Fl.glbBellBell]
  | .glbLife => [Fl.glbLifeState]
  | .glbQmask => [Fl.glbQmaskPrincipal, Fl.glbQmaskBaseQ, Fl.glbQmaskArrayQ]
  | .ostCtl => [Fl.ostCtlRun, Fl.ostCtlTrapClr, Fl.ostCtlAclLoad, Fl.ostCtlPreemptEn, Fl.ostCtlSaveGb,
      Fl.ostCtlAcl64k, Fl.ostCtlPreemptWaitUs]
  | .ostCur => [Fl.ostCurTrapped, Fl.ostCurFence, Fl.ostCurDepart, Fl.ostCurBoundary, Fl.ostCurStopped,
      Fl.ostCurInflight, Fl.ostCurPreempted, Fl.ostCurLastRoom, Fl.ostCurLastSeq]
  | .ostToOp => [Fl.ostToOpDefaultMs]
  | .ostClassWt => [Fl.ostClassWtStrict, Fl.ostClassWtWt]
  | .roomBase => [Fl.roomBaseBase]
  | .roomSize => [Fl.roomSizeLog2]
  | .roomHead => [Fl.roomHeadHead]
  | .roomTail => [Fl.roomTailTail]
  | .roomAttr => [Fl.roomAttrEnable, Fl.roomAttrSrc, Fl.roomAttrStopOnErr, Fl.roomAttrQuarter, Fl.roomAttrClass,
      Fl.roomAttrAcl, Fl.roomAttrQuantum, Fl.roomAttrDeficit]
  | .roomBell => [Fl.roomBellTail]
  | .arrMode => [Fl.arrModeTest, Fl.arrModeLock]
  | .arrDepth => [Fl.arrDepthDepthQ3, Fl.arrDepthDepthQ2, Fl.arrDepthDepthQ1, Fl.arrDepthDepthQ0, Fl.arrDepthPad,
      Fl.arrDepthRepairDepth]
  | .arrThrottle => [Fl.arrThrottleShedNNow, Fl.arrThrottleEffN, Fl.arrThrottleThermN, Fl.arrThrottleCapN,
      Fl.arrThrottleFwN]
  | .arrGaugeEvt => [Fl.arrGaugeEvtCount, Fl.arrGaugeEvtUnchecked, Fl.arrGaugeEvtPend]
  | .arrGaugeAck => [Fl.arrGaugeAckCount]
  | .arrProve => [Fl.arrProveStart, Fl.arrProveBusy, Fl.arrProveQuarter, Fl.arrProveResult, Fl.arrProveRepaired,
      Fl.arrProveRetired]
  | .arrHoldCause => [Fl.arrHoldCauseCycles]
  | .tileMap => [Fl.tileMapHome, Fl.tileMapSite]
  | .tileState => [Fl.tileStateState]
  | .tileRepair => [Fl.tileRepairSpareColFor, Fl.tileRepairSpareRowFor]
  | .tblGen => [Fl.tblGenGen, Fl.tblGenLooseSwap, Fl.tblGenCur]
  | .tblState => [Fl.tblStateValid, Fl.tblStateB1State, Fl.tblStateB0State, Fl.tblStateBound, Fl.tblStateProd]
  | .qchFin => [Fl.qchFinBusy, Fl.qchFinRows]
  | .memCtl => [Fl.memCtlState, Fl.memCtlHotLim, Fl.memCtlUeRetire, Fl.memCtlRetired]
  | .memCeEvt => [Fl.memCeEvtCount, Fl.memCeEvtSpc, Fl.memCeEvtSyms, Fl.memCeEvtPend]
  | .memCeAck => [Fl.memCeAckCount]
  | .memUeEvt => [Fl.memUeEvtCount, Fl.memUeEvtSpc, Fl.memUeEvtSrc, Fl.memUeEvtPend]
  | .memUeAck => [Fl.memUeAckCount]
  | .memScrub => [Fl.memScrubPeriodH, Fl.memScrubEnable, Fl.memScrubPasses, Fl.memScrubPos]
  | .memPpr => [Fl.memPprCeThresh, Fl.memPprDone, Fl.memPprPending, Fl.memPprFailed]
  | .memRetire => [Fl.memRetireN, Fl.memRetireValid0, Fl.memRetirePc0, Fl.memRetireValid1, Fl.memRetirePc1,
      Fl.memRetireValid2, Fl.memRetirePc2, Fl.memRetireValid3, Fl.memRetirePc3]
  | .memPswin => [Fl.memPswinSpare]
  | .memWipe => [Fl.memWipeHbm, Fl.memWipePanel, Fl.memWipeCommons, Fl.memWipeTable, Fl.memWipeEndBell]
  | .portCtl => [Fl.portCtlRole, Fl.portCtlTwin, Fl.portCtlPeerSlot, Fl.portCtlMinWidth, Fl.portCtlRetrain,
      Fl.portCtlEnable]
  | .portStat => [Fl.portStatDelay, Fl.portStatRetrains, Fl.portStatState, Fl.portStatWidth, Fl.portStatPeerNode,
      Fl.portStatDownCause]
  | .portLanes => [Fl.portLanesActive, Fl.portLanesWeak, Fl.portLanesFailed, Fl.portLanesDisable, Fl.portLanesSerMax]
  | .portRetryEvt => [Fl.portRetryEvtCount, Fl.portRetryEvtCause, Fl.portRetryEvtPend]
  | .portRetryAck => [Fl.portRetryAckCount]
  | .vcWt => [Fl.vcWtWVc0, Fl.vcWtWVc1, Fl.vcWtWVc2, Fl.vcWtWVc3, Fl.vcWtWVc4, Fl.vcWtWVc5, Fl.vcWtWVc6, Fl.vcWtWVc7]
  | .routeCtl => [Fl.routeCtlPlanes, Fl.routeCtlRackTbl]
  | .routeAlias => [Fl.routeAliasValid, Fl.routeAliasTo, Fl.routeAliasFrom]
  | .colThreshP => [Fl.colThreshPLimit]
  | .colThreshT => [Fl.colThreshTAlgHi, Fl.colThreshTAlgLo, Fl.colThreshTLimit]
  | .colThreshK => [Fl.colThreshKAlgHi, Fl.colThreshKAlgLo, Fl.colThreshKLimit]
  | .colThreshS => [Fl.colThreshSAlgHi, Fl.colThreshSAlgLo, Fl.colThreshSLimit]
  | .colChunk => [Fl.colChunkSeg, Fl.colChunkInflight, Fl.colChunkChunkKib]
  | .colMode => [Fl.colModeResendMax, Fl.colModeSpecEn]
  | .colFaultEvt => [Fl.colFaultEvtCount, Fl.colFaultEvtGroup, Fl.colFaultEvtCause, Fl.colFaultEvtPend]
  | .colFaultAck => [Fl.colFaultAckCount]
  | .grpCfg => [Fl.grpCfgValid, Fl.grpCfgOnLoss, Fl.grpCfgCount, Fl.grpCfgListAddr]
  | .grpAux => [Fl.grpAuxFirstK]
  | .grpStat => [Fl.grpStatState, Fl.grpStatSelf, Fl.grpStatFlat, Fl.grpStatEpoch, Fl.grpStatSeq]
  | .grpBell => [Fl.grpBellOffset]
  | .toLimit => [Fl.toLimitLimit]
  | .errLogBase => [Fl.errLogBaseSize, Fl.errLogBaseAddr]
  | .errEvt => [Fl.errEvtCount, Fl.errEvtCode, Fl.errEvtClass, Fl.errEvtPend]
  | .errAck => [Fl.errAckCount]
  | .rasKick => [Fl.rasKickModule, Fl.rasKickHart]
  | .detStep => [Fl.detStepStep]
  | .detCount => [Fl.detCountCount]
  | .detCause => [Fl.detCauseEver, Fl.detCauseStep]
  | .detStrict => [Fl.detStrictStrict]
  | .waymarkCtl => [Fl.waymarkCtlLogEn, Fl.waymarkCtlBroken, Fl.waymarkCtlLogBase, Fl.waymarkCtlLogMib]
  | .detSeed => [Fl.detSeedSeed]
  | .twnCtl => [Fl.twnCtlEnable, Fl.twnCtlResBaseGb, Fl.twnCtlHbMs]
  | .twnPartner => [Fl.twnPartnerNode]
  | .twnReserve => [Fl.twnReserveGib]
  | .twnLag => [Fl.twnLagGranules, Fl.twnLagAgeUs]
  | .twnState => [Fl.twnStateSelf, Fl.twnStatePartner, Fl.twnStateTakeovers, Fl.twnStateSealed]
  | .twnAdopt => [Fl.twnAdoptGo, Fl.twnAdoptNode]
  | .secBootStat => [Fl.secBootStatLock, Fl.secBootStatStage, Fl.secBootStatSlot, Fl.secBootStatTrial,
      Fl.secBootStatCfg, Fl.secBootStatCfgOk, Fl.secBootStatErr, Fl.secBootStatStartBell]
  | .secFwver => [Fl.secFwverVersion, Fl.secFwverSvn]
  | .secRollback => [Fl.secRollbackRevoked, Fl.secRollbackEnrolled, Fl.secRollbackCfgEpoch, Fl.secRollbackA,
      Fl.secRollbackB]
  | .secLifeReq => [Fl.secLifeReqResult, Fl.secLifeReqGo, Fl.secLifeReqOp]
  | .secMeas => [Fl.secMeasDigest]
  | .pwrInV => [Fl.pwrInVMinMv, Fl.pwrInVMv]
  | .pwrInI => [Fl.pwrInIMw, Fl.pwrInIMa]
  | .pwrCap => [Fl.pwrCapLimitW, Fl.pwrCapShedN, Fl.pwrCapPhases]
  | .pwrStat => [Fl.pwrStatLoadShed, Fl.pwrStatShedRamp, Fl.pwrStatUvWarn, Fl.pwrStatOvWarn, Fl.pwrStatSenseLocal,
      Fl.pwrStatPhaseLost, Fl.pwrStatRailFault]
  | .clkStat => [Fl.clkStatRef100, Fl.clkStatRef156, Fl.clkStatArray, Fl.clkStatFabric, Fl.clkStatMemory,
      Fl.clkStatControl, Fl.clkStatSerdes]
  | .therm => [Fl.thermValid, Fl.thermMax, Fl.thermTemp]
  | .mgtI3c => [Fl.mgtI3cDa, Fl.mgtI3cPid, Fl.mgtI3cAlertN]
  | .mgtCtl => [Fl.mgtCtlIana, Fl.mgtCtlMtu, Fl.mgtCtlAlert]

/-- Limits of Table 14.8, by index. -/
def toLimitDefault : List Nat :=
  [0x100000, 0x32, 0x14, 0x7D0, 0x1388, 0x1388, 0x4E20, 0xC350, 0x186A0, 0xF4240, 0x13880]

/-- The default site of logical tile `n = x + 64y`, by R12 and Table 17.5. -/
def homeSite (n : Nat) : Nat :=
  let x := n % 64
  let y := n / 64
  1056 * (x / 32 + 2 * (y / 32)) + 33 * (x % 32) + y % 32

/-- The reset value of a field that depends on the instance (R407), else the field's own. `Fuses` and `Straps` read
as on a part with nothing blown (log entry 4, DESIGN CHOICE); `Reg.resetVal` is the word at power-on. -/
def Fld.resetAt (f : Fld) (i : Nat) : Nat :=
  match f.reg, f.lo with
  | .ostClassWt, 63 => if i = 7 then 1 else 0
  | .ostClassWt, _ => if i = 7 then 1 else 2 ^ i
  | .toLimit, _ => toLimitDefault.getD i 0
  | .tileMap, 0 => homeSite i
  | .tileState, _ => if i % 33 = 32 then 1 else 0
  | .tileRepair, _ => 63
  | _, _ => f.reset

/-- The word a register instance holds right after power-on or module reset (R407). -/
def Reg.resetVal (r : Reg) (i : Nat) : Word64 :=
  BitVec.ofNat 64 ((r.fields.map fun f => f.resetAt i * 2 ^ f.lo).sum)

/-- The offset of instance `i` of a register (R403). -/
def Reg.off (r : Reg) (i : Nat) : Nat := r.place.1 + r.place.2.2 * i

/-- The register and instance at an offset; none is a hole (R404). -/
def regAt (off : Nat) : Option (Reg × Nat) :=
  Reg.all.findSome? fun r =>
    let (o, n, st) := r.place
    if o ≤ off ∧ (off - o) % st = 0 ∧ (off - o) / st < n then some (r, (off - o) / st) else none

end Sys2Proof.Machine
end

