-- ==== Sys2Proof/Machine/State.lean ====
section
/-! DEFINITION. State: everything the spec gives the module, as plain data, and the state right after reset. Sparse
memories and register arrays are sorted lists of (key, value) pairs that list no value equal to what an unlisted key
reads as. -/

namespace Sys2Proof.Machine

/-- A sparse map in canonical form: keys strictly rising, no default value listed. -/
abbrev SMap (α : Type) := List (Nat × α)

/-- The counts of a completion record's words 12 to 15 (Table 6.12). -/
structure Counts where
  infZero : Nat := 0
  narOut : Nat := 0
  spillHi : Nat := 0
  spillLo : Nat := 0
  flush : Nat := 0
  sat : Nat := 0
  gaugeRun : Nat := 0
  gaugeSkip : Nat := 0
  deriving DecidableEq, Repr

/-- How far an operation has come between its selection and its record (R162). -/
inductive Phase where
  /-- selected, waiting for its fused gather, if it has one, and for its run -/
  | selected
  /-- its fused gather has filled the slot it reads (R157) -/
  | gathered
  /-- its outputs are formed and wait for a fused reduction or a collective to deliver them -/
  | computed
  /-- every output write has been accepted, or the operation ended with a runtime status -/
  | written
  /-- aborted, with a re-run to come (R336) -/
  | rerun
  deriving DecidableEq, Repr

/-- A block that failed its checks and is run again: on a spare site, or in an extra round (R335). -/
structure Rerun where
  plc : Nat
  key : Nat
  fails : Nat
  site : Option Nat := none
  deriving DecidableEq, Repr

/-- Groups that a tile of a relay chain has sent down and the next one has not taken yet: (64 i + j, group, activation
code sum of the group row, with the row's first group) (R131, R184). -/
structure Relayed where
  plc : Nat
  key : Nat
  grps : List (Nat × Grp × Int)
  deriving DecidableEq, Repr

/-- A block saved at pre-emption: the steps it has issued, and the logical tile in whose part of the save area it lies
(R140, R303). -/
structure Saved where
  plc : Nat
  key : Nat
  steps : Nat
  slot : Nat
  deriving DecidableEq, Repr

/-- An operation from its selection to its completion record (R142 to R168). -/
structure Op where
  seq : Nat
  room : Nat
  /-- stream that selected it: 0 in LOCKED mode, else the quarter -/
  dom : Nat
  /-- the descriptor's 32 words, as read at selection (R142) -/
  words : List Word64
  /-- the ATTEND extension tensor descriptor, as read at selection -/
  ext : List Word64 := []
  /-- the bundle list, as read at selection -/
  bundle : List Word64 := []
  /-- DET_STEP and the seed at selection (R208) -/
  step : Nat := 0
  key : Word64 := 0
  startBell : Nat := 0
  /-- run in the partner's node context (R350) -/
  partner : Bool := false
  idem : Bool := false
  phase : Phase := .selected
  /-- an array operation that is not yet out of the array (R20) -/
  inArray : Bool := false
  /-- its front has entered the first tile -/
  entered : Bool := false
  /-- steps it has yet to issue in logical tile row 0 (R297) -/
  stepsLeft : Nat := 0
  preempted : Bool := false
  /-- chosen for pre-emption, to stop at its next K-chunk boundary (R140) -/
  stopping : Bool := false
  /-- table-RAM bank bound at its front (R92) -/
  bank : Nat := 0
  /-- tongs regions: byte ranges [lo, hi) (R161) -/
  tongs : List (Nat × Nat) := []
  /-- logical tiles whose TONG_WAIT mark is set (R299) -/
  tongWait : List Nat := []
  /-- TILE_MAP as it stood at selection (R410): 0 the reset site, 1 homeless, n + 2 site n; and INDEPENDENT mode, in
  which only sites of quarter `dom` serve (R138) -/
  place : SMap Nat := []
  indep : Bool := false
  /-- blocks quenched, (placement, block key), when the tiles run it one by one; the key of the block of a logical tile
  is its number plus 4,096 times the strip sub-pass (R136), or the pass of an operation that is no matrix product -/
  blocks : List (Nat × Nat) := []
  /-- rows that the finishers have completed (R82) -/
  rows : List Nat := []
  /-- blocks that wait for a re-run (R335) -/
  reruns : List Rerun := []
  /-- groups on their way down a relay chain (R131, R139) -/
  sends : List Relayed := []
  /-- blocks saved at pre-emption (R140) -/
  saved : List Saved := []
  status : Nat := 0
  cnt : Counts := {}
  ledgerN : Nat := 0
  attempt : Nat := 0
  /-- attempts that were over before its own selection: waymark replays of the step (R322) -/
  base : Nat := 0
  gaugeFail : Nat := 0
  retempers : Nat := 0
  detours : Nat := 0
  detCause : Nat := 0
  specUsed : Bool := false
  /-- hold cycles by cause while it was in the array (R163) -/
  holds : List Nat := []
  /-- groups, or codes of a rounded wire, that it gives to its fused reduction, in element order -/
  contrib : List Grp := []
  codes : List Nat := []
  /-- instance number of its collective in its group context -/
  inst : Nat := 0
  deriving DecidableEq, Repr

/-- An operation as a tile holds it (R133): its number, placement, chain part and logical tile. -/
structure Front where
  seq : Nat
  plc : Nat
  tile : Nat
  bank : Nat := 0
  /-- TONG_WAIT mark (R111) -/
  wait : Bool := false
  /-- strip sub-pass (R136), or pass of an operation that is no matrix product -/
  sub : Nat := 0
  deriving DecidableEq, Repr

/-- An entry of a bellows (Table 4.3), with the codebook that the decoder holds when it releases the entry (R88); in
strip mode a column entry has the codebooks, 16 codes each, and the scale codes of its rows (R135, R181). In C32 and C64 its
slots hold pieces (R129), and `code` is the element they were cut from, whose code R184 sums. -/
structure Entry where
  bits : BitVec 137
  cb : List Nat := []
  scales : List Nat := []
  code : Nat := 0
  deriving DecidableEq, Repr

/-- One bellows: its entries, oldest first, and the K indices or strip steps placed so far (R87). -/
structure Bellows where
  q : List Entry := []
  pos : Nat := 0
  deriving DecidableEq, Repr

/-- A chunk buffer of a panel store: whose chunk it holds, and the words that have arrived (R124). -/
structure Panel where
  isB : Bool
  seq : Nat
  plc : Nat
  tile : Nat
  chunk : Nat
  words : List Nat := []
  deriving DecidableEq, Repr

/-- The groups of one front as the drain registers and the block buffers of the quench unit hold them (R86, R95): the groups
by 64 i + j, the gauge column by physical row, the gauge row by physical column, the corner, folded to 24 bits, and the
activation code sums by group row (R184). -/
structure Block where
  front : Front
  grps : SMap Grp := []
  gRow : SMap Nat := []
  gCol : SMap Nat := []
  gCorner : Nat := 0
  sa : SMap Int := []
  /-- the block has passed its checks -/
  checked : Bool := false
  /-- relayed groups that have arrived, by 64 i + j -/
  relayGot : List Nat := []
  /-- saddlebag terms of the block's outputs, by 64 i + j, once the lane has delivered them (R178) -/
  lane : SMap Grp := []
  laneGot : Bool := false
  deriving DecidableEq, Repr

/-- A tile site (R83): what its cells, drain registers, gauges, bellows, table builder and quench unit hold. -/
structure Tile where
  cur : Option Front := none
  /-- steps issued by the current front (this sub-pass) -/
  steps : Nat := 0
  panels : List Panel := []
  rowB : SMap Bellows := []
  colB : SMap Bellows := []
  /-- groups being accumulated, by 64 i + j -/
  grps : SMap Grp := []
  /-- product assemblers of C32 and C64 (R128), by 64 i + j -/
  asm : SMap Nat := []
  /-- gauge column by physical row, gauge row by physical column, gauge corner: sums of residue products, folded to 24
  bits at drain (R93) -/
  gRow : SMap Nat := []
  gCol : SMap Nat := []
  gCorner : Nat := 0
  /-- activation code sums of the row bellows, by group row (R184) -/
  sa : SMap Int := []
  /-- what this tile's bank holds while a product-table pass has it (R92, R182): the 32 u16 entries of each table, by
  64 (step mod 4) + physical row, and the steps they have been built for -/
  ptab : SMap (List Nat) := []
  ptabStep : Nat := 0
  /-- drain registers (R86) -/
  drain : Option Block := none
  /-- block buffers of the quench unit, oldest first, two at most (Table 4.1) -/
  bufs : List Block := []
  deriving DecidableEq, Repr

/-- State of the Ostler that no register shows (R297 to R304). -/
structure Ost where
  /-- next SEQ (R163) -/
  seq : Nat := 0
  trapped : Bool := false
  /-- SEQ of an incomplete FENCE, and of a TRAP_NAN operation not yet recorded -/
  fence : Option Nat := none
  trapNan : Option Nat := none
  depart : Option Nat := none
  /-- a retirement is in progress (R277) -/
  retiring : Bool := false
  /-- the values in force while a write to the register waits for the mode boundary (R23) -/
  bLock : Option Nat := none
  bTest : Option Nat := none
  bArrayQ : Option Nat := none
  /-- TILE_REPAIR values in force where they differ from the register (R102), by site -/
  repairNow : SMap Nat := []
  /-- the quarter of the proving run that ARR_PROVE started (R118) -/
  proving : Option Nat := none
  /-- sites whose panel store holds in blocks 32 and up, unlisted, the groups of the last proving pass (R116) -/
  proofed : List Nat := []
  /-- sites given a spare since reset (R341, R117) -/
  repaired : List Nat := []
  /-- deficits, credited marks and pointers (R300, R301): classes and streams by 8 dom + class -/
  clsDeficit : SMap Nat := []
  clsCredit : List Nat := []
  clsPtr : SMap Nat := []
  roomCredit : List Nat := []
  roomPtr : SMap Nat := []
  /-- since when a room of a strict class has been eligible without interruption (R303) -/
  strictSince : SMap Nat := []
  /-- the array operation selected last, by stream (R297) -/
  lastArray : SMap Nat := []
  /-- the bell from which each quarter's finisher is free again (R82) -/
  finFree : SMap Nat := []
  deriving DecidableEq, Repr

/-- The two table-RAM banks, the same in every tile (R196), and the attribute files. -/
structure Tables where
  bank0 : List Host.Cell := []
  bank1 : List Host.Cell := []
  attr0 : SMap Nat := []
  attr1 : SMap Nat := []
  /-- valid slots, by bank -/
  valid0 : Nat := 0
  valid1 : Nat := 0
  deriving DecidableEq, Repr

/-- A stored hold request (R106): stamp, lockstep domain and the causes that asked for it. -/
structure Hold where
  bell : Nat
  dom : Nat
  causes : List Nat
  deriving DecidableEq, Repr

/-- The hold state of one lockstep domain. -/
structure HoldDom where
  /-- length of the unbroken run of hold cycles, its last bell and the causes of its last cycle -/
  run : Nat := 0
  last : Nat := 0
  causes : List Nat := []
  deriving DecidableEq, Repr

/-- The privilege modes of a hart (R287). -/
inductive Priv where
  | user | supervisor | machine
  deriving DecidableEq, Repr

/-- A control core (R287): what the module sees of it, and the registers that RV64GC and the privileged architecture 1.12
give it, with the CSRs under their numbers there (log entry 8, PRESUMED). -/
structure Hart where
  /-- held in reset until the next module reset (R290) -/
  held : Bool := false
  /-- halted by a debug access -/
  halted : Bool := false
  /-- resets of the hart and of its complex since the module reset, and the entry it last started at (R356, R333) -/
  restarts : Nat := 0
  entry : Nat := 0
  /-- bell of its last kick, and of its last watchdog expiry -/
  kick : Nat := 0
  expired : Option Nat := none
  /-- machine-mode external interrupt with cause PRINCIPAL (R290) -/
  irqPrincipal : Bool := false
  /-- the hart's own `mtimecmp` (R288) -/
  mtimecmp : Word64 := 0
  pc : Word64 := 0
  priv : Priv := .machine
  /-- integer and floating-point registers, and CSRs, that are not zero -/
  xr : SMap Word64 := []
  fr : SMap Word64 := []
  csrs : SMap Word64 := []
  deriving DecidableEq, Repr

/-- An entry of Table 12.2 as the last ACL_LOAD left it: list number and word. -/
abbrev AclEntry := Nat × Word64

/-! ### Torwald ports -/

/-- A sequenced flit as the sender keeps it: its type (1 DATA, 2 CTRL), channel, bytes in use, payload and the
transactions with a byte in it (R248, R251, R254). -/
structure TxFlit where
  seq : Nat
  ftype : Nat
  vc : Nat
  used : Nat
  payload : List Byte
  txns : List Txn := []
  /-- bell at which it was first sent -/
  sentAt : Nat := 0
  deriving DecidableEq, Repr

/-- A transaction in a port's receive buffer, with the access lists that were loaded when it arrived (R296). -/
structure RxTxn where
  txn : Txn
  acl : List AclEntry
  deriving DecidableEq, Repr

/-- The code of a port's transmitter (R244, R245). -/
structure FecTx where
  /-- message bits, and how many, that have no codeword yet -/
  msg : Nat := 0
  bits : Nat := 0
  /-- whole codewords of the interleave group under way -/
  group : List (List Nat) := []
  /-- number of the next codeword in its superframe of 512 -/
  count : Nat := 0
  /-- the symbols that the last whole group put on each active lane, lowest lane first -/
  sent : List (List Nat) := []
  deriving DecidableEq, Repr

/-- One Torwald port (R240 to R257, R263), beside its registers. -/
structure Port where
  /-- 0 none, else the state of Table 10.2 that a retrain is passing through (2, 3 or 4) -/
  retrain : Nat := 0
  /-- the port has been ACTIVE since reset, so that SEQ and credits are kept (R252) -/
  trained : Bool := false
  /-- the far end's CONFIG of a retrain has passed its checks, and the delay is still to be measured (R263) -/
  configOk : Bool := false
  /-- after a retrain, until the far end's RESUME has come (R252) -/
  resumeDue : Bool := false
  /-- ALIGN failures since the port last left ACTIVE or DISABLED -/
  alignFails : Nat := 0
  /-- lanes chosen by the last ALIGN (R253) -/
  lanes : BitVec 8 := 0
  /-- node of the far end at the first CONFIG, for R243's check after a retrain -/
  peer : Option Nat := none
  /-- next SEQ to send, and the last SEQ acknowledged, both modulo 4,096 -/
  seq : Nat := 0
  acked : Nat := 4095
  /-- replay buffer, oldest first, and the flits of a replay still to be resent -/
  replay : List TxFlit := []
  resend : List TxFlit := []
  /-- replays since the acknowledged SEQ last advanced, and the bell of the last one -/
  stalls : Nat := 0
  replayAt : Nat := 0
  /-- bells of the last entry into ALIGN and into RETRAIN (R242, R254) -/
  alignAt : Nat := 0
  retrainAt : Nat := 0
  /-- CTRL payloads to send, in order -/
  ctrl : List (List Byte) := []
  /-- the next flit carries NAK; a NAK has been sent and its SEQ has not arrived -/
  nakDue : Bool := false
  nakOut : Bool := false
  /-- expected SEQ -/
  expect : Nat := 0
  /-- credits held, credits owed, and weight used in this round, by channel -/
  credit : SMap Nat := []
  owed : SMap Nat := []
  round : SMap Nat := []
  /-- next channel the deficit round robin serves -/
  turn : Nat := 0
  /-- transactions waiting by channel, the one being sent and its bytes still to go -/
  txq : SMap (List Txn) := []
  cur : SMap (List Txn) := []
  txb : SMap (List Byte) := []
  /-- bytes received by channel and not yet framed, and transactions framed and not yet executed -/
  rxb : SMap (List Byte) := []
  rxq : List RxTxn := []
  /-- receive buffer: the DATA flits that hold bytes still to be executed, by channel, oldest first, each with the number
  of those bytes (R255) -/
  rxFlits : SMap (List Nat) := []
  /-- probe number, the probe under way with its bell, whether a replay has spoiled it, and the bell of the last PROBE, or
  of the entry into ACTIVE (R263) -/
  probeNo : Nat := 0
  probe : Option (Nat × Nat) := none
  spoiled : Bool := false
  probeAt : Nat := 0
  /-- codewords that the decoder has counted, and the symbols it corrected in the last 2^20 of them: (lane, codeword,
  symbols) (R246) -/
  rxCw : Nat := 0
  corrected : List (Nat × Nat × Nat) := []
  /-- uncorrectable codewords in a row (R245) -/
  badCw : Nat := 0
  /-- the flit last put on the lanes, and the codewords that carry the flits -/
  wire : List Byte := []
  fec : FecTx := {}
  /-- the words sent on each lane since the port last entered ALIGN (R242) -/
  align : List (Nat × List Nat) := []
  deriving DecidableEq, Repr

/-- Who waits for a response (R260). -/
inductive Waiter where
  /-- a NOTIFY write or a remote write of an operation -/
  | op (seq : Nat)
  /-- a mirror transaction -/
  | mirror
  /-- a heartbeat through the planes (R348) -/
  | planeHeartbeat
  /-- an adoption (R353) -/
  | adopt
  /-- an alias write of fencing or hand-back -/
  | alias_
  /-- a chunk or message of a collective: the engines resend it themselves (R260) -/
  | coll
  /-- a work order of firmware -/
  | order
  deriving DecidableEq, Repr

/-- A request without its response (R260, R262): its stream's routing node and port at issue, and the port it went out
on last. -/
structure Req where
  txn : Txn
  stream : Nat
  node : Nat
  port : Nat
  via : Nat
  again : Bool := false
  who : Waiter
  /-- bell at which it was last issued -/
  since : Nat := 0
  deriving DecidableEq, Repr

/-! ### Collectives -/

/-- A chunk or message as its sender keeps it until its segment is sealed (R225, R234): the node it goes to, its tag
and bytes; whether it has gone out, and been acknowledged. -/
structure Sent where
  dst : Nat
  tag0 : Word64
  tag1 : Word64
  data : List Byte
  gone : Bool := false
  acked : Bool := false
  resends : Nat := 0
  /-- bell at which a message last went out -/
  since : Nat := 0
  deriving DecidableEq, Repr

/-- An inbound chunk that has been verified on arrival (R226, R236): sender, stage code, chunk and bytes. -/
structure Got where
  src : Nat
  stage : Nat
  out : Bool
  chunk : Nat
  data : List Byte
  deriving DecidableEq, Repr

/-- A chunk or message of an instance that has not started here yet: it waits in staging. -/
structure Early where
  msg : Bool
  /-- the node ID it was addressed to -/
  dst : Nat
  tag0 : Word64
  tag1 : Word64
  data : List Byte
  deriving DecidableEq, Repr

/-- A chunk whose transactions are being put together in staging, by their ADDR (R258): its length once the last one is
there. -/
structure Staged where
  dst : Nat
  src : Nat
  tag0 : Word64
  tag1 : Word64
  parts : SMap (List Byte) := []
  size : Option Nat := none
  deriving DecidableEq, Repr

/-- A collective instance, from the selection of its operation to its last seal (R214 to R237). -/
structure Inst where
  ctx : Nat
  no : Nat
  /-- SEQ and descriptor of its operation -/
  op : Nat
  words : List Word64 := []
  /-- KIND of Table 9.6 -/
  kind : Nat
  /-- width and anchor of its groups -/
  w : Nat := 128
  anchor : Int := 0
  /-- DET_STEP and the seed of its operation -/
  step : Nat := 0
  key : Word64 := 0
  /-- FIRST_K of its context at a GATHER root -/
  firstK : Nat := 0
  /-- elements, elements in a chunk, chunks, nominal element size (Table 9.5), chunks in a segment (R216) -/
  elems : Nat := 0
  perChunk : Nat := 1
  chunks : Nat := 1
  nominal : Nat := 1
  seg : Nat := 256
  epoch : Nat := 0
  /-- node IDs of the members as the instance was numbered: part i and share i are those of member i -/
  names : List Nat := []
  started : Bool := false
  /-- bell at which it started -/
  since : Nat := 0
  /-- first segment that a re-formed membership runs (R237) -/
  firstSeg : Nat := 0
  /-- by 2^20 k + chunk: what this member holds of a chunk as it enters inbound stage k; for a gather, part k's
  elements of the chunk -/
  held : SMap (Option (List Byte)) := []
  /-- adders done, by 2^20 stage + chunk -/
  added : List Nat := []
  sent : List Sent := []
  got : List Got := []
  /-- result chunks delivered here -/
  result : SMap (Option (List Byte)) := []
  /-- parts taken, in arrival order, when FIRST_K is set -/
  parts : List Nat := []
  /-- segments this member has reported, children's reports by 2^20 child + segment as (chunks, fault, digest), failed
  seals by segment, segments sealed -/
  reported : List Nat := []
  reports : SMap (Option (Nat × Bool × Nat)) := []
  sealFails : SMap Nat := []
  sealedSegs : List Nat := []
  /-- chunk faults, by chunk number plus 2^20 times its stage, direction, adder mark and sender (R227) -/
  faults : SMap Nat := []
  deriving DecidableEq, Repr

/-- What a group context holds beside its registers (R212 to R237). -/
structure Ctx where
  members : List Nat := []
  /-- the members as they stood at the last waymark (R320) -/
  sealedMembers : List Nat := []
  suspects : List Nat := []
  /-- the root's OFFSET has been set by a barrier since VALID was (R232) -/
  aligned : Bool := false
  /-- bell at which a chunk or message of a node last came, and the bell at which a member last became suspect (R235) -/
  heard : SMap Nat := []
  suspectAt : Nat := 0
  deriving DecidableEq, Repr

/-! ### Replay, twins -/

/-- The input log beside its header in memory, and the counts of R317. -/
structure Log where
  writePos : Nat := 0
  sealPos : Nat := 0
  retainPos : Nat := 0
  sealStep : Nat := 0
  /-- a SEAL entry has been written since LOG_EN was set -/
  sealed : Bool := false
  /-- positions of ENQUEUE entries: (room, ENQ_NO, position) -/
  enq : List (Nat × Nat × Nat) := []
  /-- oldest position still whole after a break -/
  whole : Nat := 0
  /-- HEAD_NO and ENQ_NO by room -/
  headNo : SMap Nat := []
  enqNo : SMap Nat := []
  /-- waymark replays of the current step -/
  replays : Nat := 0
  /-- the step is being run again -/
  replaying : Bool := false
  /-- WRITE_POS when the replay began: the end of its logged input (R351) -/
  replayEnd : Nat := 0
  /-- HEAD_NO by room when the replay began: what it runs again (R322) -/
  ranUpTo : SMap Nat := []
  /-- selections since the last waymark: SEQ, room and HEAD_NO, by which a replay knows an operation again -/
  chosen : List (Nat × Nat × Nat) := []
  /-- detour outcomes that a replay still has to apply (R320): cause, then its words -/
  detours : List (Nat × List Nat) := []
  /-- logged chunks of collective results that a replay reads in place of new ones (R321) -/
  collIns : List (Word64 × Word64 × List Byte) := []
  deriving DecidableEq, Repr

/-- Registers and tables of the node context that is not running (R350). -/
structure NodeCtx where
  step : Nat := 0
  seeds : List Word64 := []
  strict : Bool := false
  count : Word64 := 0
  cause : Nat := 0
  tblGen : Word64 := 0
  tblState : Word64 := 0
  tables : Tables := {}
  log : Log := {}
  deriving DecidableEq, Repr

/-- The twin protocol beside its registers (R344 to R353). -/
structure Twin where
  /-- dirty granules, and granules sent and not acknowledged -/
  dirty : List Nat := []
  unacked : List (Txn × Nat) := []
  /-- extents of the tensors written with MIRROR set (R314): byte ranges [lo, hi) -/
  mirrors : List (Nat × Nat) := []
  /-- a waymark's operation that waits for the SEAL's acknowledgement -/
  sealWait : Option Nat := none
  /-- granules of durable state written since the last waymark (R337) -/
  written : List Nat := []
  /-- shadow side: directory of sealed and of fresh granules, and register values, by partner address or offset -/
  sealedDir : SMap Nat := []
  freshDir : SMap Nat := []
  sealedCfg : SMap Word64 := []
  freshCfg : SMap (Option Word64) := []
  /-- the step that the partner sealed here -/
  sealedStep : Nat := 0
  /-- bell of the last MIRROR transaction from the partner -/
  lastHeard : Nat := 0
  /-- a step has been sealed here for the partner -/
  hasSealed : Bool := false
  /-- a heartbeat has gone through the planes; SELF before the suspicion -/
  probing : Bool := false
  before : Nat := 0
  /-- bell at which the suspicion began, and then the bell at which the partner was declared failed (R348, R349) -/
  since : Nat := 0
  /-- the partner has been declared failed -/
  failed : Bool := false
  /-- the survivor answers for this node as well -/
  serves : Option Nat := none
  /-- the partner's context runs now -/
  running : Bool := false
  other : NodeCtx := {}
  /-- deficits of the own context and of the partner's (0 and 1), while both are served (R350) -/
  deficits : SMap Nat := []
  /-- new twin that the survivor mirrors the partner context to, and that context's own dirty granules and MIRROR
  extents, in the partner's addresses -/
  newTwin : Option Nat := none
  newSealed : Bool := false
  pDirty : List Nat := []
  pWritten : List Nat := []
  pMirrors : List (Nat × Nat) := []
  /-- what the twin holds of this module's granules: as sealed there, and as sent since (R346, R347) -/
  sealedImg : SMap (List Byte) := []
  freshImg : SMap (List Byte) := []
  /-- directions that have given up for want of reserve: mirroring to the partner, and storing for it -/
  stopped : Bool := false
  shadowStopped : Bool := false
  /-- this module took its node ID over by adoption, and the bell at which it last sent ADOPT itself (R353) -/
  adopted : Bool := false
  adoptAt : Nat := 0
  /-- bell of the last heartbeat sent (R348) -/
  beatAt : Nat := 0
  deriving DecidableEq, Repr

/-! ### HBM, power, boot, management -/

/-- The HBM's errors, repairs and retirements (R270 to R279). -/
structure Hbm where
  /-- lines that hold an uncorrectable error, by address over 64 -/
  ueLines : List Nat := []
  /-- corrected errors of up to 16 rows of a pseudo-channel in this scrub pass, oldest counter first:
  (pseudo-channel, row, count) -/
  rowCe : List (Nat × Nat × Nat) := []
  /-- uncorrectable errors by pseudo-channel since reset -/
  pcUe : SMap Nat := []
  /-- the requests that have timed out once: pseudo-channel and address (R279) -/
  pcLate : List (Nat × Nat) := []
  /-- rows waiting for a repair, rows repaired, rows whose repair the stack refused: (pseudo-channel, row) -/
  wanted : List (Nat × Nat) := []
  repaired : List (Nat × Nat) := []
  refused : List (Nat × Nat) := []
  deriving DecidableEq, Repr

/-- What the power stage is doing (R384, R385). -/
inductive Power where
  | off
  /-- PWR_EN is asserted and the input is out of range, with no power-down since -/
  | waiting
  | sequencing
  | on
  /-- a power-down and the 100 ms after it -/
  | down
  deriving DecidableEq, Repr

/-- The power stage and the pins (R381 to R398). -/
structure PowerStage where
  phase : Power := .on
  pwrEn : Bool := true
  pwrGood : Bool := true
  /-- PWR_EN has been asserted again during the power-down or its wait -/
  again : Bool := false
  mv : Nat := 56000
  resetN : Bool := true
  thermTripN : Bool := true
  loadShedN : Bool := true
  /-- a shed under R383 -/
  uvShed : Bool := false
  straps : BitVec 6 := 0
  /-- converter phases in service -/
  phases : Nat := 8
  /-- levels waiting for their bell: (bell, is the shed level, level) -/
  due : List (Nat × Bool × Nat) := []
  /-- the bell at which the next step of a step-down falls (R389) -/
  rampNext : Nat := 0
  deriving DecidableEq, Repr

/-- The fuses of Table 15.1. -/
structure Fuses where
  isazoKey : List Byte := []
  secret : List Byte := []
  serial : Word64 := 0
  opKeys : SMap (List Byte) := []
  revoked : Nat := 0
  rollbackA : Nat := 0
  rollbackB : Nat := 0
  cfgEpoch : Nat := 0
  life : Nat := 0
  /-- repairs (site, SPARE_ROW_FOR, SPARE_COL_FOR), retired sites, quarters fused out, rows repaired at test -/
  repairs : List (Nat × Nat × Nat) := []
  retired : List Nat := []
  rows : List (Nat × Nat) := []
  iana : Nat := 0
  pid : Nat := 0
  deriving DecidableEq, Repr

/-- How far a boot has come (R356 to R369). -/
structure Boot where
  /-- memories not yet wiped (R286) -/
  wiping : List WipeMem := [.hbm, .panel, .commons, .table]
  /-- the ROM has read the fuses and the boot headers -/
  started : Bool := false
  /-- slots to try, in order, and the configuration slots to try -/
  slots : List Nat := []
  cfgSlots : List Nat := []
  cfgNext : Bool := false
  verified : Bool := false
  trained : Bool := false
  proved : List Nat := []
  /-- the firmware image as staged in the commons of Q0 (R357), and the configuration record in force -/
  staged : List Byte := []
  record : List Byte := []
  /-- quarters the record excludes, quarters that failed -/
  excluded : Nat := 0
  failed : Nat := 0
  /-- entry points of the image that boots (Table 15.5) -/
  entry : Nat := 0
  restart : Nat := 0
  deriving DecidableEq, Repr

/-- The I3C target and its messages (R376, R377). -/
structure Mgmt where
  eid : Byte := 0
  /-- messages waiting for the controller, oldest first -/
  out : List (List Byte) := []
  /-- sequence number and nonce of the attestation under way -/
  nonce : Option (Nat × List Byte) := none
  deriving DecidableEq, Repr

/-- The TAP (R379). -/
structure Jtag where
  ir : Byte := 0x01
  /-- what the selected data register captured last -/
  dr : Word64 := 0
  deriving DecidableEq, Repr

/-! ### Outcomes and the state -/

/-- Reasons a step can stop with. The spec gives every command an effect, so no command of this model faults. -/
inductive Fault where
  /-- Raised by nothing: no access of the model can leave the memories the spec lays out, since a command whose
  address is not populated is answered as the spec says. Safe. -/
  | noSuchAddress (addr : Nat)
  deriving DecidableEq, Repr

/-- Reasons a command can be refused for. -/
inductive Refusal where
  /-- Raised by the dispatch for a command that has no meaning yet. Safe. -/
  | notModelled (mnemonic : String)
  deriving DecidableEq, Repr

/-- The module. -/
structure State where
  /-- commands waiting, first in, first out -/
  pending : List Instr := []
  /-- registers, by offset from 0xFF_0000_0000, that differ from their reset value -/
  regs : SMap Word64 := []
  /-- the fields that software has written in this array cycle, by register offset and lowest bit (R7) -/
  swFields : List (Nat × Nat) := []
  /-- HBM and commons, by local address: bytes that are not zero -/
  mem : List Host.Cell := []
  /-- panel stores, by 2^19 site + address: bytes that are not zero -/
  panel : List Host.Cell := []
  flash : List Host.Cell := []
  /-- control SRAM, by 2^22 quarter + offset: bytes that are not zero (R287) -/
  ctrl : List Host.Cell := []
  /-- the bell's replicas of quarters 0 to 3 (R16) -/
  bell : SMap Nat := []
  /-- bell values on their way between quarters, by 4 source + destination (R17) -/
  bellMail : SMap Nat := []
  /-- the last check value that arrived, plus 1, by 4 source + destination (R17) -/
  bellSeen : SMap Nat := []
  /-- the last bell value each requester read (R18), by requester -/
  bellRead : SMap Nat := []
  halted : Bool := false
  acl : List AclEntry := []
  ops : List Op := []
  ost : Ost := {}
  tiles : SMap Tile := []
  tables : Tables := {}
  holds : List Hold := []
  domains : SMap HoldDom := []
  harts : SMap Hart := []
  /-- bells of the last module kick and of module-watchdog expiries within the hour -/
  moduleKick : Nat := 0
  moduleExpired : List Nat := []
  /-- the control complex is resetting itself (R334) -/
  complexReset : Bool := false
  ports : SMap Port := []
  reqs : List Req := []
  /-- transactions of a moved stream that wait for its earlier ones (R262): transaction, stream, waiter -/
  waitTxns : List (Txn × Nat × Option Waiter) := []
  nextTag : Nat := 0
  /-- TAGs of ONCE transactions with the bell of their response: none is used again within 40 ms (R260) -/
  onceTags : List (Nat × Nat) := []
  /-- responses of ONCE transactions (R260) -/
  once : List (Nat × Nat × Txn) := []
  insts : List Inst := []
  ctxs : SMap Ctx := []
  early : List Early := []
  /-- chunks that arrive, put together (R225, R258) -/
  staging : List Staged := []
  /-- bytes of commons staging space (R225; log entry 102, DESIGN CHOICE) -/
  stagingCap : Nat := 100663296
  /-- COLL_MSGs without an acknowledgement, and those seen: tag words without RESEND, and segment -/
  msgs : List Sent := []
  seen : List (Word64 × Word64 × Nat) := []
  log : Log := {}
  twin : Twin := {}
  hbm : Hbm := {}
  power : PowerStage := {}
  fuses : Fuses := {}
  boot : Boot := {}
  mgmt : Mgmt := {}
  jtag : Jtag := {}
  /-- counts the free values used (log entry 3, DESIGN CHOICE); the model's own field -/
  freeCtr : Nat := 0
  deriving DecidableEq, Repr

/-- The module right after a module reset (R397): registers at the Reset column (R407) but for SEC_BOOT_STAT.STAGE,
which is ROM from PWR_GOOD on (R369), and CLK_STAT, which shows the clocks that PWR_GOOD stands for (R396); memories
being wiped (R286); nothing blown in the fuses and flash erased (log entry 4, DESIGN CHOICE). -/
def State.reset : State :=
  { regs := [(Reg.off .secBootStat 0, BitVec.ofNat 64 (2 ^ 60)),
             (Reg.off .clkStat 0, 0xEFFFF00000000000)] }

end Sys2Proof.Machine
end

