-- ==== Sys2Proof/Machine/Ops.lean ====
section
/-! DEFINITION. Ops: the named operations on the state that every family uses: sparse maps, registers and fields, the
bell, HBM and commons, error log, events, the fatal halt, access rights. -/

namespace Sys2Proof.Machine

/-- What a command answers: this model's commands all end in a next state. -/
abbrev Outcome := Host.Outcome State Fault Refusal

/-! ### Sparse maps -/

/-- The value at a key; `d` where the map lists none. -/
def mget {α : Type} (d : α) (m : SMap α) (k : Nat) : α :=
  match m with
  | [] => d
  | (j, v) :: r => if j = k then v else mget d r k

/-- A map without a key. -/
def merase {α : Type} (m : SMap α) (k : Nat) : SMap α := m.filter fun e => e.1 ≠ k

/-- A map with a key put before the first greater key. -/
def minsert {α : Type} (m : SMap α) (k : Nat) (v : α) : SMap α :=
  match m with
  | [] => [(k, v)]
  | (j, w) :: r => if k < j then (k, v) :: (j, w) :: r else (j, w) :: minsert r k v

/-- A map with a key set: the default value is not listed. -/
def mput {α : Type} [DecidableEq α] (d : α) (m : SMap α) (k : Nat) (v : α) : SMap α :=
  if v = d then merase m k else minsert (merase m k) k v

/-- The canonical form of a sparse map or memory: keys strictly rising, no default listed. -/
abbrev Canonical {α : Type} [DecidableEq α] (d : α) (m : SMap α) : Prop :=
  m.Pairwise (fun a b => a.1 < b.1) ∧ ∀ e ∈ m, e.2 ≠ d

/-- The canonical form of a memory whose unlisted bytes read as zero (R286). -/
abbrev Memory.wf (m : List Host.Cell) : Prop := Canonical 0 m

/-! ### Registers -/

/-- The word of a register instance. -/
def State.rd (s : State) (r : Reg) (i : Nat) : Word64 := mget (r.resetVal i) s.regs (r.off i)

/-- The state with a register instance written. -/
def State.wr (s : State) (r : Reg) (i : Nat) (v : Word64) : State :=
  { s with regs := mput (r.resetVal i) s.regs (r.off i) v }

/-- The value of a field. -/
def State.fget (s : State) (f : Fld) (i : Nat) : Nat := bitsOf (s.rd f.reg i).toNat f.hi f.lo

/-- The state with one field of a register written; the other bits stand. -/
def State.fset (s : State) (f : Fld) (i : Nat) (v : Nat) : State :=
  s.wr f.reg i (BitVec.ofNat 64 (setBits (s.rd f.reg i).toNat f.hi f.lo v))

/-- A word with the RSVD bits of a register zero (R6). -/
def Reg.keep (r : Reg) (v : Word64) : Word64 :=
  BitVec.ofNat 64 (r.fields.foldl (fun w f => setBits w f.hi f.lo (bitsOf v.toNat f.hi f.lo)) 0)

/-- A register instance written whole. -/
def State.wrWhole (s : State) (r : Reg) (i : Nat) (v : Word64) : State := s.wr r i (r.keep v)

/-- A field written by software in this array cycle (R7). -/
def State.swset (s : State) (f : Fld) (i v : Nat) : State :=
  { s.fset f i v with swFields := (f.reg.off i, f.lo) :: s.swFields }

/-- An update by the hardware of a field that software writes: discarded in the array cycle of such a write (R7). -/
def State.hwset (s : State) (f : Fld) (i v : Nat) : State :=
  if s.swFields.contains (f.reg.off i, f.lo) then s else s.fset f i v

/-- A one-bit field as a Bool. -/
def State.fon (s : State) (f : Fld) (i : Nat) : Bool := s.fget f i = 1

/-- The instances of a register that differ from its reset value, in rising order. -/
def State.listed (s : State) (r : Reg) : List Nat :=
  let (o, n, st) := r.place
  s.regs.filterMap fun e =>
    if o ≤ e.1 ∧ (e.1 - o) % st = 0 ∧ (e.1 - o) / st < n then some ((e.1 - o) / st) else none

/-- The rooms with ENABLE set; it resets to 0. -/
def State.enabledRooms (s : State) : List Nat := (s.listed .roomAttr).filter fun r => s.fon Fl.roomAttrEnable r

/-- The group contexts with VALID set; it resets to 0. -/
def State.validCtxs (s : State) : List Nat := (s.listed .grpCfg).filter fun c => s.fon Fl.grpCfgValid c

/-- The greatest value a field holds. -/
def Fld.max (f : Fld) : Nat := 2 ^ (f.hi + 1 - f.lo) - 1

/-- A counter field advanced by one; it wraps. -/
def State.finc (s : State) (f : Fld) (i : Nat) : State := s.fset f i ((s.fget f i + 1) % (f.max + 1))

/-- A counter field advanced by one; it saturates. -/
def State.fincSat (s : State) (f : Fld) (i : Nat) : State := s.fset f i (min (s.fget f i + 1) f.max)

/-! ### The bell and the quarters -/

/-- Quarter `q`'s replica of the bell (R16). -/
def State.replica (s : State) (q : Nat) : Nat := mget 0 s.bell q

/-- The bell (R16: every replica holds the same value in every array cycle). -/
def State.now (s : State) : Nat := s.replica 0

/-- Array cycles in a microsecond (Table 1.2: 800 MHz). -/
def cyclesPerUs : Nat := 800

/-- At least a number of array cycles have passed since a bell. -/
def State.elapsed (s : State) (since cycles : Nat) : Bool := decide (since + cycles ≤ s.now)

/-- A limit of Table 14.8 given in µs, in array cycles. -/
def State.limitUs (s : State) (x : Nat) : Nat := cyclesPerUs * s.fget Fl.toLimitLimit x

/-- The module is powered, out of reset and not halted. -/
def State.live (s : State) : Bool := s.power.phase = .on && s.power.resetN && !s.halted

/-- Quarters whose tiles are in service, by ARRAY_Q as in force: the register's value, or the value it had before a
write that waits for a mode boundary (R21, R23). -/
def State.arrayQ (s : State) : Nat := s.ost.bArrayQ.getD (s.fget Fl.glbQmaskArrayQ 0)

/-- LOCK in force (R23). -/
def State.locked (s : State) : Bool := s.ost.bLock.getD (s.fget Fl.arrModeLock 0) = 1

/-- TEST in force (R23). -/
def State.testQ (s : State) : Nat := s.ost.bTest.getD (s.fget Fl.arrModeTest 0)

/-- A write to LOCK, TEST or ARRAY_Q, or to TILE_REPAIR, waits for a mode boundary (R23, R102). -/
def State.boundary (s : State) : Bool :=
  s.ost.bLock.isSome || s.ost.bTest.isSome || s.ost.bArrayQ.isSome || !s.ost.repairNow.isEmpty

/-- The lockstep domain of quarter `q`: 0 in LOCKED mode, else the quarter (R22). -/
def State.domOf (s : State) (q : Nat) : Nat := if s.locked then 0 else q

/-- A quarter runs operations: it is in service, or under test in INDEPENDENT mode (R22, R24, R110). -/
def State.quarterRuns (s : State) (q : Nat) : Bool :=
  bitsOf s.arrayQ q q == 1 || (!s.locked && bitsOf s.testQ q q == 1)

/-- The quarters of a lockstep domain. -/
def State.domQuarters (s : State) (dom : Nat) : List Nat :=
  (List.range 4).filter fun q => s.quarterRuns q && s.domOf q = dom

/-- Selection is stopped: RUN is 0, or a retirement is in progress (Table 12.4). -/
def State.stopped (s : State) : Bool := !s.fon Fl.ostCtlRun 0 || s.ost.retiring

/-- The quarter of a tile site (R339). -/
def siteQuarter (site : Nat) : Nat := site / 1056

/-- The quarter of a port (R9). -/
def portQuarter (p : Nat) : Nat := p / 3

/-- The principal hart (R289). -/
def State.principalHart (s : State) : Nat := 4 * s.fget Fl.glbQmaskPrincipal 0

/-! ### HBM and commons -/

/-- The first unpopulated HBM address (R276). -/
def State.hbmTop (s : State) : Nat := 0xC000000000 - s.fget Fl.memRetireN 0 * 0x60000000

/-- The extent `[a, a + n)` lies in the populated part of one commons window (R264). -/
def inCommons (a n : Nat) : Bool :=
  0xFE00000000 ≤ a && a + n ≤ 0xFE20000000 && (a - 0xFE00000000) % 0x8000000 + n ≤ 0x6000000

/-- The extent lies below HBM_TOP, or in the populated part of one commons window (R264, R266). -/
def State.populated (s : State) (a n : Nat) : Bool := a + n ≤ s.hbmTop || inCommons a n

/-- First address of the control registers (Table 0.2). -/
def regBase : Nat := 0xFF00000000

/-- The address lies in the panel-store diagnostic window (Table 11.1). -/
def inPanel (a : Nat) : Bool := 0xFC00000000 ≤ a && a < 0xFC80000000

/-- Bank and address of word (i, j) of block b of a panel store (R91). -/
def panelBank (b i j : Nat) : Nat := 32 * (b % 2) + (i + j) % 32
def panelAddr (b i : Nat) : Nat := 32 * (b / 2) + i

/-- The byte of a panel store at which that word starts: 64 banks of 8 KiB, one after another. -/
def panelPlace (b i j : Nat) : Nat := 8192 * panelBank b i j + 8 * panelAddr b i

/-- The panel-store byte of a window address, by 2^19 site + location (R285): with MEM_PSWIN.SPARE the row field 31
selects the spare site. -/
def State.panelKey (s : State) (a : Nat) : Nat :=
  let o := a - 0xFC00000000
  let row := o / 2 ^ 19 % 32
  (1056 * (o / 2 ^ 29) + 33 * (o / 2 ^ 24 % 32) + (if row = 31 ∧ s.fon Fl.memPswinSpare 0 then 32 else row)) * 2 ^ 19 +
    panelPlace (o / 8192 % 64) (o / 256 % 32) (o / 8 % 32) + o % 8

/-- A byte of HBM, of the commons or of the panel-store window. -/
def State.byteAt (s : State) (a : Nat) : Byte :=
  if inPanel a then mget 0 s.panel (s.panelKey a) else mget 0 s.mem a

/-- A byte put into HBM, the commons or the panel-store window. -/
def State.pokeByte (s : State) (a : Nat) (b : Byte) : State :=
  if inPanel a then { s with panel := mput 0 s.panel (s.panelKey a) b } else { s with mem := mput 0 s.mem a b }

/-- `n` bytes from `a` on. -/
def State.peek (s : State) (a n : Nat) : List Byte := (List.range n).map fun i => s.byteAt (a + i)

/-- Bytes put from `a` on. -/
def State.poke (s : State) (a : Nat) : List Byte → State
  | [] => s
  | b :: r => (s.pokeByte a b).poke (a + 1) r

/-- The memory that an address lies in is being wiped: no requester can reach it (R286). -/
def State.shut (s : State) (a : Nat) : Bool :=
  s.boot.wiping.contains (if inPanel a then .panel else if a < 0xC000000000 then .hbm else .commons)

/-- A little-endian number of `n` bytes (R3). -/
def State.peekNat (s : State) (a n : Nat) : Nat := leNat (s.peek a n)

/-- Two byte ranges meet. -/
def meets (a b : Nat × Nat) : Bool := a.1 < b.2 && b.1 < a.2 && a.1 < a.2 && b.1 < b.2

/-- The ring of a room: its start and its slots (R291). -/
def State.ringBase (s : State) (n : Nat) : Nat := s.fget Fl.roomBaseBase n * 256

/-- The slots of a room (R291). -/
def State.ringSlots (s : State) (n : Nat) : Nat := 2 ^ s.fget Fl.roomSizeLog2 n

/-- The byte range of a room's ring. -/
def State.ringRange (s : State) (n : Nat) : Nat × Nat :=
  (s.ringBase n, s.ringBase n + 256 * s.ringSlots n)

/-- The log area (R316). -/
def State.logRange (s : State) : Nat × Nat :=
  let b := s.fget Fl.waymarkCtlLogBase 0 * 2 ^ 20
  (b, b + s.fget Fl.waymarkCtlLogMib 0 * 2 ^ 20)

/-- The byte range of a group context's member list (R212). -/
def State.listRange (s : State) (c : Nat) : Nat × Nat :=
  let b := s.fget Fl.grpCfgListAddr c
  (b, b + 4 * s.fget Fl.grpCfgCount c)

/-- The extent holds durable state: a tensor written with MIRROR set, or the ring of an enabled room (R314). -/
def State.durable (s : State) (a n : Nat) : Bool :=
  let x := (a, a + n)
  s.twin.mirrors.any (meets x) ||
  s.enabledRooms.any (fun r => meets x (s.ringRange r))

/-- The extent holds the input log or a valid context's member list, which the twin mirrors as well (R346). -/
def State.mirrored (s : State) (a n : Nat) : Bool :=
  let x := (a, a + n)
  (s.fon Fl.waymarkCtlLogEn 0 && meets x s.logRange) ||
  s.validCtxs.any (fun c => meets x (s.listRange c))

/-- The numbers from `a / k` to `(a + n - 1) / k`: granules or lines an extent touches. -/
def unitsOf (k a n : Nat) : List Nat :=
  if n = 0 then [] else (List.range ((a + n - 1) / k + 1 - a / k)).map (· + a / k)

/-- A list with the elements of another that it does not hold yet. -/
def union {α : Type} [DecidableEq α] (l new : List α) : List α := l ++ (new.filter (· ∉ l))

/-- The granules of durable state written since the last waymark (R337), and the dirty bits of R346. -/
def State.markDirty (s : State) (a n : Nat) : State :=
  let d := s.durable a n
  let g := unitsOf 65536 a n
  { s with twin := { s.twin with
      written := if d then union s.twin.written g else s.twin.written,
      dirty := if s.fon Fl.twnCtlEnable 0 && (d || s.mirrored a n) then union s.twin.dirty g else s.twin.dirty } }

/-- HBM lines, by address over 64, that the extent touches and that hold an uncorrectable error. -/
def State.ueIn (s : State) (a n : Nat) : List Nat :=
  if s.hbm.ueLines.isEmpty then [] else (unitsOf 64 a n).filter (· ∈ s.hbm.ueLines)

/-- UE lines that the extent covers in part: such a write is not made (R272). -/
def State.uePartial (s : State) (a n : Nat) : List Nat :=
  (s.ueIn a n).filter fun l => l * 64 < a || a + n < l * 64 + 64

/-- A write that covers a whole line clears its UE (R272). -/
def State.clearUe (s : State) (a n : Nat) : State :=
  if s.hbm.ueLines.isEmpty then s else
    { s with hbm := { s.hbm with
        ueLines := s.hbm.ueLines.filter fun l => ¬ (a ≤ l * 64 ∧ l * 64 + 64 ≤ a + n) } }

/-- A write to HBM or the commons as the memory makes it. -/
def State.memWrite (s : State) (a : Nat) (bs : List Byte) : State :=
  ((s.poke a bs).clearUe a bs.length).markDirty a bs.length

/-- A 64-bit word written little-endian. -/
def State.memWord (s : State) (a : Nat) (w : Word64) : State := s.memWrite a (leBytes 8 w.toNat)

/-! ### Free values -/

/-- The next free value (log entry 3, DESIGN CHOICE). -/
def State.free (s : State) : Word64 := Config.freeValue s.freeCtr

/-- The state after a free value has been used. -/
def State.freeNext (s : State) : State := { s with freeCtr := s.freeCtr + 1 }

/-! ### Events, the error log and the fatal halt -/

/-- Error classes (Table 14.2). -/
inductive Cls where
  | corrected | recovered | degraded | program | peer | lost | fatal
  deriving DecidableEq, Repr

/-- The code of a class. -/
def Cls.code : Cls → Nat
  | .corrected => 0 | .recovered => 1 | .degraded => 2 | .program => 3 | .peer => 4 | .lost => 5 | .fatal => 6

/-- SEQ of an entry that no operation is affected by (Table 14.3). -/
def noSeq : Nat := 2 ^ 48 - 1

/-- An error event before it is logged (Tables 14.3 and 14.19). -/
structure Event where
  code : Nat
  cls : Cls
  quarter : Nat := 0
  seq : Nat := noSeq
  loc : Nat := 0
  d4 : Nat := 0
  d5 : Nat := 0
  d6 : Nat := 0
  deriving DecidableEq, Repr

/-- The eight words of a log entry (Table 14.3). -/
def Event.words (e : Event) (bell no : Nat) : List Nat :=
  [e.code * 2 ^ 56 + e.cls.code * 2 ^ 53 + e.quarter * 2 ^ 51 + e.seq % 2 ^ 48, bell, no * 2 ^ 32, e.loc, e.d4, e.d5,
    e.d6, 0]

/-- Words as bytes, each little-endian (R3). -/
def wordsBytes (ws : List Nat) : List Byte := ws.flatMap (leBytes 8)

/-- An *_EVT register advanced: COUNT moves and PEND sets in the same array cycle (R326). -/
def State.bump (s : State) (count pend : Fld) (i : Nat) : State := (s.finc count i).fset pend i 1

/-- An operation's array part abandoned: every tile empty. -/
def State.clearArray (s : State) : State := { s with tiles := [], holds := [], domains := [] }

/-- Every port enters DISABLED (Table 10.2, R331). -/
def State.portsOff (s : State) : State :=
  (List.range 12).foldl (fun s p => ((s.fset Fl.portStatState p 0).fset Fl.portStatWidth p 3).fset Fl.portLanesActive p 0)
    { s with ports := [] }

/-- The fatal halt of R331: selection and the array stop, every operation is abandoned without a record, every port
enters DISABLED; ALERT_N is asserted by R378. -/
def State.halt (s : State) : State :=
  { (s.portsOff).clearArray with halted := true, ops := [], insts := [], early := [], msgs := [], reqs := [], waitTxns := [] }

/-- A command that has raised a FATAL event leaves nothing under way behind it (R331). -/
def State.settle (s : State) : State := if s.halted then s.halt else s

/-- The outcome of a command: it touches everything but the queue, and a halt is in force at its end. -/
def done (s t : State) : Outcome := .next { t.settle with pending := s.pending }

/-- A command that needs a running module: it changes nothing in another (log entry 1, DESIGN CHOICE). -/
def act (s : State) (f : State → State) : Outcome := if s.live then done s (f s) else .next s

/-- The PlatformEventMessage of an event (R376): the message type of PLDM, the command code of DSP0248 and the words of
the entry (log entry 22, PRESUMED). -/
def Event.message (e : Event) (bell no : Nat) : List Byte := [0x01, 0x0A] ++ wordsBytes (e.words bell no)

/-- Events of class DEGRADED, LOST or FATAL alert the management controller (R376, R378). -/
def Cls.alerts (c : Cls) : Bool := c = .degraded || c = .lost || c = .fatal

/-- The entry of an event, where the log has a ring (R329). -/
def State.logEntry (s : State) (e : Event) : State :=
  let a := s.fget Fl.errLogBaseAddr 0
  let no := s.fget Fl.errEvtCount 0
  if a = 0 then s
  else s.memWrite (a + 64 * (no % 2 ^ (10 + s.fget Fl.errLogBaseSize 0))) (wordsBytes (e.words s.now no))

/-- ERR_EVT advances, after the entry is complete (R329, Table 14.4). -/
def State.errEvt (s : State) (e : Event) : State :=
  ((s.bump Fl.errEvtCount Fl.errEvtPend 0).fset Fl.errEvtCode 0 e.code).fset Fl.errEvtClass 0 e.cls.code

/-- The alert of an event (R376, R378). -/
def State.alertFor (s : State) (e : Event) : State :=
  if e.cls.alerts then
    let t := s.fset Fl.mgtCtlAlert 0 1
    { t with mgmt := { t.mgmt with out := t.mgmt.out ++ [e.message s.now (s.fget Fl.errEvtCount 0)] } }
  else s

/-- An error event: its entry, its count, its alert, and the halt of a FATAL one (R327 to R331). -/
def State.logEvent (s : State) (e : Event) : State :=
  let t := ((s.alertFor e).logEntry e).errEvt e
  if e.cls = .fatal then t.halt else t

/-! ### Requesters and access lists -/

/-- Rights of Table 12.2, by bit. -/
inductive Right where
  | order | read | write | regs
  deriving DecidableEq, Repr

/-- The bit of a right. -/
def Right.bit : Right → Nat
  | .order => 39 | .read => 38 | .write => 37 | .regs => 36

/-- A source holds a right under list `l` of some loaded lists (R295). -/
def rightIn (acl : List AclEntry) (l : Nat) (r : Right) (node : Nat) : Bool :=
  acl.any fun e =>
    e.1 = l && bitsOf e.2.toNat 63 63 = 1 && bitsOf e.2.toNat r.bit r.bit = 1 &&
      bitsOf e.2.toNat 17 0 ≤ node && node ≤ bitsOf e.2.toNat 35 18

/-- A source holds a right under list `l`, by the lists last loaded (R296). -/
def State.hasRight (s : State) (l : Nat) (r : Right) (node : Nat) : Bool := rightIn s.acl l r node

/-- A hart's state. -/
def State.hart (s : State) (h : Nat) : Hart := mget {} s.harts h

/-- A hart's state set. -/
def State.setHart (s : State) (h : Nat) (x : Hart) : State := { s with harts := mput {} s.harts h x }

/-! ### Empty rooms and classes (R300) -/

/-- A room has a descriptor. -/
def State.roomFull (s : State) (n : Nat) : Bool := s.fget Fl.roomHeadHead n != s.fget Fl.roomTailTail n

/-- Class of a room. -/
def State.roomClass (s : State) (n : Nat) : Nat := s.fget Fl.roomAttrClass n

/-- The rooms that have a descriptor, enabled or not. -/
def State.fullRooms (s : State) : List Nat := (union (s.listed .roomHead) (s.listed .roomTail)).filter s.roomFull

/-- The stream of a room. -/
def State.roomDom (s : State) (n : Nat) : Nat := if s.locked then 0 else s.fget Fl.roomAttrQuarter n

/-- An empty class of a stream has a deficit of 0: one without a descriptor in any of its rooms. -/
def State.dropClass (s : State) (dom c : Nat) : State :=
  if s.fullRooms.any fun m => s.roomDom m == dom && s.roomClass m == c then s
  else { s with ost := { s.ost with clsDeficit := merase s.ost.clsDeficit (8 * dom + c) } }

/-- A room that has become empty has a deficit of 0, and so has its class where it is empty too. -/
def State.dropDeficits (s : State) (dom n : Nat) : State :=
  if s.roomFull n then s else (s.fset Fl.roomAttrDeficit n 0).dropClass dom (s.roomClass n)

/-! ### Operations and tiles -/

/-- The operation with a SEQ. -/
def State.op? (s : State) (seq : Nat) : Option Op := s.ops.find? fun o => o.seq = seq

/-- An operation changed. -/
def State.setOp (s : State) (seq : Nat) (f : Op → Op) : State :=
  { s with ops := s.ops.map fun o => if o.seq = seq then f o else o }

/-- A tile site's state. -/
def State.tile (s : State) (i : Nat) : Tile := mget {} s.tiles i

/-- A tile site's state set. -/
def State.setTile (s : State) (i : Nat) (t : Tile) : State := { s with tiles := mput {} s.tiles i t }

/-- A port's state. -/
def State.port (s : State) (p : Nat) : Port := mget {} s.ports p

/-- A port's state set. -/
def State.setPort (s : State) (p : Nat) (x : Port) : State := { s with ports := mput {} s.ports p x }

end Sys2Proof.Machine
end

