-- ==== Sys2Proof/Machine/Channels.lean ====
section
/-! DEFINITION. Channels: which pseudo-channel and granule serve an HBM address (R267), the placement of moved granules
(R277), and the list of retired pseudo-channels (R276). -/

namespace Sys2Proof.Machine

/-- A granule's place: module pseudo-channel and local granule index. -/
abbrev Granule := Nat × Nat

/-- Pseudo-channel and local index of granule `g` (R267), before any retirement. -/
def homeGranule (g : Nat) : Granule :=
  let f := Nat.xor (Nat.xor (bitsOf g 17 9) (bitsOf g 26 18)) (bitsOf g 31 27)
  (Nat.xor (bitsOf g 8 0) f, g / 512)

/-- Stack of a pseudo-channel, and its number within the stack (R267). -/
def pcStack (pc : Nat) : Nat := pc % 8
def pcSpc (pc : Nat) : Nat := 2 * (pc / 8 % 32) + pc / 256

/-- The pseudo-channel with a number within a stack. -/
def pcOf (stack spc : Nat) : Nat := stack + 8 * (spc / 2) + 256 * (spc % 2)

/-- Quarter of a stack (R267). -/
def stackQuarter (stack : Nat) : Nat := stack / 2

/-! ### Moved granules (R277)

The granules to be moved, in increasing order of address, take the storage granules that no longer hold a populated
address, in increasing order of local index and then of pseudo-channel, over the pseudo-channels in service. A storage
granule (pc, l) is numbered 512 l + pc; what a retirement filled is a list of ranges of these numbers. -/

/-- A range of storage granules from `a` up to `b`; `base` of the granules that the retirement moved lie before it. -/
structure Piece where
  a : Nat
  b : Nat
  base : Nat

/-- A retirement: the pseudo-channels retired with it, last first, and the ranges that it filled. -/
structure Stage where
  out : List Nat
  filled : List Piece

/-- The retired pseudo-channel. -/
def Stage.pc (s : Stage) : Nat := s.out.headD 0

/-- Rows of local index below HBM_TOP with `n` pseudo-channels retired (R276). -/
def rowsLeft (n : Nat) : Nat := 0x600000 - n * 0x3000

/-- The pseudo-channels in service. -/
def inService (out : List Nat) : List Nat := (List.range 512).filter fun p => !out.contains p

/-- Storage granules in service below number `x`. -/
def storeCount (out : List Nat) (x : Nat) : Nat :=
  x / 512 * (512 - out.length) + ((inService out).filter fun p => p < x % 512).length

/-- The storage granule in service that has `c` before it. -/
def storeNth (out : List Nat) (c : Nat) : Nat :=
  let n := 512 - out.length
  512 * (c / n) + (inService out).getD (c % n) 0

/-- Storage granules in service of a range. -/
def Piece.size (out : List Nat) (p : Piece) : Nat := storeCount out p.b - storeCount out p.a

/-- The storage granule in service that has `e` before it in a range; the range's end where there is none. -/
def Piece.nth (out : List Nat) (p : Piece) (e : Nat) : Nat :=
  if e < p.size out then storeNth out (storeCount out p.a + e) else p.b

/-- Storage granules of a pseudo-channel below number `x`. -/
def ownCount (pc x : Nat) : Nat := x / 512 + (decide (pc < x % 512)).toNat

/-- Of the first `m` granules that a retirement moved, those that lie on a pseudo-channel. -/
def Stage.countOn (s : Stage) (m pc : Nat) : Nat :=
  (s.filled.map fun p => ownCount pc (p.nth s.out (m - p.base)) - ownCount pc p.a).sum

/-- The granules below `g` that lie on a pseudo-channel in service, after some retirements. -/
def lieOn : List Stage → Nat → Nat → Nat
  | [], g, pc => g / 512 + (decide (Nat.xor pc (homeGranule (g / 512 * 512)).1 < g % 512)).toNat
  | s :: before, g, pc => lieOn before g pc + s.countOn (lieOn before g s.pc) pc

/-- What the ranges that hold moved granules become when HBM_TOP falls to granule `top`: each range with the retirements up
to the one that filled it, and whether it is free from now on. -/
def splitAt (top : Nat) (x : Piece × List Stage) : List (Piece × List Stage × Bool) :=
  let (p, l) := x
  match l with
  | [] => []
  | s :: before =>
    let cut := p.nth s.out (lieOn before top s.pc - p.base)
    [({ p with b := cut }, l, false), ({ p with a := cut }, l, true)].filter fun y => y.1.a < y.1.b

/-- The ranges in order, each free one filled by the retirement of `out` from rank `k` on. -/
def fillPieces (out : List Nat) : Nat → List (Piece × List Stage × Bool) → List (Piece × List Stage × Bool)
  | _, [] => []
  | k, (p, l, free) :: r =>
    if free then ({ p with base := k }, l, true) :: fillPieces out (k + p.size out) r else (p, l, false) :: fillPieces out k r

/-- The retirements of a list, last first, and the ranges that hold moved granules after them. -/
def layoutOf : List Nat → List Stage × List (Piece × List Stage)
  | [] => ([], [])
  | pc :: before =>
    let (stages, ranges) := layoutOf before
    let out := pc :: before
    let top := 512 * rowsLeft out.length
    let all := fillPieces out 0 (({ a := top, b := 512 * rowsLeft before.length, base := 0 }, [], true) ::
      ranges.flatMap (splitAt top))
    let now := { out := out, filled := (all.filter fun x => x.2.2).map fun x => x.1 } :: stages
    (now, all.map fun x => (x.1, if x.2.2 then now else x.2.1))

/-- Where granule `g` lies after some retirements, last first. -/
def placedAt : List Stage → Nat → Granule
  | [], g => homeGranule g
  | s :: before, g =>
    let old := placedAt before g
    if old.1 ≠ s.pc then old
    else
      let m := lieOn before g s.pc
      match s.filled.find? fun p => p.base ≤ m && m < p.base + p.size s.out with
      | some p => let x := p.nth s.out (m - p.base)
                  (x % 512, x / 512)
      | none => (0, 0)

/-- Where granule `g` lies after the retirements of a list, last first (R277). -/
def granuleAt (out : List Nat) (g : Nat) : Granule := placedAt (layoutOf out).1 g

/-- The granule that lies in a storage granule in service, after the retirements of a list. -/
def granuleIn (out : List Nat) (pc l : Nat) : Option Nat :=
  let home := 512 * l + Nat.xor pc (homeGranule (512 * l)).1
  if l < rowsLeft out.length then some home
  else
    match (layoutOf out).2.find? fun x => x.1.a ≤ 512 * l + pc && 512 * l + pc < x.1.b with
    | some (p, s :: before) =>
      let k := p.base + (storeCount s.out (512 * l + pc) - storeCount s.out p.a)
      some ((List.range 32).foldl (fun g i =>
        if lieOn before (g + 2 ^ (31 - i)) s.pc ≤ k then g + 2 ^ (31 - i) else g) 0)
    | _ => none

/-- Entry `e` of MEM_RETIRE, where it is in use (Table 11.7). -/
def State.retiredPc (s : State) (e : Nat) : Option Nat :=
  let w := (s.rd .memRetire 0).toNat
  if bitsOf w (10 * e + 9) (10 * e + 9) = 1 then some (bitsOf w (10 * e + 8) (10 * e)) else none

/-- The retired pseudo-channels, last first. -/
def State.retiredPcs (s : State) : List Nat := ((List.range 4).filterMap s.retiredPc).reverse

/-- The granule that holds an HBM address now. -/
def State.granuleOf (s : State) (a : Nat) : Granule := granuleAt s.retiredPcs (a / 256)

/-- A pseudo-channel entered in MEM_RETIRE, with its stack's count and state (Tables 11.3 and 11.7). -/
def State.listRetired (s : State) (pc : Nat) : State :=
  let n := s.fget Fl.memRetireN 0
  let w := setBits (setBits (s.rd .memRetire 0).toNat (10 * n + 9) (10 * n + 9) 1) (10 * n + 8) (10 * n) pc
  let t := (s.wr .memRetire 0 (BitVec.ofNat 64 w)).fset Fl.memRetireN 0 (n + 1)
  (t.finc Fl.memCtlRetired (pcStack pc)).fset Fl.memCtlState (pcStack pc) 2

/-- HBM_CHANNEL (Table 14.19). -/
def State.channelEvent (s : State) (cls : Cls) (loc cause d6 : Nat) : State :=
  s.logEvent { code := 0x0B, cls := cls, quarter := if cause = 6 then stackQuarter (loc % 8) else stackQuarter (pcStack loc),
               loc := loc, d4 := cause, d5 := s.hbmTop, d6 := d6 }

end Sys2Proof.Machine
end

