-- ==== Sys2Proof/Machine/Rounding.lean ====
section
/-! DEFINITION. Rounding: the one rounding from an exact value to a target format, with what it counts (R47 to R59). -/

namespace Sys2Proof.Machine

/-- Rounding modes (Table 2.9). -/
inductive RMode where
  | rne | rtz | sr
  deriving DecidableEq, Repr

/-- The mode of a ROUND field; 0b11 is rejected before any rounding (R47). -/
def rmodeOf (n : Nat) : RMode := if n = 0 then .rne else if n = 1 then .rtz else .sr

/-- What a rounding counts (R59): each element at most once, in this order. -/
inductive Cat where
  | plain | sat | flush | narOut
  deriving DecidableEq, Repr

/-- A delivered element: its code before packing, its category, and whether NAR or INF is to be carried by the group
scale (FP6 and FP4, R56). -/
structure Delivered where
  code : Nat
  cat : Cat := .plain
  viaScale : Bool := false
  deriving DecidableEq, Repr

/-- An exact magnitude num / den * 2^e, den > 0. -/
structure Mag where
  num : Nat
  den : Nat
  e : Int
  deriving DecidableEq, Repr

/-- x ÷ 2^q as an integer part and a fraction over a denominator. -/
def Mag.split (x : Mag) (q : Int) : Nat × Nat × Nat :=
  let s := x.e - q
  let n := if 0 ≤ s then x.num * 2 ^ s.toNat else x.num
  let d := if 0 ≤ s then x.den else x.den * 2 ^ (-s).toNat
  (n / d, n % d, d)

/-- Floor of log2 of a positive magnitude. -/
def Mag.log2 (x : Mag) : Int :=
  let l : Int := (Nat.log2 x.num : Int) - Nat.log2 x.den
  let ge : Bool := if 0 ≤ l then x.den * 2 ^ l.toNat ≤ x.num else x.den ≤ x.num * 2 ^ (-l).toNat
  x.e + (if ge then l else l - 1)

/-- How a positive x compares with 2^k. -/
def Mag.cmpPow (x : Mag) (k : Int) : Ordering :=
  let l := x.log2
  if l < k then .lt else if k < l then .gt
  else
    let (b, r, _) := x.split k
    if b = 1 ∧ r = 0 then .eq else .gt

/-- The common step (R50): the mode acts on (body, rem), rem = r / d. -/
def applyMode (mode : RMode) (u : Word32) (body r d : Nat) : Nat :=
  match mode with
  | .rne => if d < 2 * r ∨ (2 * r = d ∧ body % 2 = 1) then body + 1 else body
  | .rtz => body
  | .sr => if 2 ^ 32 ≤ r * 2 ^ 32 / d + u.toNat then body + 1 else body

/-- Largest finite code, NaN code and, where the format has one, infinity code of an IEEE-style or MX target. -/
def Fmt.limits : Fmt → Nat × Nat × Option Nat
  | .binary16 => (0x7BFF, 0x7E00, some 0x7C00)
  | .bfloat16 => (0x7F7F, 0x7FC0, some 0x7F80)
  | .binary32 => (0x7F7FFFFF, 0x7FC00000, some 0x7F800000)
  | .binary64 => (0x7FEFFFFFFFFFFFFF, 0x7FF8000000000000, some 0x7FF0000000000000)
  | .e4m3 => (0x7E, 0x7F, none)
  | .e5m2 => (0x7B, 0x7F, some 0x7C)
  | .e2m3 => (0x1F, 0, none)
  | .e3m2 => (0x1F, 0, none)
  | .e2m1 => (0x7, 0, none)
  | _ => (0, 0, none)

/-- Apply a sign to an IEEE-style or MX code. -/
def signIeee (ew fw : Nat) (neg : Bool) (code : Nat) : Nat := if neg then code + 2 ^ (ew + fw) else code

/-- Delivery of an overflowed rounding (Table 2.10). -/
def overflowIeee (f : Fmt) (ew fw : Nat) (mode : RMode) (sat neg : Bool) : Nat :=
  let (top, nan, infc) := f.limits
  let toMax : Bool := mode == .rtz || (f.fp8 && sat) || (infc.isNone && !f.fp8)
  signIeee ew fw neg (if toMax then top else infc.getD nan)

/-- Rounding to an IEEE-style or MX target (R52, R54). -/
def roundIeee (f : Fmt) (ew fw : Nat) (mode : RMode) (sat : Bool) (u : Word32) (neg : Bool) (x : Mag) : Delivered :=
  let bias : Int := 2 ^ (ew - 1) - 1
  let emin : Int := 1 - bias
  let sc := x.log2
  let top := max sc emin
  -- a magnitude below 2^(emin - fw - 33) rounds to zero in every mode, one above 2^(emax + 1) overflows
  let (b, r, d) := if sc < emin - fw - 33 then (0, 0, 1) else x.split (top - fw)
  let body := applyMode mode u b r d
  let code := (top - emin).toNat * 2 ^ fw + body
  if f.limits.1 < code then { code := overflowIeee f ew fw mode sat neg, cat := .sat }
  else { code := signIeee ew fw neg code, cat := if code = 0 then .flush else .plain }

/-- Range of an integer target. -/
def intRange (signed : Bool) (w : Nat) : Int × Int :=
  if signed then (-(2 ^ (w - 1)), 2 ^ (w - 1) - 1) else (0, 2 ^ w - 1)

/-- Rounding to an integer target (R53). -/
def roundInt (signed : Bool) (w : Nat) (mode : RMode) (u : Word32) (neg : Bool) (x : Mag) : Delivered :=
  -- a magnitude below 2^-33 rounds to zero in every mode
  let (b, r, d) := if x.log2 < -33 then (0, 0, 1) else if (w : Int) < x.log2 then (2 ^ w, 0, 1) else x.split 0
  let body := applyMode mode u b r d
  let y : Int := if neg then -(body : Int) else body
  let (lo, hi) := intRange signed w
  if y < lo then { code := modPow w lo, cat := .sat }
  else if hi < y then { code := modPow w hi, cat := .sat }
  else { code := modPow w y, cat := if body = 0 then .flush else .plain }

/-- The magnitude part of a posit rounding (R55). -/
def positBody (n : Nat) (mode : RMode) (u : Word32) (x : Mag) : Nat :=
  let lim : Int := 4 * ((n : Int) - 2)
  if x.cmpPow lim ≠ .lt then 2 ^ (n - 1) - 1
  else if x.cmpPow (-lim) ≠ .gt then 1
  else
    let sc := x.log2
    let k := sc / 4
    let e := (sc % 4).toNat
    let reg := if 0 ≤ k then (2 ^ (k + 1).toNat - 1) * 2 else 1
    let len := if 0 ≤ k then k.toNat + 4 else (-k).toNat + 3
    let (b, r, d) := x.split sc
    -- pattern value with the fraction: prefix + (x / 2^sc - 1), x / 2^sc = b + r/d with b = 1
    let m : Mag := ⟨(reg * 4 + e) * d + (b - 1) * d + r, d, (n : Int) - 1 - len⟩
    let (pb, pr, pd) := m.split 0
    applyMode mode u pb pr pd

/-- Rounding to a posit target, with its counts (R55, R59). -/
def roundPosit (n : Nat) (mode : RMode) (u : Word32) (neg : Bool) (x : Mag) : Delivered :=
  let body := positBody n mode u x
  let lim : Int := 4 * ((n : Int) - 2)
  { code := if neg then 2 ^ n - body else body
    cat := if x.cmpPow lim = .gt then .sat else if x.cmpPow (-lim) = .lt then .flush else .plain }

/-- Rounding of a non-zero magnitude to any element format that a rounding may deliver. Codebook, scaled and E8M0
targets have rules of their own (CONVERT). -/
def roundMag (f : Fmt) (mode : RMode) (sat : Bool) (u : Word32) (neg : Bool) (x : Mag) : Delivered :=
  match f.posit with
  | some n => roundPosit n mode u neg x
  | none =>
    match f.ieee with
    | some (ew, fw) => roundIeee f ew fw mode sat u neg x
    | none =>
      match f.int with
      | some (sg, w) => roundInt sg w mode u neg x
      | none => if f = .sp8 then roundPosit 8 mode u neg x else { code := 0 }

/-- Delivery of class ZERO (Table 2.11). -/
def deliverZero (f : Fmt) (neg : Bool) : Delivered :=
  match f.ieee with
  | some (ew, fw) => { code := signIeee ew fw neg 0 }
  | none => { code := 0 }

/-- Delivery of class NAR (Table 2.11); FP6 and FP4, which have no code for it, get code 0 (log entries 115 and 116, DESIGN
CHOICE). -/
def deliverNar (f : Fmt) : Delivered :=
  match f.posit with
  | some n => { code := 2 ^ (n - 1), cat := .narOut }
  | none =>
    match f.int with
    | some (sg, w) => { code := if sg then 2 ^ (w - 1) else 0, cat := .narOut }
    | none =>
      match f with
      | .e2m3 | .e3m2 | .e2m1 => { code := 0, cat := .narOut, viaScale := true }
      | .sp8 => { code := 0x80, cat := .narOut }
      | _ => { code := f.limits.2.1, cat := .narOut }

/-- Delivery of class INF (Table 2.11, with the counts of R59). -/
def deliverInf (f : Fmt) (sat neg : Bool) : Delivered :=
  match f.int with
  | some (sg, w) =>
    let (lo, hi) := intRange sg w
    { code := modPow w (if neg then lo else hi), cat := .sat }
  | none =>
    match f.ieee with
    | none => deliverNar f
    | some (ew, fw) =>
      if f.fp8 ∧ sat then { code := signIeee ew fw neg f.limits.1, cat := .sat }
      else match f.limits.2.2 with
        | some c => { code := signIeee ew fw neg c }
        | none => deliverNar f

/-- Delivery of an exact value of any class (R48, R56). -/
def deliverVal (f : Fmt) (mode : RMode) (sat : Bool) (u : Word32) (x : Val) : Delivered :=
  match x with
  | .zero neg => deliverZero f neg
  | .nar => deliverNar f
  | .inf neg => deliverInf f sat neg
  | .fin neg m e => roundMag f mode sat u neg ⟨m, 1, e⟩

/-- An exact rational with flags: what the quench and the finisher deliver. `nar` stands for NAR or SPILL_HI set (R58). -/
structure Exact where
  nar : Bool
  neg : Bool
  num : Nat
  den : Nat
  e : Int
  deriving DecidableEq, Repr

/-- The exact value of a group after its range test (R57). -/
def Grp.exact (a : Int) (g : Grp) : Exact :=
  { nar := g.nar || g.sHi, neg := g.v < 0, num := g.v.natAbs, den := 1, e := a }

/-- Delivery of an exact rational (R57, R58): an exact zero gives +0. -/
def deliverExact (f : Fmt) (mode : RMode) (sat : Bool) (u : Word32) (x : Exact) : Delivered :=
  if x.nar then deliverNar f
  else if x.num = 0 then deliverZero f false
  else roundMag f mode sat u x.neg ⟨x.num, x.den, x.e⟩

/-- The quench of a group to an element format (R57, R58). -/
def quench (f : Fmt) (mode : RMode) (sat : Bool) (u : Word32) (w : Nat) (a : Int) (g : Grp) : Delivered :=
  deliverExact f mode sat u ((g.rangeTest w).exact a)

end Sys2Proof.Machine
end

