-- ==== Sys2Proof/Machine/Values.lean ====
section
/-! DEFINITION. Values: exact rational values with their classes, the arithmetic that the epilogue, the functions and
the finisher do on them without rounding, and their delivery (R156, R191, R206, R419). -/

namespace Sys2Proof.Machine

/-- An exact value on its way to a delivery: a class of Table 2.2, NORMAL as an exact rational. -/
inductive XV where
  | zero (neg : Bool)
  | fin (neg : Bool) (x : Mag)
  | nar
  | inf (neg : Bool)
  deriving DecidableEq, Repr

/-- A decoded element as an exact value. -/
def xvOfVal : Val → XV
  | .zero n => .zero n
  | .fin n m e => .fin n ⟨m, 1, e⟩
  | .nar => .nar
  | .inf n => .inf n

/-- The rational num / den * 2^e; den = 0 is class NAR. -/
def xvRat (num : Int) (den : Nat) (e : Int) : XV :=
  if den = 0 then .nar else if num = 0 then .zero false else .fin (num < 0) ⟨num.natAbs, den, e⟩

/-- The value of a group that has left the array (R57, R58). -/
def xvGrp (a : Int) (g : Grp) : XV := if g.nar || g.sHi then .nar else xvRat g.v 1 a

/-- Negation. -/
def XV.neg : XV → XV
  | .zero n => .zero !n
  | .fin n x => .fin (!n) x
  | .nar => .nar
  | .inf n => .inf !n

/-- Absolute value. -/
def XV.abs : XV → XV
  | .zero _ => .zero false
  | .fin _ x => .fin false x
  | .nar => .nar
  | .inf _ => .inf false

/-- Whether the value is below zero. -/
def XV.isNeg : XV → Bool
  | .fin n _ => n
  | .inf n => n
  | _ => false

/-- Exact sum of two signed magnitudes. -/
def magAdd (n1 : Bool) (x : Mag) (n2 : Bool) (y : Mag) : XV :=
  let e := min x.e y.e
  let sx : Int := x.num * 2 ^ (x.e - e).toNat * y.den
  let sy : Int := y.num * 2 ^ (y.e - e).toNat * x.den
  xvRat ((if n1 then -sx else sx) + (if n2 then -sy else sy)) (x.den * y.den) e

/-- Exact sum. A finite value leaves an infinity unchanged (R419); infinities of opposite sign give NAR. -/
def XV.add : XV → XV → XV
  | .nar, _ => .nar
  | _, .nar => .nar
  | .inf n, .inf m => if n = m then .inf n else .nar
  | .inf n, _ => .inf n
  | _, .inf n => .inf n
  | .zero n, .zero m => .zero (n && m)
  | .zero _, y => y
  | x, .zero _ => x
  | .fin n x, .fin m y => magAdd n x m y

/-- Exact difference. -/
def XV.sub (x y : XV) : XV := x.add y.neg

/-- Exact product; zero times infinity is NAR (R419). -/
def XV.mul : XV → XV → XV
  | .nar, _ => .nar
  | _, .nar => .nar
  | .inf _, .zero _ => .nar
  | .zero _, .inf _ => .nar
  | .inf n, .inf m => .inf (n != m)
  | .inf n, .fin m _ => .inf (n != m)
  | .fin n _, .inf m => .inf (n != m)
  | .zero n, .zero m => .zero (n != m)
  | .zero n, .fin m _ => .zero (n != m)
  | .fin n _, .zero m => .zero (n != m)
  | .fin n x, .fin m y => .fin (n != m) ⟨x.num * y.num, x.den * y.den, x.e + y.e⟩

/-- A zero without its sign: the integer 0 of an exact group carries none (R57). -/
def XV.unsignedZero : XV → XV
  | .zero _ => .zero false
  | x => x

/-- Exact quotient by a value; division by zero or by an infinity is NAR. -/
def XV.div : XV → XV → XV
  | .nar, _ => .nar
  | _, .nar => .nar
  | _, .zero _ => .nar
  | _, .inf _ => .nar
  | .inf n, .fin m _ => .inf (n != m)
  | .zero n, .fin m _ => .zero (n != m)
  | .fin n x, .fin m y => .fin (n != m) ⟨x.num * y.den, x.den * y.num, x.e - y.e⟩

/-- Multiplication by 2^k. -/
def XV.shift (k : Int) : XV → XV
  | .fin n x => .fin n { x with e := x.e + k }
  | x => x

/-- A positive magnitude as 2^n (1 + r), r as a rational below 1. -/
def Mag.normal (x : Mag) : Int × Mag :=
  let n := x.log2
  let (b, r, d) := x.split n
  (n, ⟨(b - 1) * d + r, d, 0⟩)

/-- A rational magnitude as a value. -/
def xvMag (x : Mag) : XV := xvRat x.num x.den x.e

/-- Floor and fraction of a finite value; none for NAR and INF. -/
def XV.floor : XV → Option (Int × Mag)
  | .zero _ => some (0, ⟨0, 1, 0⟩)
  | .fin neg x =>
    let (b, r, d) := x.split 0
    if neg then (if r = 0 then some (-(b : Int), ⟨0, 1, 0⟩) else some (-(b : Int) - 1, ⟨d - r, d, 0⟩))
    else some (b, ⟨r, d, 0⟩)
  | _ => none

/-- Order of two exact values: `lt x y` for finite values and infinities, zeros of either sign equal. -/
def XV.lt (x y : XV) : Bool :=
  match x, y with
  | .nar, _ => false
  | _, .nar => false
  | .inf n, .inf m => n && !m
  | .inf n, _ => n
  | _, .inf m => !m
  | x, y => match x.sub y with
    | .fin n _ => n
    | _ => false

/-- Delivery of an exact value to a format (R48, R56 to R58). -/
def deliverXV (f : Fmt) (mode : RMode) (sat : Bool) (u : Word32) (x : XV) : Delivered :=
  match x with
  | .zero n => deliverZero f n
  | .nar => deliverNar f
  | .inf n => deliverInf f sat n
  | .fin n m => roundMag f mode sat u n m

/-- An exact value rounded to posit16 in RNE (R156, R202). -/
def toPosit16 (x : XV) : Nat := (deliverXV .posit16 .rne false 0 x).code

/-- The exact value of a posit code. -/
def ofPosit (n p : Nat) : XV := xvOfVal (decodePosit n p)

/-- Integer square root by bits: the largest s below 2^bits with s * s ≤ n. -/
def isqrt (bits n : Nat) : Nat :=
  (List.range bits).foldl
    (fun s i =>
      let t := s + 2 ^ (bits - 1 - i)
      if t * t ≤ n then t else s) 0

/-- d^(-1/2) of a positive magnitude with den = 1, as a magnitude that rounds to every format of at most 60 significant
bits as the exact value does: 2 floor(y 2^k) plus a sticky bit (R206). -/
def invSqrt (m : Nat) (e : Int) : Mag :=
  let m' := if e % 2 = 0 then m else 2 * m
  let h := if e % 2 = 0 then e / 2 else (e - 1) / 2
  let k := 80 + Nat.log2 m'
  let s := isqrt (k + 1) (2 ^ (2 * k) / m')
  ⟨2 * s + (if s * s * m' = 2 ^ (2 * k) then 0 else 1), 1, -h - k - 1⟩

end Sys2Proof.Machine
end

