-- ==== Sys2Proof/Machine/Functions.lean ====
section
/-! DEFINITION. Functions: table segments, the reduction modes, the chains, base-2 softmax elements and the random words
(R190 to R195, R202, R208 to R211). -/

namespace Sys2Proof.Machine

/-- A segment: slope and intercept, posit32 codes (R190). -/
abbrev Seg := Nat × Nat

/-- Byte `i` of the built-in image of slot `n` (R195). sin and cos share the one TURN set (R193). The identity's segments are
slope 1, intercept 0. Segment 0 of EXP2 has intercept 1.0, that of TURN intercept 0, and both a slope that is no NaR, so that
2^n is exact and sin 0 is 0 (R193); every other byte is the part's (log entry 9, DESIGN CHOICE). -/
def builtinImage (n i : Nat) : Byte :=
  let m := if n = 12 then 11 else n
  let b := Config.builtinByte m i
  if m = 15 then (if i % 8 = 3 then 0x40 else 0)
  else if (m = 0 ∨ m = 11) ∧ i < 8 then
    if i < 3 then b else if i = 3 then b % 128 else if i = 7 ∧ m = 0 then 0x40 else 0
  else b

/-- The image that holds a reference set: 0 EXP2, 1 LOG2, 2 RECIP, 3 ROOT, 4 TURN. -/
def refSlot : Nat → Nat
  | 0 => 0
  | 1 => 2
  | 2 => 8
  | 3 => 10
  | _ => 11

/-- The reference segments are those of the built-in images (R193): slope, then intercept, little-endian (R190). -/
def refSeg (set k : Nat) : Seg :=
  let word (o : Nat) : Nat := leNat ((List.range 4).map fun j => builtinImage (refSlot set) (8 * k + o + j))
  (word 0, word 4)

/-- The constants of R193. -/
def l2e : XV := ofPosit 32 0x438AA3B3
def ln2 : XV := ofPosit 32 0x3B17217F
def inv2pi : XV := ofPosit 32 0x2A2F9837

/-- slope * r + intercept, exactly (R191). -/
def segValue (s : Seg) (r : XV) : XV := ((ofPosit 32 s.1).mul r).add (ofPosit 32 s.2)

/-- floor(k * r) for a fraction r below 1, at most k - 1. -/
def fracIndex (k : Nat) (r : Mag) : Nat := min (k - 1) (Mag.split ⟨r.num * k, r.den, r.e⟩ 0).1

/-- EXP2 (Table 8.2): 2^n v at a = n + r. -/
def fnExp2 (seg : Nat → Seg) (a : XV) : XV :=
  match a.floor with
  | none => .nar
  | some (n, r) => (segValue (seg (fracIndex 64 r)) (xvMag r)).shift n

/-- LOG2 with the constant C (Table 8.2). -/
def fnLog2 (seg : Nat → Seg) (c : XV) (a : XV) : XV :=
  match a with
  | .fin false x =>
    let (n, r) := x.normal
    ((xvRat n 1 0).mul c).add (segValue (seg (fracIndex 64 r)) (xvMag r))
  | _ => .nar

/-- RECIP (Table 8.2). -/
def fnRecip (seg : Nat → Seg) (a : XV) : XV :=
  match a with
  | .fin neg x =>
    let (n, r) := x.normal
    let v := (segValue (seg (fracIndex 64 r)) (xvMag r)).shift (-n)
    if neg then v.neg else v
  | _ => .nar

/-- The value of ROOT and RROOT at a > 0: a = 2^(2n+b) (1 + r) gives n and v (Table 8.2). -/
def rootParts (seg : Nat → Seg) (x : Mag) : Int × XV :=
  let (k, r) := x.normal
  let b := (k % 2).toNat
  (k / 2, segValue (seg (32 * b + fracIndex 32 r)) (xvMag r))

/-- ROOT (Table 8.2). -/
def fnRoot (seg : Nat → Seg) (a : XV) : XV :=
  match a with
  | .zero _ => .zero false
  | .fin false x => let (n, v) := rootParts seg x; v.shift n
  | _ => .nar

/-- RROOT (Table 8.2). -/
def fnRroot (seg : Nat → Seg) (a : XV) : XV :=
  match a with
  | .fin false x => let (n, v) := rootParts seg x; v.shift (-n)
  | _ => .nar

/-- The quarter-wave fold of a turn t in [0, 1): u in [0, 1/4] and the sign of the value. -/
def turnFold (t : Mag) : Mag × Bool :=
  let (q, r, d) := t.split (-2)
  -- t = (q + r/d) / 4
  match q with
  | 0 => (⟨r, d, -2⟩, false)
  | 1 => (⟨d - r, d, -2⟩, false)
  | 2 => (⟨r, d, -2⟩, true)
  | _ => (⟨d - r, d, -2⟩, true)

/-- TURN of a turn t ≥ 0, whole turns dropped (Table 8.2; the end u = 1/4 takes the last segment, log entry 12, DEDUCED). -/
def turnValue (seg : Nat → Seg) (t : XV) : XV :=
  match t.floor with
  | none => .nar
  | some (_, f) =>
    let (u, neg) := turnFold f
    let v := segValue (seg (min 63 (Mag.split ⟨u.num * 256, u.den, u.e⟩ 0).1)) (xvMag u)
    if neg then v.neg else v

/-- TURN (Table 8.2): MOD 0 is odd in a, MOD 1 is even. -/
def fnTurn (seg : Nat → Seg) (cos : Bool) (a : XV) : XV :=
  match a with
  | .nar => .nar
  | .inf _ => .nar
  | a =>
    let t := a.abs.mul inv2pi
    if cos then turnValue seg (t.add (xvRat 1 1 (-2)))
    else if a.isNeg then (turnValue seg t).neg else turnValue seg t

/-- DIRECT with its modifier for negative arguments (Tables 8.2 and 8.3). -/
def fnDirect (seg : Nat → Seg) (md : Nat) (a : XV) : XV :=
  match a with
  | .nar => .nar
  | .inf _ => .nar
  | a =>
    let b := a.abs
    let code := (deliverXV .posit16 .rtz false 0 b).code
    let v := segValue (seg (code / 512 % 64)) b
    if a.isNeg then
      match md with
      | 0 => v.neg
      | 1 => v
      | 2 => (xvRat 1 1 0).sub v
      | 3 => v.sub b
      | _ => .nar
    else v

/-- SIGMOID of Table 8.4, from the reference segments. -/
def chainSigmoid (a : XV) : XV :=
  fnRecip (refSeg 2) ((xvRat 1 1 0).add (fnExp2 (refSeg 0) (a.neg.mul l2e)))

/-- LOG2_LN of R193. -/
def log2Ln (a : XV) : XV := fnLog2 (refSeg 1) ln2 a

/-- The chains of Table 8.4. -/
def fnChain (md : Nat) (a : XV) : XV :=
  match a with
  | .nar => .nar
  | .inf _ => .nar
  | a =>
    match md with
    | 0 => chainSigmoid a
    | 1 => a.mul (chainSigmoid a)
    | 2 =>
      let one := xvRat 1 1 0
      if (XV.zero false).lt a then a.add (log2Ln (one.add (fnExp2 (refSeg 0) (a.neg.mul l2e))))
      else if a.lt (xvRat (-8) 1 0) then fnExp2 (refSeg 0) (a.mul l2e)
      else log2Ln (one.add (fnExp2 (refSeg 0) (a.mul l2e)))
    | _ => .nar

/-- A function by its attribute byte (R191, Table 8.1). -/
def fnEval (attr : Nat) (seg : Nat → Seg) (a : XV) : XV :=
  let md := attr / 8 % 8
  match attr % 8 with
  | 0 => fnDirect seg md a
  | 1 => fnExp2 seg a
  | 2 => fnLog2 seg (if md = 1 then ln2 else xvRat 1 1 0) a
  | 3 => fnRecip seg a
  | 4 => fnRoot seg a
  | 5 => fnRroot seg a
  | 6 => fnTurn seg (md = 1) a
  | _ => fnChain md a

/-- Whether Tables 8.1 to 8.4 list an attribute byte (R192, R197). RECIP, ROOT and RROOT list no modifier, so theirs is
zero (log entry 12, DEDUCED). -/
def attrValid (attr : Nat) : Bool :=
  let md := attr / 8 % 8
  attr < 64 &&
  match attr % 8 with
  | 0 => md ≤ 4
  | 1 => true
  | 2 => md ≤ 1
  | 6 => md ≤ 1
  | 7 => md ≤ 2
  | _ => md == 0

/-- The attribute bytes of the built-in functions, slots 0 to 15 (Table 8.5). -/
def builtinAttr : List Nat :=
  [0x01, 0x01, 0x02, 0x0A, 0x00, 0x07, 0x18, 0x0F, 0x03, 0x05, 0x04, 0x06, 0x0E, 0x00, 0x17, 0x00]

/-- i(e), p(e) of a softmax element from its y code (R202): floor and EXP2 value at the fraction, rounded to posit16;
the spec bounds p by 1 and 2. -/
def softElem (y : Nat) : Int × Nat :=
  match (ofPosit 16 y).floor with
  | none => (0, 0x4000)
  | some (i, r) =>
    let p := toPosit16 (segValue (refSeg 0 (fracIndex 64 r)) (xvMag r))
    (i, min 0x4800 (max 0x4000 p))

/-- The value of p in units of 2^-11 (R203). -/
def softUnits (p : Nat) : Nat := if p = 0x4800 then 4096 else 2048 + p % 2048

/-- The four random words of an element (R208, R209). -/
def randWords (key : Word64) (step stream elem : Nat) : List Word32 :=
  philox (BitVec.ofNat 32 elem, BitVec.ofNat 32 (elem / 2 ^ 32),
          BitVec.ofNat 32 (step % 2 ^ 16 * 2 ^ 16 + stream), BitVec.ofNat 32 (step / 2 ^ 16))
    (BitVec.ofNat 32 key.toNat, BitVec.ofNat 32 (key.toNat / 2 ^ 32))

/-- UNIFORM (R210). -/
def rngUniform (lo hi : Nat) (w : List Word32) : XV :=
  let u : Nat := (w.getD 1 0).toNat * 2 ^ 32 + (w.getD 0 0).toNat
  (ofPosit 32 lo).add (((ofPosit 32 hi).sub (ofPosit 32 lo)).mul (xvRat (2 * (u : Int) + 1) 1 (-65)))

/-- NORMAL (R210). -/
def rngNormal (mu sigma : Nat) (w : List Word32) : XV :=
  let u1 := xvRat (2 * ((w.getD 0 0).toNat : Int) + 1) 1 (-33)
  let u2 := xvRat (2 * ((w.getD 1 0).toNat : Int) + 1) 1 (-33)
  let z := (fnRoot (refSeg 3) ((xvRat (-2) 1 0).mul (log2Ln u1))).mul
    (turnValue (refSeg 4) (u2.add (xvRat 1 1 (-2))))
  (ofPosit 32 mu).add ((ofPosit 32 sigma).mul z)

/-- Whether a random word lies below q * 2^32, exactly (R210, R211). -/
def drawBelow (x : Word32) (q : Nat) : Bool := (xvRat x.toNat 1 (-32)).lt (ofPosit 32 q)

/-- BERNOULLI (R210). -/
def rngBernoulli (p : Nat) (w : List Word32) : XV :=
  if drawBelow (w.getD 0 0) p then xvRat 1 1 0 else .zero false

end Sys2Proof.Machine
end

