-- ==== Sys2Proof/Machine/Tensor.lean ====
section
/-! DEFINITION. Tensor: tensor descriptors, presented shapes, element addresses, groups, extents and the reading of
elements with their scales, codebooks and saddlebags (R145 to R153, R169 to R174). -/

namespace Sys2Proof.Machine

/-- Bits [hi:lo] of a word. -/
def wbits (w : Word64) (hi lo : Nat) : Nat := bitsOf w.toNat hi lo

/-- MODE of a tensor (Table 6.5). -/
inductive TMode where
  | strided | list | window | wrap
  deriving DecidableEq, Repr

/-- A tensor descriptor (Table 6.5); `five` is word t+5. -/
structure Tensor where
  addr : Nat
  fmtCode : Nat
  rank : Nat
  mode : TMode
  mirror : Bool
  quire : Bool
  gsizeCode : Nat
  trans : Bool
  rsvd : Nat
  sizes : List Nat
  gptr : Nat
  sbag : Nat
  stride1 : Nat
  stride2 : Nat
  five : Word64
  deriving DecidableEq, Repr

/-- Parse six words. -/
def parseTensor (w : List Word64) : Tensor :=
  let w0 := w.getD 0 0
  let w1 := w.getD 1 0
  let w2 := w.getD 2 0
  let w3 := w.getD 3 0
  let w4 := w.getD 4 0
  let md := wbits w0 52 51
  { addr := wbits w0 39 0, fmtCode := wbits w0 47 40, rank := wbits w0 50 48,
    mode := if md = 0 then .strided else if md = 1 then .list else if md = 2 then .window else .wrap,
    mirror := wbits w0 53 53 = 1, quire := wbits w0 54 54 = 1, gsizeCode := wbits w0 56 55,
    trans := wbits w0 57 57 = 1, rsvd := wbits w0 63 58,
    sizes := [wbits w1 63 40, wbits w2 63 40, wbits w3 23 0, wbits w3 47 24, wbits w3 63 48],
    gptr := wbits w1 39 0, sbag := wbits w2 39 0, stride1 := wbits w4 31 0, stride2 := wbits w4 63 32,
    five := w.getD 5 0 }

namespace Tensor

/-- Whether the slot is used (R145). -/
def used (t : Tensor) : Bool := t.rank != 0

/-- The format; an unknown code reads as uint8, which no accepted descriptor has. -/
def fmt (t : Tensor) : Fmt := (fmtOfCode t.fmtCode).getD .uint8

/-- Element width in bits. -/
def w (t : Tensor) : Nat := t.fmt.bits

/-- Group size (Table 6.5). -/
def gsize (t : Tensor) : Nat := 32 * 2 ^ t.gsizeCode

/-- SIZE_d. -/
def size (t : Tensor) (d : Nat) : Nat := t.sizes.getD d 0

/-- STRIDE_d in elements; STRIDE3 and STRIDE4 are zero outside STRIDED mode. -/
def stride (t : Tensor) (d : Nat) : Nat :=
  match d with
  | 0 => 1
  | 1 => t.stride1
  | 2 => t.stride2
  | 3 => if t.mode = .strided then wbits t.five 31 0 else 0
  | _ => if t.mode = .strided then wbits t.five 63 32 else 0

/-- LIST_ROWS and LIST_PTR (Table 6.6). -/
def listRows (t : Tensor) : Nat := wbits t.five 63 40
def listPtr (t : Tensor) : Nat := wbits t.five 39 0

/-- Window fields (Table 6.6). -/
def kw (t : Tensor) : Nat := wbits t.five 7 0
def kh (t : Tensor) : Nat := wbits t.five 15 8
def sw (t : Tensor) : Nat := wbits t.five 19 16
def sh (t : Tensor) : Nat := wbits t.five 23 20
def dw (t : Tensor) : Nat := wbits t.five 27 24
def dh (t : Tensor) : Nat := wbits t.five 31 28
def haloL (t : Tensor) : Nat := wbits t.five 35 32
def haloR (t : Tensor) : Nat := wbits t.five 39 36
def haloT (t : Tensor) : Nat := wbits t.five 43 40
def haloB (t : Tensor) : Nat := wbits t.five 47 44

/-- Whether the mode is WINDOW or WRAP. -/
def windowed (t : Tensor) : Bool := t.mode = .window || t.mode = .wrap

/-- OW and OH of R148, as signed numbers. -/
def ow (t : Tensor) : Int :=
  ((t.size 1 + t.haloL + t.haloR : Nat) - (t.dw : Int) * ((t.kw : Int) - 1) - 1) / t.sw + 1
def oh (t : Tensor) : Int :=
  ((t.size 2 + t.haloT + t.haloB : Nat) - (t.dh : Int) * ((t.kh : Int) - 1) - 1) / t.sh + 1

/-- Presented rank and sizes (R147, R148). -/
def prank (t : Tensor) : Nat := if t.windowed then 2 else t.rank
def psizes (t : Tensor) : List Nat :=
  if t.windowed then [t.size 0 * t.kw * t.kh, t.ow.toNat * t.oh.toNat] else t.sizes.take t.rank
def psize (t : Tensor) (d : Nat) : Nat := t.psizes.getD d 1

/-- Number of presented elements. -/
def count (t : Tensor) : Nat := t.psizes.foldl (· * ·) 1

end Tensor

/-- The index list of linear index `l` over sizes, dimension 0 fastest. -/
def unlinear : List Nat → Nat → List Nat
  | [], _ => []
  | s :: t, l => l % s :: unlinear t (l / s)

/-- The linear index of an index list. -/
def linear : List Nat → List Nat → Nat
  | s :: st, i :: it => i + s * linear st it
  | _, _ => 0

/-- How memory reads to an operation: one byte at a local address. -/
abbrev Rd := Nat → Byte

/-- `n` bytes from an address. -/
def rdBytes (rd : Rd) (a n : Nat) : List Byte := (List.range n).map fun i => rd (a + i)

/-- The little-endian number of `n` bytes at an address. -/
def rdNat (rd : Rd) (a n : Nat) : Nat := leNat (rdBytes rd a n)

/-- `w` bits at bit address `b` (R29). -/
def rdBits (rd : Rd) (b w : Nat) : Nat :=
  rdNat rd (b / 8) (ceilDiv (b % 8 + w) 8) / 2 ^ (b % 8) % 2 ^ w

/-- Where a presented element lies: its bit address and its stored index list, outside a WINDOW, or under a list index
out of range (R146 to R148). -/
inductive Place where
  | at (bit : Nat) (idx : List Nat)
  | outside
  | badIndex
  deriving DecidableEq, Repr

namespace Tensor

/-- Entry `i` of the index list. -/
def listIdx (t : Tensor) (rd : Rd) (i : Nat) : Nat := rdNat rd (t.listPtr + 4 * i) 4

/-- The bit address of stored indices. -/
def bitAt (t : Tensor) (idx : List Nat) : Nat :=
  8 * t.addr + t.w * ((List.range idx.length).map fun d => idx.getD d 0 * t.stride d).sum

/-- The place of a presented index list (R146 to R148). -/
def place (t : Tensor) (rd : Rd) (p : List Nat) : Place :=
  match t.mode with
  | .strided => .at (t.bitAt p) p
  | .list =>
    let r := t.listIdx rd (p.getD 1 0)
    if t.listRows ≤ r then .badIndex else .at (t.bitAt (p.set 1 r)) (p.set 1 r)
  | _ =>
    let c := t.size 0
    let k := p.getD 0 0
    let o := p.getD 1 0
    let ow := t.ow.toNat
    let iw : Int := (o % ow * t.sw : Nat) - (t.haloL : Int) + (k / c % t.kw * t.dw : Nat)
    let ih : Int := (o / ow * t.sh : Nat) - (t.haloT : Int) + (k / (c * t.kw) * t.dh : Nat)
    let iw' := if t.mode = .wrap then iw % t.size 1 else iw
    let ih' := if t.mode = .wrap then ih % t.size 2 else ih
    if 0 ≤ iw' ∧ iw' < t.size 1 ∧ 0 ≤ ih' ∧ ih' < t.size 2 then
      .at (t.bitAt [k % c, iw'.toNat, ih'.toNat]) [k % c, iw'.toNat, ih'.toNat]
    else .outside

/-- Sizes over which groups are counted: the stored rows of a LIST tensor, else the descriptor's sizes (R169). -/
def storedSizes (t : Tensor) : List Nat :=
  let s := t.sizes.take t.rank
  if t.mode = .list then s.set 1 t.listRows else s

/-- The group dimension (R169). -/
def gdim (t : Tensor) : Nat := if t.trans then 1 else 0

/-- NG and O of R169. -/
def ng (t : Tensor) : Nat := ceilDiv (t.storedSizes.getD t.gdim 1) t.gsize
def others (t : Tensor) : Nat := (t.storedSizes.eraseIdx t.gdim).foldl (· * ·) 1

/-- Group number of stored indices (R169). -/
def group (t : Tensor) (idx : List Nat) : Nat :=
  linear (t.storedSizes.eraseIdx t.gdim) (idx.eraseIdx t.gdim) * t.ng + idx.getD t.gdim 0 / t.gsize

/-- Bytes of the group array at GPTR (R169). -/
def garrayBytes (t : Tensor) : Nat := t.ng * t.others * (if t.fmt.codebook then 32 else 1)

/-- Whether elements are read under group scales. -/
def scaled (t : Tensor) : Bool := t.gptr != 0 && (t.fmt.mx || t.fmt = .sp8)

/-- Scale code of a group; 0x7F without scales (R39, R87). -/
def scaleCode (t : Tensor) (rd : Rd) (g : Nat) : Nat := if t.scaled then (rd (t.gptr + g)).toNat else 0x7F

/-- Codebook of a group, 16 posit16 codes (R42). -/
def codebook (t : Tensor) (rd : Rd) (g : Nat) : List Nat :=
  if t.fmt.codebook then (List.range 16).map fun j => rdNat rd (t.gptr + 32 * g + 2 * j) 2 else []

end Tensor

/-- An element as an operation reads it: its decoded value, without its saddlebag value, and what decoding met. -/
structure Elem where
  val : Val
  code : Nat := 0
  addr : Nat := 0
  scaleNan : Bool := false
  cbWide : Bool := false
  badIdx : Bool := false
  /-- linear index over the stored sizes, by which a saddlebag names it (Table 7.2) -/
  lin : Nat := 0
  deriving DecidableEq, Repr

namespace Tensor

/-- A code read as the element at stored indices `idx`, at bit `b`: under that element's group scale or codebook (R39 to
R43, R45). -/
def decodeAs (t : Tensor) (rd : Rd) (b : Nat) (idx : List Nat) (c : Nat) : Elem :=
  match t.fmt.quireW with
  | some _ => { val := .zero false, code := c, addr := b / 8, lin := linear t.storedSizes idx }
  | none =>
    let g := t.group idx
    let cb := t.codebook rd g
    let s := t.scaleCode rd g
    let raw := decodeCode t.fmt cb c
    { val := if t.scaled then applyScale s raw else raw, code := c, addr := b / 8,
      scaleNan := t.scaled && s == 0xFF, cbWide := codeCbWide t.fmt cb c, lin := linear t.storedSizes idx }

/-- The element at a presented index list; under an index out of range it reads as NAR (R147), a quire element as the NaR
pattern. -/
def elem (t : Tensor) (rd : Rd) (p : List Nat) : Elem :=
  match t.place rd p with
  | .outside => { val := .zero false }
  | .badIndex => { val := .nar, badIdx := true, code := (t.fmt.quireW.map fun w => 2 ^ (w - 1)).getD 0 }
  | .at b idx => t.decodeAs rd b idx (rdBits rd b t.w)

/-- A code read as the element at a presented index list. -/
def codeAs (t : Tensor) (rd : Rd) (p : List Nat) (c : Nat) : Elem :=
  match t.place rd p with
  | .at b idx => t.decodeAs rd b idx c
  | _ => { val := decodeCode t.fmt [] c, code := c }

/-- The element at a linear index of the presented order. -/
def elemAt (t : Tensor) (rd : Rd) (l : Nat) : Elem := t.elem rd (unlinear t.psizes l)

end Tensor

/-- A saddlebag as read: the well-formed entries (index, posit32 value), and the index above which elements poison their
group, if it breaks R174. -/
structure Bag where
  entries : List (Nat × Nat) := []
  poison : Option Nat := none
  deriving DecidableEq, Repr

/-- Entries read in order while each INDEX rises and stays below the element count (R174). `i` entries are left. -/
def bagScan (rd : Rd) (base cnt : Nat) : Nat → Option Nat → Nat → List (Nat × Nat) → List (Nat × Nat) × Bool
  | 0, _, _, acc => (acc.reverse, true)
  | fuel + 1, last, k, acc =>
    let w := rdNat rd (base + 16 + 8 * k) 8
    let i := w % 2 ^ 32
    if decide (i < cnt) && (match last with | none => true | some l => decide (l < i)) then
      bagScan rd base cnt fuel (some i) (k + 1) ((i, w / 2 ^ 32) :: acc)
    else (acc.reverse, false)

/-- Read a tensor's saddlebag (R172, R174). -/
def readBag (rd : Rd) (base cnt : Nat) : Bag :=
  if base = 0 then {} else
    let n := rdNat rd base 4
    let maxn := rdNat rd (base + 8) 4
    let (es, ok) := bagScan rd base cnt (min n maxn) none 0 []
    if ok ∧ n ≤ maxn then { entries := es }
    else { entries := es, poison := some (match es.getLast? with | some e => e.1 + 1 | none => 0) }

/-- The saddlebag of a tensor. -/
def Tensor.bag (t : Tensor) (rd : Rd) : Bag := readBag rd t.sbag t.count

/-- The exact sum of two decoded values (R174). -/
def valAdd : Val → Val → Val
  | .nar, _ => .nar
  | _, .nar => .nar
  | .inf n, .inf m => if n = m then .inf n else .nar
  | .inf n, _ => .inf n
  | _, .inf n => .inf n
  | .zero n, .zero m => .zero (n && m)
  | .zero _, y => y
  | x, .zero _ => x
  | .fin n x e, .fin m y f =>
    let g := min e f
    let sx : Int := x * 2 ^ (e - g).toNat
    let sy : Int := y * 2 ^ (f - g).toNat
    valOfInt ((if n then -sx else sx) + (if m then -sy else sy)) g

/-- The saddlebag value of an element, if it has an entry. -/
def Bag.valueAt (b : Bag) (lin : Nat) : Option Val := (b.entries.lookup lin).map (decodePosit 32)

/-- The full value of an element (R174): its decoded value plus its saddlebag value. -/
def fullVal (b : Bag) (e : Elem) : Val :=
  match b.valueAt e.lin with
  | some v => valAdd e.val v
  | none => e.val

/-- Whether a malformed saddlebag poisons the groups that take this element (R174). -/
def Bag.poisons (b : Bag) (e : Elem) : Bool :=
  match b.poison with
  | some p => p ≤ e.lin
  | none => false

/-- A byte range [lo, hi). -/
abbrev Extent := Nat × Nat

/-- Whether two extents share a byte. -/
def Extent.meets (a b : Extent) : Bool := a.1 < b.2 && b.1 < a.2 && a.1 < a.2 && b.1 < b.2

namespace Tensor

/-- Largest element offset of the extent (R150). -/
def reachElems (t : Tensor) : Nat :=
  if t.mode = .list then
    (t.size 0 - 1) + (t.listRows - 1) * t.stride1 + (if t.rank = 3 then (t.size 2 - 1) * t.stride2 else 0)
  else ((List.range t.rank).map fun d => (t.size d - 1) * t.stride d).sum

/-- The extent of the elements (R150). -/
def extent (t : Tensor) : Extent := (t.addr, t.addr + ceilDiv (t.w * (t.reachElems + 1)) 8)

/-- The extent of the group array, empty without one. -/
def garrayExt (t : Tensor) : Extent := if t.gptr = 0 then (0, 0) else (t.gptr, t.gptr + t.garrayBytes)

/-- The extent of the saddlebag, empty without one (R172). -/
def bagExt (t : Tensor) (rd : Rd) : Extent :=
  if t.sbag = 0 then (0, 0) else (t.sbag, t.sbag + 16 + 8 * rdNat rd (t.sbag + 8) 4)

/-- The extent of the index list, empty outside LIST mode. -/
def listExt (t : Tensor) : Extent :=
  if t.mode = .list ∧ t.used then (t.listPtr, t.listPtr + 4 * t.size 1) else (0, 0)

/-- The attached structures of an input tensor. -/
def attached (t : Tensor) (rd : Rd) : List Extent := [t.garrayExt, t.bagExt rd, t.listExt]

/-- A row of narrow elements: the bits after its last element up to the byte boundary, which a write fills with zeros
(R152). -/
def padBits (t : Tensor) (rd : Rd) (rest : List Nat) : List (Nat × Nat × Nat) :=
  if 8 ≤ t.w ∨ t.windowed then []
  else match t.place rd ((t.size 0 - 1) :: rest) with
    | .at b _ =>
      let e := b + t.w
      if e % 8 = 0 then [] else [(e, 8 - e % 8, 0)]
    | _ => []

end Tensor

end Sys2Proof.Machine
end

