-- ==== Sys2Proof/Machine/Descriptor.lean ====
section
/-! DEFINITION. Descriptor: the fields of the 32-word operation descriptor (Tables 6.1 to 6.4, 6.9 and 6.10), the class,
group width and anchor of an operation, and its shape (R119 to R122, R149). -/

namespace Sys2Proof.Machine

/-- A descriptor: its 32 words (R143). -/
abbrev Desc := List Word64

namespace Desc

/-- Bits [hi:lo] of word `i`. -/
def fld (d : Desc) (i hi lo : Nat) : Nat := wbits (d.getD i 0) hi lo

/-- Word 0 (Table 6.2). -/
def opcode (d : Desc) : Nat := d.fld 0 7 0
def subop (d : Desc) : Nat := d.fld 0 15 8
def round (d : Desc) : Nat := d.fld 0 17 16
def sat (d : Desc) : Bool := d.fld 0 18 18 = 1
def trapNan (d : Desc) : Bool := d.fld 0 19 19 = 1
def acc (d : Desc) : Bool := d.fld 0 20 20 = 1
def raw (d : Desc) : Bool := d.fld 0 21 21 = 1
def retemper (d : Desc) : Nat := d.fld 0 23 22
def funcSlot (d : Desc) : Nat := d.fld 0 28 24
def funcEn (d : Desc) : Bool := d.fld 0 29 29 = 1
def scaleEn (d : Desc) : Bool := d.fld 0 30 30 = 1
def zpEn (d : Desc) : Bool := d.fld 0 31 31 = 1
def anchor (d : Desc) : Int := signedOf 13 (d.fld 0 44 32)
def splitk (d : Desc) : Nat := d.fld 0 54 48
def seedSel (d : Desc) : Nat := d.fld 0 59 56
/-- Word 1 (Table 6.3). -/
def stream (d : Desc) : Nat := d.fld 1 15 0
def rtThresh (d : Desc) : Nat := d.fld 1 31 16
def budgetMs (d : Desc) : Nat := d.fld 1 47 32
def rawAW (d : Desc) : Nat := [4, 6, 8, 12].getD (d.fld 1 49 48) 4
def rawAS (d : Desc) : Bool := d.fld 1 50 50 = 1
def rawBW (d : Desc) : Nat := [4, 6, 8, 12].getD (d.fld 1 52 51) 4
def rawBS (d : Desc) : Bool := d.fld 1 53 53 = 1
/-- Words 2 and 3 (Table 6.4). -/
def tag (d : Desc) : Word64 := d.getD 2 0
def cplAddr (d : Desc) : Nat := d.fld 3 39 0
def ledgerSlot (d : Desc) : Nat := d.fld 3 62 48
def ledgerEn (d : Desc) : Bool := d.fld 3 63 63 = 1
def ledgerBase (d : Desc) : Nat := 0xFE00000000 + d.ledgerSlot * 0x4000
/-- The inline tensors. -/
def t0 (d : Desc) : Tensor := parseTensor ((d.drop 4).take 6)
def t1 (d : Desc) : Tensor := parseTensor ((d.drop 10).take 6)
/-- T2 as the descriptor holds it. -/
def slot2 (d : Desc) : Tensor := parseTensor ((d.drop 16).take 6)
/-- Words 22 to 25 (Table 6.9). -/
def biasAddr (d : Desc) : Nat := d.fld 22 39 0
def biasFmtCode (d : Desc) : Nat := d.fld 22 47 40
def biasFmt (d : Desc) : Fmt := (fmtOfCode d.biasFmtCode).getD .uint8
def biasAxis (d : Desc) : Nat := d.fld 22 48 48
def epiScale (d : Desc) : Nat := d.fld 23 31 0
def zpA (d : Desc) : Int := signedOf 16 (d.fld 23 47 32)
def zpB (d : Desc) : Int := signedOf 16 (d.fld 23 63 48)
def zsumAddr (d : Desc) : Nat := d.fld 24 39 0
def rtAddr (d : Desc) : Nat := d.fld 25 39 0
/-- Words 26 and 27. -/
def opx0 (d : Desc) : Nat := (d.getD 26 0).toNat
def opx1 (d : Desc) : Nat := (d.getD 27 0).toNat
/-- AXIS, for REDUCE, NORM and SOFTMAX. -/
def axis (d : Desc) : Nat := d.fld 26 2 0
/-- Words 28 and 29 (Table 6.10). -/
def collPre (d : Desc) : Nat := d.fld 28 3 0
def collPost (d : Desc) : Nat := d.fld 28 7 4
def preSlot (d : Desc) : Nat := d.fld 28 8 8
def wire (d : Desc) : Nat := d.fld 28 10 9
def direct (d : Desc) : Bool := d.fld 28 11 11 = 1
def specConsume (d : Desc) : Bool := d.fld 28 12 12 = 1
def group (d : Desc) : Nat := d.fld 28 25 16
def root (d : Desc) : Nat := d.fld 28 47 32
def bundleAddr (d : Desc) : Nat := d.fld 29 39 0
def bundleN (d : Desc) : Nat := d.fld 29 46 40
def xferCode (d : Desc) : Nat := d.fld 29 55 48
def notify (d : Desc) : Nat := d.fld 31 57 0

/-- Rounding mode. -/
def mode (d : Desc) : RMode := rmodeOf d.round

end Desc

/-- Opcodes of Table 6.8. -/
def opMatmul : Nat := 0x01
def opMatvec : Nat := 0x03
def opElemwise : Nat := 0x04
def opReduce : Nat := 0x05
def opNorm : Nat := 0x06
def opSoftmax : Nat := 0x07
def opAttend : Nat := 0x08
def opConvert : Nat := 0x09
def opGather : Nat := 0x0A
def opScatter : Nat := 0x0B
def opRng : Nat := 0x0C
def opCopy : Nat := 0x0D
def opColl : Nat := 0x10
def opBarrier : Nat := 0x11
def opScalar : Nat := 0x12
def opTload : Nat := 0x18
def opTswap : Nat := 0x19
def opWaymark : Nat := 0x1A
def opFence : Nat := 0x1B
def opNop : Nat := 0x1F

/-- The sub-operations of an opcode (Table 6.8); empty for an unknown opcode. -/
def subops (op : Nat) : List Nat :=
  if op = opElemwise then [0, 1, 2, 3, 4, 5, 6, 7]
  else if op = opReduce then [0, 1, 2, 3, 4]
  else if op = opNorm then [0, 1]
  else if op = opConvert then [0, 1, 2, 3]
  else if op = opRng then [0, 1, 2]
  else if op = opScalar then [0, 2, 3]
  else if [opMatmul, opMatvec, opSoftmax, opAttend, opGather, opScatter, opCopy, opColl, opBarrier, opTload, opTswap,
           opWaymark, opFence, opNop].contains op then [0]
  else []

/-- Array operations use the tiles; every other opcode is an engine operation (chapter "Control complex"). -/
def isArrayOp (op : Nat) : Bool :=
  [opMatmul, opMatvec, opElemwise, opReduce, opNorm, opSoftmax, opAttend, opConvert, opRng].contains op

/-- A dense tensor of given sizes. -/
def denseTensor (like : Tensor) (addr : Nat) (sizes : List Nat) : Tensor :=
  let p (k : Nat) := (sizes.take k).foldl (· * ·) 1
  { like with
    addr := addr, rank := sizes.length, mode := .strided, trans := false, gptr := 0, sbag := 0,
    sizes := sizes ++ List.replicate (5 - sizes.length) 0, stride1 := if 1 < sizes.length then p 1 else 0,
    stride2 := if 2 < sizes.length then p 2 else 0,
    five := BitVec.ofNat 64 ((if 4 < sizes.length then p 4 * 2 ^ 32 else 0) + (if 3 < sizes.length then p 3 else 0)) }

/-- Rows and columns of an outer-mode tile block of a class (Table 5.2). -/
def clsHm (c : Nat) : Nat := if c = 0 then 32 else 16
def clsHn (c : Nat) : Nat := match c with | 0 => 32 | 1 => 32 | 2 => 16 | _ => 8

/-- Class of a group width. -/
def widthCls (w : Nat) : Nat := if w = 128 then 0 else if w = 256 then 1 else if w = 512 then 2 else 3

/-- One pass of an array operation that is no matrix product: what it forms, in tile blocks of its class, and the steps of
a block (R80, R119, R122, R205, R417). -/
structure Pass where
  cls : Nat
  /-- presented sizes of its groups, or of its outputs where it forms no groups -/
  sizes : List Nat
  /-- cut in order into blocks (R417), not by rows and columns (R122) -/
  lin : Bool := false
  grouped : Bool := true
  anchor : Int := 0
  /-- steps that a tile issues for a block -/
  steps : Nat
  deriving DecidableEq, Repr

/-- Where an output element is formed: placement, logical tile x + 64y, and group row and column of the tile. -/
structure Spot where
  plc : Nat
  tile : Nat
  row : Nat
  col : Nat
  deriving DecidableEq, Repr

/-- The spot of element `l` of presented sizes in the outer placement (R121, R122), and where the elements are cut in
order (R417). -/
def outerSpot (hm hn : Nat) (sizes : List Nat) (l : Nat) : Spot :=
  let p := unlinear sizes l
  let m := p.getD 1 0
  let n := p.getD 0 0
  let pm := ceilDiv (sizes.getD 1 1) (64 * hm)
  let pn := ceilDiv (sizes.getD 0 1) (64 * hn)
  { plc := linear (sizes.drop 2) (p.drop 2) * pm * pn + m / (64 * hm) + pm * (n / (64 * hn)),
    tile := n / hn % 64 + 64 * (m / hm % 64), row := m % hm, col := n % hn }
def lineSpot (hm hn l : Nat) : Spot :=
  let sz := hm * hn
  { plc := l / sz / 4096, tile := l / sz % 4096, row := l % sz / hn, col := l % hn }

namespace Pass

def width (p : Pass) : Nat := clsWidth p.cls
/-- Number of groups or outputs. -/
def count (p : Pass) : Nat := p.sizes.foldl (· * ·) 1
/-- Where one of them is formed. -/
def spot (p : Pass) (l : Nat) : Spot :=
  if p.lin then lineSpot (clsHm p.cls) (clsHn p.cls) l else outerSpot (clsHm p.cls) (clsHn p.cls) p.sizes l
/-- The blocks of the pass, as (placement, logical tile), each once. -/
def blocks (p : Pass) : List (Nat × Nat) :=
  ((List.range p.count).map fun l => ((p.spot l).plc, (p.spot l).tile)).eraseDups
/-- Its placements (R122, R417). -/
def placements (p : Pass) : Nat :=
  if p.lin then ceilDiv p.count (4096 * clsHm p.cls * clsHn p.cls)
  else (p.sizes.drop 2).foldl (· * ·) 1 * ceilDiv (p.sizes.getD 1 1) (64 * clsHm p.cls) *
    ceilDiv (p.sizes.getD 0 1) (64 * clsHn p.cls)

end Pass

namespace Desc

/-- Whether the operation is MATMUL or MATVEC. -/
def isMat (d : Desc) : Bool := d.opcode = opMatmul || d.opcode = opMatvec

/-- Which operand slots an operation uses (Table 6.8). -/
def usesT0 (d : Desc) : Bool :=
  [opMatmul, opMatvec, opElemwise, opReduce, opNorm, opSoftmax, opAttend, opConvert, opGather, opScatter, opCopy, opColl,
   opScalar, opTload].contains d.opcode
def usesT1 (d : Desc) : Bool :=
  d.isMat || d.opcode = opAttend || (d.opcode = opElemwise && d.subop != 0 && d.subop != 7) ||
  (d.opcode = opNorm && d.t1.used) || (d.opcode = opConvert && d.subop = 1)
def usesT2 (d : Desc) : Bool :=
  [opMatmul, opMatvec, opElemwise, opReduce, opNorm, opSoftmax, opAttend, opConvert, opGather, opScatter, opRng, opCopy,
   opColl, opScalar].contains d.opcode

/-- M, N and K of a matrix operation, from its operands (Table 6.7). -/
def matK (d : Desc) : Nat := if d.t0.trans then d.t0.psize 1 else d.t0.psize 0
def matM (d : Desc) : Nat := if d.t0.prank = 1 then 1 else if d.t0.trans then d.t0.psize 0 else d.t0.psize 1
def matN (d : Desc) : Nat := if d.t1.trans then d.t1.psize 0 else d.t1.psize 1

/-- The sizes of the operation's own outputs, from its operands (Table 6.7, R416, R222); `dv` is the width of ATTEND's
V. -/
def outSizes (d : Desc) (dv : Nat) : List Nat :=
  let b := (List.range 3).map fun i => max (d.t0.psize (i + 2)) (d.t1.psize (i + 2))
  let bs := b.take (max d.t0.prank d.t1.prank - 2)
  if d.isMat then [d.matN, d.matM] ++ bs
  else if d.opcode = opAttend then [dv, d.matM] ++ bs
  else if d.opcode = opReduce then (if d.t0.prank ≤ 1 then [1] else d.t0.psizes.eraseIdx d.axis)
  else if d.opcode = opConvert ∧ d.subop = 1 then d.t1.psizes
  else if d.usesT0 then d.t0.psizes
  else d.slot2.psizes

/-- The tensor over which outputs are formed: T2; under a fused REDUCE_SCATTER, whose T2 holds a share only, a dense
tensor of the operation's own output sizes (R222). -/
def outTensor (d : Desc) (dv : Nat) : Tensor :=
  if d.collPost = 3 ∧ d.opcode ≠ opColl then denseTensor d.slot2 d.slot2.addr (d.outSizes dv) else d.slot2

/-- The same where V's width does not matter. -/
def t2 (d : Desc) : Tensor := d.outTensor 1

/-- Whether the outputs come from accumulator groups (R156, R419, R158). -/
def groupOutputs (d : Desc) : Bool :=
  d.isMat || (d.opcode = opElemwise && d.subop ≤ 4) || (d.opcode = opReduce && d.subop ≤ 1)

/-- The pair of formats whose group an operation forms (R27, R79, R205). -/
def pair (d : Desc) : Fmt × Fmt :=
  if d.isMat || d.opcode = opAttend || (d.opcode = opElemwise && d.usesT1) then (d.t0.fmt, d.t1.fmt)
  else (d.t0.fmt, d.t0.fmt)

/-- Class of the operation: 0 C8 to 3 C64 (R27, R114, R417). -/
def cls (d : Desc) : Nat :=
  if d.isMat && d.raw then (if d.rawAW ≤ 6 ∧ d.rawBW ≤ 6 then 0 else 1)
  else if d.opcode = opConvert then ((if d.subop = 1 then d.t1.fmt else d.t0.fmt).cls.getD 1)
  else if d.opcode = opRng then d.t2.fmt.cls.getD 1
  else
    widthCls (pairWidth d.pair.1 d.pair.2)

/-- Width of the groups. -/
def gw (d : Desc) : Nat := clsWidth d.cls

/-- Anchor of the groups (R64 to R66); raw integer mode adds at bit 0 (R114). -/
def ganchor (d : Desc) : Int :=
  if d.isMat && d.raw then 0 else pairAnchor d.pair.1 d.pair.2 d.anchor

/-- The retemper format of a T2 format (Table 7.5). -/
def retemperFmt : Fmt → Option Nat
  | .posit8 | .sp8 => some 0x11
  | .posit16 => some 0x12
  | .e4m3 | .e5m2 | .e2m3 | .e3m2 | .e2m1 => some 0x21
  | .binary16 | .bfloat16 => some 0x22
  | .cb4 | .cb4e => some 0x10
  | .int4 => some 0x42
  | .uint4 => some 0x43
  | .int8 | .uint8 => some 0x44
  | .int16 => some 0x45
  | _ => none

/-- The retemper tensor (R187). -/
def rtTensor (d : Desc) : Tensor :=
  { d.t2 with addr := d.rtAddr, fmtCode := (retemperFmt d.t2.fmt).getD d.t2.fmtCode, gptr := 0, sbag := 0,
              quire := false }

/-- Whether a MATMUL or MATVEC runs in strip mode (Table 5.1). -/
def strip (d : Desc) : Bool := d.opcode = opMatvec || (d.opcode = opMatmul && d.matM ≤ 32)

/-- Rows and columns of an outer-mode tile block (Table 5.2). -/
def hm (d : Desc) : Nat := clsHm d.cls
def hn (d : Desc) : Nat := clsHn d.cls

/-- Length of a K-chunk (R124). -/
def kc (d : Desc) : Nat := 2048 / 2 ^ d.cls

/-- K-part of index k under SPLITK = n: whole chunks, dealt round the chain (R130). -/
def kpart (d : Desc) (k : Nat) : Nat := k / d.kc % max 1 d.splitk

/-- Batch positions: the product of T2's dimensions 2 to 4 (R122, R149). -/
def batches (d : Desc) : Nat := (d.t2.psizes.drop 2).foldl (· * ·) 1

/-- Number of output elements. -/
def outCount (d : Desc) : Nat := d.t2.count

/-- Placements of MATMUL and MATVEC (R122, R137). -/
def matPlacements (d : Desc) : Nat :=
  let n := max 1 d.splitk
  if d.strip then
    -- blocks of 32 outputs, 4,096 ÷ SPLITK of them to a placement
    ceilDiv (d.batches * ceilDiv d.matN 32) (4096 / n)
  else
    -- a relay placement holds 64 ÷ n chains of 64 blocks
    d.batches * ceilDiv d.matM (64 * d.hm / n) * ceilDiv d.matN (64 * d.hn)

/-- Steps per term of a pair: K indices per step in C8 and C16, steps per index else (Table 5.2, R129). -/
def pairSteps (c : Nat) (p : Fmt × Fmt) (k : Nat) : Nat :=
  match c with
  | 0 | 1 => ceilDiv k 2
  | 2 => if p.1 = .posit32 ∨ p.2 = .posit32 then 3 * k else k
  | _ => 4 * k

/-- Steps that `k` indices take in the class of the operation. -/
def stepsFor (d : Desc) (k : Nat) : Nat := pairSteps d.cls d.pair k

/-- Row segment length of strip mode for a range of `kt` indices (R134). -/
def segLen (d : Desc) (kt : Nat) : Nat :=
  let g := if d.t1.gptr != 0 then d.t1.gsize else 2
  ceilDiv kt (32 * g) * g

/-- Indices of K-part 0, the longest part (R130). -/
def kpart0 (d : Desc) : Nat := ((List.range d.matK).filter fun k => d.kpart k == 0).length

/-- The anchor a1 of the row statistics (R80). -/
def statAnchor (d : Desc) : Int := if d.anchor = anchorAuto then d.t0.fmt.varAnchor d.t0.scaled else d.anchor

/-- The sizes of T0 without AXIS: one for each row. -/
def restSizes (d : Desc) : List Nat := d.t0.psizes.eraseIdx d.axis

/-- The pair of ATTEND's second pass (R205). -/
def attendPair (vt : Tensor) : Fmt × Fmt := (.posit16, vt.fmt)

/-- The passes of an array operation that is no matrix product; `vt` is ATTEND's V. CONVERT and RNG_FILL take Hm steps for a
block (R417), ATTEND the steps of two products Q K and one product P V (R205); where the spec counts no steps, each row of a
block is one step for each term of an output (log entry 13, DESIGN CHOICE). The selections MAX, MIN and DROPOUT and SOFTMAX
form no groups. -/
def passes (d : Desc) (vt : Tensor) : List Pass :=
  let rows (n : Nat) : Nat := clsHm d.cls * max 1 n
  let len := d.t0.psize d.axis
  let stat (c : Nat) (a : Int) : Pass := { cls := c, sizes := d.restSizes, anchor := a, steps := clsHm c * max 1 len }
  let own (g : Bool) (n : Nat) : List Pass :=
    [{ cls := d.cls, sizes := d.t2.psizes, grouped := g, anchor := d.ganchor, steps := rows n }]
  if d.opcode = opElemwise then own (d.subop ≤ 4) (if d.subop = 1 ∨ d.subop = 2 then 2 else 1)
  else if d.opcode = opReduce then
    if d.subop = 4 then [stat 2 d.statAnchor, stat 3 (2 * d.statAnchor)] else own (d.subop ≤ 1) len
  else if d.opcode = opNorm then
    if d.subop = 0 then [stat 2 d.statAnchor, stat 3 (2 * d.statAnchor)] else [stat 3 (2 * d.statAnchor)]
  else if d.opcode = opSoftmax then own false 1
  else if d.opcode = opAttend then
    let score : Pass := { cls := d.cls, sizes := [d.matN, d.matM] ++ d.t2.psizes.drop 2, anchor := d.ganchor,
                          steps := max 1 (d.stepsFor d.matK) }
    let pv := attendPair vt
    let w := pairWidth pv.1 pv.2
    [score, score, { cls := widthCls w, sizes := (d.outTensor (if vt.trans then vt.psize 0 else vt.psize 1)).psizes, anchor := defaultAnchor pv.1 pv.2 w - 96,
                     steps := max 1 (pairSteps (widthCls w) pv d.matN) }]
  else if d.opcode = opConvert ∨ d.opcode = opRng then
    [{ cls := d.cls, sizes := d.t2.psizes, lin := true, grouped := false, steps := clsHm d.cls }]
  else []

/-- Placements of an array operation. -/
def placements (d : Desc) (vt : Tensor) : Nat :=
  if d.isMat then d.matPlacements else ((d.passes vt).map fun p => p.placements).foldl max 0

/-- S of R300: the steps that one logical tile issues over all placements. -/
def steps (d : Desc) (vt : Tensor) : Nat :=
  if d.isMat then
    d.matPlacements * (if d.strip then d.matM * d.segLen d.kpart0 else d.stepsFor d.kpart0)
  else ((d.passes vt).map fun p => p.placements * p.steps).sum

/-- Cost of R300. -/
def cost (d : Desc) (vt : Tensor) : Nat := if isArrayOp d.opcode then max 1 (ceilDiv (d.steps vt) 4096) else 1

/-- Whether a strip pass uses product tables (R181): class C8 with CB4 or CB4E weights. -/
def prodTables (d : Desc) : Bool := d.isMat && d.strip && d.cls = 0 && d.t1.fmt.codebook

end Desc

end Sys2Proof.Machine
end

