-- ==== Sys2Proof/Machine/OpCompute.lean ====
section
/-! DEFINITION. OpCompute: what an operation computes from its descriptor and memory, before anything is written: the
outputs of MATMUL, MATVEC, ELEMWISE, REDUCE, NORM, SOFTMAX, ATTEND, GATHER, COPY, SCATTER_ACC and RNG_FILL, the epilogue
and the counts (R156, R119 to R138, R202 to R211, R280, R416, R419). -/

namespace Sys2Proof.Machine

/-- A ledger event (Tables 6.14 and 6.15). -/
structure LEvent where
  cause : Nat
  kIdx : Nat := 0
  aAddr : Nat := 0
  bAddr : Nat := 0
  outIdx : Nat := 0
  detail : Nat := 0
  /-- bits [47:0] of word 1: the cell fields, where they are known already (R418) -/
  cell : Nat := 0
  /-- the event arose outside a cell: in the saddlebag lane -/
  lane : Bool := false
  /-- the pass of the array and the group in it, where the group is not that of the output -/
  pass : Nat := 0
  grp : Option Nat := none
  deriving DecidableEq, Repr

/-- One output element as delivered. -/
structure OutElem where
  idx : Nat
  code : Nat
  cat : Cat := .plain
  sLo : Bool := false
  sHi : Bool := false
  infZero : Nat := 0
  evs : List LEvent := []
  deriving DecidableEq, Repr

/-- Bits to write: bit address, width, value. -/
abbrev BitWrite := Nat × Nat × Nat

/-- What a run of an operation yields. -/
structure RunOut where
  outs : List OutElem := []
  /-- writes beside T2's elements: group arrays, saddlebags, zero sums, quire updates -/
  extra : List BitWrite := []
  evs : List LEvent := []
  gaugeRun : Nat := 0
  gaugeSkip : Nat := 0
  sbFull : Nat := 0
  retempers : Nat := 0
  spillHi : Nat := 0
  spillLo : Nat := 0
  infZero : Nat := 0
  narOut : Nat := 0
  /-- a write list held an index out of range (R147) -/
  badIndex : Bool := false
  /-- the tensor that the outputs go to: T2, or the retemper tensor (R189) -/
  dst : Option Tensor := none
  deriving DecidableEq, Repr

/-- What an operation reads beside its descriptor: memory, the step and seed of its selection, and the bound table bank. -/
structure Env where
  d : Desc
  ext : List Word64
  rd : Rd
  t2 : Tensor
  step : Nat
  key : Word64
  attr : Nat → Nat
  seg : Nat → Nat → Seg
  /-- slot 1 of the bound bank holds the built-in exp (R195) -/
  exp1 : Bool := false

/-- The random words of an output element (R208). -/
def Env.words (v : Env) (l : Nat) : List Word32 := randWords v.key v.step v.d.stream l

/-- The word u of R51. -/
def Env.sr (v : Env) (l : Nat) : Word32 := (v.words l).getD 3 0

/-- Element `i` of the bias vector (Table 6.9), decoded. -/
def biasVal (v : Env) (i : Nat) : Val :=
  decodeCode v.d.biasFmt [] (rdBits v.rd (8 * v.d.biasAddr + v.d.biasFmt.bits * i) v.d.biasFmt.bits)

/-- The index in the bias vector of an output element: its column or row, by BIAS_AXIS. -/
def biasIdx (v : Env) (l : Nat) : Nat :=
  let p := unlinear v.t2.psizes l
  if v.d.biasAxis = 0 then p.getD 0 0 else p.getD 1 0

/-- The bias of an output element. -/
def biasOf (v : Env) (l : Nat) : Val := biasVal v (biasIdx v l)

/-- The function of the epilogue (R156, R191) on an exact value; the built-in exp is EXP2 of a × L2E (R195; log entry 111,
DEDUCED). -/
def applyFunc (v : Env) (x : XV) : XV :=
  let a := ofPosit 16 (toPosit16 x)
  fnEval (v.attr v.d.funcSlot) (v.seg v.d.funcSlot) (if v.exp1 && v.d.funcSlot == 1 then a.mul l2e else a)

/-- The scale of the epilogue (R156). -/
def epiScaled (v : Env) (x : XV) : XV := if v.d.scaleEn then x.mul (ofPosit 32 v.d.epiScale) else x

/-- Steps of R156 from the scaled value on: function, delivery to T2's format; SR draws at index `l`. -/
def epilogueEnd (v : Env) (l : Nat) (x : XV) : Delivered :=
  deliverXV v.t2.fmt v.d.mode v.d.sat (v.sr l) (if v.d.funcEn then applyFunc v x else x)

/-- Steps of R156 from the exact value on: scale, function, delivery. -/
def epilogueX (v : Env) (l : Nat) (x : XV) : Delivered := epilogueEnd v l (epiScaled v x)

/-- The epilogue of an output that comes from an exact value and no group (R81, R204, R206, R419): bias, scale,
function, delivery. -/
def epilogueExact (v : Env) (l : Nat) (useBias : Bool) (x : XV) : OutElem :=
  let x1 := if useBias ∧ v.d.biasAddr ≠ 0 then x.add (xvOfVal (biasOf v l)) else x
  let r := epilogueX v l x1
  { idx := l, code := r.code, cat := r.cat }

/-- The bias as a term of the group, if there is one (R156). -/
def biasTerms (v : Env) (l w : Nat) (a : Int) : List Term :=
  if v.d.biasAddr = 0 then [] else [unitTerm w a (biasOf v l)]

/-- The exact group of an output after every term of the epilogue and the range test (R156, R71). -/
def closedGroup (v : Env) (l w : Nat) (a : Int) (g : Grp) (more : List Term) : Grp :=
  ((g.addAll w more).addAll w (biasTerms v l w a)).rangeTest w

/-- Delivery of a closed group (R156): a quire tensor takes it unrounded (R46). -/
def deliverGroup (v : Env) (l : Nat) (a : Int) (g : Grp) : Delivered :=
  match v.t2.fmt.quireW with
  | some q =>
    { code := quireStore q g, cat := if g.nar || g.sHi then .narOut else .plain }
  | none =>
    if g.nar || g.sHi then deliverNar v.t2.fmt else epilogueEnd v l (epiScaled v (xvRat g.v 1 a)).unsignedZero

/-- The element 1.0, for terms x times 1.0. -/
def elemOne : Elem := { val := valOne }

/-- The ledger events of one term of two elements (Table 6.14). -/
def termEvents (w : Nat) (a : Int) (l k : Nat) (x y : Elem) : List LEvent :=
  let ev (c : Nat) : LEvent := { cause := c, kIdx := k, aAddr := x.addr, bAddr := y.addr, outIdx := l }
  let t := prodTerm w a x.val y.val
  if x.scaleNan || y.scaleNan then [ev 0x03]
  else if x.cbWide || y.cbWide then [ev 0x07]
  else match x.val, y.val with
    | .nar, _ => [ev 0x01]
    | _, .nar => [ev 0x01]
    | .zero _, .inf _ => [ev 0x02]
    | .inf _, .zero _ => [ev 0x02]
    | .inf _, _ => [ev 0x04]
    | _, .inf _ => [ev 0x04]
    | _, _ => if t.sHi then [ev 0x05] else []

/-- Events of a pass and of a group in it. -/
def inPass (i : Nat) (g : Option Nat) (l : List LEvent) : List LEvent := l.map fun e => { e with pass := i, grp := g }

/-- Ledger events of a term that the epilogue or the start adds, outside the cells. -/
def outsideEvents (w : Nat) (a : Int) (l : Nat) (x : Elem) : List LEvent :=
  (termEvents w a l 0 x elemOne).map fun e => { e with lane := true }

/-- The ledger events of the bias term (R168). -/
def biasEvents (v : Env) (l w : Nat) (a : Int) : List LEvent :=
  if v.d.biasAddr = 0 then []
  else outsideEvents w a l { val := biasOf v l, addr := v.d.biasAddr + v.d.biasFmt.bits * biasIdx v l / 8 }

/-- The epilogue of R156 on a group. `more` are the zero-point and saddlebag terms. -/
def epilogueGrp (v : Env) (l w : Nat) (a : Int) (g : Grp) (more : List Term) (infZero : Nat) (evs : List LEvent) :
    OutElem :=
  let open1 := (g.addAll w more).addAll w (biasTerms v l w a)
  let c := open1.rangeTest w
  let r := deliverGroup v l a c
  { idx := l, code := r.code, cat := r.cat, sLo := c.sLo, sHi := c.sHi, infZero := infZero,
    evs := evs ++ biasEvents v l w a ++ (if c.sHi && !open1.sHi then [{ cause := 0x06, outIdx := l }] else []) }

/-- The CB_WIDE events of elements that an output reads without forming a term (R43). -/
def wideEvents (l : Nat) (es : List Elem) : List LEvent :=
  (es.filter fun e => e.cbWide).map fun e => { cause := 0x07, kIdx := l, aAddr := e.addr, outIdx := l, lane := true }

/-- Terms of ZERO × INF among a list of element pairs. -/
def countInfZero (ps : List (Elem × Elem)) : Nat :=
  (ps.filter fun p => match p.1.val, p.2.val with
    | .zero _, .inf _ => true
    | .inf _, .zero _ => true
    | _, _ => false).length

/-- The starting group of an output under ACC (R69), and its terms. -/
def startGroup (v : Env) (l w : Nat) (a : Int) : Grp :=
  if v.d.acc then
    let e := v.t2.elemAt v.rd l
    match v.t2.fmt.quireW with
    | some q => quireLoad q e.code
    | none => unitTerm w a e.val
  else {}

/-- The ledger events of an accumulated starting value that enters as a term (R69, R168). -/
def startEvents (v : Env) (l w : Nat) (a : Int) : List LEvent :=
  if v.d.acc ∧ !v.t2.fmt.isQuire then outsideEvents w a l (v.t2.elemAt v.rd l) else []

/-- The group of an output formed from a list of element pairs, one term each, as the array leaves it. -/
def pairsGrp (v : Env) (l w : Nat) (a : Int) (ps : List (Elem × Elem)) : Grp :=
  (startGroup v l w a).addAll w (ps.map fun p => prodTerm w a p.1.val p.2.val)

/-- An output formed from a list of element pairs, whose group is `g`. -/
def pairsFrom (v : Env) (l w : Nat) (a : Int) (g : Grp) (ps : List (Elem × Elem)) : OutElem :=
  epilogueGrp v l w a g [] (countInfZero ps)
    (startEvents v l w a ++ (List.range ps.length).flatMap fun k => match ps[k]? with
      | some p => termEvents w a l k p.1 p.2
      | none => [])

/-- An output formed from a list of element pairs. -/
def pairsOut (v : Env) (l w : Nat) (a : Int) (ps : List (Elem × Elem)) : OutElem :=
  pairsFrom v l w a (pairsGrp v l w a ps) ps

/-- Index events of a LIST tensor: one for each index out of range (R147). -/
def listEvents (t : Tensor) (rd : Rd) : List LEvent :=
  if t.used && t.mode = .list then
    ((List.range (t.size 1)).filter fun i => t.listRows ≤ t.listIdx rd i).map fun i => { cause := 0x09, kIdx := i }
  else []

/-! ### Matrix products -/

/-- Broadcast of batch indices to an operand (R149). -/
def batchIdx (t : Tensor) (b : List Nat) : List Nat :=
  (List.range (t.prank - 2)).map fun i => if t.psize (i + 2) = 1 then 0 else b.getD i 0

/-- The presented indices of A at (m, k) of a batch position. -/
def aIdx (d : Desc) (b : List Nat) (m k : Nat) : List Nat :=
  if d.t0.prank = 1 then [k] else (if d.t0.trans then [m, k] else [k, m]) ++ batchIdx d.t0 b

/-- The presented indices of B at (k, n) of a batch position. -/
def bIdx (d : Desc) (b : List Nat) (k n : Nat) : List Nat :=
  (if d.t1.trans then [n, k] else [k, n]) ++ batchIdx d.t1 b

/-- The A element at (m, k) of a batch position. -/
def aElem (v : Env) (b : List Nat) (m k : Nat) : Elem := v.d.t0.elem v.rd (aIdx v.d b m k)

/-- The B element at (k, n) of a batch position. -/
def bElem (v : Env) (b : List Nat) (k n : Nat) : Elem := v.d.t1.elem v.rd (bIdx v.d b k n)

/-- An element as a raw integer (R114): the low bits of its pattern. -/
def rawElem (w : Nat) (sg : Bool) (e : Elem) : Elem :=
  { e with val := valOfInt (if sg then signedOf w e.code else (e.code % 2 ^ w : Nat)) 0, scaleNan := false,
           cbWide := false }

/-- The two operands of the term of index k of an output, raw or decoded. -/
def matPair (v : Env) (b : List Nat) (m n k : Nat) : Elem × Elem :=
  let x := aElem v b m k
  let y := bElem v b k n
  if v.d.raw then (rawElem v.d.rawAW v.d.rawAS x, rawElem v.d.rawBW v.d.rawBS y) else (x, y)

/-- Row, column and batch position of an output. -/
def outPos (v : Env) (l : Nat) : Nat × Nat × List Nat :=
  let p := unlinear v.t2.psizes l
  (if v.t2.prank = 1 then 0 else p.getD 1 0, p.getD 0 0, p.drop 2)

/-- The saddlebag lane's products of an output, with their K index (R178): each entry of A times B's full value, and A's
decoded value times each entry of B. -/
def lanePairs (v : Env) (l : Nat) : List (Nat × Elem × Elem) :=
  let ba := v.d.t0.bag v.rd
  let bb := v.d.t1.bag v.rd
  let (m, n, b) := outPos v l
  (List.range v.d.matK).flatMap fun k =>
    let x := aElem v b m k
    let y := bElem v b k n
    let entry (e : Elem) (s : Val) : Elem := { e with val := s, scaleNan := false, cbWide := false }
    (match ba.valueAt x.lin with
      | some s => [(k, entry x s, { y with val := fullVal bb y })]
      | none => []) ++
    (match bb.valueAt y.lin with
      | some s => [(k, x, entry y s)]
      | none => [])

/-- The first K index at which a saddlebag that is not well formed poisons the output's group, with its elements
(R174). -/
def poisonAt (v : Env) (l : Nat) : Option (Nat × Elem × Elem) :=
  let ba := v.d.t0.bag v.rd
  let bb := v.d.t1.bag v.rd
  let (m, n, b) := outPos v l
  ((List.range v.d.matK).map fun k => (k, aElem v b m k, bElem v b k n)).find? fun p =>
    ba.poisons p.2.1 || bb.poisons p.2.2

/-- The saddlebag lane's terms of an output (R178); a poisoned group receives NAR (R174). -/
def laneTerms (v : Env) (l w : Nat) (a : Int) : List Term :=
  (lanePairs v l).map (fun p => prodTerm w a p.2.1.val p.2.2.val) ++
    (if (poisonAt v l).isSome then [{ nar := true }] else [])

/-- The ledger events of the saddlebag lane of an output: one NAR_IN event for a poisoned group (R174), and those of its
terms (Table 6.14). -/
def laneEvents (v : Env) (l : Nat) : List LEvent :=
  ((match poisonAt v l with
    | some (k, x, y) => [{ cause := 0x01, kIdx := k, aAddr := x.addr, bAddr := y.addr, outIdx := l }]
    | none => []) ++
   (lanePairs v l).flatMap fun p => termEvents v.d.gw v.d.ganchor l p.1 p.2.1 p.2.2).map fun e => { e with lane := true }

/-- Terms of ZERO × INF in the saddlebag lane. -/
def laneInfZero (v : Env) (l : Nat) : Nat := countInfZero ((lanePairs v l).map (·.2))

/-- An activation code as the integer that Sa(m) adds (R184). -/
def codeInt (t : Tensor) (c : Nat) : Int :=
  match t.fmt.int with
  | some (sg, w) => if sg then signedOf w c else c
  | none => 0

/-- The sum of the activation codes of row m (R184). -/
def actSum (v : Env) (b : List Nat) (m : Nat) : Int :=
  ((List.range v.d.matK).map fun k => codeInt v.d.t0 (aElem v b m k).code).sum

/-- The zero-point correction term of an output from its sum of activation codes (R184), if ZP_EN is 1. -/
def zpTermsOf (v : Env) (l w : Nat) (a sa : Int) : List Term :=
  if v.d.zpEn then
    let (_, n, b) := outPos v l
    let beta := linear (v.t2.psizes.drop 2) b
    let sw := signedOf 64 (rdNat v.rd (v.d.zsumAddr + 8 * (n + v.d.matN * beta)) 8)
    let zA := v.d.zpA
    let zB := v.d.zpB
    [unitTerm w a (valOfInt (-(zB * sa) - zA * sw + v.d.matK * zA * zB) 0)]
  else []

/-- The ledger events of zero-point terms: too large ones (R168). -/
def zpEvents (l : Nat) (ts : List Term) : List LEvent :=
  (ts.filter fun (t : Term) => t.sHi).map fun _ => { cause := 0x05, outIdx := l, lane := true }

/-- The same with the activation codes summed over all K. -/
def zpTerms (v : Env) (l w : Nat) (a : Int) : List Term :=
  let (m, _, b) := outPos v l
  zpTermsOf v l w a (actSum v b m)

/-- The array's group of an output, restricted to the indices that `sel` admits. -/
def matGroup (v : Env) (l : Nat) (sel : Nat → Bool) (start : Grp) : Grp :=
  let w := v.d.gw
  let a := v.d.ganchor
  let (m, n, b) := outPos v l
  start.addAll w (((List.range v.d.matK).filter sel).map fun k =>
    let p := matPair v b m n k
    prodTerm w a p.1.val p.2.val)

/-- One output of MATMUL or MATVEC. -/
def matOut (v : Env) (l : Nat) : OutElem :=
  let w := v.d.gw
  let a := v.d.ganchor
  let (m, n, b) := outPos v l
  let ks := List.range v.d.matK
  let ps := ks.map fun k => matPair v b m n k
  let g := matGroup v l (fun _ => true) (startGroup v l w a)
  epilogueGrp v l w a g (zpTerms v l w a ++ laneTerms v l w a) (countInfZero ps + laneInfZero v l)
    (startEvents v l w a ++ (ks.flatMap fun k => let p := matPair v b m n k; termEvents w a l k p.1 p.2) ++
      zpEvents l (zpTerms v l w a) ++ laneEvents v l)

/-- Whether an output's array group carries a SPILL flag in K-part t when it is drained; the last part holds the
starting values (R96, R131). -/
def partSpills (v : Env) (l t : Nat) : Bool :=
  let n := max 1 v.d.splitk
  let st := if t = n - 1 then startGroup v l v.d.gw v.d.ganchor else {}
  let g := matGroup v l (fun k => v.d.kpart k == t) st
  g.sLo || g.sHi

/-- The tile block of an output, as a number (R121, R122, R134). -/
def blockOf (v : Env) (l : Nat) : Nat :=
  let (m, n, b) := outPos v l
  let beta := linear (v.t2.psizes.drop 2) b
  if v.d.strip then (beta * v.d.matM + m) * ceilDiv v.d.matN 32 + n / 32
  else (beta * ceilDiv v.d.matM v.d.hm + m / v.d.hm) * ceilDiv v.d.matN v.d.hn + n / v.d.hn

/-- Blocks checked and skipped of a matrix operation: each block that holds an output, in each part of its chain. -/
def matGauge (v : Env) : Nat × Nat :=
  let n := max 1 v.d.splitk
  let cells := (List.range v.t2.count).flatMap fun l => (List.range n).map fun t => (blockOf v l * n + t, partSpills v l t)
  let blocks := (cells.map (·.1)).eraseDups
  let bad := ((cells.filter (·.2)).map (·.1)).eraseDups
  (blocks.length - bad.length, bad.length)

/-- MATMUL and MATVEC (R119 to R137). -/
def runMat (v : Env) : RunOut :=
  let g := matGauge v
  { outs := (List.range v.t2.count).map (matOut v), gaugeRun := g.1, gaugeSkip := g.2,
    evs := listEvents v.d.t0 v.rd ++ listEvents v.d.t1 v.rd }

/-! ### ELEMWISE -/

/-- The b element that meets index list p, broadcast along dimensions of size 1 (R416). -/
def bcastElem (t : Tensor) (rd : Rd) (p : List Nat) : Elem :=
  t.elem rd ((List.range t.prank).map fun i => if t.psize i = 1 then 0 else p.getD i 0)

/-- An element negated. -/
def Elem.negated (e : Elem) : Elem :=
  { e with val := match e.val with
    | .fin n m x => .fin (!n) m x
    | .inf n => .inf !n
    | .zero n => .zero !n
    | .nar => .nar }

/-- Whether y is selected over x by MAX, or by MIN: NAR above every other value, -0 below +0 (R154). -/
def selects (isMax : Bool) (x y : Val) : Bool :=
  let below (p q : Val) : Bool := match p, q with
    | .nar, _ => false
    | _, .nar => true
    | .zero n, .zero m => n && !m
    | p, q => (xvOfVal p).lt (xvOfVal q)
  if isMax then below x y else below y x

/-- The exact selection of a list of values. -/
def selectVal (isMax : Bool) : List Val → Val
  | [] => .zero false
  | x :: t => t.foldl (fun s y => if selects isMax s y then y else s) x

/-- DROPOUT of one element (R211): a kept one goes through the epilogue as the exact quotient; a dropped one is delivered as
zero. -/
def dropoutOut (v : Env) (l : Nat) (x : Val) : OutElem :=
  let q := v.d.fld 26 31 0
  if x = .nar then epilogueExact v l true .nar
  else if drawBelow ((v.words l).getD 2 0) q then epilogueExact v l true ((xvOfVal x).div (ofPosit 32 q))
  else { idx := l, code := (deliverXV v.t2.fmt v.d.mode v.d.sat (v.sr l) (.zero false)).code }

/-- One output of ELEMWISE (R154, R419, R211). -/
def elemwiseOut (v : Env) (l : Nat) : OutElem :=
  let w := v.d.gw
  let a := v.d.ganchor
  let p := unlinear v.t2.psizes l
  let x := v.d.t0.elem v.rd p
  let y := bcastElem v.d.t1 v.rd p
  let one := elemOne
  match v.d.subop with
  | 0 => pairsOut v l w a [(x, one)]
  | 1 => pairsOut v l w a [(x, one), (one, y)]
  | 2 => pairsOut v l w a [(x, one), (one, y.negated)]
  | 3 => pairsOut v l w a [(x, y)]
  | 4 => pairsOut v l w a [(x, y)]
  | 5 => { epilogueExact v l true (xvOfVal (selectVal true [x.val, y.val])) with evs := wideEvents l [x, y] }
  | 6 => { epilogueExact v l true (xvOfVal (selectVal false [x.val, y.val])) with evs := wideEvents l [x, y] }
  | _ => { dropoutOut v l x.val with evs := wideEvents l [x] }

/-- ELEMWISE. -/
def runElemwise (v : Env) : RunOut :=
  { outs := (List.range v.t2.count).map (elemwiseOut v), evs := listEvents v.d.t0 v.rd ++ listEvents v.d.t1 v.rd }

/-! ### REDUCE, NORM, SOFTMAX -/

/-- The elements of T0 along AXIS at the l-th index of the other dimensions (R416). -/
def rowElems (v : Env) (l : Nat) : List Elem :=
  let t := v.d.t0
  let ax := v.d.axis
  let rest := unlinear (t.psizes.eraseIdx ax) l
  (List.range (t.psize ax)).map fun i => t.elem v.rd ((rest.take ax) ++ [i] ++ rest.drop ax)

/-- The pairs of operands of an output that comes from one group: MATMUL, MATVEC, ELEMWISE with groups, REDUCE SUM and
SUMSQ. -/
def opPairs (v : Env) (l : Nat) : List (Elem × Elem) :=
  let d := v.d
  if d.isMat then
    let (m, n, b) := outPos v l
    (List.range d.matK).map fun k => matPair v b m n k
  else if d.opcode = opElemwise then
    let p := unlinear v.t2.psizes l
    let x := d.t0.elem v.rd p
    let y := bcastElem d.t1 v.rd p
    match d.subop with
    | 0 => [(x, elemOne)]
    | 1 => [(x, elemOne), (elemOne, y)]
    | 2 => [(x, elemOne), (elemOne, y.negated)]
    | _ => [(x, y)]
  else (rowElems v l).map fun e => (e, if d.subop = 0 then elemOne else e)

/-- The groups S1 and S2 of a row (R80): widths 512 and 1,024, anchors a1 and 2 a1. -/
def varAnchor1 (v : Env) : Int := v.d.statAnchor
def openS1 (v : Env) (es : List Elem) : Grp :=
  ({} : Grp).addAll 512 (es.map fun e => unitTerm 512 (varAnchor1 v) e.val)
def openS2 (v : Env) (es : List Elem) : Grp :=
  ({} : Grp).addAll 1024 (es.map fun e => prodTerm 1024 (2 * varAnchor1 v) e.val e.val)
def rowS1 (v : Env) (es : List Elem) : Grp := (openS1 v es).rangeTest 512
def rowS2 (v : Env) (es : List Elem) : Grp := (openS2 v es).rangeTest 1024

/-- The RANGE events of S1 and S2 as the finisher takes them (R71, R168). -/
def rowRange (v : Env) (l : Nat) (two : Bool) (es : List Elem) : List LEvent :=
  let fails (g c : Grp) : List LEvent := if c.sHi && !g.sHi then [{ cause := 0x06, outIdx := l }] else []
  (if two then fails (openS1 v es) (rowS1 v es) else []) ++ fails (openS2 v es) (rowS2 v es)

/-- D of R81 and the ORed flags. -/
def finisherD (n : Nat) (s1 s2 : Grp) : Grp :=
  let d : Int := n * s2.v - s1.v * s1.v
  let d' := if d < 0 then 0 else d
  { v := d', nar := s1.nar || s2.nar, sLo := s1.sLo || s2.sLo, sHi := s1.sHi || s2.sHi || decide (2 ^ 1023 ≤ d') }

/-- The variance of a row (R81), exactly. -/
def finisherVar (a1 : Int) (n : Nat) (d : Grp) : XV :=
  if d.nar || d.sHi then .nar else xvRat d.v (n * n) (2 * a1)

/-- The mean of a row (R81), exactly. -/
def finisherMean (a1 : Int) (n : Nat) (s1 : Grp) : XV :=
  if s1.nar || s1.sHi then .nar else xvRat s1.v n a1

/-- Ledger events of the unit or square terms of a row. -/
def rowEvents (w : Nat) (a : Int) (l : Nat) (sq : Bool) (es : List Elem) : List LEvent :=
  (List.range es.length).flatMap fun k => match es[k]? with
    | some e => termEvents w a l k e (if sq then e else elemOne)
    | none => []

/-- One output of REDUCE (R79, R81, R419). -/
def reduceOut (v : Env) (l : Nat) : OutElem :=
  let w := v.d.gw
  let a := v.d.ganchor
  let es := rowElems v l
  match v.d.subop with
  | 0 => pairsOut v l w a (es.map fun e => (e, elemOne))
  | 1 => pairsOut v l w a (es.map fun e => (e, e))
  | 2 => { epilogueExact v l true (xvOfVal (selectVal true (es.map (·.val)))) with evs := wideEvents l es }
  | 3 => { epilogueExact v l true (xvOfVal (selectVal false (es.map (·.val)))) with evs := wideEvents l es }
  | _ =>
    let a1 := varAnchor1 v
    let d := finisherD es.length (rowS1 v es) (rowS2 v es)
    let o := epilogueExact v l true (finisherVar a1 es.length d)
    { o with sLo := d.sLo, sHi := d.sHi, infZero := countInfZero (es.map fun e => (e, e)),
             evs := rowEvents 512 a1 l false es ++ inPass 1 none (rowEvents 1024 (2 * a1) l true es) ++ rowRange v l true es }

/-- REDUCE. -/
def runReduce (v : Env) : RunOut :=
  { outs := (List.range v.t2.count).map (reduceOut v), evs := listEvents v.d.t0 v.rd }

/-- Number of rows along AXIS, and the row and position of an element. -/
def rowCount (v : Env) : Nat := (v.d.t0.psizes.eraseIdx v.d.axis).foldl (· * ·) 1
def rowOf (v : Env) (l : Nat) : Nat :=
  let p := unlinear v.d.t0.psizes l
  linear (v.d.t0.psizes.eraseIdx v.d.axis) (p.eraseIdx v.d.axis)
def posOf (v : Env) (l : Nat) : Nat := (unlinear v.d.t0.psizes l).getD v.d.axis 0

/-- r = d^(-1/2) in posit32, from d rounded to posit32 (R206); none when d is zero, negative or NaR. -/
def normR (d : XV) : Option XV :=
  match decodePosit 32 (deliverXV .posit32 .rne false 0 d).code with
  | .fin false m e => some (ofPosit 32 (deliverXV .posit32 .rne false 0 (.fin false (invSqrt m e))).code)
  | _ => none

/-- z of R206 before the bias: the normalised value of element x of a row. -/
def normZ (v : Env) (es : List Elem) (x gamma : XV) : XV :=
  let a1 := varAnchor1 v
  let n := es.length
  let s1 := rowS1 v es
  let s2 := rowS2 v es
  let eps := ofPosit 32 (v.d.fld 27 31 0)
  let spoiled : Bool := s2.nar || s2.sHi || (v.d.subop == 0 && (s1.nar || s1.sHi))
  let dgrp := finisherD n s1 s2
  let base : XV := if v.d.subop = 0 then finisherVar a1 n dgrp else xvRat s2.v n (2 * a1)
  if spoiled then .nar
  else match normR (base.add eps) with
    | none => .nar
    | some r =>
      if v.d.subop = 0 then
        ((((xvRat n 1 0).mul x).sub (xvRat s1.v 1 a1)).mul r |>.mul gamma).div (xvRat n 1 0)
      else (x.mul r).mul gamma

/-- One output of NORM (R206). -/
def normOut (v : Env) (l : Nat) : OutElem :=
  let es := rowElems v (rowOf v l)
  let i := posOf v l
  let x := xvOfVal (es.getD i elemOne).val
  let gamma := if v.d.t1.used then xvOfVal (v.d.t1.elem v.rd [i]).val else xvOfVal valOne
  let z := normZ v es x gamma
  let z' := if v.d.biasAddr ≠ 0 then z.add (xvOfVal (biasVal v i)) else z
  let g := if v.d.subop = 0 then finisherD es.length (rowS1 v es) (rowS2 v es) else rowS2 v es
  let o := epilogueExact v l false z'
  { o with sLo := g.sLo, sHi := g.sHi }

/-- The first output of a row. -/
def rowFirst (v : Env) (r : Nat) : Nat :=
  let ax := v.d.axis
  let rest := unlinear (v.d.t0.psizes.eraseIdx ax) r
  linear v.d.t0.psizes (rest.take ax ++ [0] ++ rest.drop ax)

/-- The events of the statistics terms and groups of every row, reported with the row's first output (log entry 109,
DESIGN CHOICE). -/
def statEvents (v : Env) (two : Bool) : List LEvent :=
  (List.range (rowCount v)).flatMap fun r =>
    let es := rowElems v r
    let l := rowFirst v r
    (if two then inPass 0 (some r) (rowEvents 512 (varAnchor1 v) l false es) else []) ++
      inPass two.toNat (some r) (rowEvents 1024 (2 * varAnchor1 v) l true es) ++ rowRange v l two es

/-- NORM. -/
def runNorm (v : Env) : RunOut :=
  let two : Bool := v.d.subop == 0
  { outs := (List.range v.t2.count).map (normOut v),
    evs := listEvents v.d.t0 v.rd ++ statEvents v two ++
      (if v.d.t1.used then (List.range v.d.t1.count).flatMap fun i => wideEvents i [v.d.t1.elemAt v.rd i] else []) }

/-- A softmax element: contributes with (i, units of p), contributes nothing (-INF), or spoils the row (R202). -/
inductive Soft where
  | part (i : Int) (p : Nat)
  | nothing
  | spoil
  deriving DecidableEq, Repr

/-- y of a softmax element: x L2E rounded to posit16 (R202). -/
def softOf (x : XV) : Soft :=
  match x with
  | .nar => .spoil
  | .inf n => if n then .nothing else .spoil
  | x =>
    let y := toPosit16 (x.mul l2e)
    if y = 0x8000 then .spoil
    else let (i, p) := softElem y; .part i (softUnits p)

/-- A row state of R203: M and the bins, by exponent, in units of 2^-11, and SPILL_LO. -/
structure RowState where
  m : Option Int := none
  bins : List (Int × Nat) := []
  sLo : Bool := false
  deriving DecidableEq, Repr

/-- Re-anchor a row state to a maximum of at least `i` (R203). -/
def RowState.anchor (r : RowState) (i : Int) : RowState :=
  let m' := match r.m with
    | none => i
    | some m => max m i
  { m := some m', bins := r.bins.filter fun b => m' - 96 ≤ b.1,
    sLo := r.sLo || r.bins.any fun b => decide (b.1 < m' - 96) && b.2 != 0 }

/-- Add to a bin. -/
def binAdd (j : Int) (p : Nat) : List (Int × Nat) → List (Int × Nat)
  | [] => [(j, p)]
  | (k, q) :: t => if k = j then (k, q + p) :: t else (k, q) :: binAdd j p t

/-- Add an element (R203). -/
def RowState.push (r : RowState) (i : Int) (p : Nat) : RowState :=
  let r' := match r.m with
    | none => r.anchor i
    | some m => if m < i then r.anchor i else r
  if i < r'.m.getD i - 96 then { r' with sLo := true } else { r' with bins := binAdd i p r'.bins }

/-- Merge two row states (R203): M is the maximum of both, each re-anchored, then added. -/
def RowState.merge (r t : RowState) : RowState :=
  match r.m, t.m with
  | none, _ => { t with sLo := t.sLo || r.sLo }
  | _, none => { r with sLo := t.sLo || r.sLo }
  | some a, some b =>
    let r' := r.anchor (max a b)
    let t' := t.anchor (max a b)
    { m := some (max a b), bins := t'.bins.foldl (fun bs e => binAdd e.1 e.2 bs) r'.bins, sLo := r'.sLo || t'.sLo }

/-- S of R203 in units of 2^(M - 107): the sum of the bins. -/
def RowState.total (r : RowState) : Nat :=
  (r.bins.map fun b => b.2 * 2 ^ (b.1 - (r.m.getD 0 - 96)).toNat).sum

/-- The row state of a list of softmax elements. -/
def rowState (es : List Soft) : RowState :=
  es.foldl (fun r e => match e with
    | .part i p => r.push i p
    | _ => r) {}

/-- M is an s16 (R203). A row whose maximum lies outside has outputs that the spec does not state: free values (log entry 110,
DESIGN CHOICE). -/
def RowState.fits (r : RowState) : Bool :=
  match r.m with
  | some m => decide (-32768 ≤ m) && decide (m < 32768)
  | none => true

/-- An output under a row state: as it was formed, or free. -/
def RowState.guard (r : RowState) (v : Env) (l : Nat) (o : OutElem) : OutElem :=
  if r.fits then o else { o with code := (Config.openCode 2 l).toNat % 2 ^ v.t2.w, cat := .plain }

/-- The quotient p 2^(i - M) / S (R204): S is total * 2^-107 in units where p is p * 2^-11. -/
def softQuot (r : RowState) (i : Int) (p : Nat) : XV :=
  (xvRat p 1 (i - r.m.getD i - 11)).div (xvRat r.total 1 (-107))

/-- One output of SOFTMAX. -/
def softmaxOut (v : Env) (l : Nat) : OutElem :=
  let es := (rowElems v (rowOf v l)).map fun e => softOf (xvOfVal e.val)
  let st := rowState es
  let x : XV := if es.any (· == .spoil) then .nar
    else match es.getD (posOf v l) .nothing with
      | .part i p => softQuot st i p
      | _ => .zero false
  { st.guard v l (epilogueExact v l false x) with sLo := st.sLo, evs := wideEvents l [v.d.t0.elem v.rd (unlinear v.d.t0.psizes l)] }

/-- SOFTMAX (R202 to R204). -/
def runSoftmax (v : Env) : RunOut :=
  { outs := (List.range v.t2.count).map (softmaxOut v), evs := listEvents v.d.t0 v.rd }

/-! ### ATTEND -/

/-- The V tensor. -/
def attendV (v : Env) : Tensor := parseTensor v.ext

/-- The V element at key j, column c of a batch position. -/
def vElem (v : Env) (b : List Nat) (j c : Nat) : Elem :=
  let t := attendV v
  t.elem v.rd ((if t.trans then [c, j] else [j, c]) ++ batchIdx t b)

/-- Whether key j is masked for query m (R205). -/
def masked (v : Env) (m j : Nat) : Bool :=
  v.d.fld 27 0 0 == 1 && decide ((m : Int) + v.d.matN - v.d.matM < j)

/-- The element pairs of score g(m, j). -/
def scorePairs (v : Env) (b : List Nat) (m j : Nat) : List (Elem × Elem) :=
  (List.range v.d.matK).map fun k => (aElem v b m k, bElem v b k j)

/-- The score group before its range test. -/
def scoreOpen (v : Env) (b : List Nat) (m j : Nat) : Grp :=
  ({} : Grp).addAll v.d.gw ((scorePairs v b m j).map fun p => prodTerm v.d.gw v.d.ganchor p.1.val p.2.val)

/-- The score group, closed. -/
def scoreGrp (v : Env) (b : List Nat) (m j : Nat) : Grp := (scoreOpen v b m j).rangeTest v.d.gw

/-- The ledger events of one pass over the terms of a score, reported with an output of its query row (log entry 93,
DEDUCED). -/
def scoreEvents (v : Env) (l : Nat) (b : List Nat) (m j : Nat) : List LEvent :=
  inPass 0 (some (linear ([v.d.matN, v.d.matM] ++ v.t2.psizes.drop 2) ([j, m] ++ b)))
    ((scorePairs v b m j).zipIdx.flatMap fun p => termEvents v.d.gw v.d.ganchor l p.2 p.1.1 p.1.2) ++
    (if (scoreGrp v b m j).sHi && !(scoreOpen v b m j).sHi then [{ cause := 0x06, outIdx := l }] else [])

/-- The softmax element of a score: y = g 2^a c L2E rounded to posit16 (R205). -/
def scoreSoft (v : Env) (b : List Nat) (m j : Nat) : Soft :=
  let x := (xvGrp v.d.ganchor (scoreGrp v b m j)).mul (ofPosit 16 (v.d.fld 27 31 16))
  softOf x

/-- The keys that query m sees. -/
def keysOf (v : Env) (m : Nat) : List Nat := (List.range v.d.matN).filter fun j => !masked v m j

/-- The row state of a query row, after pass 1. -/
def scoreState (v : Env) (b : List Nat) (m : Nat) : RowState := rowState ((keysOf v m).map (scoreSoft v b m))

/-- Width and anchor of the pass 2 groups (R205). -/
def attendW (v : Env) : Nat := pairWidth .posit16 (attendV v).fmt
def attendA (v : Env) : Int := defaultAnchor .posit16 (attendV v).fmt (attendW v) - 96

/-- The pass 2 terms of an output, with their elements. -/
def attendTerms (v : Env) (st : RowState) (b : List Nat) (m c : Nat) : List (Term × Elem × Elem) :=
  (keysOf v m).map fun j =>
    let e := vElem v b j c
    match scoreSoft v b m j with
    | .part i p =>
      if i < st.m.getD i - 96 then ({ sLo := true }, elemOne, elemOne)
      else
        let q : Elem := { val := .fin false p (i - st.m.getD i - 11) }
        (prodTerm (attendW v) (attendA v) q.val e.val, q, e)
    | _ => ({}, elemOne, elemOne)

/-- One output of ATTEND (R205). -/
def attendOut (v : Env) (l : Nat) : OutElem :=
  let (m, c, b) := outPos v l
  let ss := (keysOf v m).map (scoreSoft v b m)
  let st := rowState ss
  let ts := attendTerms v st b m c
  let w := attendW v
  let g0 := ({} : Grp).addAll w (ts.map (·.1))
  let g := g0.rangeTest w
  let s := xvRat st.total 1 (-107)
  let x : XV := if ss.any (· == .spoil) then .nar else (xvGrp (attendA v) g).div s
  let o := epilogueExact v l false x
  let o' := if st.total = 0 ∧ !ss.any (· == .spoil) then
      { o with code := (Config.emptyRow l).toNat % 2 ^ v.t2.w, cat := .plain } else st.guard v l o
  let scores := (keysOf v m).map (scoreGrp v b m)
  let first : Nat := if c = 0 then 2 else 0
  { o' with sLo := g.sLo || st.sLo || scores.any (fun g => g.sLo), sHi := g.sHi || scores.any (fun g => g.sHi),
            infZero := countInfZero (ts.map (·.2)) + first * ((keysOf v m).map fun j => countInfZero (scorePairs v b m j)).sum,
            evs := (List.replicate first ((keysOf v m).flatMap (scoreEvents v l b m))).flatten ++
              inPass 2 none (ts.zipIdx.flatMap fun t => termEvents w (attendA v) l t.2 t.1.2.1 t.1.2.2) ++
                (if g.sHi && !g0.sHi then [{ cause := 0x06, outIdx := l }] else []) }

/-- ATTEND. -/
def runAttend (v : Env) : RunOut :=
  { outs := (List.range v.t2.count).map (attendOut v),
    evs := listEvents v.d.t0 v.rd ++ listEvents v.d.t1 v.rd ++ listEvents (attendV v) v.rd }

/-! ### The groups of a pass -/

/-- The passes of an operation that is no matrix product. -/
def Env.passes (v : Env) : List Pass := v.d.passes (attendV v)

/-- The terms of group `l` of pass `i`, with the residue that each adds to the gauges (R80, R93, R205). -/
def passTerms (v : Env) (i l : Nat) (p : Pass) : List (Term × Nat) :=
  let w := p.width
  let of (x y : Elem) : Term × Nat := (prodTerm w p.anchor x.val y.val, resProd p.anchor x.val y.val)
  if v.d.groupOutputs then (opPairs v l).map fun q => of q.1 q.2
  else if v.d.opcode = opAttend then
    let q := unlinear p.sizes l
    let m := q.getD 1 0
    let b := q.drop 2
    if i ≤ 1 then if masked v m (q.getD 0 0) then [] else (scorePairs v b m (q.getD 0 0)).map fun q => of q.1 q.2
    else (attendTerms v (scoreState v b m) b m (q.getD 0 0)).map fun t =>
      (t.1, if t.1.v = 0 then 0 else resProd p.anchor t.2.1.val t.2.2.val)
  else (rowElems v l).map fun e => of e (if p.cls = 2 then elemOne else e)

/-- The start of group `l`: what ACC adds onto (R69); statistics and scores start at zero (R80). -/
def passStart (v : Env) (l : Nat) (p : Pass) : Grp :=
  if v.d.groupOutputs then startGroup v l p.width p.anchor else {}

/-- Group `l` of a pass as the cells leave it, before any range test. -/
def passGrp (v : Env) (i l : Nat) (p : Pass) : Grp :=
  (passStart v l p).addAll p.width ((passTerms v i l p).map (·.1))

/-- Blocks that the quench units check and skip over every pass (R80, R95, R96, R205): a block is skipped for the flags that
its groups carry when it is drained. -/
def passGauge (v : Env) : Nat × Nat :=
  let each := v.passes.zipIdx.map fun e =>
    let bad := (((List.range (if e.1.grouped then e.1.count else 0)).filter fun l =>
      let g := passGrp v e.2 l e.1
      g.sLo || g.sHi).map fun l => ((e.1.spot l).plc, (e.1.spot l).tile)).eraseDups.length
    ((if e.1.grouped then e.1.blocks.length else 0) - bad, bad)
  ((each.map (·.1)).sum, (each.map (·.2)).sum)

/-- A run with the gauge counts of its passes. -/
def RunOut.gauged (v : Env) (r : RunOut) : RunOut := { r with gaugeRun := (passGauge v).1, gaugeSkip := (passGauge v).2 }

/-! ### COPY, GATHER, SCATTER_ACC, RNG_FILL -/

/-- The anchor of a conversion to or from a quire (R413). -/
def quireConvAnchor (v : Env) (w : Nat) : Int := if v.d.anchor = anchorAuto then quireAnchor w else v.d.anchor

/-- One element moved or converted by COPY or GATHER (R49, R413). -/
def copyOut (v : Env) (l : Nat) : OutElem :=
  let src := v.d.t0
  let e := src.elemAt v.rd l
  let pl := src.place v.rd (unlinear src.psizes l)
  let f := src.fmt
  let g := v.t2.fmt
  match pl with
  | .outside => { idx := l, code := if g.isQuire then 0 else (deliverZero g false).code }
  | .badIndex =>
    match g.quireW with
    | some w => { idx := l, code := 2 ^ (w - 1), cat := .narOut }
    | none => { idx := l, code := (deliverNar g).code, cat := .narOut }
  | .at _ _ =>
    if f = g then { idx := l, code := e.code }
    else match f.quireW, g.quireW with
      | some wf, some wg =>
        if e.code = 2 ^ (wf - 1) then { idx := l, code := 2 ^ (wg - 1), cat := .narOut }
        else
          let x := signedOf wf e.code
          if -(2 ^ (wg - 1) : Int) < x ∧ x < 2 ^ (wg - 1) then { idx := l, code := modPow wg x }
          else { idx := l, code := 2 ^ (wg - 1), cat := .narOut, sHi := true }
      | some wf, none =>
        let d := deliverVal g v.d.mode v.d.sat (v.sr l) (decodeQuire wf (quireConvAnchor v wf) e.code)
        { idx := l, code := d.code, cat := d.cat }
      | none, some wg =>
        let a := quireConvAnchor v wg
        let t := unitTerm wg a e.val
        let q := t.rangeTest wg
        { idx := l, code := quireStore wg q, cat := if q.nar || q.sHi then .narOut else .plain, sLo := q.sLo, sHi := q.sHi,
          evs := termEvents wg a l 0 e elemOne }
      | none, none =>
        let d := deliverVal g v.d.mode v.d.sat (v.sr l) e.val
        { idx := l, code := d.code, cat := d.cat, evs := wideEvents l [e] }

/-- COPY and GATHER. -/
def runCopy (v : Env) : RunOut :=
  { outs := (List.range v.t2.count).map (copyOut v), evs := listEvents v.d.t0 v.rd }

/-- The exact-add of one term into an element of W bits, without a tally (R281). -/
def exactAddElem (w : Nat) (t : Term) (p : Nat) : Nat :=
  if p = 2 ^ (w - 1) ∨ t.nar ∨ t.sHi then 2 ^ (w - 1) else modPow w (signedOf w p + t.v)

/-- The term of a source element for a destination of width w (R280, R281). -/
def scatterTerm (v : Env) (w : Nat) (e : Elem) : Term :=
  let f := v.d.t0.fmt
  match f.quireW with
  | some _ => if e.code = 2 ^ (w - 1) then { nar := true } else { v := signedOf w e.code }
  | none =>
    let a := match f.posit with
      | some n => if w = 16 * n then quireAnchor w else defaultAnchor f f w
      | none => defaultAnchor f f w
    match e.val with
    | .inf _ => { sHi := true }
    | x => unitTerm w a x

/-- The ledger events of a scattered term. -/
def scatterEvents (l : Nat) (e : Elem) (t : Term) : List LEvent :=
  let ev (c : Nat) : List LEvent := [{ cause := c, kIdx := l, aAddr := e.addr, outIdx := l }]
  if e.scaleNan then ev 0x03 else if e.cbWide then ev 0x07
  else if t.nar then ev 0x01
  else if t.sHi then ev (match e.val with | .inf _ => 0x04 | _ => 0x05) else []

/-- Update a value kept for a bit address. -/
def overlay (b w : Nat) (f : Nat → Nat) (rd : Rd) : List BitWrite → List BitWrite
  | [] => [(b, w, f (rdBits rd b w))]
  | (c, u, x) :: t => if c = b then (c, u, f x) :: t else (c, u, x) :: overlay b w f rd t

/-- SCATTER_ACC (R280, R281). -/
def runScatter (v : Env) : RunOut :=
  let src := v.d.t0
  let dst := v.t2
  let w := dst.w
  let ls := List.range src.count
  let el (l : Nat) : Elem := src.elemAt v.rd l
  let tm (l : Nat) : Term := scatterTerm v w (el l)
  let live := ls.filter fun l => match dst.place v.rd (unlinear dst.psizes l) with
    | .at _ _ => true
    | _ => false
  { extra := live.foldl (fun ws l => match dst.place v.rd (unlinear dst.psizes l) with
      | .at b _ => overlay b w (exactAddElem w (tm l)) v.rd ws
      | _ => ws) [],
    evs := listEvents src v.rd ++ listEvents dst v.rd ++ live.flatMap fun l => scatterEvents l (el l) (tm l),
    spillLo := (live.filter fun l => (tm l).sLo).length,
    spillHi := (live.filter fun l => (tm l).sHi).length,
    narOut := (live.filter fun l => (tm l).nar).length,
    badIndex := dst.mode = .list && (listEvents dst v.rd).length != 0 }

/-- One output of RNG_FILL (R210). -/
def rngOut (v : Env) (l : Nat) : OutElem :=
  let w := v.words l
  let p0 := v.d.fld 26 31 0
  let p1 := v.d.fld 27 31 0
  let x := match v.d.subop with
    | 0 => rngUniform p0 p1 w
    | 1 => rngNormal p0 p1 w
    | _ => rngBernoulli p0 w
  let d := deliverXV v.t2.fmt v.d.mode v.d.sat (v.sr l) x
  { idx := l, code := d.code, cat := d.cat }

/-- RNG_FILL. -/
def runRng (v : Env) : RunOut := { outs := (List.range v.t2.count).map (rngOut v) }

end Sys2Proof.Machine
end

