-- ==== Sys2Proof/Machine/Convert.lean ====
section
/-! DEFINITION. Convert: CONVERT with its sub-operations QUANT, FOLD, CB_BUILD and SB_BUILD, the outlier removal, the
codebooks and the zero sums (R169 to R177, R180, R185, R186, R420), and the retemper of every operation (R187 to
R189). -/

namespace Sys2Proof.Machine

/-- An element of a group on its way to T2: its linear index and its exact value. -/
abbrev CElem := Nat × XV

/-- The group-dimension index of an element of FOLD's T1: in a LIST tensor along its rows, the stored row (R169, R186). -/
def foldIdx (v : Env) (p : List Nat) : Nat :=
  let t := v.d.t1
  match t.place v.rd p with
  | .at _ idx => idx.getD t.gdim 0
  | _ => p.getD t.gdim 0

/-- The exact value that element `l` of T2 comes from, before any scale (R171, R174, R186, R416). -/
def convSource (v : Env) (l : Nat) : XV :=
  if v.d.subop = 1 then
    let t := v.d.t1
    let p := unlinear t.psizes l
    let s := v.d.t0.elemAt v.rd (foldIdx v p)
    let b := v.d.t0.bag v.rd
    if b.poisons s then .nar else (xvOfVal (t.elem v.rd p).val).mul (xvOfVal (fullVal b s))
  else
    let t := v.d.t0
    let e := t.elemAt v.rd l
    let b := t.bag v.rd
    if b.poisons e then .nar else xvOfVal (fullVal b e)

/-- The elements that element `l` of T2 comes from. -/
def convReads (v : Env) (l : Nat) : List Elem :=
  if v.d.subop = 1 then
    let p := unlinear v.d.t1.psizes l
    [v.d.t1.elem v.rd p, v.d.t0.elemAt v.rd (foldIdx v p)]
  else [v.d.t0.elemAt v.rd l]

/-- The group of T2's element `l`; none where a list index is out of range. -/
def convGroup (v : Env) (l : Nat) : Option Nat :=
  match v.t2.place v.rd (unlinear v.t2.psizes l) with
  | .at _ idx => some (v.t2.group idx)
  | _ => none

/-- Class NAR or INF. -/
def XV.special : XV → Bool
  | .nar | .inf _ => true
  | _ => false

/-- Class ZERO. -/
def XV.isZero : XV → Bool
  | .zero _ => true
  | _ => false

/-- The element of largest magnitude, the lowest index on a tie. -/
def largest : List CElem → Option CElem
  | [] => none
  | e :: r =>
    match largest r with
    | none => some e
    | some f => if e.2.abs.lt f.2.abs then some f else some e

/-- emax of Table 7.1. -/
def Fmt.scaleReach : Fmt → Int
  | .e4m3 => 8
  | .e5m2 => 15
  | .e2m3 => 2
  | .e3m2 => 4
  | .e2m1 => 2
  | _ => 3

/-- The scale code of a group from its elements that are not moved (R171). -/
def deriveScale (v : Env) (f : Fmt) (es : List CElem) : Nat :=
  if es.any fun e => e.2.special then 0xFF
  else match largest (es.filter fun e => !e.2.isZero) with
    | some (l, .fin n x) =>
      let e0 := x.log2 - f.scaleReach
      let r := roundMag f v.d.mode true (v.sr l) n { x with e := x.e - e0 }
      let e := if r.cat = .sat then e0 + 1 else e0
      (min (max e (-127)) 127 + 127).toNat
    | _ => 0x7F

/-- One element rounded under a scale code: divided by the scale, then rounded once (R48, R171); NAR and INF under a finite
scale by `deliverNar` (log entry 115, DESIGN CHOICE). -/
def underScale (v : Env) (f : Fmt) (c : Nat) (e : CElem) : Delivered :=
  if c = 0xFF then { code := 0, cat := .narOut }
  else deliverXV f v.d.mode v.d.sat (v.sr e.1) (e.2.shift (127 - (c : Int)))

/-- Whether a non-zero element flushes under a scale code (R59). -/
def flushes (v : Env) (f : Fmt) (c : Nat) (e : CElem) : Bool := !e.2.isZero && (underScale v f c e).cat == .flush

/-- How a group's scale is found: derived from the elements not moved (QUANT, FOLD, CB_BUILD), or 0x7F for a target
without a group scale. -/
def scaleFor (v : Env) (f : Fmt) (scaled : Bool) (es : List CElem) : Nat := if scaled then deriveScale v f es else 0x7F

/-- Outlier removal of R176: the elements that stay, those moved, and whether the capacity ran out. -/
def removeOutliers (v : Env) (f : Fmt) (scaled : Bool) : Nat → List CElem → List CElem → List CElem × List CElem × Bool
  | cap, stay, moved =>
    if (stay.filter (flushes v f (scaleFor v f scaled stay))).isEmpty then (stay, moved, false)
    else match cap, largest stay with
      | 0, _ => (stay, moved, true)
      | _, none => (stay, moved, false)
      | n + 1, some e => removeOutliers v f scaled n (stay.filter fun x => x.1 ≠ e.1) (e :: moved)

/-- Capacity of a group (R173): CAPF 0b11 reads as 0b10. -/
def bagCap (v : Env) : Nat :=
  let capf := bitsOf (rdNat v.rd v.t2.sbag 8) 63 62
  max 1 (v.t2.gsize / 2 ^ (6 - min capf 2))

/-- MAXN of T2's saddlebag. -/
def bagMax (v : Env) : Nat := rdNat v.rd (v.t2.sbag + 8) 4

/-- Whether the run writes T2's saddlebag (R175): OPX0[0], and not in a retemper, whose tensor has none (R189). -/
def moves (v : Env) : Bool := v.d.fld 26 0 0 = 1 && v.t2.sbag != 0

/-! ### Codebooks -/

/-- The codebook entries an index may select: 16 for CB4, 15 for CB4E (R42, R44). -/
def cbBins (f : Fmt) : Nat := if f = .cb4e then 15 else 16

/-- The next posit16 code at or below `p` that is codebook-representable (R43). -/
def cbDown : Nat → Nat → Nat
  | 0, p => p
  | n + 1, p => if cbRepresentable p then p else cbDown n (p - 1)

/-- The next posit16 code at or above `p` that is codebook-representable. -/
def cbUp : Nat → Nat → Nat
  | 0, p => p
  | n + 1, p => if cbRepresentable p then p else cbUp n (p + 1)

/-- Fraction bits of a posit16 code below the top five, which a representable entry holds at zero. -/
def cbSpare (p : Nat) : Nat :=
  match decodePosit 16 p with
  | .fin _ m _ => Nat.log2 m - 5
  | _ => 0

/-- The nearest codebook-representable posit16 value of a positive magnitude (R180): a tie goes to the value whose last
kept fraction bit is 0, a magnitude beyond maxpos gives maxpos. -/
def cbNearest (x : Mag) : Nat :=
  if x.cmpPow 56 ≠ .lt then 0x7FFF
  else
    let p := if x.cmpPow (-56) = .lt then 0 else positBody 16 .rtz 0 x
    let lo := cbDown 64 p
    let hi := cbUp 64 (lo + 1)
    let dlo := (XV.fin false x).sub (ofPosit 16 lo)
    let dhi := (ofPosit 16 hi).sub (.fin false x)
    if dlo.lt dhi then lo
    else if dhi.lt dlo then hi
    else if lo / 2 ^ cbSpare lo % 2 = 0 then lo else hi

/-- A mean as a codebook entry. -/
def cbEntry (x : XV) : Nat :=
  match x with
  | .fin n m => let c := cbNearest m; if n then (2 ^ 16 - c) % 2 ^ 16 else c
  | _ => 0

/-- Insertion of an element by value, ties by index (R180 step 2). -/
def sortIn (e : CElem) : List CElem → List CElem
  | [] => [e]
  | x :: r => if e.2.lt x.2 then e :: x :: r else x :: sortIn e r

/-- Elements in ascending order of value, ties by index. -/
def sortElems (es : List CElem) : List CElem := es.foldl (fun s e => sortIn e s) []

/-- The exact mean of a bin. -/
def meanOf (es : List CElem) : XV :=
  (es.foldl (fun (s : XV) e => s.add e.2) (XV.zero false)).div (xvRat es.length 1 0)

/-- The entries of R180 steps 3 and 4, `b` bins over the sorted elements. -/
def cbEntries (bins : Nat) (sorted : List CElem) : List Nat :=
  let n := sorted.length
  (List.range bins).foldl (fun es b =>
    let bin := (sorted.drop (b * n / bins)).take ((b + 1) * n / bins - b * n / bins)
    es ++ [if bin.isEmpty then es.getLastD 0 else cbEntry (meanOf bin)]) []

/-- The index of the entry nearest a value, the lowest index on a tie; entries that decode to NaR are passed over. -/
def nearestIndex (cb : List Nat) (x : XV) : Option Nat :=
  (List.range cb.length).foldl (fun best i =>
    match ofPosit 16 (cb.getD i 0) with
    | .nar => best
    | y => match best with
      | none => some i
      | some j => if (x.sub y).abs.lt (x.sub (ofPosit 16 (cb.getD j 0))).abs then some i else some j) none

/-- An element under a codebook: its index, a flush when a non-zero value receives an entry of zero (R180). -/
def underBook (cb : List Nat) (e : CElem) : Delivered :=
  match nearestIndex cb e.2 with
  | none => { code := 0, cat := .narOut }
  | some i => { code := i, cat := if !e.2.isZero && ofPosit 16 (cb.getD i 0) == .zero false then .flush else .plain }

/-! ### One group -/

/-- What becomes of a group: the elements that stay with what they are written as, the elements moved, the group array
bytes to write at GPTR, and whether an SB_FULL event is recorded. -/
structure GroupOut where
  stay : List CElem
  moved : List CElem
  full : Bool
  deriving DecidableEq, Repr

/-- Elements of a group that would saturate or flush under the scale or codebook already present (R177). -/
def misfits (v : Env) (g : Nat) (es : List CElem) : List CElem :=
  let f := v.t2.fmt
  if f.codebook then
    es.filter fun e => !e.2.special && (underBook ((v.t2.codebook v.rd g).take (cbBins f)) e).cat == .flush
  else
    let c := v.t2.scaleCode v.rd g
    if c = 0xFF then []
    else es.filter fun e => let k := (underScale v f c e).cat; !e.2.special && (k == .sat || k == .flush)

/-- The `n` elements of largest magnitude among misfits, lowest index on a tie. -/
def takeLargest : Nat → List CElem → List CElem
  | 0, _ => []
  | n + 1, es => match largest es with
    | none => []
    | some e => e :: takeLargest n (es.filter fun x => x.1 ≠ e.1)

/-- The split of a group into elements that stay and elements that move (R176, R177, R180 step 1). -/
def splitGroup (v : Env) (g : Nat) (es : List CElem) : GroupOut :=
  if moves v then
    if v.d.subop = 3 then
      let bad := misfits v g es
      let m := takeLargest (bagCap v) bad
      { stay := es.filter fun e => !(m.any fun x => x.1 == e.1), moved := m, full := bagCap v < bad.length }
    else
      let f := if v.t2.fmt.codebook then Fmt.sp8 else v.t2.fmt
      let (s, m, full) := removeOutliers v f (v.t2.fmt.codebook || v.t2.scaled) (bagCap v) es []
      { stay := s, moved := m, full := full }
  else { stay := es, moved := [], full := false }

/-- The elements of each group of T2, in increasing group number. -/
def convGroups (v : Env) : List (Nat × List CElem) :=
  let es := (List.range v.t2.count).filterMap fun l => (convGroup v l).map fun g => (g, (l, convSource v l))
  ((List.range (v.t2.ng * v.t2.others)).map fun g => (g, (es.filter fun e => e.1 == g).map (·.2))).filter
    fun p => !p.2.isEmpty

/-- Entries kept under MAXN: those of the lowest indices (R176). -/
def keptEntries (maxn : Nat) (moved : List CElem) : List CElem :=
  let sorted := (moved.map (·.1)).mergeSort (· ≤ ·)
  moved.filter fun e => (sorted.take maxn).contains e.1

/-- Groups after MAXN has been met: elements whose entries do not fit return to their group (R176). -/
def fitGroups (v : Env) (gs : List (Nat × GroupOut)) : List (Nat × GroupOut) :=
  let kept := (keptEntries (bagMax v) (gs.flatMap fun g => g.2.moved)).map (·.1)
  gs.map fun (g, o) =>
    let back := o.moved.filter fun e => !kept.contains e.1
    if back.isEmpty then (g, o)
    else (g, { stay := (back.foldl (fun s e => e :: s) o.stay).mergeSort (fun a b => a.1 ≤ b.1),
               moved := o.moved.filter fun e => kept.contains e.1, full := true })

/-- The missing elements of a short last group: zeros, wherever a codebook is derived (R169). -/
def missingZeros (t : Tensor) (g : Nat) : List CElem :=
  let there := t.storedSizes.getD t.gdim 1 - g % max 1 t.ng * t.gsize
  (List.range (t.gsize - there)).map fun k => (2 ^ 48 + k, XV.zero false)

/-- The codebook of a group as CB_BUILD forms it, or as it stands for SB_BUILD. CONVERT builds only representable entries
(R43), entry 15 of CB4E included, which is free but for that. -/
def groupBook (v : Env) (g : Nat) (o : GroupOut) : List Nat :=
  if v.d.subop = 3 then v.t2.codebook v.rd g
  else if o.stay.any fun e => e.2.special then List.replicate 16 0x8000
  else
    let es := cbEntries (cbBins v.t2.fmt) (sortElems (o.stay ++ missingZeros v.t2 g))
    let free := (Config.openCode 1 g).toNat % 2 ^ 16
    if v.t2.fmt = .cb4e then es ++ [if cbRepresentable free then free else 0] else es

/-- The delivery of an element that stays, given its group's scale or codebook. -/
def stayCode (v : Env) (c : Nat) (cb : List Nat) (e : CElem) : Delivered :=
  let f := v.t2.fmt
  if f.codebook then
    if e.2.special then
      { code := if v.d.subop = 3 then (Config.openCode 0 e.1).toNat % 16 else 0, cat := .narOut }
    else if v.d.subop ≠ 3 ∧ cb.getD 0 0 = 0x8000 then { code := 0, cat := .narOut }
    else underBook (cb.take (cbBins f)) e
  else underScale v f c e

/-- The scale code of a group: derived by QUANT and FOLD, as it stands for SB_BUILD. -/
def groupScale (v : Env) (g : Nat) (o : GroupOut) : Nat :=
  if v.d.subop = 3 then v.t2.scaleCode v.rd g else scaleFor v v.t2.fmt v.t2.scaled o.stay

/-- The elements of a group as written. -/
def groupElems (v : Env) (g : Nat) (o : GroupOut) : List OutElem :=
  let c := if v.t2.fmt.codebook then 0x7F else groupScale v g o
  let cb := if v.t2.fmt.codebook then groupBook v g o else []
  (o.stay.map fun e => let d := stayCode v c cb e; { idx := e.1, code := d.code, cat := d.cat }) ++
  (o.moved.map fun e => { idx := e.1, code := if v.t2.fmt = .cb4e then 15 else 0 })

/-- The group array bytes of a group: a scale code, or a codebook (R169); SB_BUILD writes none. -/
def groupBytes (v : Env) (g : Nat) (o : GroupOut) : List BitWrite :=
  if v.d.subop = 3 then []
  else if v.t2.fmt.codebook then
    (List.range 16).map fun j => (8 * (v.t2.gptr + 32 * g + 2 * j), 16, (groupBook v g o).getD j 0)
  else if v.t2.scaled then [(8 * (v.t2.gptr + g), 8, groupScale v g o)]
  else []

/-- The saddlebag as written: COUNT and the entries in increasing INDEX order, posit32 values (R173, R176). -/
def bagBytes (v : Env) (moved : List CElem) : List BitWrite :=
  if moves v then
    let es := moved.mergeSort fun a b => a.1 ≤ b.1
    (8 * v.t2.sbag, 32, es.length) ::
      ((List.range es.length).filterMap fun i => (es[i]?).map fun e =>
        (8 * (v.t2.sbag + 16 + 8 * i), 64,
          e.1 + (deliverXV .posit32 v.d.mode false (v.sr e.1) e.2).code * 2 ^ 32))
  else []

/-- The zero sums of R185: for each index of the other dimensions the sum of the codes written. -/
def zsumWrites (v : Env) (outs : List OutElem) : List BitWrite :=
  match v.t2.fmt.int with
  | some (sg, w) =>
    if v.d.zsumAddr = 0 then []
    else
      let tag (o : OutElem) : Nat :=
        match v.t2.place v.rd (unlinear v.t2.psizes o.idx) with
        | .at _ idx => linear (v.t2.storedSizes.eraseIdx v.t2.gdim) (idx.eraseIdx v.t2.gdim)
        | _ => v.t2.others
      (List.range v.t2.others).map fun i =>
        (8 * (v.d.zsumAddr + 8 * i), 64,
          modPow 64 (((outs.filter fun o => tag o == i).map fun o =>
            if sg then signedOf w o.code else (o.code : Int)).sum))
  | none => []

/-- |x| as an E8M0 code (R420). -/
def toE8m0 (v : Env) (e : CElem) : Delivered :=
  match e.2 with
  | .fin _ x =>
    let sc := x.log2
    let top := max sc (-127)
    let (b, r, d) := if sc < -161 then (0, 0, 1) else x.split top
    let body := applyMode v.d.mode (v.sr e.1) b r d
    if body = 0 then { code := 0, cat := .flush }
    else
      let ex := if body = 2 then top + 1 else top
      if 127 < ex then { code := 0xFE, cat := .sat } else { code := (ex + 127).toNat }
  | .zero _ => { code := 0, cat := .flush }
  | _ => { code := 0xFF, cat := .narOut }

/-- CONVERT into E8M0 (R420). -/
def runE8m0 (v : Env) : RunOut :=
  { outs := (List.range v.t2.count).map fun l =>
      let d := toE8m0 v (l, convSource v l); { idx := l, code := d.code, cat := d.cat } }

/-- The NAR_IN events of a malformed saddlebag on T0: one for each group of T0 that takes a poisoned element (R174). -/
def poisonEvents (v : Env) : List LEvent :=
  let t := v.d.t0
  let b := t.bag v.rd
  if b.poison.isNone then []
  else
    let gs := (List.range t.count).filterMap fun l =>
      if b.poisons (t.elemAt v.rd l) then (match t.place v.rd (unlinear t.psizes l) with
        | .at _ idx => some (t.group idx)
        | _ => none) else none
    gs.eraseDups.map fun _ => { cause := 0x01 }

/-- The ledger events of a CONVERT's reads: list indices, poisoned groups, codebook entries (R147, R174, R43). -/
def convEvents (v : Env) : List LEvent :=
  listEvents v.d.t0 v.rd ++ (if v.d.subop = 1 then listEvents v.d.t1 v.rd else []) ++ poisonEvents v ++
    (List.range v.t2.count).flatMap fun l => wideEvents l (convReads v l)

/-- CONVERT (R169 to R186). -/
def runConvert (v : Env) : RunOut :=
  if v.t2.fmt = .e8m0 then { runE8m0 v with evs := convEvents v }
  else
    let gs := fitGroups v ((convGroups v).map fun g => (g.1, splitGroup v g.1 g.2))
    let outs := (gs.flatMap fun g => groupElems v g.1 g.2).mergeSort fun a b => a.idx ≤ b.idx
    let full := (gs.filter fun g => g.2.full).length
    { outs := outs,
      extra := (gs.flatMap fun g => groupBytes v g.1 g.2) ++ bagBytes v (gs.flatMap fun g => g.2.moved) ++
        zsumWrites v outs,
      evs := convEvents v ++ (List.replicate full { cause := 0x0A }),
      sbFull := full }

/-! ### Retempering -/

/-- The run of any operation that computes outputs (R154). -/
def runOf (v : Env) : RunOut :=
  let op := v.d.opcode
  if v.d.isMat then runMat v
  else if op = opElemwise then (runElemwise v).gauged v
  else if op = opReduce then (runReduce v).gauged v
  else if op = opNorm then (runNorm v).gauged v
  else if op = opSoftmax then runSoftmax v
  else if op = opAttend then (runAttend v).gauged v
  else if op = opConvert then runConvert v
  else if op = opScatter then runScatter v
  else if op = opRng then runRng v
  else if op = opCopy ∨ op = opGather then runCopy v
  else {}

/-- Elements of a category among the outputs. -/
def catCount (c : Cat) (outs : List OutElem) : Nat := (outs.filter fun o => o.cat = c).length

/-- The tensor a run's outputs go to. -/
def RunOut.target (r : RunOut) (v : Env) : Tensor := r.dst.getD v.t2

/-- The outputs that are written: those whose row's list index is in range (R147). -/
def RunOut.live (r : RunOut) (v : Env) : List OutElem :=
  r.outs.filter fun o => match (r.target v).place v.rd (unlinear (r.target v).psizes o.idx) with
    | .at _ _ => true
    | _ => false

/-- Whether counts call for a retemper (R188): `n` elements written, saturations, flushes, SB_FULL events. -/
def Desc.overThresh (d : Desc) (n sat flush full : Nat) : Bool :=
  let t := n * d.rtThresh / 65536
  d.retemper == 1 && (decide (t < sat) || decide (t < flush) || decide (0 < full))

/-- Whether an attempt retempers (R188): over the elements it wrote. -/
def retempers (v : Env) (r : RunOut) : Bool :=
  let os := r.live v
  v.d.overThresh os.length (catCount .sat os) (catCount .flush os) r.sbFull

/-- An operation's run with its retemper (R189): the first run's writes to T2 stand, and the re-run's outputs go to the
retemper tensor. The pair holds the first run, and the second where there is one. -/
def runWithRetemper (v : Env) : RunOut × Option RunOut :=
  let r := runOf v
  if retempers v r then
    let t := v.d.rtTensor
    (r, some { runOf { v with t2 := t } with dst := some t })
  else (r, none)

end Sys2Proof.Machine
end

