-- ==== Sys2Proof/Machine/Context.lean ====
section
/-! DEFINITION. Context: memory as an operation of either node context reads and writes it (R350), bit writes, and what
an operation runs on. -/

namespace Sys2Proof.Machine

/-! ### The twin reserve -/

/-- First byte of the twin reserve (Table 14.11). -/
def State.resBase (s : State) : Nat := s.fget Fl.twnCtlResBaseGb 0 * 2 ^ 30

/-- Granules of 64 KiB in the reserve. -/
def State.resGranules (s : State) : Nat := s.fget Fl.twnReserveGib 0 * 16384

/-- Reserve granules that either directory uses. -/
def State.resUsed (s : State) : List Nat := (s.twin.sealedDir ++ s.twin.freshDir).map fun e => e.2 - 1

/-- The lowest free reserve granule. -/
def State.resFree (s : State) : Option Nat :=
  let used := s.resUsed
  (List.range (min s.resGranules (used.length + 1))).find? fun k => !used.contains k

/-- Local address of a partner address that the sealed directory translates (R350). -/
def State.xlate (s : State) (a : Nat) : Option Nat :=
  match mget 0 s.twin.sealedDir (a / 65536) with
  | 0 => none
  | k + 1 => some (s.resBase + k * 65536 + a % 65536)

/-- A byte as a context reads it. -/
def State.ctxByte (s : State) (partner : Bool) (a : Nat) : Byte :=
  if partner then (match s.xlate a with
    | some b => s.byteAt b
    | none => Config.untranslated a)
  else s.byteAt a

/-- Memory as a context reads it. -/
def State.ctxRd (s : State) (partner : Bool) : Rd := fun a => s.ctxByte partner a

/-- A granule of the partner's context brought under translation: a write to an untranslated one takes a free reserve
granule (R350). -/
def State.mapGranule (s : State) (g : Nat) : State :=
  match mget 0 s.twin.sealedDir g, s.resFree with
  | 0, some k => { s with twin := { s.twin with sealedDir := mput 0 s.twin.sealedDir g (k + 1) } }
  | _, _ => s

/-- Whether a write of the extent finds reserve space (R350: none free is OP_LOST). -/
def State.ctxRoom (s : State) (partner : Bool) (a n : Nat) : Bool :=
  !partner ||
    ((unitsOf 65536 a n).filter fun g => mget 0 s.twin.sealedDir g = 0).length ≤ s.resGranules - s.resUsed.length

/-- A byte written in the partner's context; nothing where no granule translates it. -/
def State.xpoke (s : State) (a : Nat) (b : Byte) : State :=
  match s.xlate a with
  | some x => s.pokeByte x b
  | none => s

/-- Bytes written in the partner's context. -/
def State.xpokes (s : State) (a : Nat) : List Byte → State
  | [] => s
  | b :: r => (s.xpoke a b).xpokes (a + 1) r

/-- The partner context's written granules: since its waymark, and, while a new twin takes it over, those still to be
mirrored (R337, R352). -/
def State.markPartner (s : State) (a n : Nat) : State :=
  let g := unitsOf 65536 a n
  { s with twin := { s.twin with
      pWritten := union s.twin.pWritten g,
      pDirty := if s.twin.newTwin.isSome then union s.twin.pDirty g else s.twin.pDirty } }

/-- Bytes written in a context. -/
def State.ctxWrite (s : State) (partner : Bool) (a : Nat) (bs : List Byte) : State :=
  if partner then
    (((unitsOf 65536 a bs.length).foldl State.mapGranule s).xpokes a bs).markPartner a bs.length
  else s.memWrite a bs

/-- The local extents that a context's extent stands for, one for each granule. -/
def State.ctxExtents (s : State) (partner : Bool) (x : Extent) : List Extent :=
  if partner then
    (unitsOf 65536 x.1 (x.2 - x.1)).filterMap fun g =>
      let lo := max x.1 (g * 65536)
      let hi := min x.2 ((g + 1) * 65536)
      (s.xlate lo).map fun y => (y, y + (hi - lo))
  else [x]

/-- UE lines that a read of the extent in a context meets (R272). -/
def State.ctxUe (s : State) (partner : Bool) (x : Extent) : List Nat :=
  if s.hbm.ueLines.isEmpty then [] else
    (s.ctxExtents partner x).flatMap fun y => s.ueIn y.1 (y.2 - y.1)

/-! ### Bits -/

/-- One bit write in a context: the other bits of its bytes stand (R29). -/
def State.ctxBits (s : State) (partner : Bool) (w : BitWrite) : State :=
  let (b, n, v) := w
  let k := ceilDiv (b % 8 + n) 8
  if n = 0 then s
  else s.ctxWrite partner (b / 8)
    (leBytes k (setBits (rdNat (s.ctxRd partner) (b / 8) k) (b % 8 + n - 1) (b % 8) v))

/-- The local addresses of the bytes that bit writes touch. -/
def State.writtenBytes (s : State) (partner : Bool) (ws : List BitWrite) : List Nat :=
  (ws.flatMap fun w =>
    if w.2.1 = 0 then [] else (List.range (ceilDiv (w.1 % 8 + w.2.1) 8)).map fun i => w.1 / 8 + i).filterMap
      fun a => if partner then s.xlate a else some a

/-- UE lines that bit writes touch, with whether they cover the whole line (R272). -/
def State.ueWritten (s : State) (partner : Bool) (ws : List BitWrite) : List (Nat × Bool) :=
  if s.hbm.ueLines.isEmpty then []
  else
    let bs := s.writtenBytes partner ws
    (((bs.map fun a => a / 64).eraseDups).filter fun l => s.hbm.ueLines.contains l).map fun l =>
      (l, (List.range 64).all fun i => bs.contains (64 * l + i))

/-- The UE lines that bit writes cover whole are cleared (R272). -/
def State.clearWhole (s : State) (partner : Bool) (ws : List BitWrite) : State :=
  if s.hbm.ueLines.isEmpty then s
  else
    let whole := ((s.ueWritten partner ws).filter fun x => x.2).map fun x => x.1
    { s with hbm := { s.hbm with ueLines := s.hbm.ueLines.filter fun l => !whole.contains l } }

/-- Bit writes in order, so that of duplicate rows the later index stands (log entry 122, DESIGN CHOICE). -/
def State.ctxBitsAll (s : State) (partner : Bool) (ws : List BitWrite) : State :=
  ws.foldl (fun s w => s.ctxBits partner w) (s.clearWhole partner ws)

/-- The padding of a row's last byte, written with zeros (R152). -/
def padBits (t : Tensor) (b i0 : Nat) : List BitWrite :=
  let e := b + t.w
  let n := (8 - e % 8) % 8
  if t.w < 8 ∧ i0 + 1 = t.size 0 ∧ n ≠ 0 then [(e, n, 0)] else []

/-- The writes of one output element; none where its row's list index is out of range (R147). -/
def elemWrites (t : Tensor) (rd : Rd) (o : OutElem) : List BitWrite :=
  match t.place rd (unlinear t.psizes o.idx) with
  | .at b idx => (b, t.w, o.code) :: padBits t b (idx.getD 0 0)
  | _ => []

/-! ### Tables -/

/-- A byte of a table-RAM bank. -/
def Tables.byte (t : Tables) (bank a : Nat) : Byte := mget 0 (if bank = 0 then t.bank0 else t.bank1) a

/-- The attribute byte of a slot (Table 8.1). -/
def Tables.attr (t : Tables) (bank slot : Nat) : Nat := mget 0 (if bank = 0 then t.attr0 else t.attr1) slot

/-- The valid slots of a bank, as bits. -/
def Tables.valid (t : Tables) (bank : Nat) : Nat := if bank = 0 then t.valid0 else t.valid1

/-- Segment `k` of a slot (R190). -/
def Tables.seg (t : Tables) (bank slot k : Nat) : Seg :=
  let w i := leNat ((List.range 4).map fun j => t.byte bank (512 * slot + 8 * k + i + j))
  (w 0, w 4)

/-- Slot 1 of a bank holds the built-in exp (R195): its attribute, and its image byte for byte. -/
def Tables.isExp (t : Tables) (bank : Nat) : Bool :=
  t.attr bank 1 == 0x01 && (List.range 512).all fun i => t.byte bank (512 + i) == builtinImage 1 i

/-! ### Operations -/

/-- The descriptor of an operation. -/
def Op.d (o : Op) : Desc := o.words

/-- The table RAM of a context: its own image in the partner's (R350). -/
def State.ctxTables (s : State) (partner : Bool) : Tables := if partner then s.twin.other.tables else s.tables

/-- What an operation runs on. -/
def State.envOf (s : State) (o : Op) : Env :=
  { d := o.d, ext := o.ext, rd := s.ctxRd o.partner,
    t2 := o.d.outTensor (let v := parseTensor o.ext; if v.trans then v.psize 0 else v.psize 1), step := o.step, key := o.key,
    attr := (s.ctxTables o.partner).attr o.bank, seg := (s.ctxTables o.partner).seg o.bank,
    exp1 := (s.ctxTables o.partner).isExp o.bank }

/-! ### The registers of a context -/

/-- The second context changed. -/
def State.setOther (s : State) (f : NodeCtx → NodeCtx) : State :=
  { s with twin := { s.twin with other := f s.twin.other } }

/-- A context's log. -/
def State.ctxLog (s : State) (partner : Bool) : Log := if partner then s.twin.other.log else s.log

/-- A context's log changed. -/
def State.setLog (s : State) (partner : Bool) (f : Log → Log) : State :=
  if partner then s.setOther fun c => { c with log := f c.log } else { s with log := f s.log }

/-- A register of the partner as CONFIG transactions left it (R346). -/
def State.cfgReg (s : State) (r : Reg) (i : Nat) : Nat := (mget (r.resetVal i) s.twin.sealedCfg (r.off i)).toNat

/-- A field of WAYMARK_CTL as a context has it. -/
def State.wayFld (s : State) (partner : Bool) (f : Fld) : Nat :=
  if partner then bitsOf (s.cfgReg f.reg 0) f.hi f.lo else s.fget f 0

/-- A one-bit field of WAYMARK_CTL set in a context. -/
def State.setWay (s : State) (partner : Bool) (f : Fld) (v : Nat) : State :=
  if partner then
    let w := BitVec.ofNat 64 (setBits (s.cfgReg f.reg 0) f.hi f.lo v)
    { s with twin := { s.twin with sealedCfg := mput (f.reg.resetVal 0) s.twin.sealedCfg (f.reg.off 0) w } }
  else s.fset f 0 v

/-- DET_STEP of a context. -/
def State.ctxStep (s : State) (partner : Bool) : Nat := if partner then s.twin.other.step else s.fget Fl.detStepStep 0

/-- DET_STRICT of a context. -/
def State.ctxStrict (s : State) (partner : Bool) : Bool :=
  if partner then s.twin.other.strict else s.fon Fl.detStrictStrict 0

/-- The seed `k` of a context. -/
def State.ctxSeed (s : State) (partner : Bool) (k : Nat) : Word64 :=
  if partner then s.twin.other.seeds.getD k 0 else s.rd .detSeed k

/-- TBL_GEN and TBL_STATE of a context. -/
def State.ctxTblGen (s : State) (partner : Bool) : Word64 := if partner then s.twin.other.tblGen else s.rd .tblGen 0
def State.ctxTblState (s : State) (partner : Bool) : Word64 :=
  if partner then s.twin.other.tblState else s.rd .tblState 0
def State.setTblGen (s : State) (partner : Bool) (w : Word64) : State :=
  if partner then s.setOther fun c => { c with tblGen := Reg.keep .tblGen w } else s.wrWhole .tblGen 0 w
def State.setTblState (s : State) (partner : Bool) (w : Word64) : State :=
  if partner then s.setOther fun c => { c with tblState := Reg.keep .tblState w } else s.wrWhole .tblState 0 w
def State.setTables (s : State) (partner : Bool) (t : Tables) : State :=
  if partner then s.setOther fun c => { c with tables := t } else { s with tables := t }

/-- A room of this module that stands for room `n` of a context, and the group context for context `c` (R350). -/
def ctxRoomNo (partner : Bool) (n : Nat) : Nat := if partner then 2048 + n else n
def ctxGroupNo (partner : Bool) (c : Nat) : Nat := if partner then 512 + c else c

/-- A room or group context of this module belongs to the partner context. -/
def State.isPartnerRoom (s : State) (room : Nat) : Bool := s.twin.serves.isSome && decide (2048 ≤ room)

/-- A u32 count of a record, saturating (R163). -/
def sat32 (n : Nat) : Nat := min n 0xFFFFFFFF

end Sys2Proof.Machine
end

