-- ==== Sys2Proof/Machine/TileMap.lean ====
section
/-! DEFINITION. TileMap: which site runs each logical tile (R12, R410), and the depths that follow (R103, R132,
R409). -/

namespace Sys2Proof.Machine

/-- TILE_STATE values (Table 14.10). -/
def stActive : Nat := 0
/-- TILE_STATE SPARE. -/
def stSpare : Nat := 1
/-- TILE_STATE SUSPECT. -/
def stSuspect : Nat := 2
/-- TILE_STATE RETIRED. -/
def stRetired : Nat := 3

/-- The state of a site (Table 14.10). -/
def State.siteState (s : State) (i : Nat) : Nat := s.fget Fl.tileStateState i

/-- Quarter of logical tile `n = x + 64y` (R12). -/
def tileQuarter (n : Nat) : Nat := n % 64 / 32 + 2 * (n / 64 / 32)

/-- The spare site of a site's column (R410). -/
def spareOf (site : Nat) : Nat := site / 33 * 33 + 32

/-- The home site's logical tile (R12); used for sites of rows 0 to 31. -/
def tileOfHome (site : Nat) : Nat :=
  let q := site / 1056
  let col := site % 1056 / 33
  let row := site % 33
  (q % 2 * 32 + col) + 64 * (q / 2 * 32 + row)

/-- The site that TILE_MAP gives a logical tile, none for a homeless one. -/
def State.siteOf (s : State) (n : Nat) : Option Nat :=
  if s.fon Fl.tileMapHome n then some (s.fget Fl.tileMapSite n) else none

/-- A TILE_MAP entry written. -/
def State.setMap (s : State) (n : Nat) (site : Option Nat) : State :=
  match site with
  | some i => (s.fset Fl.tileMapHome n 1).fset Fl.tileMapSite n i
  | none => (s.fset Fl.tileMapHome n 0).fset Fl.tileMapSite n 0

/-- The logical tiles of a site's column: a tile that a spare site serves is one of them (R410). -/
def columnTiles (site : Nat) : List Nat := (List.range 32).map fun r => tileOfHome (site / 33 * 33 + r)

/-- One tile's entry by the rule of R410; `atBoundary` at a mode boundary. -/
def State.remapTile (atBoundary : Bool) (s : State) (n : Nat) : State :=
  let home := homeSite n
  let spare := spareOf home
  let old := s.siteOf n
  if bitsOf s.arrayQ (tileQuarter n) (tileQuarter n) = 0 then
    if old.isNone then s else s.setMap n none
  else if s.siteState home = stActive ∧ (old = some home ∨ atBoundary) then
    if old = some home then s
    else
      let t := s.setMap n (some home)
      if t.siteState spare = stActive ∧ (columnTiles home).all (fun m => t.siteOf m ≠ some spare)
      then t.fset Fl.tileStateState spare stSpare else t
  else if s.siteState spare = stSpare ∨ (old = some spare ∧ s.siteState spare = stActive) then
    (s.setMap n (some spare)).fset Fl.tileStateState spare stActive
  else if old.isNone then s else s.setMap n none

/-- TILE_REPAIR of a site as in force: the register, or its value before a write that waits for the boundary (R102). -/
def State.repairOf (s : State) (site : Nat) : Nat :=
  mget (s.rd .tileRepair site).toNat s.ost.repairNow site

/-- SPARE_ROW_FOR in force. -/
def State.spareRow (s : State) (site : Nat) : Nat := bitsOf (s.repairOf site) 5 0

/-- SPARE_COL_FOR in force. -/
def State.spareCol (s : State) (site : Nat) : Nat := bitsOf (s.repairOf site) 13 8

/-- Drain depth of a site (Table 4.6). -/
def State.siteDepth (s : State) (site : Nat) : Nat :=
  64 + (if s.spareRow site = 63 then 0 else 1) + (if s.spareCol site = 63 then 0 else 1)

/-- The sites that run a logical tile. -/
def State.sitesInUse (s : State) : List Nat := (List.range 4096).filterMap s.siteOf

/-- Relay padding of R132: the most spare tiles in use in one column of the LOCKED domain, or in one quarter's column in
INDEPENDENT mode (R409); a spare that runs row 63 counts too (log entry 118, DESIGN CHOICE). -/
def State.pad (s : State) (used : List Nat) : Nat :=
  let spares := used.filter fun i => i % 33 = 32
  let key := fun i => if s.locked then siteQuarter i % 2 * 32 + i % 1056 / 33 else i / 33
  (spares.map fun i => (spares.filter fun j => key j = key i).length).foldl max 0

/-- The DEPTH field of a quarter. -/
def depthFld : Nat → Fld
  | 0 => Fl.arrDepthDepthQ0
  | 1 => Fl.arrDepthDepthQ1
  | 2 => Fl.arrDepthDepthQ2
  | _ => Fl.arrDepthDepthQ3

/-- ARR_DEPTH as R409 keeps it. -/
def State.redepth (s : State) : State :=
  let used := s.sitesInUse
  let inQ := fun q => bitsOf s.arrayQ q q = 1
  let depth := fun (qs : List Nat) =>
    ((used.filter fun i => siteQuarter i ∈ qs).map s.siteDepth).foldl max 64
  let all := (List.range 4).filter inQ
  let t := all.foldl (fun t q => t.fset (depthFld q) 0 (depth (if s.locked then all else [q]))) s
  (t.fset Fl.arrDepthRepairDepth 0 (depth all)).fset Fl.arrDepthPad 0 (s.pad used)

/-- TILE_MAP and ARR_DEPTH recomputed (R409, R410), logical tile by logical tile (log entry 134, DESIGN CHOICE). -/
def State.remap (s : State) (atBoundary : Bool) : State :=
  ((List.range 4096).foldl (State.remapTile atBoundary) s).redepth

/-- Fields of GLB_QMASK and pending values with one quarter's bit cleared by the hardware (R21, R23): at once, and in
any value still pending. -/
def State.clearQuarterBit (s : State) (q : Nat) : State :=
  let clr := fun v => if bitsOf v q q = 1 then v - 2 ^ q else v
  let t := s.fset Fl.glbQmaskArrayQ 0 (clr (s.fget Fl.glbQmaskArrayQ 0))
  { t with ost := { t.ost with bArrayQ := t.ost.bArrayQ.map clr } }

end Sys2Proof.Machine
end

