-- ==== Sys2Proof/Machine/Placement.lean ====
section
/-! DEFINITION. Placement: which placement, logical tile, group and site an output belongs to (R121, R122, R130, R134,
R137, R138, R417), and the cells that a ledger entry names (R418). -/

namespace Sys2Proof.Machine

/-- Relay parts of an operation. -/
def Desc.parts (d : Desc) : Nat := max 1 d.splitk

/-- The tile to which strip block or chain `b` of one placement is dealt, by its last tile row (R137). -/
def stripTile (n b : Nat) : Nat :=
  if n = 64 then (32 * (b % 2) + b / 2 % 32) + 64 * 63
  else
    let q := b % 4
    let i := b / 4 % (1024 / n)
    (q % 2 * 32 + i % 32) + 64 * (q / 2 * 32 + n * (i / 32) + n - 1)

/-- The spot of output `l` in outer, relay and strip mode (R121, R122, R130, R137): the last tile of a chain holds its
block (R131). -/
def matSpot (d : Desc) (l : Nat) : Spot :=
  let p := unlinear d.t2.psizes l
  let m := if d.t2.prank = 1 then 0 else p.getD 1 0
  let n := p.getD 0 0
  let beta := linear (d.t2.psizes.drop 2) (p.drop 2)
  let k := d.parts
  if d.strip then
    let b := beta * ceilDiv d.matN 32 + n / 32
    { plc := b / (4096 / k), tile := stripTile k (b % (4096 / k)), row := m, col := n % 32 }
  else
    let rows := 64 / k * d.hm
    let pm := ceilDiv d.matM rows
    let pn := ceilDiv d.matN (64 * d.hn)
    { plc := beta * pm * pn + m / rows + pm * (n / (64 * d.hn)),
      tile := n / d.hn % 64 + 64 * (m / d.hm % (64 / k) * k + k - 1), row := m % d.hm, col := n % d.hn }

/-- The blocks of a matrix product that hold outputs, as (placement, last logical tile), each once. -/
def opBlocks (d : Desc) : List (Nat × Nat) :=
  ((List.range d.outCount).map fun l => ((matSpot d l).plc, (matSpot d l).tile)).eraseDups

/-- The passes of an operation that is no matrix product. -/
def Op.passes (o : Op) : List Pass := o.d.passes (parseTensor o.ext)
def Op.pass (o : Op) (i : Nat) : Pass := o.passes.getD i { cls := 0, sizes := [], steps := 1 }
def Op.placements (o : Op) : Nat := o.d.placements (parseTensor o.ext)
def Op.steps (o : Op) : Nat := o.d.steps (parseTensor o.ext)
def Op.cost (o : Op) : Nat := o.d.cost (parseTensor o.ext)

/-- The spot of an output of an array operation: that of its group, or of its own place in T2 where its groups are those
of rows. -/
def Op.spot (o : Op) (l : Nat) : Spot :=
  if o.d.isMat then matSpot o.d l
  else if o.d.opcode = opNorm then outerSpot o.d.hm o.d.hn o.d.t2.psizes l
  else (o.pass (o.passes.length - 1)).spot l

/-! ### Sites -/

/-- The home site of a logical tile for an operation, by TILE_MAP at its selection (R138). -/
def Op.homeOf (o : Op) (tile : Nat) : Option Nat :=
  let site := match mget 0 o.place tile with
    | 0 => some (homeSite tile)
    | 1 => none
    | k + 2 => some k
  site.filter fun i => !o.indep || siteQuarter i == o.dom

/-- Insertion by size. -/
def insSorted (x : Nat) : List Nat → List Nat
  | [] => [x]
  | y :: r => if x ≤ y then x :: y :: r else y :: insSorted x r

/-- The sites in service for an operation, in increasing order of (quarter, local column, local row), which is the order
of the site index (R138, R339). -/
def Op.sites (o : Op) : List Nat := ((List.range 4096).filterMap o.homeOf).foldl (fun l x => insSorted x l) []

/-- Homeless logical tiles in increasing order of (x, y). -/
def Op.homeless (o : Op) : List Nat :=
  ((List.range 64).flatMap fun x => (List.range 64).map fun y => x + 64 * y).filter fun n => (o.homeOf n).isNone

/-- The site that runs a block: its home, or the site an extra round deals it (R138); site 0 in a domain without sites (log
entry 114, DESIGN CHOICE). -/
def Op.siteFor (o : Op) (plc tile : Nat) : Nat :=
  match o.homeOf tile with
  | some i => i
  | none =>
    let h := o.homeless
    let ss := o.sites
    ss.getD ((plc * h.length + h.idxOf tile) % max 1 ss.length) 0

/-- The round that runs a block: that of its placement on a home tile, else an extra round (R138). -/
def Op.roundOf (o : Op) (plc tile : Nat) : Nat :=
  match o.homeOf tile with
  | some _ => plc
  | none =>
    let h := o.homeless
    o.placements + (plc * h.length + h.idxOf tile) / max 1 o.sites.length

/-! ### Cells (R418) -/

/-- The logical cell of a group in which the term of an index is formed: in C8 and C16 the cell that formed the product, in
C32 and C64 the group-tally cell, beside which the term is assembled (Table 3.1, Table 4.2, R128). -/
def clsCell (c row col k : Nat) : Nat × Nat :=
  match c with
  | 0 => (row, col)
  | 1 => (2 * row + k % 2, col)
  | 2 => (2 * row + 1, 2 * col + 1)
  | _ => (2 * row + 1, 4 * col + 3)

/-- The same for a matrix product; in strip mode the logical row that holds the index (R134). -/
def termCell (d : Desc) (s : Spot) (kIdx : Nat) : Nat × Nat :=
  if d.strip then
    let n := d.parts
    let t := d.kpart kIdx
    let kt := ((List.range d.matK).filter fun k => d.kpart k == t).length
    let k := kIdx / d.kc / n * d.kc + kIdx % d.kc
    (k / max 1 (d.segLen kt), s.col)
  else clsCell d.cls s.row s.col kIdx

/-- The spot and the cell of a term's event. -/
def Op.eventCell (o : Op) (e : LEvent) : Spot × Nat × Nat :=
  if o.d.isMat then
    let s := matSpot o.d e.outIdx
    (s, termCell o.d s e.kIdx)
  else
    let p := o.pass e.pass
    let s := p.spot (e.grp.getD e.outIdx)
    (s, clsCell p.cls s.row s.col e.kIdx)

/-- The physical row or column that runs a logical one (R101). -/
def physOf (spareFor logical : Nat) : Nat := if spareFor = logical then 32 else logical

/-- Bits [47:0] of word 1 of a ledger entry below EVENT_NO: CELL_VALID, cells, site and logical tile (Table 6.15). -/
def cellField (valid : Bool) (lcol lrow pcol prow site tile : Nat) : Nat :=
  valid.toNat * 2 ^ 47 + lcol * 2 ^ 42 + lrow * 2 ^ 37 + pcol * 2 ^ 31 + prow * 2 ^ 25 + site % 33 * 2 ^ 19 +
    site % 1056 / 33 * 2 ^ 14 + siteQuarter site * 2 ^ 12 + tile / 64 * 2 ^ 6 + tile % 64

/-- Whether an event was raised by a term in a cell of the array. -/
def inCell (d : Desc) (e : LEvent) : Bool :=
  isArrayOp d.opcode && d.opcode != opConvert && d.opcode != opRng && !e.lane &&
    [0x01, 0x02, 0x03, 0x04, 0x05, 0x07].contains e.cause

/-- The cell fields of an event. -/
def State.cellsOf (s : State) (o : Op) (e : LEvent) : Nat :=
  if e.cell ≠ 0 then e.cell
  else if inCell o.d e then
    let (p, r, c) := o.eventCell e
    let site := o.siteFor p.plc p.tile
    cellField true c r (physOf (s.spareCol site) c) (physOf (s.spareRow site) r) site p.tile
  else 0

end Sys2Proof.Machine
end

