-- ==== Sys2Proof/Machine/Record.lean ====
section
/-! DEFINITION. Record: the ledger (R168), the writing of a run's outputs and its counts (R59, R72, R164), and the words
of a completion record (R162). -/

namespace Sys2Proof.Machine

/-! ### The ledger -/

/-- A ledger entry (Table 6.15). -/
def ledgerWords (o : Op) (e : LEvent) (cell bell : Nat) : List Nat :=
  [e.cause * 2 ^ 48 + o.seq % 2 ^ 48,
   min o.attempt 15 * 2 ^ 57 + o.ledgerN * 2 ^ 48 + cell % 2 ^ 48,
   e.kIdx % 2 ^ 48, e.aAddr % 2 ^ 40, e.bAddr % 2 ^ 40, e.outIdx % 2 ^ 48, bell, e.detail]

/-- One ledger event of an operation: stored while fewer than 256 entries are (R168). -/
def State.ledgerOne (seq : Nat) (s : State) (e : LEvent) : State :=
  match s.op? seq with
  | none => s
  | some o =>
    if o.d.ledgerEn ∧ o.ledgerN < 256 then
      (s.ctxWrite o.partner (o.d.ledgerBase + 64 * o.ledgerN) (wordsBytes (ledgerWords o e (s.cellsOf o e) s.now))).setOp
        seq fun o => { o with ledgerN := o.ledgerN + 1 }
    else s

/-- Ledger events in order. -/
def State.ledger (s : State) (seq : Nat) (es : List LEvent) : State := es.foldl (State.ledgerOne seq) s

/-! ### Outputs -/

/-- Every bit write of a run. -/
def RunOut.writes (r : RunOut) (v : Env) : List BitWrite :=
  r.outs.flatMap (elemWrites (r.target v) v.rd) ++ r.extra

/-- The counts that describe a run's outputs (R59, R72, R164). -/
def RunOut.counts (r : RunOut) (v : Env) : Counts :=
  let os := r.live v
  { infZero := sat32 (r.infZero + (os.map (·.infZero)).sum),
    narOut := sat32 (r.narOut + catCount .narOut os),
    spillHi := sat32 (r.spillHi + (os.filter (·.sHi)).length),
    spillLo := sat32 (r.spillLo + (os.filter (·.sLo)).length),
    flush := sat32 (catCount .flush os), sat := sat32 (catCount .sat os),
    gaugeRun := sat32 r.gaugeRun, gaugeSkip := sat32 r.gaugeSkip }

/-- The ledger events of a run; a write list's are added where the run has not met them (R147). -/
def RunOut.events (r : RunOut) (v : Env) : List LEvent :=
  r.evs ++ (if v.d.opcode = opScatter then [] else listEvents (r.target v) v.rd) ++ r.outs.flatMap (·.evs)

/-- A write list of the run held an index out of range (R147). -/
def RunOut.index (r : RunOut) (v : Env) : Bool := r.badIndex || !(listEvents (r.target v) v.rd).isEmpty

/-- The extent of a tensor written with MIRROR becomes durable state (R314). -/
def State.noteMirror (s : State) (partner : Bool) (t : Tensor) : State :=
  let add (l : List Extent) : List Extent := if l.contains t.extent then l else l ++ [t.extent]
  if t.mirror ∧ t.used then
    if partner then { s with twin := { s.twin with pMirrors := add s.twin.pMirrors } }
    else { s with twin := { s.twin with mirrors := add s.twin.mirrors } }
  else s

/-- The writes and the ledger events of a run. -/
def State.applyRun (s : State) (o : Op) (v : Env) (r : RunOut) : State :=
  (((s.noteMirror o.partner (r.target v)).ctxBitsAll o.partner (r.writes v)).ledger o.seq (r.events v))

/-- Blocks that the check left uncounted in UNCHECKED (R96, R100). -/
def State.addUnchecked (s : State) (n : Nat) : State :=
  s.fset Fl.arrGaugeEvtUnchecked 0 ((s.fget Fl.arrGaugeEvtUnchecked 0 + n) % 2 ^ 24)

/-- The re-run of a retemper (R189): its counts stand, and the RETEMPER event is recorded. -/
def State.retemperRun (s : State) (o : Op) (v : Env) (r2 : RunOut) (index : Bool) : State :=
  let v2 := { v with t2 := v.d.rtTensor }
  let t := ((s.ledger o.seq [{ cause := 0x0B }]).applyRun o v2 r2).addUnchecked r2.gaugeSkip
  t.setOp o.seq fun o => { o with
    cnt := r2.counts v2, status := if index then 0x24 else o.status, retempers := o.retempers + 1,
    phase := .written, inArray := false }

/-- The re-run of a retemper whose results came from a collective (R189): NAR_OUT, SAT and FLUSH describe the retemper
tensor, and what the contribution counted stands. -/
def State.retemperAdd (s : State) (o : Op) (v : Env) (r2 : RunOut) : State :=
  let v2 := { v with t2 := v.d.rtTensor }
  let c := r2.counts v2
  ((s.ledger o.seq [{ cause := 0x0B }]).applyRun o v2 r2).setOp o.seq fun o => { o with
    retempers := o.retempers + 1, cnt := { o.cnt with narOut := c.narOut, sat := c.sat, flush := c.flush } }

/-- Every output of an operation written, by its run and, where the counts call for it, by its retemper (R188, R189);
the operation then waits for its record. -/
def State.runOp (s : State) (o : Op) (v : Env) : State :=
  let (r, again) := runWithRetemper v
  let t := (s.applyRun o v r).addUnchecked r.gaugeSkip
  match again with
  | none =>
    t.setOp o.seq fun o => { o with
      cnt := r.counts v, status := if r.index v then 0x24 else o.status, phase := .written, inArray := false }
  | some r2 => t.retemperRun o v r2 (r.index v)

/-- The bytes that an operation writes find reserve space in the partner's context (R350). -/
def State.runRoom (s : State) (o : Op) : Bool :=
  let t := o.d.slot2
  s.ctxRoom o.partner t.extent.1 (t.extent.2 - t.extent.1)

/-! ### Uncorrectable errors that an operation meets -/

/-- The bytes of each element of a tensor that a list index does not put out of range. -/
def Tensor.elemExtents (t : Tensor) (rd : Rd) : List Extent :=
  (List.range t.count).filterMap fun l => match t.place rd (unlinear t.psizes l) with
    | .at b _ => some (b / 8, b / 8 + ceilDiv (b % 8 + t.w) 8)
    | _ => none

/-- What an operation reads: the elements of its tensors with what is attached to them, the list, groups and saddlebag that
its result's places and codes are found by, the bias, the zero sums and the extension tensor (R160, R272). -/
def readExtents (s : State) (o : Op) : List Extent :=
  let d := o.d
  let rd := s.ctxRd o.partner
  let ten (t : Tensor) : List Extent := if t.used then t.elemExtents rd ++ t.attached rd else []
  let v := parseTensor o.ext
  let conv := d.opcode = opConvert
  (if d.usesT2 then [d.slot2.listExt] ++ (if conv then [] else [d.slot2.garrayExt]) ++
    (if conv ∧ d.fld 26 0 0 = 1 then [] else [d.slot2.bagExt rd]) else []) ++
  (if !o.bundle.isEmpty then ((piecesOf 6 o.bundle.length o.bundle).map parseTensor).flatMap ten else if d.usesT0 then ten d.t0 else []) ++
  (if d.usesT1 then ten d.t1 else []) ++ (if d.acc then ten d.slot2 else []) ++
  (if d.opcode = opAttend then ten v else []) ++
  (if d.opcode = opConvert ∧ d.subop = 3 then [d.t2.garrayExt] else []) ++
  (if d.biasAddr ≠ 0 then
    let n := if d.opcode = opNorm then d.t0.psize d.axis else d.t2.psize (if d.biasAxis = 0 then 0 else 1)
    [(d.biasAddr, d.biasAddr + ceilDiv (d.biasFmt.bits * n) 8)] else []) ++
  (if d.zpEn ∧ d.zsumAddr ≠ 0 then [(d.zsumAddr, d.zsumAddr + 8 * (d.matN * d.batches))] else [])

/-- The UE lines that the operation's reads meet. -/
def State.readUe (s : State) (o : Op) : List Nat :=
  if s.hbm.ueLines.isEmpty then [] else (readExtents s o).flatMap (s.ctxUe o.partner)

/-- The bit writes of an operation's results, its retemper included. For the results of a collective only the places
matter. -/
def State.resultWrites (s : State) (o : Op) : List BitWrite :=
  let v := s.envOf o
  let d := o.d
  if d.opcode = opColl ∨ d.opcode = opScalar ∨ d.collPost ≠ 0 then
    (List.range d.slot2.count).flatMap fun l => elemWrites d.slot2 v.rd { idx := l, code := 0 }
  else
    let (r, again) := runWithRetemper v
    r.writes v ++ (match again with
      | some r2 => r2.writes { v with t2 := d.rtTensor }
      | none => [])

/-- The UE lines that an operation meets, with their source (R272, Table 11.4): its reads; then the lines that its
results cover in part, and those that an exact-add reads (log entry 94, DESIGN CHOICE). -/
def State.opUe (s : State) (o : Op) : List (Nat × Nat) :=
  if s.hbm.ueLines.isEmpty then []
  else (s.readUe o).map (fun l => (l, 0)) ++
    ((s.ueWritten o.partner (s.resultWrites o)).filter fun x => !x.2 || o.d.opcode == opScatter).map fun x => (x.1, 3)

/-! ### The completion record -/

/-- Word 0 of a record (Table 6.12). -/
def recordHead (o : Op) (trapped : Bool) (errWord : Nat) : Nat :=
  errWord * 2 ^ 57 + o.room * 2 ^ 45 + o.ledgerN * 2 ^ 36 + min o.attempt 15 * 2 ^ 32 + o.detCause % 16 * 2 ^ 28 +
    min o.detours 15 * 2 ^ 24 + min o.retempers 15 * 2 ^ 20 + o.d.ledgerEn.toNat * 2 ^ 19 +
    o.specUsed.toNat * 2 ^ 18 + trapped.toNat * 2 ^ 17 + o.idem.toNat * 2 ^ 16 + o.d.opcode * 2 ^ 8 + o.status

/-- Words 1 to 15 of a record. -/
def recordRest (o : Op) (endBell : Nat) : List Nat :=
  let h i := sat32 (o.holds.getD i 0)
  [min o.gaugeFail 0xFFFF * 2 ^ 48 + o.seq % 2 ^ 48, o.d.tag.toNat, o.d.ledgerSlot * 2 ^ 48 + o.step % 2 ^ 48,
   o.startBell, endBell] ++
  (List.range 6).map (fun i => h (2 * i + 1) * 2 ^ 32 + h (2 * i)) ++
  [o.cnt.infZero * 2 ^ 32 + o.cnt.narOut, o.cnt.spillHi * 2 ^ 32 + o.cnt.spillLo, o.cnt.flush * 2 ^ 32 + o.cnt.sat,
   o.cnt.gaugeSkip * 2 ^ 32 + o.cnt.gaugeRun]

/-- A completion record written: words 1 to 15 first, then word 0 (R162). -/
def State.writeRecord (s : State) (o : Op) (trapped : Bool) (errWord endBell : Nat) : State :=
  (s.ctxWrite o.partner (o.d.cplAddr + 8) (wordsBytes (recordRest o endBell))).ctxWrite o.partner o.d.cplAddr
    (wordsBytes [recordHead o trapped errWord])

/-- An operation leaves: its tongs and its limits go with it. -/
def State.dropOp (s : State) (seq : Nat) : State :=
  { s with ops := s.ops.filter fun o => o.seq ≠ seq,
           ost := { s.ost with
             fence := if s.ost.fence = some seq then none else s.ost.fence,
             trapNan := if s.ost.trapNan = some seq then none else s.ost.trapNan } }

end Sys2Proof.Machine
end

