-- ==== Sys2Proof/Machine/Checks.lean ====
section
/-! DEFINITION. Checks: the thirteen selection checks of Table 6.11, with the descriptor words that each finds offending
(R159), the footprint of an operation (R160, R298) and its idempotence (R161). -/

namespace Sys2Proof.Machine

/-! ### The tensors of a descriptor -/

/-- The tensors of an operation's bundle list (R224). -/
def Op.bundleTensors (o : Op) : List Tensor := (piecesOf 6 o.bundle.length o.bundle).map parseTensor

/-- A tensor that the operation names, with the descriptor word of its first word: 26 for ATTEND's V, 29 for the entries
of a bundle. -/
abbrev Slot := Nat × Tensor

/-- The word that holds word `k` of a tensor; a tensor outside the descriptor is named by the word of its address. -/
def slotWord (base k : Nat) : Nat := if base = 26 ∨ base = 29 then base else base + k

/-- The word that holds SIZE_d of a tensor. -/
def sizeWord (base d : Nat) : Nat := slotWord base (if d = 0 then 1 else if d = 1 then 2 else 3)

/-- T0 is replaced by the bundle's entries (R224). -/
def Desc.bundled (d : Desc) : Bool := d.opcode = opColl && d.bundleN != 0

/-- The input tensors. -/
def Op.inSlots (o : Op) : List Slot :=
  let d := o.d
  (if d.usesT0 && !d.bundled then [(4, d.t0)] else []) ++ (if d.usesT1 then [(10, d.t1)] else []) ++
  (if d.opcode = opAttend && !o.ext.isEmpty then [(26, parseTensor o.ext)] else []) ++
  (if d.bundled then o.bundleTensors.map fun t => (29, t) else [])

/-- Input and output tensors. -/
def Op.slots (o : Op) : List Slot := o.inSlots ++ if o.d.usesT2 then [(16, o.d.slot2)] else []

/-- A word, where a condition holds. -/
def off (c : Bool) (w : Nat) : List Nat := if c then [w] else []

/-! ### 1 to 4 -/

/-- R144. -/
def chkCpl (d : Desc) : List Nat :=
  off (!(inCommons d.cplAddr 128 && d.cplAddr % 128 == 0)) 3 ++
  off (d.ledgerEn && !decide (d.ledgerSlot % 0x2000 < 0x1800)) 3

/-- Table 6.8. -/
def chkOpcode (d : Desc) : List Nat := off (!(subops d.opcode).contains d.subop) 0

/-- An opcode that uses the epilogue, ANCHOR, SEED_SEL and STREAM (R419). -/
def usesEpi (op : Nat) : Bool :=
  [opMatmul, opMatvec, opElemwise, opReduce, opNorm, opSoftmax, opAttend, opScalar].contains op

/-- An opcode that may use SEED_SEL and STREAM (R419). -/
def usesSeed (op : Nat) : Bool := usesEpi op || [opConvert, opRng, opCopy, opGather, opColl].contains op

/-- A COPY, GATHER or COLLECTIVE converts from or to a quire format (R413). -/
def Desc.quireConv (d : Desc) : Bool :=
  [opCopy, opGather, opColl].contains d.opcode &&
    (((d.t0.fmt.isQuire || d.slot2.fmt.isQuire) && (d.t0.fmtCode != d.slot2.fmtCode || d.collPost != 0)))

/-- An opcode that R187 may allow to retemper: it writes T2 through a rounding. -/
def Desc.usesRt (d : Desc) : Bool := d.usesT2 && d.opcode != opScatter

/-- ACC is used (R419). -/
def Desc.usesAcc (d : Desc) : Bool :=
  d.isMat || d.opcode = opElemwise || (d.opcode = opReduce && decide (d.subop ≤ 1))

/-- The bits [hi:lo] as a mask. -/
def bits (hi lo : Nat) : Nat := 2 ^ (hi + 1) - 2 ^ lo

/-- The bits of word `i` that the opcode uses (R143, R154, R158, R419; Tables 6.2 to 6.10), outside the tensors. -/
def usedBits (d : Desc) (i : Nat) : Nat :=
  let op := d.opcode
  let epi := usesEpi op
  let when (c : Bool) (m : Nat) : Nat := if c then m else 0
  let none28 := [opTload, opTswap, opWaymark, opFence, opNop].contains op
  match i with
  | 0 => bits 19 0 + when d.usesAcc (bits 20 20) + when d.isMat (bits 21 21 + bits 54 48) + when d.usesRt (bits 23 22) +
      when epi (bits 31 24) + when (epi || d.quireConv) (bits 44 32) + when (usesSeed op) (bits 59 56)
  | 1 => when (usesSeed op) (bits 15 0) + when d.usesRt (bits 31 16) + bits 47 32 + when (d.isMat && d.raw) (bits 53 48)
  | 2 => bits 63 0
  | 3 => bits 63 48 + bits 39 0
  | 22 => when epi (bits 48 0)
  | 23 => when epi (bits 63 0)
  | 24 => when ((d.isMat && d.zpEn) || (op = opConvert && d.slot2.fmt.int.isSome)) (bits 39 0)
  | 25 => when d.usesRt (bits 39 0)
  | 26 =>
    if op = opElemwise then when (d.subop = 7) (bits 31 0)
    else if op = opReduce ∨ op = opNorm ∨ op = opSoftmax ∨ op = opFence then bits 2 0
    else if op = opAttend then bits 39 0
    else if op = opConvert then bits 0 0
    else if op = opRng ∨ op = opBarrier then bits 31 0
    else when (op = opTload) (bits 10 0)
  | 27 =>
    if op = opNorm then bits 31 0
    else if op = opAttend then bits 31 16 + bits 0 0
    else when (op = opRng && d.subop != 2) (bits 31 0)
  | 28 =>
    if none28 then 0
    else if op = opBarrier then bits 25 16
    else if op = opScalar then bits 25 16 + bits 10 9
    else bits 47 32 + bits 25 16 + bits 12 0
  | 29 => when (!(none28 || op = opBarrier || op = opScalar)) (bits 55 48 + bits 46 0)
  | 30 => 0
  | 31 => bits 57 0
  | _ => bits 63 0

/-- A word with a bit set outside a mask. -/
def straysFrom (w mask : Nat) : Bool := Nat.land w mask != w

/-- RSVD bits of a tensor (Tables 6.5 and 6.6). -/
def rsvdTensor (x : Slot) : List Nat :=
  off (x.2.rsvd != 0) (slotWord x.1 0) ++ off (x.2.windowed && wbits x.2.five 63 48 != 0) (slotWord x.1 5)

/-- The words of an inline slot that must be zero, since the slot is unused (R145). -/
def unusedSlot (d : Desc) (base : Nat) (used : Bool) : List Nat :=
  if used && d.fld base 50 48 != 0 then []
  else if used then []
  else (List.range 6).filterMap fun k => if d.getD (base + k) 0 = 0 then none else some (base + k)

/-- R143: reserved and unused fields are zero. -/
def chkRsvd (o : Op) : List Nat :=
  let d := o.d
  ((List.range 32).filter fun i => (i < 4 || 22 ≤ i) && straysFrom (d.getD i 0).toNat (usedBits d i)) ++
  unusedSlot d 4 (d.usesT0 && !d.bundled) ++ unusedSlot d 10 d.usesT1 ++ unusedSlot d 16 d.usesT2 ++
  o.slots.flatMap rsvdTensor

/-- R113: raw integer mode, only in a quarter under test. -/
def State.chkRaw (s : State) (o : Op) : List Nat :=
  off (o.d.raw && !(!s.locked && bitsOf s.testQ o.dom o.dom == 1)) 0

/-! ### 5: formats and roles -/

/-- The input role of a tensor (Table 2.1, R27); E8M0 can be moved unchanged (log entry 117, DEDUCED). -/
def readRole (d : Desc) (base : Nat) (t : Tensor) : Bool :=
  let op := d.opcode
  (fmtOfCode t.fmtCode).isSome &&
  (if d.isMat || op = opAttend || (op = opConvert && d.subop = 1 && base = 4) then t.fmt.operand
   else if op = opNorm || op = opSoftmax then t.fmt.readable && t.fmt != .int32
   else if op = opCopy || op = opGather || op = opColl then
     t.fmt.readable || t.fmt.isQuire || (t.fmt == .e8m0 && d.slot2.fmt == .e8m0 && d.collPost == 0)
   else if op = opScatter then t.fmt.operand || t.fmt == .int32 || t.fmtCode == d.slot2.fmtCode
   else if op = opTload then t.fmt == .uint8
   else t.fmt.readable)

/-- COLLECTIVE gathers: COLL_PRE is set. -/
def Desc.gathers (d : Desc) : Bool := d.opcode = opColl && d.collPre != 0

/-- The format of what a COPY, GATHER or COLLECTIVE moves. -/
def Op.srcCode (o : Op) : Nat :=
  if o.d.bundled then (o.bundleTensors.map (·.fmtCode)).headD o.d.slot2.fmtCode else o.d.t0.fmtCode

/-- The output role of T2 (Table 2.1, R27, R28, R46, R114, R420). -/
def writeRole (o : Op) : Bool :=
  let d := o.d
  let f := d.slot2.fmt
  let op := d.opcode
  let same := o.srcCode == d.slot2.fmtCode
  let quireFits := match f.quireW with
    | some w => d.groupOutputs && decide (d.gw ≤ w)
    | none => false
  (fmtOfCode d.slot2.fmtCode).isSome &&
  (if d.isMat && d.raw then f == .int32 || f == .q128 || (f == .q256)
   else if op = opConvert then
     (match d.subop with
      | 2 => f.codebook
      | 3 => f.readable
      | _ => (f.readable && !f.codebook) || f == .e8m0)
   else if op = opCopy || op = opGather then same || f.quenchOut || f.isQuire
   else if d.gathers then same || (f.quenchOut && d.wire != 2)
   else if op = opColl then f.quenchOut || f.isQuire
   else if op = opScatter then f.isQuire
   else f.quenchOut || quireFits)

/-- The two tensors of a standalone reduction are quires of different widths (R221). -/
def Desc.quireMix (d : Desc) : Bool :=
  d.opcode = opColl && d.collPost != 0 && d.t0.fmt.isQuire && d.slot2.fmt.isQuire && d.t0.fmtCode != d.slot2.fmtCode

/-- A change of format into FP8 with a group-scale pointer, outside CONVERT (R28). -/
def Op.fp8Scaled (o : Op) : Bool :=
  let d := o.d
  d.usesT2 && d.opcode != opConvert && d.slot2.fmt.fp8 && d.slot2.gptr != 0 &&
    !((d.opcode = opCopy || d.opcode = opGather || d.gathers) && o.srcCode == d.slot2.fmtCode)

/-- A saddlebag in a slot that honours one (R172, R175, R186). -/
def bagRole (d : Desc) (base : Nat) (t : Tensor) : Bool :=
  t.sbag == 0 ||
    (t.mode = .strided && !d.zpEn &&
     ((d.isMat && (base = 4 || base = 10)) || (d.opcode = opConvert && base = 4) ||
      (d.opcode = opConvert && base = 16 && t.fmt != .cb4 && t.fmt != .e8m0)))

/-- A tensor's own part of check 5: format and role, QUIRE, GSIZE, the group array and the saddlebag (R28, R170, R175,
Table 6.5). -/
def fmtSlot (o : Op) (x : Slot) : List Nat :=
  let t := x.2
  let role := if x.1 = 16 then writeRole o else readRole o.d x.1 t
  off (!role || t.quire != t.fmt.isQuire || t.gsizeCode == 3) (slotWord x.1 0) ++
  off (t.gptr == 0 && (t.fmt.codebook || t.fmt == .sp8)) (slotWord x.1 1) ++
  off (!bagRole o.d x.1 t) (slotWord x.1 2)

/-- A zero point lies in its operand format's own range (R183). -/
def zpOk (f : Fmt) (z : Int) : Bool :=
  match f.int with
  | some (true, w) => decide (-(2 ^ (w - 1) : Int) ≤ z) && decide (z < 2 ^ (w - 1))
  | some (false, w) => decide (0 ≤ z) && decide (z < 2 ^ w)
  | none => false

/-- The operation forms groups whose anchor R64 fixes for a posit pair. -/
def Desc.anchored (d : Desc) : Bool :=
  (d.groupOutputs && !(d.isMat && d.raw)) || d.opcode = opAttend || (d.opcode = opScalar && d.subop = 0)

/-- Check 5 of Table 6.11. -/
def chkFormat (o : Op) : List Nat :=
  let d := o.d
  o.slots.flatMap (fmtSlot o) ++
  off (d.round == 3 || decide (2 ≤ d.retemper)) 0 ++
  off (d.anchored && quirePair d.pair.1 d.pair.2 && d.anchor != anchorAuto && d.anchor != quireAnchor d.gw) 0 ++
  off (d.acc && (match d.slot2.fmt.quireW with | some w => w != d.gw | none => false)) 16 ++
  off (d.usesT2 && d.slot2.fmt.isQuire && (d.scaleEn || d.funcEn)) 0 ++
  off o.fp8Scaled 16 ++
  off d.quireMix 4 ++
  off (d.opcode = opScatter && d.slot2.windowed) 16 ++
  off (d.isMat && d.raw && decide (d.t0.w < d.rawAW)) 4 ++ off (d.isMat && d.raw && decide (d.t1.w < d.rawBW)) 10 ++
  off (d.biasAddr != 0 && !((fmtOfCode d.biasFmtCode).isSome && d.biasFmt.operand && !d.biasFmt.codebook && d.biasFmt != .sp8)) 22 ++
  off ((d.opcode = opSoftmax || d.opcode = opAttend) && d.biasAddr != 0) 22 ++
  off (d.zpEn && !(d.isMat && d.t0.fmt.int.isSome && d.t1.fmt.int.isSome)) 0 ++
  off (d.zpEn && d.isMat && !(zpOk d.t0.fmt d.zpA && zpOk d.t1.fmt d.zpB)) 23 ++
  off (d.retemper == 1 && ((Desc.retemperFmt d.slot2.fmt).isNone || d.acc || d.collPost != 0 ||
    ((d.opcode = opCopy || d.opcode = opGather || d.gathers) && o.srcCode == d.slot2.fmtCode))) 0 ++
  off (d.opcode = opConvert && d.subop = 2 && d.round != 0) 0 ++
  off (d.opcode = opConvert && d.slot2.fmt = .e8m0 && d.slot2.gptr != 0) 17 ++
  off (d.opcode = opConvert && d.fld 26 0 0 == 1 && d.slot2.sbag == 0) 18 ++
  off (d.wire == 1 && d.collPost != 0 && !((fmtOfCode d.xferCode).getD .packed).quenchOut) 29

/-! ### 6: shapes -/

/-- Ranks, sizes, strides and window fields of one tensor (R145, R147, R148, R172). -/
def shapeSlot (x : Slot) : List Nat :=
  let t := x.2
  let w := slotWord x.1
  off (t.rank == 0 || decide (5 < t.rank) || (t.mode = .list && t.rank != 2 && t.rank != 3) ||
    (t.windowed && (t.rank != 3 || t.trans))) (w 0) ++
  ((List.range 5).flatMap fun k => off (if k < t.rank then t.size k == 0 else t.size k != 0) (sizeWord x.1 k)) ++
  off ((t.rank < 2 && t.stride1 != 0) || (t.rank < 3 && t.stride2 != 0)) (w 4) ++
  off (t.mode = .strided && ((t.rank < 4 && t.stride 3 != 0) || (t.rank < 5 && t.stride 4 != 0))) (w 5) ++
  off (t.windowed && (t.kw == 0 || t.kh == 0 || t.sw == 0 || t.sh == 0 || t.dw == 0 || t.dh == 0)) (w 5) ++
  off (t.windowed && (decide (t.ow ≤ 0) || decide (t.oh ≤ 0))) (w 1) ++
  off (t.sbag != 0 && decide (2 ^ 32 ≤ t.count)) (w 1)

/-- Dimensions of `t` that differ from `sizes`, as words of the slot at `base`. -/
def sizesDiffer (base : Nat) (t : Tensor) (sizes : List Nat) : List Nat :=
  off (t.prank != sizes.length) base ++
  ((List.range (min t.prank sizes.length)).flatMap fun k => off (t.psize k != sizes.getD k 0) (sizeWord base k))

/-- Each dimension of `t` has the size of `sizes` there or size 1 (R149, R416). -/
def sizesBroadcast (base : Nat) (t : Tensor) (sizes : List Nat) (from_ : Nat) : List Nat :=
  (List.range 5).flatMap fun k =>
    off (from_ ≤ k && t.psize k != 1 && t.psize k != sizes.getD k 1) (sizeWord base k)

/-- Matrix roles (R149, Table 6.7, Table 6.8, R205). Under a fused REDUCE_SCATTER T2 holds a share, which is checked
with the collective shapes; C is not broadcast along batch dimensions (log entry 121, DESIGN CHOICE). -/
def shapeMat (o : Op) : List Nat :=
  let d := o.d
  let a := d.t0
  let b := d.t1
  let c := d.slot2
  let share := d.collPost == 3
  let kWord := sizeWord 4 (if a.trans then 1 else 0)
  let nKey := if b.trans then b.psize 1 else b.psize 0
  let v := parseTensor o.ext
  let isA := d.opcode = opAttend
  let vKeys := if v.trans then v.psize 1 else v.psize 0
  let dv := if v.trans then v.psize 0 else v.psize 1
  let outN := if isA then dv else d.matN
  let flat := d.opcode = opMatvec && a.prank == 1
  off (a.prank < 2 && !flat) 4 ++ off (b.prank < 2) 10 ++ off (!share && (c.trans || (c.prank < 2 && !flat))) 16 ++
  off (d.opcode = opMatvec && decide (32 < d.matM)) (sizeWord 4 (if a.trans then 0 else 1)) ++
  off (d.matK != nKey) kWord ++
  off (isA && !o.ext.isEmpty && (vKeys != d.matN || v.prank < 2)) 10 ++
  off (!share && c.psize 1 != d.matM) (sizeWord 4 (if a.trans then 0 else 1)) ++
  off (!share && c.psize 0 != outN) (if isA then 17 else sizeWord 10 (if b.trans then 0 else 1)) ++
  (if share then [] else sizesBroadcast 4 a c.psizes 2 ++ sizesBroadcast 10 b c.psizes 2 ++
    (if isA && !o.ext.isEmpty then sizesBroadcast 26 v c.psizes 2 else []))

/-- A posit32 parameter as an exact value. -/
def param (w : Nat) : XV := ofPosit 32 w

/-- R207. -/
def shapeParams (d : Desc) : List Nat :=
  let p0 := param (d.fld 26 31 0)
  let p1 := param (d.fld 27 31 0)
  let zero : XV := .zero false
  let one := xvRat 1 1 0
  off (d.opcode = opNorm && (p1 == .nar || p1.lt zero)) 27 ++
  off (d.opcode = opElemwise && d.subop = 7 && (p0 == .nar || !zero.lt p0 || one.lt p0)) 26 ++
  off (d.opcode = opRng && d.subop = 2 && (p0 == .nar || p0.lt zero || one.lt p0)) 26 ++
  off (d.opcode = opRng && d.subop != 2 && p0 == .nar) 26 ++ off (d.opcode = opRng && d.subop != 2 && p1 == .nar) 27

/-- The opcode's own rules of R154, R155, R186, R197, R206, R280 and R416; AXIS against the presented rank (log entry 120,
DESIGN CHOICE). -/
def shapeOp (o : Op) : List Nat :=
  let d := o.d
  let a := d.t0
  let c := d.slot2
  let share := d.collPost == 3
  let like (base : Nat) (sizes : List Nat) : List Nat := if share then [] else sizesDiffer base c sizes
  let axisBad := off (decide (a.prank ≤ d.axis)) 26
  if d.isMat || d.opcode = opAttend then shapeMat o
  else if d.opcode = opElemwise then
    like 16 a.psizes ++
    (if d.usesT1 then off (d.t1.prank != a.prank) 4 ++ sizesBroadcast 10 d.t1 a.psizes 0 else [])
  else if d.opcode = opReduce then
    axisBad ++ off (axisBad.isEmpty && !share && c.count != (a.psizes.eraseIdx d.axis).foldl (· * ·) 1) 17
  else if d.opcode = opNorm then
    axisBad ++ like 16 a.psizes ++
    off (axisBad.isEmpty && d.t1.used && (d.t1.prank != 1 || d.t1.psize 0 != a.psize d.axis)) 10 ++ off (d.biasAddr != 0 && d.biasAxis == 1) 22
  else if d.opcode = opSoftmax then axisBad ++ like 16 a.psizes
  else if d.opcode = opConvert then
    (if d.subop = 1 then
      off (a.prank != 1) 4 ++ off (a.psize 0 != d.t1.storedSizes.getD d.t1.gdim 0) 5 ++ like 16 d.t1.psizes
     else like 16 a.psizes)
  else if d.opcode = opCopy || d.opcode = opGather then off (!share && c.count != a.count) 5
  else if d.opcode = opScatter then sizesDiffer 4 a c.psizes
  else if d.opcode = opScalar then off (decide (8 < a.count)) 5 ++ off (c.count != a.count) 17
  else if d.opcode = opTload then
    let n := d.fld 26 10 5
    off (a.rank != 1 || a.mode != .strided) 4 ++ off (a.size 0 != 64 + 512 * n) 5 ++
    off (n == 0 || decide (32 < n) || decide (32 < d.fld 26 4 0 + n)) 26
  else if d.opcode = opFence then off (d.fld 26 2 0 == 0) 26
  else []

/-- The group context that a descriptor names, as this module numbers it (R350). -/
def Op.ctxNo (o : Op) : Nat := ctxGroupNo o.partner o.d.group

/-- The context is configured and in service (R158, R213). -/
def State.ctxOk (s : State) (o : Op) : Bool :=
  s.fon Fl.grpCfgValid o.ctxNo && s.fget Fl.grpStatState o.ctxNo != 3 && !(o.partner && decide (512 ≤ o.d.group))

/-- Members of a context, and this module's member index. -/
def State.members (s : State) (c : Nat) : List Nat := (mget {} s.ctxs c).members
def State.selfIdx (s : State) (c : Nat) : Nat := s.fget Fl.grpStatSelf c

/-- Bytes of a format's element in a nominal size (Table 9.5). -/
def nominalBytes (code : Nat) : Nat := max 1 (((fmtOfCode code).getD .uint8).bits / 8)

/-- Width of the groups that a reduction carries (R221, R27). -/
def Desc.collW (d : Desc) : Nat :=
  if d.opcode = opColl then
    match d.slot2.fmt.quireW, d.t0.fmt.quireW with
    | some w, _ => w
    | none, some w => w
    | none, none => pairWidth d.slot2.fmt d.slot2.fmt
  else d.gw

/-- The width of a COLLECTIVE's groups is that of its input format (R221). -/
def Op.collW (o : Op) : Nat :=
  if o.d.opcode = opColl && !o.d.slot2.fmt.isQuire && !((fmtOfCode o.srcCode).getD .uint8).isQuire then
    pairWidth ((fmtOfCode o.srcCode).getD .uint8) ((fmtOfCode o.srcCode).getD .uint8)
  else o.d.collW

/-- s of Table 9.5 for a reduction, or for a gather of elements with a format code. -/
def Op.nominal (o : Op) (gather : Option Nat) : Nat :=
  match gather with
  | some code => nominalBytes code
  | none => if o.d.wire = 1 then nominalBytes o.d.xferCode else 2 + (o.collW + 8) / 8

/-- E of R215: the largest power of two with E s at most 65,536. -/
def perChunk (s : Nat) : Nat := 2 ^ Nat.log2 (65536 / max 1 s)

/-- Share of member `i` of `n` elements over `c` members: its first element and length (R222). -/
def shareOf (n c i : Nat) : Nat × Nat :=
  let k := ceilDiv n (max 1 c)
  (min n (i * k), min k (n - min n (i * k)))

/-- The tensor that a gather fills: T2 of a COLLECTIVE, else the slot that PRE_SLOT names (R222). -/
def Desc.wholeSlot (d : Desc) : Slot :=
  if d.opcode = opColl then (16, d.slot2) else if d.preSlot = 0 then (4, d.t0) else (10, d.t1)

/-- Elements of the input of a COLLECTIVE. -/
def Op.srcCount (o : Op) : Nat :=
  if o.d.bundled then (o.bundleTensors.map (·.count)).sum else o.d.t0.count

/-- Elements of a reduction. -/
def Op.reduceCount (o : Op) : Nat :=
  if o.d.opcode = opColl then o.srcCount else o.d.t2.count

/-- The context has a member list, so that shapes that depend on COUNT can be checked. -/
def State.ctxCounted (s : State) (o : Op) : Bool :=
  s.fon Fl.grpCfgValid o.ctxNo && !(o.partner && decide (512 ≤ o.d.group))

/-- The collective shapes of R215, R222 and R224; those that depend on COUNT only where the context has a COUNT. -/
def State.shapeColl (s : State) (o : Op) : List Nat :=
  let d := o.d
  if d.opcode = opBarrier || [opTload, opTswap, opWaymark, opFence, opNop].contains d.opcode then []
  else
    let known := s.ctxCounted o
    let c := if known then s.fget Fl.grpCfgCount o.ctxNo else 1
    let i := s.selfIdx o.ctxNo
    let w := d.wholeSlot
    let last := w.2.prank - 1
    let tooMany (n sz : Nat) : Bool := decide (2 ^ 20 < ceilDiv n (perChunk sz))
    let part := if known then w.2.psize last / max 1 c else d.t0.psize last
    (if d.collPre = 1 ∨ d.collPre = 2 then
      off (w.2.psize last % max 1 c != 0) (sizeWord w.1 last) ++
      off (tooMany w.2.count (o.nominal (some (if d.opcode = opColl then o.srcCode else w.2.fmtCode)))) (sizeWord w.1 0) ++
      (if d.opcode = opColl && !d.bundled then sizesDiffer 4 d.t0 (w.2.psizes.set last part) else [])
     else []) ++
    (if d.collPost ≠ 0 then
      off (known && d.collPost == 3 && d.slot2.count != (shareOf o.reduceCount c i).2) 17 ++
      off (d.collPost != 3 && d.opcode = opColl && !d.bundled && d.slot2.psizes != d.t0.psizes) 5 ++
      off (tooMany o.reduceCount (o.nominal none)) 17
     else []) ++
    (if d.bundled then
      off (d.slot2.prank != 1 || d.slot2.mode != .strided) 16 ++ off (d.collPost != 3 && d.slot2.count != o.srcCount) 17 ++
      (o.bundleTensors.flatMap fun t => off (t.fmtCode != d.slot2.fmtCode) 16)
     else [])

/-- Check 6 of Table 6.11. -/
def State.chkShape (s : State) (o : Op) : List Nat :=
  o.slots.flatMap shapeSlot ++ shapeOp o ++ shapeParams o.d ++ s.shapeColl o

/-! ### 7 to 9 -/

/-- R119. -/
def chkSplit (d : Desc) : List Nat := off (d.isMat && !([1, 2, 4, 8, 16, 32, 64].contains d.splitk)) 0

/-- Alignment of one tensor (R151, R172). -/
def alignSlot (d : Desc) (x : Slot) : List Nat :=
  let t := x.2
  let w := slotWord x.1
  let sz := min 64 (max 1 (t.w / 8))
  let k := if t.w = 4 then 2 else if t.w = 6 then 4 else 1
  let arr := (d.isMat || d.opcode = opAttend) && x.1 != 16
  off (t.addr % sz != 0 || (arr && t.addr % 8 != 0)) (w 0) ++
  off (t.gptr % (if t.fmt.codebook then 2 else 1) != 0 || (arr && t.gptr % 8 != 0)) (w 1) ++
  off (t.sbag % 8 != 0) (w 2) ++
  off (t.stride1 % k != 0 || t.stride2 % k != 0 || (arr && t.stride1 * t.w % 64 != 0)) (w 4) ++
  off (t.mode = .strided && (t.stride 3 % k != 0 || t.stride 4 % k != 0)) (w 5) ++
  off (t.mode = .list && t.listPtr % 4 != 0) (w 5)

/-- Check 8 of Table 6.11. -/
def chkAlign (o : Op) : List Nat :=
  let d := o.d
  o.slots.flatMap (alignSlot d) ++
  off (d.opcode = opScatter && d.slot2.addr % max 1 (d.slot2.w / 8) != 0) 16 ++
  off (d.biasAddr != 0 && d.biasAddr % max 1 (d.biasFmt.bits / 8) != 0) 22 ++ off (d.zsumAddr % 8 != 0) 24 ++
  off (d.retemper == 1 && d.rtAddr % max 1 (d.rtTensor.w / 8) != 0) 25 ++ off (d.bundled && d.bundleAddr % 8 != 0) 29

/-- Bytes of the bias vector. -/
def Desc.biasBytes (d : Desc) : Nat :=
  ceilDiv (d.biasFmt.bits * (if d.opcode = opNorm then d.t0.psize d.axis else d.t2.psize (if d.biasAxis = 0 then 0 else 1))) 8

/-- Bytes of the zero sums: read by column (R184), or written along T2's group dimension (R185). -/
def Desc.zsumBytes (d : Desc) : Nat := if d.opcode = opConvert then 8 * d.slot2.others else 8 * (d.matN * d.batches)

/-- ZSUM is read, or written. -/
def Desc.zsumRead (d : Desc) : Bool := d.zpEn && d.zsumAddr != 0
def Desc.zsumWritten (d : Desc) : Bool := d.opcode = opConvert && d.zsumAddr != 0

/-- An extent with the descriptor word that holds its address. -/
abbrev WExt := Nat × Extent

/-- A tensor's extents: its elements, group array, saddlebag and list. -/
def slotExts (rd : Rd) (x : Slot) : List WExt :=
  [(slotWord x.1 0, x.2.extent), (slotWord x.1 1, x.2.garrayExt), (slotWord x.1 2, x.2.bagExt rd),
   (slotWord x.1 5, x.2.listExt)]

/-- The bundle list. -/
def Desc.bundleExt (d : Desc) : List WExt := if d.bundled then [(29, (d.bundleAddr, d.bundleAddr + 48 * d.bundleN))] else []

/-- The arrays that a descriptor names beside its tensors. -/
def Desc.otherExts (d : Desc) : List WExt :=
  (if d.biasAddr ≠ 0 then [(22, (d.biasAddr, d.biasAddr + d.biasBytes))] else []) ++
  (if d.zsumRead || d.zsumWritten then [(24, (d.zsumAddr, d.zsumAddr + d.zsumBytes))] else []) ++
  (if d.retemper = 1 then [(25, d.rtTensor.extent)] else []) ++
  (if d.opcode = opAttend then [(26, (d.opx0 % 2 ^ 40, d.opx0 % 2 ^ 40 + 48))] else []) ++ d.bundleExt

/-- The operation runs in a quarter under test (R153). -/
def State.underTest (s : State) (o : Op) : Bool := !s.locked && bitsOf s.testQ o.dom o.dom == 1

/-- A permitted extent (R153). -/
def State.permitted (s : State) (o : Op) (x : Extent) : Bool :=
  s.populated x.1 (x.2 - x.1) || (s.underTest o && inPanel x.1 && decide (x.2 ≤ 0xFC80000000))

/-- Check 9 of Table 6.11. -/
def State.chkRange (s : State) (o : Op) : List Nat :=
  let d := o.d
  let rd := s.ctxRd o.partner
  ((o.slots.flatMap (slotExts rd) ++ d.otherExts).flatMap fun x =>
    off (decide (x.2.1 < x.2.2) && !s.permitted o x.2) x.1) ++
  off (d.retemper == 1 && d.rtAddr == 0) 25 ++ off (d.isMat && d.zpEn && d.zsumAddr == 0) 24

/-! ### 10 to 13 -/

/-- CUR, and the state of a bank (Tables 8.6 and 8.7). -/
def State.tblCur (s : State) (p : Bool) : Nat := bitsOf (s.ctxTblGen p).toNat 0 0
def State.bankState (s : State) (p : Bool) (b : Nat) : Nat := bitsOf (s.ctxTblState p).toNat (4 + 2 * b + 1) (4 + 2 * b)

/-- An array operation that is not yet out of the array: it is waiting for its front, or in the array (R20). -/
def Op.notOut (o : Op) : Bool := isArrayOp o.d.opcode && o.phase != .computed && o.phase != .written

/-- A bank is bound: an operation in the array bound it at its front (R196, R20), or holds product tables in it (R182); an
operation that was pre-empted from the array keeps its bank (log entry 82, DEDUCED). -/
def State.bankBound (s : State) (p : Bool) (b : Nat) : Bool :=
  s.ops.any fun o => o.partner == p && o.notOut && (o.entered || o.preempted) && (o.bank == b || o.d.prodTables)

/-- A bank holds product tables (R182): a pass that did not bind it has entered and is not yet out of the array. -/
def State.bankProd (s : State) (p : Bool) (b : Nat) : Bool :=
  s.ops.any fun o => o.partner == p && o.notOut && o.d.prodTables && o.entered && o.bank == 1 - b

/-- Check 10: the function slot, and R199's staged bank. -/
def State.chkTable (s : State) (o : Op) : List Nat :=
  off (o.d.funcEn && bitsOf ((s.ctxTables o.partner).valid (s.tblCur o.partner)) o.d.funcSlot o.d.funcSlot != 1) 0 ++
  off (o.d.opcode = opTswap && s.bankState o.partner (1 - s.tblCur o.partner) != 1) 0

/-- Check 11: the bank that a TABLE_LOAD writes is not bound (R198). -/
def State.chkBusy (s : State) (o : Op) : List Nat :=
  off (o.d.opcode = opTload && s.bankBound o.partner (1 - s.tblCur o.partner)) 0

/-- The outputs of a descriptor (R160). -/
def State.outExts (s : State) (o : Op) : List WExt :=
  let d := o.d
  let t := d.slot2
  let rd := s.ctxRd o.partner
  (if d.usesT2 then [(16, t.extent)] else []) ++
  (if d.retemper = 1 then [(25, d.rtTensor.extent)] else []) ++
  [(3, (d.cplAddr, d.cplAddr + 128))] ++ (if d.ledgerEn then [(3, (d.ledgerBase, d.ledgerBase + 0x4000))] else []) ++
  (if d.opcode = opConvert then
    (if d.subop ≠ 3 then [(17, t.garrayExt)] else []) ++ (if d.fld 26 0 0 = 1 then [(18, t.bagExt rd)] else []) ++
    (if d.zsumWritten then [(24, (d.zsumAddr, d.zsumAddr + d.zsumBytes))] else [])
   else [])

/-- T2 is read as the start of its groups (R160). -/
def Desc.accumulates (d : Desc) : Bool := d.acc || d.opcode = opScatter

/-- The inputs of a descriptor (R160), but for T2's own accumulated start. -/
def State.inExts (s : State) (o : Op) : List WExt :=
  let d := o.d
  let t := d.slot2
  let rd := s.ctxRd o.partner
  let conv := d.opcode = opConvert
  o.inSlots.flatMap (slotExts rd) ++
  (if d.biasAddr ≠ 0 then [(22, (d.biasAddr, d.biasAddr + d.biasBytes))] else []) ++
  (if d.zsumRead then [(24, (d.zsumAddr, d.zsumAddr + d.zsumBytes))] else []) ++ d.bundleExt ++
  (if d.usesT2 then
    [(21, t.listExt)] ++ (if conv && d.subop != 3 then [] else [(17, t.garrayExt)]) ++
    (if conv && d.fld 26 0 0 == 1 then [] else [(18, t.bagExt rd)])
   else [])

/-- The words of two lists of extents whose members intersect. -/
def crossing (a b : List WExt) : List Nat :=
  a.flatMap fun x => b.flatMap fun y => if Extent.meets x.2 y.2 then [x.1, y.1] else []

/-- The words of the outputs that intersect each other. -/
def selfCrossing : List WExt → List Nat
  | [] => []
  | x :: r => crossing [x] r ++ selfCrossing r

/-- Check 13 (R160). -/
def State.chkOverlap (s : State) (o : Op) : List Nat :=
  selfCrossing (s.outExts o) ++ crossing (s.outExts o) (s.inExts o)

/-- R161: no output extent intersects an input extent. -/
def State.idempotent (s : State) (o : Op) : Bool :=
  (crossing (s.outExts o) (s.inExts o)).isEmpty && !(o.d.accumulates && decide (o.d.slot2.extent.1 < o.d.slot2.extent.2))

/-- The accumulator regions for which tongs are granted (R161). -/
def Desc.tongs (d : Desc) : List Extent := if d.accumulates then [d.slot2.extent] else []

/-- The operation takes part in a collective. -/
def Desc.collective (d : Desc) : Bool :=
  [opColl, opBarrier, opScalar].contains d.opcode ||
    (!([opTload, opTswap, opWaymark, opFence, opNop].contains d.opcode) && (d.collPre != 0 || d.collPost != 0))

/-- Check 12 (R158, R213, R220, R224, R229, R233). -/
def State.chkColl (s : State) (o : Op) : List Nat :=
  let d := o.d
  let fields := !([opTload, opTswap, opWaymark, opFence, opNop, opBarrier].contains d.opcode)
  off (fields && (decide (2 < d.collPre) || decide (3 < d.collPost) || d.wire == 3)) 28 ++
  off (d.opcode = opColl && (d.collPre == 0) == (d.collPost == 0)) 28 ++
  off (fields && d.collPre != 0 && !(if d.preSlot = 0 then d.usesT0 else d.usesT1)) 28 ++
  off (fields && d.collPost != 0 && !d.usesT2) 28 ++
  off (d.collective && !s.ctxOk o) 28 ++
  off (fields && (d.collPre == 1 || d.collPost == 1) && decide (s.fget Fl.grpCfgCount o.ctxNo ≤ d.root)) 28 ++
  off (fields && d.collPost != 0 && (d.wire == 2 || (d.wire == 0 && d.opcode != opColl && !d.groupOutputs))) 28 ++
  off (fields && d.collPre != 0 && d.wire == 1) 28 ++
  off (d.opcode = opScalar && d.wire != 0) 28 ++
  off (fields && (d.bundleN == 1 || decide (64 < d.bundleN) || (d.bundleN != 0 && d.opcode != opColl))) 29 ++
  off (fields && d.specConsume && (!s.idempotent o || !s.fon Fl.colModeSpecEn 0)) 28 ++
  off (d.opcode = opBarrier && decide (16384 < d.opx0 % 2 ^ 32)) 26

/-- The first check of Table 6.11 that fails, as its code and the lowest offending word (R159). -/
def State.check (s : State) (o : Op) : Option (Nat × Nat) :=
  let d := o.d
  [(0x03, chkCpl d), (0x01, chkOpcode d), (0x02, chkRsvd o), (0x04, s.chkRaw o), (0x05, chkFormat o), (0x06, s.chkShape o),
   (0x07, chkSplit d), (0x08, chkAlign o), (0x09, s.chkRange o), (0x0A, s.chkTable o), (0x0B, s.chkBusy o),
   (0x0C, s.chkColl o), (0x0D, s.chkOverlap o)].findSome? fun c =>
    match c.2 with
    | [] => none
    | w :: r => some (c.1, r.foldl min w)

end Sys2Proof.Machine
end

