-- ==== Sys2Proof/Machine/Harts.lean ====
section
/-! DEFINITION. Harts: the registers of the control cores, their traps, the PMP and Sv39 (R287 to R290, R327). R287 gives a
hart RV64GC and the privileged architecture 1.12 and names what they hold; the numbers of the CSRs, the places of their fields
and the rules of traps, PMP and Sv39 are that architecture's (log entry 8, PRESUMED). -/

namespace Sys2Proof.Machine

/-! ### Registers -/

/-- The code of a privilege mode. -/
def Priv.code : Priv → Nat
  | .user => 0
  | .supervisor => 1
  | .machine => 3

/-- The privilege mode of a code. -/
def privOf (n : Nat) : Priv := if n = 3 then .machine else if n = 1 then .supervisor else .user

/-- An integer register; x0 reads zero. -/
def Hart.getX (x : Hart) (n : Nat) : Word64 := if n = 0 then 0 else mget 0 x.xr n

/-- An integer register written; x0 discards it. -/
def Hart.setX (x : Hart) (n : Nat) (v : Word64) : Hart := if n = 0 ∨ 32 ≤ n then x else { x with xr := mput 0 x.xr n v }

/-- A floating-point register. -/
def Hart.getF (x : Hart) (n : Nat) : Word64 := mget 0 x.fr n

/-- A floating-point register written. -/
def Hart.setF (x : Hart) (n : Nat) (v : Word64) : Hart := if 32 ≤ n then x else { x with fr := mput 0 x.fr n v }

/-- A CSR as it is stored, a field of it, and the two written. -/
def Hart.cs (x : Hart) (n : Nat) : Word64 := mget 0 x.csrs n
def Hart.csField (x : Hart) (n hi lo : Nat) : Nat := bitsOf (x.cs n).toNat hi lo
def Hart.putCs (x : Hart) (n : Nat) (v : Word64) : Hart := { x with csrs := mput 0 x.csrs n v }
def Hart.putField (x : Hart) (n hi lo v : Nat) : Hart := x.putCs n (BitVec.ofNat 64 (setBits (x.cs n).toNat hi lo v))

/-- Numbers of the CSRs that the module acts on. -/
def csSstatus : Nat := 0x100
def csSie : Nat := 0x104
def csStvec : Nat := 0x105
def csSepc : Nat := 0x141
def csScause : Nat := 0x142
def csStval : Nat := 0x143
def csSip : Nat := 0x144
def csSatp : Nat := 0x180
def csMstatus : Nat := 0x300
def csMisa : Nat := 0x301
def csMedeleg : Nat := 0x302
def csMideleg : Nat := 0x303
def csMie : Nat := 0x304
def csMtvec : Nat := 0x305
def csMepc : Nat := 0x341
def csMcause : Nat := 0x342
def csMtval : Nat := 0x343
def csMip : Nat := 0x344
def csPmpcfg : Nat := 0x3A0
def csPmpaddr : Nat := 0x3B0
def csTime : Nat := 0xC01
def csMhartid : Nat := 0xF14

/-- The bits of mstatus that sstatus shows. -/
def sstatusMask : Word64 := 0x80000003000DE762

/-- A hart out of reset, in machine mode at an entry point (R333, R356). -/
def Hart.fresh (x : Hart) (entry : Nat) : Hart :=
  { x with entry := entry, pc := BitVec.ofNat 64 entry, priv := .machine, xr := [], fr := [], csrs := [] }

/-- The counter `time`, and the memory-mapped `mtime`: the replica of the bell of the hart's quarter (R288). -/
def State.hartTime (s : State) (h : Nat) : Word64 := BitVec.ofNat 64 (s.replica (h / 4))

/-- The interrupts pending at a hart: the timer's, from `mtime` and `mtimecmp` (R288); the external one, at the principal hart
while ERR_EVT.PEND is 1 and at no other time (R327): a handover, whose cause PRINCIPAL the new principal's `irqPrincipal` shows
(R290), logs an event; those that software set. -/
def State.hartMip (s : State) (h : Nat) : Word64 :=
  let x := s.hart h
  let timer := decide (x.mtimecmp.toNat ≤ (s.hartTime h).toNat)
  let ext := h == s.principalHart && s.fon Fl.errEvtPend 0
  BitVec.ofNat 64 (setBits (setBits ((x.cs csMip) &&& 0x222).toNat 7 7 timer.toNat) 11 11 ext.toNat)

/-- A CSR as the hart reads it. -/
def State.csrRead (s : State) (h n : Nat) : Word64 :=
  let x := s.hart h
  if n = csTime then s.hartTime h
  else if n = csMhartid then BitVec.ofNat 64 h
  else if n = csMisa then 0x800000000014112D
  else if n = csMip then s.hartMip h
  else if n = csSip then s.hartMip h &&& x.cs csMideleg
  else if n = csSie then x.cs csMie &&& x.cs csMideleg
  else if n = csSstatus then x.cs csMstatus &&& sstatusMask
  else x.cs n

/-- A CSR written; the supervisor's views write the machine's registers. -/
def Hart.csrWrite (x : Hart) (n : Nat) (v : Word64) : Hart :=
  let under (m : Nat) (mask : Word64) : Hart := x.putCs m ((x.cs m &&& ~~~mask) ||| (v &&& mask))
  if n = csSstatus then under csMstatus sstatusMask
  else if n = csSie then under csMie (x.cs csMideleg)
  else if n = csSip then under csMip (x.cs csMideleg &&& 0x222)
  else x.putCs n v

/-! ### Traps -/

/-- Causes of exceptions. -/
def exFetchAccess : Nat := 1
def exIllegal : Nat := 2
def exBreak : Nat := 3
def exLoadAccess : Nat := 5
def exStoreAccess : Nat := 7
def exCall : Nat := 8
def exFetchPage : Nat := 12
def exLoadPage : Nat := 13
def exStorePage : Nat := 15

/-- Where a trap goes: interrupts of a vectored base go to the entry of their cause. -/
def trapPc (tvec : Word64) (irq : Bool) (cause : Nat) : Word64 :=
  let base := tvec.toNat / 4 * 4
  BitVec.ofNat 64 (if irq ∧ tvec.toNat % 4 = 1 then base + 4 * cause else base)

/-- A trap taken: in supervisor mode where it is delegated and the hart is not in machine mode, else in machine mode. The pc,
the cause and the trap value are saved, the interrupt enable and the mode go to the status, and the pc goes to the base. -/
def Hart.trap (x : Hart) (irq : Bool) (cause : Nat) (tval : Word64) : Hart :=
  let code := BitVec.ofNat 64 (irq.toNat * 2 ^ 63 + cause)
  if x.priv ≠ .machine ∧ x.csField (if irq then csMideleg else csMedeleg) cause cause = 1 then
    let y := ((x.putCs csSepc x.pc).putCs csScause code).putCs csStval tval
    let y := (y.putField csMstatus 5 5 (y.csField csMstatus 1 1)).putField csMstatus 1 1 0
    { y.putField csMstatus 8 8 (if x.priv = .supervisor then 1 else 0) with
        pc := trapPc (x.cs csStvec) irq cause, priv := .supervisor }
  else
    let y := ((x.putCs csMepc x.pc).putCs csMcause code).putCs csMtval tval
    let y := (y.putField csMstatus 7 7 (y.csField csMstatus 3 3)).putField csMstatus 3 3 0
    { y.putField csMstatus 12 11 x.priv.code with pc := trapPc (x.cs csMtvec) irq cause, priv := .machine }

/-- The return from a machine-mode trap. -/
def Hart.mret (x : Hart) : Hart :=
  let back := privOf (x.csField csMstatus 12 11)
  let y := (x.putField csMstatus 3 3 (x.csField csMstatus 7 7)).putField csMstatus 7 7 1
  let y := if back = .machine then y else y.putField csMstatus 17 17 0
  { y.putField csMstatus 12 11 0 with pc := x.cs csMepc, priv := back }

/-- The return from a supervisor-mode trap. -/
def Hart.sret (x : Hart) : Hart :=
  let back := if x.csField csMstatus 8 8 = 1 then Priv.supervisor else .user
  let y := (x.putField csMstatus 1 1 (x.csField csMstatus 5 5)).putField csMstatus 5 5 1
  { (y.putField csMstatus 17 17 0).putField csMstatus 8 8 0 with pc := x.cs csSepc, priv := back }

/-- An access fault of a hart (R4, R266, R272, R285, R287): its trap, with the address. -/
def State.hartFault (s : State) (h cause addr : Nat) : State :=
  s.setHart h ((s.hart h).trap false cause (BitVec.ofNat 64 addr))

/-- The interrupt that a hart takes now: the external one before the timer's, before those that software set. -/
def State.hartIrq (s : State) (h : Nat) : Option Nat :=
  let x := s.hart h
  let up := s.hartMip h &&& x.cs csMie
  [11, 3, 7, 9, 1, 5].find? fun k => up.getLsbD k &&
    (if x.csField csMideleg k k = 1 then
      x.priv == .user || (x.priv == .supervisor && x.csField csMstatus 1 1 == 1)
    else x.priv != .machine || x.csField csMstatus 3 3 == 1)

/-! ### Physical memory protection -/

/-- The kinds of access of a hart. -/
inductive Access where
  | fetch | load | store
  deriving DecidableEq, Repr

/-- The access fault and the page fault of a kind of access. -/
def Access.accessFault : Access → Nat
  | .fetch => exFetchAccess
  | .load => exLoadAccess
  | .store => exStoreAccess
def Access.pageFault : Access → Nat
  | .fetch => exFetchPage
  | .load => exLoadPage
  | .store => exStorePage

/-- The permission bit of a kind of access in a PMP configuration byte. -/
def Access.pmpBit : Access → Nat
  | .load => 0
  | .store => 1
  | .fetch => 2

/-- The configuration byte and the address register of PMP entry `i`, one of 16 (R287). -/
def Hart.pmpCfg (x : Hart) (i : Nat) : Nat := x.csField (csPmpcfg + 2 * (i / 8)) (8 * (i % 8) + 7) (8 * (i % 8))
def Hart.pmpAddr (x : Hart) (i : Nat) : Nat := (x.cs (csPmpaddr + i)).toNat % 2 ^ 54

/-- The range of a PMP entry: off, below its address, four bytes, or a power of two by its trailing ones. -/
def Hart.pmpRange (x : Hart) (i : Nat) : Option (Nat × Nat) :=
  let a := x.pmpAddr i
  match bitsOf (x.pmpCfg i) 4 3 with
  | 0 => none
  | 1 => some (if i = 0 then 0 else 4 * x.pmpAddr (i - 1), 4 * a)
  | 2 => some (4 * a, 4 * a + 4)
  | _ =>
    let k := ((List.range 54).find? fun j => bitsOf a j j = 0).getD 54
    let base := a / 2 ^ (k + 1) * 2 ^ (k + 1) * 4
    some (base, base + 2 ^ (k + 3))

/-- The PMP lets a mode make an access of `n` bytes: the lowest-numbered entry that the access meets must hold it whole and
permit it, machine mode unless the entry is locked; where none is met, machine mode alone may. -/
def Hart.pmpOk (x : Hart) (mode : Priv) (acc : Access) (a n : Nat) : Bool :=
  match (List.range 16).find? fun i => ((x.pmpRange i).map fun r => meets r (a, a + n)).getD false with
  | none => mode == .machine
  | some i =>
    ((x.pmpRange i).map fun r => decide (r.1 ≤ a) && decide (a + n ≤ r.2)).getD false &&
      ((mode == .machine && bitsOf (x.pmpCfg i) 7 7 == 0) || bitsOf (x.pmpCfg i) acc.pmpBit acc.pmpBit == 1)

/-! ### Sv39 -/

/-- The mode under which a hart makes an access: MPRV lends loads and stores of machine mode the mode of MPP. -/
def Hart.accessMode (x : Hart) (acc : Access) : Priv :=
  if acc ≠ .fetch ∧ x.priv = .machine ∧ x.csField csMstatus 17 17 = 1 then privOf (x.csField csMstatus 12 11) else x.priv

/-- A leaf entry permits an access: by R, W and X, with MXR for loads, by U and SUM, and with A, and D for a store, set. -/
def Hart.leafOk (x : Hart) (mode : Priv) (acc : Access) (e : Nat) : Bool :=
  let bit (k : Nat) : Bool := bitsOf e k k == 1
  (match acc with
    | .fetch => bit 3
    | .load => bit 1 || (bit 3 && x.csField csMstatus 19 19 == 1)
    | .store => bit 2) &&
  (if mode = .user then bit 4 else !bit 4 || (acc != .fetch && x.csField csMstatus 18 18 == 1)) &&
  bit 6 && (acc != .store || bit 7)

/-- The walk of an Sv39 table through the levels of a list, over a reading of 8-byte entries: the physical address, or the
cause of the fault. -/
def Hart.walk (x : Hart) (mode : Priv) (acc : Access) (va : Nat) (entry : Nat → Option Nat) :
    List Nat → Nat → Except Nat Nat
  | [], _ => .error acc.pageFault
  | l :: rest, base =>
    match entry (base + 8 * bitsOf va (20 + 9 * l) (12 + 9 * l)) with
    | none => .error acc.accessFault
    | some e =>
      let ppn := bitsOf e 53 10
      if bitsOf e 0 0 = 0 ∨ (bitsOf e 1 1 = 0 ∧ bitsOf e 2 2 = 1) then .error acc.pageFault
      else if bitsOf e 3 1 = 0 then x.walk mode acc va entry rest (ppn * 4096)
      else if !x.leafOk mode acc e ∨ ppn % 2 ^ (9 * l) ≠ 0 then .error acc.pageFault
      else .ok (ppn * 4096 + va % 2 ^ (12 + 9 * l))

/-- The physical address of an access: itself in machine mode or with no translation, else what Sv39 finds for an address
whose upper bits all equal bit 38. -/
def Hart.translate (x : Hart) (acc : Access) (va : Nat) (entry : Nat → Option Nat) : Except Nat Nat :=
  let mode := x.accessMode acc
  if mode = .machine ∨ x.csField csSatp 63 60 ≠ 8 then .ok va
  else if bitsOf va 63 38 ≠ 0 ∧ bitsOf va 63 38 ≠ 2 ^ 26 - 1 then .error acc.pageFault
  else x.walk mode acc va entry [2, 1, 0] (x.csField csSatp 43 0 * 4096)

end Sys2Proof.Machine
end

