-- ==== Sys2Proof/Machine/Route.lean ====
section
/-! DEFINITION. Route: node IDs, routing by DST (R261), and the issue of transactions onto ports (R258, R260, R262). -/

namespace Sys2Proof.Machine

/-- Transaction types (Table 10.7). -/
def ttRead : Nat := 0x01
def ttReadRsp : Nat := 0x02
def ttWrite : Nat := 0x03
def ttWriteAck : Nat := 0x04
def ttWorkOrder : Nat := 0x05
def ttWorkAck : Nat := 0x06
def ttChunk : Nat := 0x07
def ttChunkAck : Nat := 0x08
def ttCollMsg : Nat := 0x09
def ttMirror : Nat := 0x0A
def ttMirrorAck : Nat := 0x0B
def ttMgmt : Nat := 0x0C

/-- Response statuses (Table 10.8). -/
def rsOk : Nat := 0
def rsSize : Nat := 1
def rsHole : Nat := 2
def rsRange : Nat := 3
def rsDenied : Nat := 4
def rsFull : Nat := 5
def rsUe : Nat := 6
def rsNoRoute : Nat := 7

/-- Rack of a node ID: 64 modules to a rack, 4 to a tray (log entry 17, DEDUCED). -/
def rackOf (n : Nat) : Nat := n / 64

/-- Rack and tray of a node ID. -/
def trayOf (n : Nat) : Nat := n / 4

/-- Slot of a node ID in its tray. -/
def slotOf (n : Nat) : Nat := n % 4

/-- This module's node ID. -/
def State.node (s : State) : Nat := s.fget Fl.glbNodeNode 0

/-- The node IDs that this module answers for (R258). -/
def State.answersFor (s : State) (n : Nat) : Bool := n == s.node || s.twin.serves == some n

/-- Step 1 of R261: the lowest valid entry that names the node as FROM. -/
def State.aliased (s : State) (n : Nat) : Nat :=
  match (List.range 16).find? fun i => s.fon Fl.routeAliasValid i && s.fget Fl.routeAliasFrom i == n with
  | some i => s.fget Fl.routeAliasTo i
  | none => n

/-- A port is ACTIVE. -/
def State.portActive (s : State) (p : Nat) : Bool := s.fget Fl.portStatState p == 5

/-- A port's role: 1 PEER, 2 PLANE. -/
def State.portRole (s : State) (p : Nat) : Nat := s.fget Fl.portCtlRole p

/-- ROUTE_CTL.PLANES: the ACTIVE ports with role PLANE (Table 10.15). -/
def State.planes (s : State) : List Nat := (List.range 12).filter fun p => s.portActive p && s.portRole p == 2

/-- The rack table's mask for a rack (R261). -/
def State.rackMask (s : State) (rack : Nat) : Nat := s.peekNat (s.fget Fl.routeCtlRackTbl 0 + 2 * rack) 2 % 4096

/-- The plane set of a routing node. -/
def State.planeSet (s : State) (r : Nat) : List Nat :=
  let m := s.rackMask (rackOf r)
  s.planes.filter fun p => bitsOf m p p = 1

/-- The ACTIVE PEER port to a node of this rack and tray. -/
def State.peerPort (s : State) (r : Nat) : Option Nat :=
  if trayOf r = trayOf s.node then
    (List.range 12).find? fun p => s.portActive p && s.portRole p == 1 && s.fget Fl.portCtlPeerSlot p == slotOf r
  else none

/-- h of R261. -/
def routeHash (node stream vc : Nat) : Nat := Nat.xor (Nat.xor node (stream * 8)) vc % 2 ^ 18

/-- The ports that reach a routing node, first the one R261 takes. `planesOnly` bypasses the PEER port (R348). -/
def State.routes (s : State) (r stream vc : Nat) (planesOnly : Bool) : List Nat :=
  let ps := s.planeSet r
  let plane := match ps[routeHash r stream vc % ps.length]? with
    | some p => p :: ps.filter fun q => q ≠ p
    | none => []
  match s.peerPort r with
  | some p => if planesOnly then plane else p :: plane
  | none => plane

/-- A transaction placed on a port's channel. -/
def State.place (s : State) (p : Nat) (t : Txn) : State :=
  let x := s.port p
  s.setPort p { x with txq := mput [] x.txq t.vc (mget [] x.txq t.vc ++ [t]) }

/-- The issuing stream of a transaction: the chunk number modulo 16 for the collective engines, 0 for every other unit (R261). -/
def streamOf (t : Txn) : Nat := if t.ttype = ttChunk then bitsOf t.arg1.toNat 3 0 else 0

/-- A granule that was not stored is dirty again (R346): of this module, or of the partner context that goes to its new twin. -/
def State.redirty (s : State) (g : Nat) : State :=
  if s.twin.serves.isSome then { s with twin := { s.twin with pDirty := union s.twin.pDirty [g] } }
  else { s with twin := { s.twin with dirty := union s.twin.dirty [g] } }

/-- A MIRROR transaction that no port can carry: a granule is dirty again, a register waits for a port, and a SEAL can be sent
again (log entry 101, DESIGN CHOICE). -/
def State.mirrorBack (s : State) (t : Txn) : State :=
  let kind := bitsOf t.arg1.toNat 7 0
  if kind = 1 then s.redirty (t.addr / 65536)
  else if kind = 2 then { s with waitTxns := s.waitTxns ++ [(t, 0, some .mirror)] }
  else if kind = 3 then { s with twin := { s.twin with sealWait := none } }
  else s

/-- A chunk that no port can carry waits in its retained copy (R225, R227). -/
def State.chunkBack (s : State) (t : Txn) : State :=
  { s with insts := s.insts.map fun i => { i with sent := i.sent.map fun x =>
      if x.dst = t.dst ∧ x.tag0 = t.arg0 ∧ x.tag1 = t.arg1 then { x with gone := false } else x } }

/-- What follows when no port reaches the destination: the transaction completes at once with NO_ROUTE at the unit that issued
it (R261). For an ADOPT that is no acceptance, so GO clears and REFUSED is logged (R353); a message of a collective is sent
again by R234; the other units have nothing to undo. -/
def State.unrouted (s : State) (t : Txn) (who : Option Waiter) : State :=
  match who with
  | some .adopt =>
    (s.fset Fl.twnAdoptGo 0 0).logEvent
      { code := 0x14, cls := .program, loc := s.fget Fl.twnAdoptNode 0, d4 := 0x08 }
  | some .mirror => s.mirrorBack t
  | some .coll => if t.ttype = ttChunk then s.chunkBack t else s
  | _ => s

/-- A transaction issued on a stream (R261, R262): it waits while an earlier transaction of its moved stream lacks its
response, or waits itself. -/
def State.issueOn (s : State) (t : Txn) (stream : Nat) (who : Option Waiter) (planesOnly : Bool) : State :=
  let r := s.aliased t.dst
  match (s.routes r stream t.vc planesOnly).head? with
  | none => s.unrouted t who
  | some p =>
    if (s.reqs.any fun q => q.node = r && q.txn.vc = t.vc && q.stream = stream && q.port ≠ p) ||
       (s.waitTxns.any fun w => s.aliased w.1.dst = r && w.1.vc = t.vc && w.2.1 = stream) then
      { s with waitTxns := s.waitTxns ++ [(t, stream, who)] }
    else
      let u := s.place p t
      match who with
      | some w => { u with reqs := u.reqs ++ [{ txn := t, stream := stream, node := r, port := p, via := p, who := w, since := s.now }] }
      | none => u

/-- A TAG that cannot be given to a new transaction: a request waits under it, or it was that of a ONCE transaction answered
less than 40 ms ago (R260). -/
def State.tagBusy (s : State) (n : Nat) : Bool :=
  (s.reqs.any fun q => q.txn.tag == n) || (s.waitTxns.any fun w => w.2.2.isSome && w.1.tag == n) ||
    s.onceTags.any fun e => e.1 == n && decide (s.now < e.2 + 40000 * cyclesPerUs)

/-- The first free TAG from `n` on. -/
def State.freeTag (s : State) : Nat → Nat → Nat
  | 0, n => n
  | f + 1, n => if s.tagBusy n then s.freeTag f ((n + 1) % 65536) else n

/-- The TAG of the next transaction. -/
def State.newTag (s : State) : Nat := s.freeTag 65536 s.nextTag

/-- The TAG is taken. -/
def State.tagNext (s : State) : State := { s with nextTag := (s.newTag + 1) % 65536 }

/-- A transaction of this module, with the next TAG. -/
def State.issue (s : State) (t : Txn) (stream : Nat) (who : Option Waiter) : State :=
  s.tagNext.issueOn { t with tag := s.newTag, src := s.node } stream who false

/-- Transactions that wait for their stream, tried again in order. -/
def State.retryWaiting (s : State) : State :=
  s.waitTxns.foldl (fun s w => s.issueOn w.1 w.2.1 w.2.2 false) { s with waitTxns := [] }

/-- A TAG is answered: that of a ONCE transaction rests for 40 ms (R260). -/
def State.restTag (s : State) (t : Txn) : State :=
  if t.once then
    { s with onceTags := (s.onceTags.filter fun e => s.now < e.2 + 40000 * cyclesPerUs && e.1 != t.tag) ++ [(t.tag, s.now)] }
  else s

/-- A blank transaction of a type. -/
def blankTxn (ttype vc dst : Nat) : Txn :=
  { ttype := ttype, vc := vc, last := false, once := false, dst := dst, src := 0, len := 0, tag := 0, status := 0,
    addr := 0, arg0 := 0, arg1 := 0, data := [] }

/-- The response to a request (R257, Table 10.7): it copies the TAG, and SRC is the node that was addressed. -/
def State.respond (s : State) (t : Txn) (ttype vc status : Nat) (data : List Byte) : State :=
  s.issueOn { blankTxn ttype vc t.src with
    src := t.dst, len := data.length, tag := t.tag, status := status, data := data }
    0 none false

/-- A WRITE of this module's own; to the control registers with ONCE set (R259). -/
def State.sendWrite (s : State) (dst addr : Nat) (data : List Byte) (who : Waiter) : State :=
  s.issue { blankTxn ttWrite 4 dst with
    once := decide (0xFF00000000 ≤ addr), addr := addr, len := data.length, data := data } 0 (some who)

/-! ### Failover -/

/-- The transactions that a port still holds, in order: those with a byte in an unacknowledged flit, then those waiting,
channel by channel (R254). -/
def Port.held (x : Port) : List Txn :=
  ((x.replay.flatMap (·.txns)) ++ (List.range 8).flatMap fun v => mget [] x.cur v ++ mget [] x.txq v).eraseDups

/-- A transaction routed again (R254): its request keeps its stream's record, so that a moved stream waits (R262). -/
def State.reroute (s : State) (t : Txn) : State :=
  let isIt := fun (q : Req) => q.txn.tag == t.tag && q.txn.ttype == t.ttype && q.txn.dst == t.dst && q.txn.src == t.src
  let q := s.reqs.find? isIt
  match (s.routes (s.aliased t.dst) (streamOf t) t.vc false).head? with
  | none =>
    { s with reqs := s.reqs.filter fun q => !isIt q }.unrouted t (q.map fun r : Req => r.who)
  | some p =>
    let u := s.place p t
    { u with reqs := u.reqs.map fun q => if isIt q then { q with via := p } else q }

/-- A port goes to DOWN for a cause of PORT_STAT.DOWN_CAUSE (R254): the event is logged and its traffic fails over. -/
def State.portDown (s : State) (p cause : Nat) : State :=
  let t := (s.fset Fl.portStatState p 7).fset Fl.portStatWidth p 3
  let t := (t.fset Fl.portLanesActive p 0).fset Fl.portStatDownCause p cause
  let t := t.logEvent { code := 0x0E, cls := .degraded, quarter := portQuarter p, loc := p, d5 := cause }
  let x := t.port p
  let held := x.held
  let t := t.setPort p { x with
    retrain := 0, configOk := false, resumeDue := false, seq := (x.acked + 1) % 4096, replay := [],
    resend := [], txq := [], cur := [], txb := [], ctrl := [], probe := none, stalls := 0 }
  held.foldl State.reroute t

end Sys2Proof.Machine
end

