-- ==== Sys2Proof/Machine/MirrorTx.lean ====
section
/-! DEFINITION. MirrorTx: the twin states and the MIRROR transactions a module sends (R345 to R348, Table 14.14). -/

namespace Sys2Proof.Machine

/-- Codes of Table 14.13. -/
def twOff : Nat := 0
def twPairing : Nat := 1
def twMirroring : Nat := 2
def twUnshadowed : Nat := 3
def twSuspect : Nat := 4
def twFencing : Nat := 5
def twReplaying : Nat := 6
def twServingBoth : Nat := 7
def twExcluded : Nat := 8

/-- TWN_STATE.SELF. -/
def State.twinSelf (s : State) : Nat := s.fget Fl.twnStateSelf 0

/-- Class of a change of TWN_STATE by its new state (Table 14.18). -/
def twinClass (new : Nat) : Cls :=
  if new = twOff ∨ new = twPairing ∨ new = twMirroring then .corrected
  else if new = twReplaying ∨ new = twServingBoth then .recovered
  else .degraded

/-- A change of TWN_STATE.SELF, logged as TWIN (Tables 14.6 and 14.19). -/
def State.twinEnter (s : State) (new : Nat) (cls : Cls) : State :=
  (s.fset Fl.twnStateSelf 0 new).logEvent
    { code := 0x19, cls := cls, loc := s.fget Fl.twnPartnerNode 0,
      d4 := s.fget Fl.twnStatePartner 0 * 256 + new * 16 + s.twinSelf, d5 := s.fget Fl.twnStateSealed 0 }

/-- A change of state with the class of Table 14.18; none where the state stays. -/
def State.twinTo (s : State) (new : Nat) : State := if s.twinSelf = new then s else s.twinEnter new (twinClass new)

/-- The mirror engine sends this module's own state to its partner (R345 to R347), also while only the other direction has
been given up (R346). -/
def State.mirroring (s : State) : Bool :=
  s.fon Fl.twnCtlEnable 0 && !s.twin.stopped &&
    (s.twinSelf == twPairing || s.twinSelf == twMirroring || (s.twinSelf == twUnshadowed && s.twin.shadowStopped))

/-- Where own mirror traffic goes. -/
def State.twinNode (s : State) : Nat := s.fget Fl.twnPartnerNode 0

/-- A MIRROR transaction of a kind of Table 14.14 on VC6. -/
def State.sendMirror (s : State) (dst kind addr : Nat) (arg0 : Nat) (data : List Byte) (who : Waiter) : State :=
  s.issue { blankTxn ttMirror 6 dst with
    addr := addr, len := data.length, arg0 := BitVec.ofNat 64 arg0, arg1 := BitVec.ofNat 64 kind, data := data } 0
    (some who)

/-- A MIRROR transaction kept until its acknowledgement (TWN_LAG). -/
def State.sendKept (s : State) (dst kind addr arg0 : Nat) (data : List Byte) : State :=
  let tag := s.newTag
  let t := s.sendMirror dst kind addr arg0 data .mirror
  let x : Txn := { blankTxn ttMirror 6 dst with
    src := s.node, tag := tag, addr := addr, len := data.length, arg0 := BitVec.ofNat 64 arg0,
    arg1 := BitVec.ofNat 64 kind, data := data }
  if (t.reqs.any fun q => q.txn.tag == tag) || (t.waitTxns.any fun w => w.1.tag == tag && w.2.2.isSome) then
    { t with twin := { t.twin with unacked := t.twin.unacked ++ [(x, s.now)] } }
  else t

/-- A MIRROR transaction of this module's own direction. -/
def State.sendOwnMirror (s : State) (kind addr arg0 : Nat) (data : List Byte) : State :=
  s.sendKept s.twinNode kind addr arg0 data

/-- The granules of durable state and of the input log (R314, R345, R346). -/
def State.allDurable (s : State) : List Nat :=
  let ext := s.twin.mirrors ++ s.enabledRooms.map s.ringRange ++ s.validCtxs.map s.listRange ++
    (if s.fon Fl.waymarkCtlLogEn 0 then [s.logRange] else [])
  (ext.flatMap fun x => unitsOf 65536 x.1 (x.2 - x.1)).eraseDups

/-- PAIRING begins: every granule of durable state counts as dirty (R345). -/
def State.pairing (s : State) : State :=
  { s with twin := { s.twin with dirty := s.allDurable, lastHeard := s.now } }.twinTo twPairing

/-- PAIRING begins when the TWIN port is ACTIVE (R345), once ENABLE has been set; a module that is paired already, or that
has given mirroring up, stays as it is. A spare mirrors nothing (R353). -/
def State.twinPortUp (s : State) (p : Nat) : State :=
  if s.fon Fl.portCtlTwin p && s.fon Fl.twnCtlEnable 0 && s.twinSelf == twOff && s.fget Fl.glbNodeRole 0 == 0 then s.pairing
  else s

/-- A direction is given up while the module is paired (R346). -/
def State.unshadowFrom (s : State) : State :=
  if s.fon Fl.twnCtlEnable 0 && (s.twinSelf == twPairing || s.twinSelf == twMirroring) then s.twinTo twUnshadowed else s

/-- Registers whose writes are sent as CONFIG transactions (R346). -/
def mirroredReg (r : Reg) : Bool :=
  match r with
  | .grpCfg | .grpAux | .detStep | .detStrict | .detSeed | .waymarkCtl => true
  | _ => false

/-- A register write told to the twin (R346). -/
def State.tellConfig (s : State) (r : Reg) (i : Nat) : State :=
  if s.mirroring && mirroredReg r then s.sendOwnMirror 0x02 (r.off i) (s.ctxStep false) (leBytes 8 (s.rd r i).toNat) else s

end Sys2Proof.Machine
end

