-- ==== Sys2Proof/Machine/Plan.lean ====
section
/-! DEFINITION. Plan: the stage plan of a group context (R217) and the collective event source (R238). -/

namespace Sys2Proof.Machine

/-- Rank of member `i` among the members that agree with it under a key: how many of them come before it. -/
def rankBy {α : Type} [DecidableEq α] (key : Nat → α) (i : Nat) : Nat :=
  ((List.range i).filter fun j => key j = key i).length

/-- The members that agree with member `i` under a key, in increasing member index. -/
def sameBy {α : Type} [DecidableEq α] (key : Nat → α) (n i : Nat) : List Nat :=
  (List.range n).filter fun j => key j = key i

/-- Tray of a member, and rack. -/
def mTray (ms : List Nat) (i : Nat) : Nat := trayOf (ms.getD i 0)
def mRack (ms : List Nat) (i : Nat) : Nat := rackOf (ms.getD i 0)

/-- T-rank and K-rank of a member (R217). -/
def tRank (ms : List Nat) (i : Nat) : Nat := rankBy (mTray ms) i
def kRank (ms : List Nat) (i : Nat) : Nat := rankBy (fun j => (mRack ms j, tRank ms j)) i

/-- The plan is regular: equal T subgroups, and as many of them in every rack (R217). -/
def regular (ms : List Nat) : Bool :=
  let n := ms.length
  let sizes := (List.range n).map fun i => (sameBy (mTray ms) n i).length
  let trays := (List.range n).map fun i => ((sameBy (mRack ms) n i).map (mTray ms)).eraseDups.length
  sizes.all (fun x => x == sizes.headD 0) && trays.all fun x => x == trays.headD 0

/-- Stage codes of Table 9.6: 1 T, 2 K, 3 S. The stages that member `i` takes part in, inbound order, each with its
subgroup in rank order; a stage whose subgroups have one member is omitted (R217). -/
def planOf (ms : List Nat) (i : Nat) : List (Nat × List Nat) :=
  let n := ms.length
  let all : List (Nat × List Nat) :=
    if regular ms then
      [(1, sameBy (mTray ms) n i), (2, sameBy (fun j => (mRack ms j, tRank ms j)) n i),
       (3, sameBy (fun j => (tRank ms j, kRank ms j)) n i)]
    else [(3, List.range n)]
  all.filter fun g => 1 < g.2.length

/-- An event of COL_FAULT_EVT with its log entry (R238, Table 14.19), detected by the engines of a quarter; `tag` is the
chunk tag involved, or zeros. -/
def State.collEventAt (s : State) (q ctx cause : Nat) (cls : Cls) (tag0 tag1 : Nat) : State :=
  let t := (s.bump Fl.colFaultEvtCount Fl.colFaultEvtPend 0).fset Fl.colFaultEvtGroup 0 ctx
  (t.fset Fl.colFaultEvtCause 0 cause).logEvent
    { code := 0x10, cls := cls, quarter := q, loc := ctx, d4 := cause, d5 := tag0, d6 := tag1 }

/-- An event that concerns no single chunk: the principal quarter's engines detect it. -/
def State.collEvent (s : State) (ctx cause : Nat) (cls : Cls) (tag0 tag1 : Nat) : State :=
  s.collEventAt (s.fget Fl.glbQmaskPrincipal 0) ctx cause cls tag0 tag1

end Sys2Proof.Machine
end

