-- ==== Sys2Proof/Machine/LogRing.lean ====
section
/-! DEFINITION. LogRing: the input log of R316 to R318, its entries and its breaks, and the counting of detours
(R319). Every function takes the node context whose log it is (R350). -/

namespace Sys2Proof.Machine

/-- LOG_EN of a context. -/
def State.logOn (s : State) (p : Bool) : Bool := s.wayFld p Fl.waymarkCtlLogEn = 1

/-- First byte of a context's log area, in that context's addresses. -/
def State.logBase (s : State) (p : Bool) : Nat := s.wayFld p Fl.waymarkCtlLogBase * 2 ^ 20

/-- Bytes of the ring: the area less its header (R316). -/
def State.ringBytes (s : State) (p : Bool) : Nat := s.wayFld p Fl.waymarkCtlLogMib * 2 ^ 20 - 64

/-- The log header (Table 13.3) written from the positions held. -/
def State.logHeader (s : State) (p : Bool) : State :=
  let l := s.ctxLog p
  s.ctxWrite p (s.logBase p) (wordsBytes [l.writePos, l.sealPos, l.retainPos, l.sealStep])

/-- Bytes put into the ring from log position `pos` on; past the area's end they go on at offset 64 (R316). -/
def State.logBytes (s : State) (p : Bool) (pos : Nat) (bs : List Byte) : State :=
  let at_ := pos % s.ringBytes p
  let base := s.logBase p + 64
  let head := bs.take (s.ringBytes p - at_)
  let t := s.ctxWrite p (base + at_) head
  if head.length < bs.length then t.ctxWrite p base (bs.drop head.length) else t

/-- Byte `k` of the entry at log position `pos`. -/
def State.logByte (s : State) (p : Bool) (pos k : Nat) : Byte :=
  s.ctxByte p (s.logBase p + 64 + (pos + k) % s.ringBytes p)

/-- `n` bytes of the entry at `pos`, from byte `k` on. -/
def State.logPeek (s : State) (p : Bool) (pos k n : Nat) : List Byte :=
  (List.range n).map fun i => s.logByte p pos (k + i)

/-- A number in the entry at `pos`. -/
def State.logNat (s : State) (p : Bool) (pos k n : Nat) : Nat := leNat (s.logPeek p pos k n)

/-- A length rounded up to a multiple of 64. -/
def up64 (n : Nat) : Nat := (n + 63) / 64 * 64

/-- An entry: words 0 and 1, the payload, and zeros to a multiple of 64 (R317). -/
def State.logEntryBytes (s : State) (p : Bool) (kind : Nat) (payload : List Byte) : List Byte :=
  let len := 16 + payload.length
  wordsBytes [kind * 2 ^ 56 + len, s.ctxStep p] ++ payload ++ List.replicate (up64 len - len) 0

/-- An entry written at WRITE_POS; the position moves after the whole entry has been written (R317). -/
def State.logPut (s : State) (p : Bool) (kind : Nat) (payload : List Byte) : State :=
  let bs := s.logEntryBytes p kind payload
  ((s.logBytes p (s.ctxLog p).writePos bs).setLog p fun l => { l with writePos := l.writePos + bs.length }).logHeader p

/-- The log breaks (R318): BROKEN is set and an error event logged, RETAIN_POS moves to WRITE_POS, and a GAP entry is
written. -/
def State.logBreak (s : State) (p : Bool) : State :=
  let l := s.ctxLog p
  let t := (s.setWay p Fl.waymarkCtlBroken 1).logEvent
    { code := 0x15, cls := .degraded, d4 := l.writePos, d5 := l.retainPos }
  (t.setLog p fun l => { l with retainPos := l.writePos, whole := l.writePos }).logPut p 0x05 []

/-- An entry appended to the log, which breaks first where the entry would not fit (R317, R318). -/
def State.logAppend (s : State) (p : Bool) (kind : Nat) (payload : List Byte) : State :=
  if s.logOn p then
    let n := up64 (16 + payload.length)
    let l := s.ctxLog p
    let t := if l.writePos + n - l.retainPos > s.ringBytes p then s.logBreak p else s
    t.logPut p kind payload
  else s

/-- A descriptor enters a room: its ENQUEUE entry and the room's ENQ_NO (Table 13.4). A partner's room stands in the
partner's log under its own number (R350). -/
def State.logEnqueue (s : State) (room src : Nat) (desc : List Byte) : State :=
  let p := s.isPartnerRoom room
  let n := if p then room - 2048 else room
  let no := mget 0 (s.ctxLog p).enqNo n
  let t := s.logAppend p 0x01 (wordsBytes [n * 2 ^ 52 + src, no] ++ desc)
  let pos := (t.ctxLog p).writePos - up64 288
  t.setLog p fun l => { l with
    enqNo := mput 0 l.enqNo n ((no + 1) % 2 ^ 48),
    enq := if s.logOn p then l.enq ++ [(n, no, pos)] else l.enq }

/-- A chunk of a collective result, or a gathered part, taken from another member (Table 13.4). -/
def State.logCollIn (s : State) (p : Bool) (tag0 tag1 : Word64) (data : List Byte) : State :=
  s.logAppend p 0x02 (wordsBytes [tag0.toNat, tag1.toNat] ++ data)

/-- A bit set in a number. -/
def withBit (v k : Nat) : Nat := if bitsOf v k k = 1 then v else v + 2 ^ k

/-- DET_COUNT and DET_CAUSE of a context for one detour (R319). -/
def State.countDetour (s : State) (p : Bool) (cause : Nat) : State :=
  if p then s.setOther fun c => { c with
    count := c.count + 1, cause := withBit (withBit c.cause cause) (cause + 4) }
  else
    let t := s.finc Fl.detCountCount 0
    (t.fset Fl.detCauseStep 0 (withBit (t.fget Fl.detCauseStep 0) cause)).fset Fl.detCauseEver 0
      (withBit (t.fget Fl.detCauseEver 0) cause)

/-- A detour taken: counted, its bits set in DET_CAUSE, and its outcome logged (R319, R320). -/
def State.detour (s : State) (p : Bool) (cause seq : Nat) (outcome : List Byte) : State :=
  (s.countDetour p cause).logAppend p 0x03 (wordsBytes [seq % 2 ^ 48 * 2 ^ 16 + cause] ++ outcome)

/-- A detour in the record of an operation that it affects: DETOURS advances and DET_CAUSE takes the bit (R319). -/
def Op.detour (o : Op) (cause : Nat) : Op :=
  { o with detours := o.detours + 1, detCause := withBit o.detCause cause }

/-- RETAIN_POS: the lesser of SEAL_POS and the oldest ENQUEUE entry whose descriptor is still in its room (R318). -/
def Log.retainAt (l : Log) : Nat :=
  ((l.enq.filter fun e => mget 0 l.headNo e.1 ≤ e.2.1).map fun e => e.2.2).foldl min l.sealPos

/-- BROKEN clears when a WAYMARK completes and the log holds every entry from RETAIN_POS on (R318). -/
def State.logMend (s : State) (p : Bool) : State :=
  let l := s.ctxLog p
  if s.logOn p ∧ l.whole ≤ l.retainPos then s.setWay p Fl.waymarkCtlBroken 0 else s

end Sys2Proof.Machine
end

