-- ==== Sys2Proof/Machine/Reset.lean ====
section
/-! DEFINITION. Reset: the module reset and what survives it (R397, R398, R407), the fuses that registers sample, and
the module failure. -/

namespace Sys2Proof.Machine

/-- Each register field that shows fuses or straps (R407, Tables 15.18 to 15.21): lifecycle, rollback counters and keys,
provisional ID, enterprise number. -/
def State.sampleFuses (s : State) : State :=
  let f := s.fuses
  let t := s.fset Fl.glbLifeState 0 f.life
  let t := t.fset Fl.secRollbackRevoked 0 f.revoked
  let t := t.fset Fl.secRollbackEnrolled 0
    (((List.range 4).map fun k => if mget [] f.opKeys k = [] then 0 else 2 ^ k).sum)
  let t := t.fset Fl.secRollbackCfgEpoch 0 f.cfgEpoch
  let t := t.fset Fl.secRollbackA 0 f.rollbackA
  let t := t.fset Fl.secRollbackB 0 f.rollbackB
  let t := t.fset Fl.mgtI3cPid 0 (f.pid / 64 * 64 + s.power.straps.toNat)
  t.fset Fl.mgtCtlIana 0 f.iana

/-- The fused tile repairs and the fused retired sites (R101, R339). -/
def State.fuseTiles (s : State) : State :=
  let t := s.fuses.repairs.foldl (fun t r =>
    (t.fset Fl.tileRepairSpareRowFor r.1 r.2.1).fset Fl.tileRepairSpareColFor r.1 r.2.2) s
  s.fuses.retired.foldl (fun t i => t.fset Fl.tileStateState i stRetired) t

/-- A level and its hold source (R388, R389): the load-shed level in force. -/
def State.setShed (s : State) (n : Nat) : State := s.fset Fl.arrThrottleShedNNow 0 n

/-- What the power stage and the pins, which no module reset touches, show in the registers once more (log
entry 19, DESIGN CHOICE): phases in service, an input out of range, a shed that is still asked for. -/
def State.supplyShown (s : State) : State :=
  let p := s.power
  let shed := !p.loadShedN || p.mv < 46000
  let t := s.fset Fl.pwrCapPhases 0 p.phases
  let t := t.fset Fl.pwrStatUvWarn 0 (decide (p.mv < 46000)).toNat
  let t := t.fset Fl.pwrStatOvWarn 0 (decide (60000 < p.mv)).toNat
  let t := t.fset Fl.pwrStatLoadShed 0 shed.toNat
  let t := { t with power := { t.power with uvShed := decide (p.mv < 46000), due := [] } }
  t.setShed (if shed then t.fget Fl.pwrCapShedN 0 else 0)

/-- A module reset (R397): everything but the power stage, the pins, the fuses, the flash and the commands that wait; the
bell restarts at 0, every memory is wiped (R286) and the boot starts at its 40 ms line. -/
def State.moduleReset (s : State) : State :=
  ({ State.reset with
      pending := s.pending, flash := s.flash, fuses := s.fuses,
      power := { s.power with rampNext := 0 },
      freeCtr := s.freeCtr } : State).sampleFuses.fuseTiles.supplyShown

/-- A module failure (R290, R334, R337): the module resets. Its twin acts on its own. -/
def State.moduleFail (s : State) : State := s.moduleReset

end Sys2Proof.Machine
end

