-- ==== Sys2Proof/Machine/Recover.lean ====
section
/-! DEFINITION. Recover: how an operation ends (R158, R162, R165, R167), the replay ladder (R335 to R338), the waymark
replay (R321, R322), quarters withdrawn (R21, R343) and the handover of the principal role (R290). -/

namespace Sys2Proof.Machine

/-! ### Ends -/

/-- NOTIFY: word 0 of the record goes to its global address (R158). A node that this module answers for is its own
memory, which the write reaches without leaving the module (R265). -/
def State.notify (s : State) (o : Op) (word0 : Nat) : State :=
  let node := bitsOf o.d.notify 57 40
  let a := bitsOf o.d.notify 39 0
  if o.d.notify = 0 then s
  else if s.answersFor node then
    if s.populated a 8 then s.ctxWrite (node != s.node) a (leBytes 8 word0) else s
  else s.sendWrite node a (leBytes 8 word0) (.op o.seq)

/-- The end of an operation: its record, the trap, the release of its tongs, NOTIFY (R162, R158, R167). -/
def State.finish (s : State) (o : Op) (trap : Bool) (errWord : Nat) : State :=
  let t := (s.writeRecord o trap errWord s.now).dropOp o.seq
  let t := if trap then { t with ost := { t.ost with trapped := true } } else t
  t.notify o (recordHead o trap errWord)

/-- Whether a completed operation sets the trap of R167. -/
def Op.nanTrap (o : Op) : Bool := o.d.trapNan && o.cnt.narOut != 0

/-- An operation that ends and cannot be recovered, or ends with BUDGET, COLL_FAULT or DETOUR_DENIED: OP_LOST is logged
and the trap set (R338). -/
def State.opLost (s : State) (o : Op) (status : Nat) : State :=
  let t := s.logEvent { code := 0x12, cls := .lost, seq := o.seq, loc := o.room, d4 := status }
  t.finish { o with status := status } true 0

/-! ### Groups discarded -/

/-- A tile whose cells, gauges and bellows are free for the next front. -/
def Tile.freed (t : Tile) : Tile :=
  { t with cur := none, steps := 0, rowB := [], colB := [], grps := [], asm := [], gRow := [], gCol := [], gCorner := 0,
           sa := [], ptab := [], ptabStep := 0 }

/-- A tile whose block buffers no longer hold a block. -/
def Tile.dropBuf (t : Tile) (f : Front) : Tile := { t with bufs := t.bufs.filter fun b => b.front != f }

/-- A tile without one operation's front: its groups are discarded (R336). -/
def Tile.without (t : Tile) (seq : Nat) : Tile :=
  let isOp (f : Option Front) : Bool := match f with
    | some f => f.seq == seq
    | none => false
  let t := { t with panels := t.panels.filter fun p => p.seq != seq }
  let t := { t with drain := t.drain.filter fun b => b.front.seq != seq, bufs := t.bufs.filter fun b => b.front.seq != seq }
  if isOp t.cur then t.freed else t

/-- Every tile without one operation's fronts. -/
def State.dropFronts (s : State) (seq : Nat) : State :=
  s.tiles.foldl (fun s e => s.setTile e.1 (e.2.without seq)) s

/-! ### Waymark replay -/

/-- A byte string as a sparse memory from address 0. -/
def cellsFrom (bs : List Byte) : List Host.Cell :=
  (bs.zipIdx.filter fun e => e.1 ≠ 0).map fun e => (e.2, e.1)

/-- A slot attribute that Tables 8.1 to 8.4 list. -/
def attrListed (a : Nat) : Bool :=
  let red := a % 8
  let m := a / 8 % 8
  a < 64 && (match red with
    | 0 => m ≤ 4
    | 1 => true
    | 2 => m ≤ 1
    | 6 => m ≤ 1
    | 7 => m ≤ 2
    | _ => m = 0)

/-- The slots that a bank's bytes show as written (log entry 20, DESIGN CHOICE). -/
def writtenSlots (attr : SMap Nat) (bank : List Host.Cell) : Nat :=
  ((List.range 32).map fun k =>
    if attrListed (mget 0 attr k) && (mget 0 attr k != 0 || bank.any fun c => c.1 / 512 == k) then 2 ^ k else 0).sum

/-- Both table-RAM banks as a SEAL entry holds them (Table 13.6), with VALID and CUR of its TBL_STATE and TBL_GEN. -/
def State.sealTables (s : State) (p : Bool) (pos : Nat) : Tables :=
  let attr (o : Nat) : SMap Nat :=
    ((s.logPeek p pos o 32).zipIdx.filter fun e => e.1 ≠ 0).map fun e => (e.2, e.1.toNat)
  let bank (o : Nat) := cellsFrom (s.logPeek p pos (o + 32) 16384)
  let a0 := attr 82112
  let a1 := attr 98528
  let b0 := bank 82112
  let b1 := bank 98528
  let valid := s.logNat p pos 188 4
  let cur := s.logNat p pos 176 8 % 2
  { bank0 := b0, bank1 := b1, attr0 := a0, attr1 := a1,
    valid0 := if cur = 0 then valid else writtenSlots a0 b0,
    valid1 := if cur = 1 then valid else writtenSlots a1 b1 }

/-- Step 2 of R321: the durable bytes of the written granules as the twin holds them sealed (R337). DESIGN CHOICE:
log entry 133. -/
def State.restoreDurable (s : State) : State :=
  let t := s.twin.written.foldl (fun t g =>
    let img := mget [] s.twin.sealedImg g
    (List.range 65536).foldl (fun t i =>
      if s.durable (g * 65536 + i) 1 then t.pokeByte (g * 65536 + i) (img.getD i 0) else t) t) s
  { t with twin := { t.twin with written := [] } }

/-- Step 3 of R321 for the DET registers and the tables of a context. -/
def State.restoreDet (s : State) (p : Bool) (pos : Nat) : State :=
  let step := (s.logNat p pos 8 8 % 2 ^ 48 + 1) % 2 ^ 48
  let seeds := (List.range 16).map fun k => BitVec.ofNat 64 (s.logNat p pos (48 + 8 * k) 8)
  let strict := decide (2 ^ 63 ≤ s.logNat p pos 40 8)
  let gen := BitVec.ofNat 64 (s.logNat p pos 176 8)
  let st := BitVec.ofNat 64 (s.logNat p pos 184 8)
  let tb := s.sealTables p pos
  let t := ((s.setTblGen p gen).setTblState p st).setTables p tb
  if p then
    t.setOther fun c => { c with
      step := step, seeds := seeds, strict := strict, count := BitVec.ofNat 64 (s.logNat p pos 32 8) }
  else
    let t := (t.fset Fl.detStepStep 0 step).fset Fl.detStrictStrict 0 strict.toNat
    seeds.zipIdx.foldl (fun t e => t.wr .detSeed e.2 e.1) t

/-- The members that a context's list names, in the memory of the context it belongs to (R212, R350). -/
def State.readMembers (s : State) (p : Bool) (addr count : Nat) : List Nat :=
  (List.range count).map fun i => rdNat (s.ctxRd p) (addr + 4 * i) 4 % 2 ^ 18

/-- Step 3 of R321 for one group context: SEQ, EPOCH and OFFSET; for a partner's context everything that Table 14.15
gives it; for an own one the membership of the waymark, where a re-form has changed it since (R320). -/
def State.restoreCtx (p : Bool) (pos : Nat) (s : State) (n : Nat) : State :=
  let k := ctxGroupNo p n
  let stat := s.logNat p pos (65728 + 16 * n) 8
  let bell := s.logNat p pos (65728 + 16 * n + 8) 8
  let t := s.wrWhole .grpBell k (BitVec.ofNat 64 bell)
  if p then
    let cfg := s.cfgReg .grpCfg n
    let t := (t.wrWhole .grpStat k (BitVec.ofNat 64 stat)).wrWhole .grpCfg k (BitVec.ofNat 64 cfg)
    let t := t.wrWhole .grpAux k (BitVec.ofNat 64 (s.cfgReg .grpAux n))
    if bitsOf cfg 63 63 = 1 then
      let m := s.readMembers p (bitsOf cfg 39 0) (bitsOf cfg 60 42)
      { t with ctxs := mput {} t.ctxs k { members := m } }
    else t
  else
    let t := (t.fset Fl.grpStatSeq k (stat % 2 ^ 32)).fset Fl.grpStatEpoch k (bitsOf stat 39 32)
    let x := mget {} t.ctxs k
    if x.sealedMembers = [] ∨ x.sealedMembers = x.members then t
    else
      let t := { t with ctxs := mput {} t.ctxs k { x with members := x.sealedMembers } }
      let t := (t.fset Fl.grpStatSelf k (x.sealedMembers.idxOf t.node)).fset Fl.grpCfgCount k x.sealedMembers.length
      t.fset Fl.grpStatFlat k (!regular x.sealedMembers).toNat

/-- Step 4 of R321 for one room: HEAD from HEAD_NO, TAIL = HEAD, the deficit 0, ENABLE as sealed (log entry 21, DEDUCED). -/
def State.restoreRoom (p : Bool) (pos : Nat) (s : State) (n : Nat) : State :=
  let k := ctxRoomNo p n
  let w := s.logNat p pos (192 + 16 * n) 8
  let no := w % 2 ^ 48
  let t := (s.fset Fl.roomHeadHead k (no % 2 ^ 17)).fset Fl.roomTailTail k (no % 2 ^ 17)
  let t := (t.fset Fl.roomAttrDeficit k 0).fset Fl.roomAttrEnable k (bitsOf w 63 63)
  t.setLog p fun l => { l with headNo := mput 0 l.headNo n no, enqNo := mput 0 l.enqNo n no }

/-- The positions of the entries from one log position on, up to WRITE_POS; each entry is at least 64 bytes. -/
def State.logPositions (s : State) (p : Bool) (wp : Nat) : Nat → Nat → List Nat
  | 0, _ => []
  | f + 1, pos =>
    if wp ≤ pos then []
    else pos :: s.logPositions p wp f (pos + max 64 (up64 (s.logNat p pos 0 4)))

/-- The kind of an entry. -/
def State.logKind (s : State) (p : Bool) (pos : Nat) : Nat := (s.logByte p pos 7).toNat

/-- Step 5 of R321 for one entry: a descriptor still to be selected goes back into its room. -/
def State.reenter (p : Bool) (s : State) (pos : Nat) : State :=
  if s.logKind p pos ≠ 0x01 then s
  else
    let n := bitsOf (s.logNat p pos 16 8) 63 52
    let no := s.logNat p pos 24 8
    let k := ctxRoomNo p n
    if no < mget 0 (s.ctxLog p).headNo n then s
    else
      let t := s.ctxWrite p (s.ringBase k + 256 * (no % s.ringSlots k)) (s.logPeek p pos 32 256)
      let t := t.fset Fl.roomTailTail k ((no + 1) % 2 ^ 17)
      t.setLog p fun l => { l with enqNo := mput 0 l.enqNo n ((no + 1) % 2 ^ 48), enq := l.enq ++ [(n, no, pos)] }

/-- Step 6 of R321 for one entry after the SEAL: chunks of collective results and detour outcomes. -/
def State.refeed (p : Bool) (s : State) (pos : Nat) : State :=
  let len := s.logNat p pos 0 4
  match s.logKind p pos with
  | 0x02 =>
    let c := (BitVec.ofNat 64 (s.logNat p pos 16 8), BitVec.ofNat 64 (s.logNat p pos 24 8), s.logPeek p pos 32 (len - 32))
    s.setLog p fun l => { l with collIns := l.collIns ++ [c] }
  | 0x03 =>
    let w := s.logNat p pos 16 8
    let d := (w % 16, w / 2 ^ 16 :: (List.range ((len - 24) / 4)).map fun i => s.logNat p pos (24 + 4 * i) 4)
    s.setLog p fun l => { l with detours := l.detours ++ [d] }
  | _ => s

/-- A replay of a context from its last waymark (R321). Rooms are entered from the whole log; results and detours are
taken from what follows the SEAL. -/
def State.replay (s : State) (p : Bool) : State :=
  let l := s.ctxLog p
  let pos := l.sealPos
  let ran := l.headNo
  let mine := s.ops.filter fun o => o.partner == p
  let t := mine.foldl (fun t o => (t.dropFronts o.seq).dropOp o.seq) s
  let t := if p then t else t.restoreDurable
  let t := t.restoreDet p pos
  let t := (List.range (if p then 512 else 1024)).foldl (State.restoreCtx p pos) t
  let t := (List.range (if p then 2048 else 4096)).foldl (State.restoreRoom p pos) t
  let at_ := s.logPositions p l.writePos (l.writePos / 64) l.retainPos
  let t := t.setLog p fun l => { l with
    enq := [], detours := [], collIns := [], replaying := true, replays := l.replays + 1, ranUpTo := ran,
    replayEnd := l.writePos }
  let t := at_.foldl (State.reenter p) t
  (at_.filter fun x => pos < x).foldl (State.refeed p) t

/-- Granules that a context has written since its waymark and that hold durable state; in the partner's context every
translated granule does, but for its log (R350). -/
def State.writtenSince (s : State) (p : Bool) : List Nat :=
  if p then s.twin.pWritten.filter fun g =>
    !meets (g * 65536, g * 65536 + 65536) (s.logBase p, s.logBase p + s.ringBytes p + 64)
  else s.twin.written

/-- Whether a replay from the last waymark is possible (R337): the log is on and whole, and every granule of durable
state written since has a sealed copy at the twin while it mirrors. A log without a SEAL serves none. -/
def State.canReplay (s : State) (p : Bool) : Bool :=
  let w := s.writtenSince p
  s.logOn p && s.wayFld p Fl.waymarkCtlBroken = 0 && (s.ctxLog p).sealed &&
    (w.isEmpty || (!p && s.mirroring && w.all fun g => s.twin.sealedImg.any fun e => e.1 = g))

/-! ### Aborts -/

/-- An idempotent operation with an attempt left is run again (R336). -/
def Op.again (o : Op) : Bool := o.idem && o.attempt < o.base + 3

/-- A fault that struck an operation is followed by a re-run or a replay (R336, R337, Table 14.18). -/
def State.recovers (s : State) (o : Op) : Bool := o.again || s.canReplay o.partner

/-- The operation as it runs again from its descriptor as read at selection (R336), on the sites of its selection (R410; log
entry 113, DESIGN CHOICE). -/
def Op.fresh (o : Op) : Op :=
  { o with phase := .rerun, attempt := o.attempt + 1, inArray := false, entered := false, stepsLeft := o.d.steps (parseTensor o.ext),
           preempted := false, stopping := false, blocks := [], rows := [], reruns := [], sends := [], saved := [], status := 0, cnt := {},
           tongWait := [], contrib := [], codes := [], specUsed := false }

/-- An operation that is not run again after a fault (R337, R338): the module replays from the waymark; where it cannot, the
operation is lost. -/
def State.abandon (s : State) (o : Op) : State :=
  if s.canReplay o.partner then
    if (s.ctxLog o.partner).replays < 2 then (s.finish { o with status := 0x21 } false 0).replay o.partner
    else s.moduleFail
  else s.opLost o 0x21

/-- An operation aborted by one of the faults of R336, `cause` as Table 14.19 codes it: it is logged, its groups are
discarded, and it runs again, or the module replays from the waymark, or the operation is lost. -/
def State.abortOp (s : State) (seq cause : Nat) : State :=
  match s.op? seq with
  | none => s
  | some o =>
    let t := s.logEvent { code := 0x11, cls := .recovered, seq := seq, loc := o.room, d4 := cause, d5 := o.attempt }
    let t := t.dropFronts seq
    if o.again then t.setOp seq fun o => o.fresh
    else t.abandon o

/-- The operations that are in the array of a lockstep domain. -/
def State.inDomain (s : State) (dom : Nat) : List Nat :=
  (s.ops.filter fun o => o.inArray && o.dom = dom).map (·.seq)

/-- A domain-wide fault aborts every operation in the domain's array (R336). -/
def State.abortDomain (s : State) (dom cause : Nat) : State :=
  (s.inDomain dom).foldl (fun s q => s.abortOp q cause) s

/-- The hardware withdraws a quarter's tiles (R21, R343): the bit clears at once, in pending values too; the operations
in its domain's array are aborted; COMPUTE_DIE is logged with its cause; the map follows (log entry 18, DEDUCED). -/
def State.withdrawQuarter (s : State) (q cause : Nat) : State :=
  if bitsOf s.arrayQ q q = 1 ∨ bitsOf (s.fget Fl.glbQmaskArrayQ 0) q q = 1 then
    let dom := s.domOf q
    let t := s.clearQuarterBit q
    let t := t.logEvent { code := 0x03, cls := .degraded, quarter := q, loc := q, d4 := cause }
    (t.abortDomain dom 0x05).remap false
  else s

/-! ### The principal role -/

/-- A hart reset (Table 16.7): it restarts at the image's restart entry, with its control SRAM kept (R333). -/
def State.restartHart (s : State) (h : Nat) : State :=
  let x := (s.hart h).fresh s.boot.restart
  s.setHart h { x with halted := false, restarts := x.restarts + 1, kick := s.now }

/-- The four harts of a quarter held in reset until the next module reset. -/
def State.holdHarts (s : State) (q : Nat) : State :=
  (List.range 4).foldl (fun s i => s.setHart (4 * q + i) { s.hart (4 * q + i) with held := true }) s

/-- The control complex of a quarter is in service: its harts are not held, its CONTROL PLL is locked and its base die
serves. -/
def State.complexUp (s : State) (q : Nat) : Bool :=
  !(s.hart (4 * q)).held && bitsOf (s.fget Fl.clkStatControl 0) q q = 1

/-- The principal role passes to the next quarter whose control complex is in service (R290); where none remains, the
module fails. `why` is the cause of Table 14.19. -/
def State.handover (s : State) (why : Nat) : State :=
  let p := s.fget Fl.glbQmaskPrincipal 0
  match (List.range 4).find? fun q => p < q && s.complexUp q with
  | none => s.moduleFail
  | some q =>
    let t := (s.holdHarts p).fset Fl.glbQmaskPrincipal 0 q
    let t := t.setHart (4 * q) { t.hart (4 * q) with irqPrincipal := true }
    { t with moduleKick := t.now }.logEvent
      { code := 0x17, cls := .degraded, quarter := p, loc := q, d4 := why * 256 + p }

end Sys2Proof.Machine
end

