-- ==== Sys2Proof/Machine/HbmOps.lean ====
section
/-! DEFINITION. HbmOps: the line code of HBM (R269, R270), corrected and uncorrectable errors (R271, R272), scrub and row
repair (R273 to R275), and the retirement of pseudo-channels (R276 to R279). -/

namespace Sys2Proof.Machine

/-! ### The line code (R269, R270) -/

/-- An error pattern as numbers, without symbols that do not differ. -/
def symErrs (e : List SymErr) : List (Nat × Nat) :=
  (e.filter fun x => x.1 < 72 && x.2 != 0).map fun x => (x.1, x.2.toNat)

/-- A line with an error pattern laid over its data bytes. -/
def State.flipLine (s : State) (line : Nat) (e : List (Nat × Nat)) : State :=
  e.foldl (fun (t : State) x =>
    if x.1 < 64 then t.pokeByte (64 * line + x.1) (t.byteAt (64 * line + x.1) ^^^ BitVec.ofNat 8 x.2) else t) s

/-- The 72 bytes of a line as they come back with an error pattern: data and check bytes (R269). -/
def State.lineWord (s : State) (line : Nat) (e : List (Nat × Nat)) : List Byte :=
  let d := s.peek (64 * line) 64
  ((d ++ rsCheck d).zipIdx).map fun x =>
    e.foldl (fun (b : Byte) y => if y.1 = x.2 then b ^^^ BitVec.ofNat 8 y.2 else b) x.1

/-! ### Rows (R275) -/

/-- Rows of a stack that wait for a repair. -/
def State.showPending (s : State) (stack : Nat) : State :=
  s.fset Fl.memPprPending stack (s.hbm.wanted.filter fun w => pcStack w.1 == stack).length

/-- A row queued for repair. -/
def State.wantRow (s : State) (pc row : Nat) : State :=
  { s with hbm := { s.hbm with wanted := union s.hbm.wanted [(pc, row)] } }.showPending (pcStack pc)

/-- A row's count of corrected errors advanced; with 16 counters in use a new row takes the counter of the row with the
lowest count, the oldest of equals, and counts from one (log entry 36, DESIGN CHOICE). -/
def countRow (l : List (Nat × Nat × Nat)) (pc row : Nat) : List (Nat × Nat × Nat) :=
  let mine := l.filter fun x => x.1 == pc
  if mine.any fun x => x.2.1 == row then
    l.map fun x => if x.1 = pc ∧ x.2.1 = row then (pc, row, x.2.2 + 1) else x
  else if mine.length < 16 then l ++ [(pc, row, 1)]
  else
    let least := mine.foldl (fun m x => min m x.2.2) ((mine.headD (0, 0, 0)).2.2)
    (l.eraseP fun x => x.1 == pc && x.2.2 == least) ++ [(pc, row, 1)]

/-- The count of a row. -/
def rowCount16 (l : List (Nat × Nat × Nat)) (pc row : Nat) : Nat :=
  match l.find? fun x => x.1 == pc && x.2.1 == row with
  | some x => x.2.2
  | none => 0

/-! ### Retirement (R276 to R278) -/

/-- A byte range in HBM that does not lie wholly below HBM_TOP. -/
def State.aboveTop (s : State) (r : Nat × Nat) : Bool := r.1 < 0xC000000000 && s.hbmTop < r.2

/-- A structure above HBM_TOP, logged (Table 11.8). -/
def State.structureEvent (s : State) (code room : Nat) : State := s.channelEvent .degraded 0 5 (room * 65536 + code)

/-- The rings of enabled rooms above HBM_TOP (Table 11.8). -/
def State.roomsAbove (s : State) : State :=
  (s.enabledRooms.filter fun n => s.aboveTop (s.ringRange n)).foldl (fun (t : State) n =>
    (t.hwset Fl.roomAttrEnable n 0).structureEvent 1 n) s

/-- The save area above HBM_TOP. -/
def State.saveAbove (s : State) : State :=
  let a := s.fget Fl.ostCtlSaveGb 0 * 2 ^ 30
  if s.fon Fl.ostCtlPreemptEn 0 && s.aboveTop (a, a + 0x4800000) then
    (s.hwset Fl.ostCtlPreemptEn 0 0).structureEvent 2 0
  else s

/-- The input log above HBM_TOP. -/
def State.logAbove (s : State) : State :=
  if s.fon Fl.waymarkCtlLogEn 0 && s.aboveTop s.logRange then
    ((s.hwset Fl.waymarkCtlLogEn 0 0).fset Fl.waymarkCtlBroken 0 1).structureEvent 3 0
  else s

/-- The twin reserve above HBM_TOP: storing for the partner stops (R346). -/
def State.reserveAbove (s : State) : State :=
  if s.resGranules ≠ 0 ∧ s.aboveTop (s.resBase, s.resBase + s.resGranules * 65536) then
    let t := { s with twin := { s.twin with shadowStopped := true } }.structureEvent 4 0
    t.unshadowFrom
  else s

/-- The error-log ring above HBM_TOP. -/
def State.ringAbove (s : State) : State :=
  let a := s.fget Fl.errLogBaseAddr 0
  if a ≠ 0 ∧ s.aboveTop (a, a + 64 * 2 ^ (10 + s.fget Fl.errLogBaseSize 0)) then
    (s.hwset Fl.errLogBaseAddr 0 0).structureEvent 5 0
  else s

/-- The bytes from HBM_TOP on are lost (R277). -/
def State.cutTop (s : State) : State :=
  let top := s.hbmTop
  { s with mem := s.mem.filter fun c => !(top ≤ c.1 && c.1 < 0xC000000000),
           hbm := { s.hbm with ueLines := s.hbm.ueLines.filter fun l => 64 * l < top } }

/-- Every operation that is in the array, of any domain. -/
def State.inArrays (s : State) : List Nat := (s.ops.filter (·.inArray)).map (·.seq)

/-- The retirement of a pseudo-channel at run time, for a cause of Table 14.19: steps 1 and 2 of R277; a fifth one halts
the module (R276). -/
def State.retirePc (s : State) (pc cause : Nat) : State :=
  if s.retiredPcs.contains pc then s
  else if 4 ≤ s.fget Fl.memRetireN 0 then s.channelEvent .fatal pc 6 0
  else
    let t := { s with ost := { s.ost with retiring := true } }
    let t := t.inArrays.foldl (fun t q => t.abortOp q 0x06) t
    let t := (t.listRetired pc).channelEvent .degraded pc cause 0
    t.roomsAbove.saveAbove.logAbove.reserveAbove.ringAbove.cutTop

/-! ### Errors (R271, R272) -/

/-- The DRAM row of a line. -/
def State.rowOf (s : State) (line : Nat) : Nat × Nat :=
  let g := s.granuleOf (64 * line)
  (g.1, Config.dramRow g.1 g.2)

/-- A corrected error (R271): counted, logged, and counted toward the row's repair; a row that the stack refused to
repair, and reaches CE_THRESH again, retires its pseudo-channel. -/
def State.hbmCe (s : State) (line syms : Nat) : State :=
  let (pc, row) := s.rowOf line
  let k := pcStack pc
  let t := (s.bump Fl.memCeEvtCount Fl.memCeEvtPend k).fset Fl.memCeEvtSpc k (pcSpc pc)
  let t := (t.fset Fl.memCeEvtSyms k syms).logEvent
    { code := 0x09, cls := .corrected, quarter := stackQuarter k, loc := pc, d4 := 64 * line, d5 := syms }
  let rc := countRow t.hbm.rowCe pc row
  let t := { t with hbm := { t.hbm with rowCe := rc } }
  if t.fget Fl.memPprCeThresh k = 0 ∨ rowCount16 rc pc row ≠ t.fget Fl.memPprCeThresh k then t
  else if t.hbm.refused.contains (pc, row) then t.retirePc pc 0x03
  else t.wantRow pc row

/-- Class of an uncorrectable error by its source and what follows it (Table 14.18). -/
def State.ueClass (s : State) (src seq : Nat) : Cls :=
  if src = 2 then .degraded
  else if src = 1 then .lost
  else match s.op? seq with
    | some o => if s.recovers o then .recovered else .lost
    | none => .lost

/-- An uncorrectable line found (R272): counted, logged, its row queued, and UE_RETIRE watched (R276). -/
def State.ueNote (s : State) (line src seq : Nat) : State :=
  let (pc, row) := s.rowOf line
  let k := pcStack pc
  let t := (s.bump Fl.memUeEvtCount Fl.memUeEvtPend k).fset Fl.memUeEvtSpc k (pcSpc pc)
  let t := (t.fset Fl.memUeEvtSrc k src).logEvent
    { code := 0x0A, cls := s.ueClass src seq, quarter := stackQuarter k, seq := if src = 0 ∨ src = 3 then seq else noSeq,
      loc := pc, d4 := 64 * line, d5 := src }
  let n := mget 0 t.hbm.pcUe pc + 1
  let t := { t with hbm := { t.hbm with ueLines := union t.hbm.ueLines [line], pcUe := mput 0 t.hbm.pcUe pc n } }
  let t := t.wantRow pc row
  if n = t.fget Fl.memCtlUeRetire k then t.retirePc pc 0x02 else t

/-- UE lines met by an operation, with their sources, in order: each is counted. -/
def State.ueNotes (s : State) (seq : Nat) (lines : List (Nat × Nat)) : State :=
  lines.eraseDups.foldl (fun (t : State) l => t.ueNote l.1 l.2 seq) s

/-- UE lines met by an operation (R272): each is counted, and the operation aborted once. -/
def State.opMeetsUe (s : State) (seq : Nat) (lines : List (Nat × Nat)) : State :=
  (s.ueNotes seq lines).abortOp seq 0x03

/-- An HBM line read (R270): an error pattern is decoded; a corrected line is written back, with what a miscorrection
leaves in it. An uncorrectable one is noted, and `answer` is what it does to the one who asked. -/
def State.lineRead (s : State) (line src seq : Nat) (err : List SymErr) (answer : State → State) : State :=
  let e := symErrs err
  if s.hbm.ueLines.contains line then answer (s.ueNote line src seq)
  else match rsDecode (rsSyndromes (s.lineWord line e)) with
    | none => answer (s.ueNote line src seq)
    | some [] => s.flipLine line e
    | some c => ((s.flipLine line e).flipLine line c).hbmCe line c.length

/-- A request that has completed: it counts no timeout any more (R279). -/
def State.completed (s : State) (pc addr : Nat) : State :=
  { s with hbm := { s.hbm with pcLate := s.hbm.pcLate.filter fun x => x ≠ (pc, addr) } }

/-! ### Scrub, repair, timeouts -/

/-- One pseudo-channel's scrub read of a line index (R274). -/
def State.scrubLine (s : State) (pc pos : Nat) (err : List SymErr) : State :=
  match granuleIn s.retiredPcs pc (pos / 4) with
  | some g => s.lineRead (4 * g + pos % 4) 2 noSeq err id
  | none => s

/-- The scrub position of a stack moves on; a completed pass clears the rows' counts (R274). -/
def State.scrubNext (s : State) (stack : Nat) : State :=
  let pos := s.fget Fl.memScrubPos stack + 1
  if pos < 0x1800000 then s.fset Fl.memScrubPos stack pos
  else
    let t := (s.fset Fl.memScrubPos stack 0).finc Fl.memScrubPasses stack
    { t with hbm := { t.hbm with rowCe := t.hbm.rowCe.filter fun x => pcStack x.1 ≠ stack } }

/-- PATROL_SCRUB: the next line of every pseudo-channel of a stack, with the errors found, by pseudo-channel of the
stack. Lines known to be uncorrectable are found again. Nothing is scrubbed before HBM is wiped (R286). -/
def execPatrolScrub (stack : Nat) (errs : List (Nat × List SymErr)) (s : State) : Outcome :=
  act s fun s =>
    if s.fon Fl.memScrubEnable stack ∧ !s.shut 0 then
      let pos := s.fget Fl.memScrubPos stack
      ((List.range 64).foldl (fun (t : State) k =>
        let pc := pcOf stack k
        if t.retiredPcs.contains pc then t else t.scrubLine pc pos ((errs.lookup k).getD [])) s).scrubNext stack
    else s

/-- ROW_REPAIR of a queued row (R275). -/
def execRowRepair (pc row : Nat) (refused : Bool) (s : State) : Outcome :=
  act s fun s =>
    let k := pcStack pc
    if s.hbm.wanted.contains (pc, row) then
      let h := { s.hbm with
        wanted := s.hbm.wanted.filter fun w => w ≠ (pc, row),
        rowCe := s.hbm.rowCe.filter fun x => !(x.1 == pc && x.2.1 == row) }
      if refused then
        (({ s with hbm := { h with refused := union h.refused [(pc, row)] } } : State).fincSat Fl.memPprFailed k).showPending k
      else
        (({ s with hbm := { h with repaired := union h.repaired [(pc, row)] } } : State).fincSat Fl.memPprDone k).showPending k
    else s

/-- REFRESH only delays requests (R273). -/
def execRefresh (_stack : Nat) (s : State) : Outcome := act s fun s => s

/-- RETIREMENT_DONE (R277, step 3). -/
def execRetirementDone (s : State) : Outcome :=
  act s fun s => { s with ost := { s.ost with retiring := false } }

end Sys2Proof.Machine
end

