-- ==== Sys2Proof/Machine/Insts.lean ====
section
/-! DEFINITION. Insts: the collective instances that an operation starts, and their numbers (R214 to R216, R220 to
R224). -/

namespace Sys2Proof.Machine

/-- Kinds of Table 9.6. -/
def kdGather : Nat := 1
def kdAllGather : Nat := 2
def kdReduce : Nat := 3
def kdAllReduce : Nat := 4
def kdReduceScatter : Nat := 5
def kdBarrier : Nat := 6
def kdScalar : Nat := 7
def kdSeal : Nat := 8

/-- Context states (Table 9.3). -/
def gsIdle : Nat := 0
def gsActive : Nat := 1
def gsSuspect : Nat := 2
def gsFailed : Nat := 3

/-- The descriptor of an instance's operation. -/
def Inst.d (i : Inst) : Desc := i.words

/-- Gathers, and reductions. -/
def Inst.isGather (i : Inst) : Bool := i.kind == kdGather || i.kind == kdAllGather
def Inst.isReduce (i : Inst) : Bool := i.kind == kdReduce || i.kind == kdAllReduce || i.kind == kdReduceScatter

/-- Barriers and scalar reductions run on COLL_MSGs (R231, R234). -/
def Inst.isMsg (i : Inst) : Bool := i.kind == kdBarrier || i.kind == kdScalar

/-- Segments of an instance (R216). -/
def Inst.segs (i : Inst) : Nat := ceilDiv i.chunks (max 1 i.seg)

/-- Every segment is sealed. -/
def Inst.sealed (i : Inst) : Bool := (List.range i.segs).all fun k => i.sealedSegs.contains k

/-- FMT of the tag: T2's format code, XFER_FMT in ROUNDED_FIXED; a barrier has no T2 (Table 9.6). -/
def Inst.fmtCode (i : Inst) : Nat :=
  if i.kind = kdBarrier then 0 else if i.d.wire = 1 then i.d.xferCode else i.d.slot2.fmtCode

/-- The quarter whose collective engines carry a chunk, the P stage (R218): the principal quarter's carry an instance of a
nominal size of at most COL_THRESH_P.LIMIT whole, and messages; above it, quarter q's the q-th ceil(C ÷ 4) chunks. -/
def State.carrier (s : State) (i : Inst) (chunk : Nat) : Nat :=
  if i.isMsg ∨ i.chunks * i.perChunk * i.nominal ≤ s.fget Fl.colThreshPLimit 0 then s.fget Fl.glbQmaskPrincipal 0
  else chunk / max 1 (ceilDiv i.chunks 4)

/-- The kinds of the instances that a descriptor starts, in order: its gather, then its reduction. -/
def Desc.instKinds (d : Desc) : List Nat :=
  if d.opcode = opBarrier then [kdBarrier]
  else if d.opcode = opScalar then [kdScalar]
  else if d.collective then
    (if d.collPre = 1 then [kdGather] else if d.collPre = 2 then [kdAllGather] else []) ++
    (if d.collPost = 1 then [kdReduce] else if d.collPost = 2 then [kdAllReduce]
     else if d.collPost = 3 then [kdReduceScatter] else [])
  else []

/-- Anchor of the groups of a reduction (R221, R413, R231): a COLLECTIVE uses ANCHOR only for quires (R419). -/
def Op.collAnchor (o : Op) : Int :=
  let d := o.d
  if d.opcode = opColl then
    let src := (fmtOfCode o.srcCode).getD .uint8
    if src.isQuire || d.slot2.fmt.isQuire then (if d.anchor = anchorAuto then quireAnchor o.collW else d.anchor)
    else pairAnchor src src anchorAuto
  else d.ganchor

/-- The instance of a kind that operation `o` starts on its context, with number `no`. -/
def State.newInst (s : State) (o : Op) (kind no : Nat) : Inst :=
  let d := o.d
  let c := o.ctxNo
  let base : Inst :=
    { ctx := c, no := no, op := o.seq, words := o.words, kind := kind, w := o.collW, anchor := o.collAnchor,
      step := o.step, key := o.key, epoch := s.fget Fl.grpStatEpoch c, seg := s.fget Fl.colChunkSeg 0, names := s.members c }
  if kind = kdBarrier ∨ kind = kdScalar then base
  else
    let gather := kind == kdGather || kind == kdAllGather
    let n := if gather then d.wholeSlot.2.count else o.reduceCount
    let sz := o.nominal (if gather then some (if d.opcode = opColl then o.srcCode else d.wholeSlot.2.fmtCode) else none)
    let e := perChunk sz
    { base with
      elems := n, perChunk := e, chunks := ceilDiv n e, nominal := sz,
      firstK := if kind = kdGather ∧ s.selfIdx c = d.root then s.fget Fl.grpAuxFirstK c else 0 }

/-- An instance numbered and listed: the context's SEQ advances and its STATE becomes ACTIVE (R214, Table 9.3). A replay
that comes to an instance which is still unsealed takes it up as it stands (log entry 39, DESIGN CHOICE). -/
def State.addInst (o : Op) (s : State) (kind : Nat) : State :=
  let c := o.ctxNo
  let no := s.fget Fl.grpStatSeq c
  let there := s.insts.any fun i => i.ctx == c && i.no == no && i.kind == kind
  let t := ({ s with insts :=
    if there then s.insts.map fun i => if i.ctx = c ∧ i.no = no then { i with op := o.seq } else i
    else s.insts ++ [s.newInst o kind no] } : State).finc Fl.grpStatSeq c
  if t.fget Fl.grpStatState c = gsIdle then t.fset Fl.grpStatState c gsActive else t

/-- The instances of a selected operation. -/
def State.addInsts (s : State) (o : Op) : State := o.d.instKinds.foldl (State.addInst o) s

/-- The instances of an operation that are not sealed. -/
def State.instsOf (s : State) (seq : Nat) : List Inst := s.insts.filter fun i => i.op == seq

/-- The extents that an unsealed instance's result goes to (R229). -/
def Inst.resultExt (i : Inst) : Extent :=
  if i.isGather then i.d.wholeSlot.2.extent else i.d.slot2.extent

end Sys2Proof.Machine
end

