-- ==== Sys2Proof/Machine/Tables.lean ====
section
/-! DEFINITION. Tables: the two table-RAM banks of a node context: loads, swaps and product tables (R182, R196 to
R200). -/

namespace Sys2Proof.Machine

/-- Bank states (Table 8.7). -/
def bkEmpty : Nat := 0
def bkStaged : Nat := 1
def bkCurrent : Nat := 2
def bkStale : Nat := 3

/-- TBL_STATE of a context with bits [hi:lo] changed. -/
def State.setTblBits (s : State) (p : Bool) (hi lo v : Nat) : State :=
  s.setTblState p (BitVec.ofNat 64 (setBits (s.ctxTblState p).toNat hi lo v))

/-- The state of a bank set. -/
def State.setBank (s : State) (p : Bool) (b v : Nat) : State := s.setTblBits p (4 + 2 * b + 1) (4 + 2 * b) v

/-- TBL_STATE.VALID follows the current bank. -/
def State.showValid (s : State) (p : Bool) : State :=
  s.setTblBits p 63 32 ((s.ctxTables p).valid (s.tblCur p))

/-- The swap of R199 and R200: the staged bank becomes current, the former current bank STALE, and GEN advances. -/
def State.swapTables (s : State) (p : Bool) : State :=
  let c := s.tblCur p
  let g := (s.ctxTblGen p).toNat
  let t := s.setTblGen p (BitVec.ofNat 64 (setBits (setBits g 63 32 (bitsOf g 63 32 + 1)) 0 0 (1 - c)))
  ((t.setBank p c bkStale).setBank p (1 - c) bkCurrent).showValid p

/-- TBL_GEN.LOOSE_SWAP of a context. -/
def State.loosePending (s : State) (p : Bool) : Bool := bitsOf (s.ctxTblGen p).toNat 1 1 = 1

/-- LOOSE_SWAP cleared by the hardware (R200), but not in the array cycle of a write of 1 to it (R7). -/
def State.looseClear (s : State) (p : Bool) : State :=
  if !p && s.swFields.contains (Reg.off .tblGen 0, Fl.tblGenLooseSwap.lo) then s
  else s.setTblGen p (BitVec.ofNat 64 (setBits (s.ctxTblGen p).toNat 1 1 0))

/-- Bank `b` with its bytes, attributes and valid slots replaced. -/
def Tables.withBank (t : Tables) (b : Nat) (bytes : List Host.Cell) (attr : SMap Nat) (valid : Nat) : Tables :=
  if b = 0 then { t with bank0 := bytes, attr0 := attr, valid0 := valid }
  else { t with bank1 := bytes, attr1 := attr, valid1 := valid }

/-- The contents of bank `b`. -/
def Tables.bankOf (t : Tables) (b : Nat) : List Host.Cell × SMap Nat × Nat :=
  if b = 0 then (t.bank0, t.attr0, t.valid0) else (t.bank1, t.attr1, t.valid1)

/-- Image table `i` written to slot `slot` of a bank (R197): its bytes, its attribute and its valid bit. -/
def putSlot (img : List Byte) (first : Nat) (x : List Host.Cell × SMap Nat × Nat) (i : Nat) :
    List Host.Cell × SMap Nat × Nat :=
  let slot := first + i
  let a := (img.getD i 0).toNat
  let bytes := (List.range 512).foldl (fun (m : List Host.Cell) j =>
    mput 0 m (512 * slot + j) (img.getD (64 + 512 * i + j) 0)) x.1
  (bytes, mput 0 x.2.1 slot a, setBits x.2.2 slot slot (attrListed a).toNat)

/-- A TABLE_LOAD (R197): a bank that is not STAGED starts as a copy of the current one; then the image is written and
the bank is STAGED. -/
def State.loadTables (s : State) (o : Op) : State :=
  let p := o.partner
  let c := s.tblCur p
  let tb := s.ctxTables p
  let start := if s.bankState p (1 - c) = bkStaged then tb.bankOf (1 - c) else tb.bankOf c
  let count := o.d.fld 26 10 5
  let img := rdBytes (s.ctxRd p) o.d.t0.addr (64 + 512 * count)
  let x := (List.range count).foldl (putSlot img (o.d.fld 26 4 0)) start
  (s.setTables p (tb.withBank (1 - c) x.1 x.2.1 x.2.2)).setBank p (1 - c) bkStaged

/-- The front of a product-table pass takes the bank it did not bind (R182): EMPTY, its image lost. PROD shows while
the pass is in the tiles. -/
def State.takeProd (s : State) (o : Op) : State :=
  if o.d.prodTables then
    let b := 1 - o.bank
    (s.setTables o.partner ((s.ctxTables o.partner).withBank b [] [] 0)).setBank o.partner b bkEmpty
  else s

end Sys2Proof.Machine
end

