-- ==== Sys2Proof/Machine/Ostler.lean ====
section
/-! DEFINITION. Ostler: the selection of descriptors (R142, R159, R200, R297 to R304). -/

namespace Sys2Proof.Machine

/-! ### Streams (R22, R297) -/

/-- A selection stream exists: stream 0 in LOCKED mode, else that of each quarter in service or under test. -/
def State.stream (s : State) (dom : Nat) : Bool :=
  if s.locked then dom == 0 else bitsOf s.arrayQ dom dom == 1 || bitsOf s.testQ dom dom == 1

/-- The Ostler selects nothing at all in a stream: RUN, a FENCE, a trap, a TRAP_NAN operation without its record, a
departure, a mode boundary, a retirement, a WAYMARK (R297, R167, R313); in a quarter that proves itself (R118). -/
def State.streamHeld (s : State) (dom : Nat) : Bool :=
  s.stopped || s.ost.fence.isSome || s.ost.trapped || s.ost.trapNan.isSome || s.ost.depart.isSome || s.boundary ||
  (s.ops.any fun o => o.d.opcode == opWaymark) ||
  (!s.locked && s.ost.proving == some dom)

/-- The rooms that a stream serves: enabled, of the context that runs, and in INDEPENDENT mode of its quarter. -/
def State.streamRooms (s : State) (dom : Nat) : List Nat :=
  s.enabledRooms.filter fun n =>
    s.isPartnerRoom n == s.twin.running && (s.locked || s.fget Fl.roomAttrQuarter n == dom)

/-! ### The descriptor at HEAD (R142, R208) -/

/-- TILE_MAP as an operation of a stream finds it (R410): 1 for a homeless tile, n + 2 for a tile at site n that is not
its home; a quarter under test runs on its own home sites. -/
def State.mapNow (s : State) (dom : Nat) : SMap Nat :=
  if !s.locked && bitsOf s.testQ dom dom == 1 then []
  else (s.listed .tileMap).filterMap fun n =>
    match s.siteOf n with
    | none => some (n, 1)
    | some i => if i = homeSite n then none else some (n, i + 2)

/-- The descriptor at the HEAD of a room as an operation: its words, the extension of ATTEND and the bundle list, all as
read at selection; SEQ, step and seed. -/
def State.headOp (s : State) (dom n : Nat) : Op :=
  let p := s.isPartnerRoom n
  let rd := s.ctxRd p
  let words64 (a k : Nat) : List Word64 := (List.range k).map fun i => BitVec.ofNat 64 (rdNat rd (a + 8 * i) 8)
  let slot := s.ringBase n + 256 * (s.fget Fl.roomHeadHead n % s.ringSlots n)
  let d : Desc := words64 slot 32
  let x := d.opx0 % 2 ^ 40
  let ext := if d.opcode = opAttend ∧ s.populated x 48 then words64 x 6 else []
  let nb := if d.opcode = opColl ∧ d.bundleN ≤ 64 ∧ s.populated d.bundleAddr (48 * d.bundleN) then d.bundleN else 0
  { seq := s.ost.seq, room := n, dom := dom, words := d, ext := ext, bundle := words64 d.bundleAddr (6 * nb),
    step := s.ctxStep p, key := s.ctxSeed p d.seedSel, startBell := s.now, partner := p, bank := s.tblCur p,
    place := s.mapNow dom, indep := !s.locked, stepsLeft := d.steps (parseTensor ext) }

/-! ### Data order (R298, R299, R229) -/

/-- Extents without their words. -/
def bare (l : List WExt) : List Extent := (l.map fun x => x.2).filter fun x => decide (x.1 < x.2)

/-- The inputs of an operation, with the start of its groups (R160). -/
def State.opIns (s : State) (o : Op) : List Extent := bare (s.inExts o) ++ o.d.tongs

/-- The outputs of an operation. -/
def State.opOuts (s : State) (o : Op) : List Extent := bare (s.outExts o)

/-- Two lists of extents meet. -/
def extsMeet (a b : List Extent) : Bool := a.any fun x => b.any fun y => x.meets y

/-- The parts that two lists of extents share. -/
def shared (a b : List Extent) : List Extent :=
  a.flatMap fun x => (b.filter fun y => x.meets y).map fun y => (max x.1 y.1, min x.2 y.2)

/-- The bytes of output `l` of an operation, none where its row's list index is out of range. -/
def State.outBytes (s : State) (o : Op) (l : Nat) : Option Extent :=
  let t := o.d.slot2
  match t.place (s.ctxRd o.partner) (unlinear t.psizes l) with
  | .at b _ => some (b / 8, (b + t.w + 7) / 8)
  | _ => none

/-- Output elements with the logical tile of each. -/
def State.tileBytes (s : State) (o : Op) : List (Nat × Extent) :=
  (List.range o.d.slot2.count).filterMap fun l => (s.outBytes o l).map fun x => ((o.spot l).tile, x)

/-- One round: one placement and no homeless tile (R299). -/
def Op.oneRound (o : Op) : Bool := o.placements == 1 && o.homeless.isEmpty

/-- The logical tiles where the blocks of two operations intersect, if R299 lets `o` follow `p` before `p` completes. -/
def State.tongTiles (s : State) (o p : Op) : Option (List Nat) :=
  let tongs := o.d.tongs
  let outs := s.opOuts p
  let within (x : Extent) : Bool := tongs.any fun t => t.1 ≤ x.1 && x.2 ≤ t.2
  if isArrayOp o.d.opcode && p.notOut && !p.preempted && !tongs.isEmpty && !extsMeet (s.opOuts o) (bare (s.inExts p)) &&
     (shared (s.opIns o ++ s.opOuts o) outs).all within &&
     o.oneRound && p.oneRound && o.d.cls == p.d.cls && o.d.strip == p.d.strip && o.d.parts == p.d.parts then
    let mine := s.tileBytes o
    let theirs := s.tileBytes p
    let hits := theirs.filter fun y => tongs.any fun t => Extent.meets t y.2
    let ok := hits.all fun y =>
      (mine.any fun x => x.2.meets y.2) && (mine.filter fun x => x.2.meets y.2).all fun x => x.1 == y.1
    if ok then some ((hits.map fun y => y.1).eraseDups) else none
  else none

/-- The descriptor's footprint meets that of an incomplete operation (R298). Provisional results of an earlier instance
stand open to a SPEC_CONSUME reader, but not what a reader of provisional results has written (R229). -/
def State.ordered (s : State) (o p : Op) : Bool :=
  o.partner == p.partner &&
  (let spec := o.d.specConsume && p.d.collective && !p.d.specConsume
   let read := if spec then (s.opOuts p).filter fun y => y != p.d.slot2.extent else s.opOuts p
   extsMeet (s.opIns o) read || extsMeet (s.opOuts o) (s.opIns p ++ s.opOuts p))

/-- The tongs case of R299 with one operation. -/
def State.tongsOk (s : State) (o p : Op) : Bool := (s.tongTiles o p).isSome

/-- Held by the data order: by an incomplete operation, unless the tongs case lets it follow; by the result of an unsealed
gather (R229). -/
def State.dataHeld (s : State) (o : Op) : Bool :=
  (s.ops.any fun p => s.ordered o p && !s.tongsOk o p) ||
  (!o.d.specConsume && s.insts.any fun i =>
    i.isGather && decide (512 ≤ i.ctx && s.twin.serves.isSome) == o.partner &&
      (s.opIns o).any fun x => x.meets i.resultExt)

/-- The TONG_WAIT tiles of a selected operation (R299). -/
def State.tongWaits (s : State) (o : Op) : List Nat :=
  ((s.ops.filter fun p => s.ordered o p).flatMap fun p => (s.tongTiles o p).getD []).eraseDups

/-! ### What holds one descriptor (R297) -/

/-- The array window. -/
def State.windowOpen (s : State) (dom : Nat) : Bool :=
  let inWin := s.ops.filter fun o => o.dom == dom && o.notOut && !o.preempted
  let last := mget 0 s.ost.lastArray dom
  inWin.length < 2 && !(inWin.any fun o => o.seq + 1 == last && decide (1024 < o.stepsLeft))

/-- A TABLE_LOAD of a context is incomplete. -/
def State.loading (s : State) (p : Bool) : Bool := s.ops.any fun o => o.partner == p && o.d.opcode == opTload

/-- An earlier array operation's front is still to come. -/
def State.frontsDue (s : State) (p : Bool) (b : Option Nat) : Bool :=
  s.ops.any fun x => x.partner == p && x.notOut && !x.entered && !x.preempted && (match b with
    | some k => x.bank == k
    | none => true)

/-- Waits of the table rules (R198, R199). Nothing is selected between a TABLE_SWAP and its swap, so that every later
operation binds the new bank (log entry 33, DEDUCED); a TABLE_SWAP waits for the fronts of earlier operations, and a
TABLE_LOAD for those that are to bind its target, so that the change falls between two fronts (log entry 82, DEDUCED). -/
def State.tableHeld (s : State) (o : Op) : Bool :=
  (o.d.opcode == opTswap && s.frontsDue o.partner none) ||
  (o.d.opcode == opTload && s.frontsDue o.partner (some (1 - s.tblCur o.partner))) ||
  ((o.d.opcode == opTload || o.d.opcode == opTswap || o.d.prodTables) && s.loading o.partner) ||
  (s.ops.any fun p => p.partner == o.partner && p.d.opcode == opTswap && p.phase == .selected)

/-- A LOOSE swap can be made (R200): a bank is STAGED and no TABLE_LOAD is incomplete. -/
def State.looseReady (s : State) (p : Bool) : Bool :=
  s.bankState p (1 - s.tblCur p) == bkStaged && !s.loading p

/-- The logged LOOSE outcome that a replay has still to apply names this descriptor: the one selected with the logged SEQ
before the replay; where this module did not select it, the first one (R320; log entry 34, DEDUCED). -/
def State.looseLogged (s : State) (o : Op) : Bool :=
  let l := s.ctxLog o.partner
  match l.detours.find? fun x => x.1 == 3 with
  | none => false
  | some x =>
    match l.chosen.find? fun c => c.1 == x.2.headD 0 with
    | some c => c.2.1 == o.room && c.2.2 == mget 0 l.headNo (if o.partner then o.room - 2048 else o.room)
    | none => true

/-- The descriptor at the HEAD of a room is held by R297, R298 or a rule they name: no operation that names a group is
selected whose instances would not find room among the 64 (R214). `win` is false where the array window
is left out of account (R303; log entry 35, DEDUCED). -/
def State.held (s : State) (win : Bool) (o : Op) : Bool :=
  let d := o.d
  decide (32 ≤ (s.ops.filter fun p => p.dom == o.dom).length) ||
  (win && isArrayOp d.opcode && !s.windowOpen o.dom) ||
  s.dataHeld o || s.tableHeld o ||
  (d.collective && decide (64 < s.insts.length + max 1 d.instKinds.length)) ||
  (d.opcode == opWaymark && !s.ops.isEmpty) ||
  (s.looseLogged o && !s.looseReady o.partner)

/-- The rooms of a stream whose descriptor is not held, in increasing order. -/
def State.readyRooms (s : State) (win : Bool) (dom : Nat) : List Nat :=
  (s.streamRooms dom).filter fun n => s.roomFull n && !s.held win (s.headOp dom n)

/-- The eligible rooms of a stream (R300). -/
def State.eligible (s : State) (dom : Nat) : List Nat :=
  if s.stream dom && !s.streamHeld dom then s.readyRooms true dom else []

/-! ### Deficit round robin (R300, R301) -/

/-- One level: deficits, credited marks and the pointer: 0 before the lowest member, k + 1 on member k. -/
structure Drr where
  d : SMap Nat
  cred : List Nat
  ptr : Nat
  deriving DecidableEq, Repr

/-- The next eligible member at or after a pointer position; past the highest, the lowest. -/
def nextMember (el : List Nat) (ptr : Nat) : Nat := (el.find? fun k => ptr ≤ k).getD (el.headD 0)

/-- Moves of the pointer of drr (R300), up to a number of them: the member it returns, and the level as it stands then. -/
def drrMoves (el : List Nat) (quantum cost : Nat → Nat) : Nat → Drr → Option Nat × Drr
  | 0, x => (none, x)
  | f + 1, x =>
    let k := x.ptr - 1
    if x.ptr ≠ 0 ∧ el.contains k then
      let y := if x.cred.contains k then x
        else { x with d := mput 0 x.d k (mget 0 x.d k + quantum k), cred := x.cred ++ [k] }
      if cost k ≤ mget 0 y.d k then (some k, { y with d := mput 0 y.d k (mget 0 y.d k - cost k) })
      else drrMoves el quantum cost f { y with cred := y.cred.filter (· ≠ k), ptr := nextMember el x.ptr + 1 }
    else drrMoves el quantum cost f
      { x with cred := x.cred.filter fun c => c + 1 ≠ x.ptr, ptr := nextMember el x.ptr + 1 }

/-- The procedure drr of R300, over members with their head costs. Once a pass has selected nothing, each further pass adds
every quantum once; the passes before the one that selects are resolved at once. -/
def drr (el : List (Nat × Nat)) (quantum : Nat → Nat) (x : Drr) : Option Nat × Drr :=
  let ks := el.map fun e => e.1
  let cost := fun k => (el.lookup k).getD 0
  let n := 2 * el.length + 2
  let r := drrMoves ks quantum cost n x
  if r.1.isSome then r
  else
    let passes := (el.filter fun e => quantum e.1 ≠ 0).map fun e => ceilDiv (e.2 - mget 0 r.2.d e.1) (quantum e.1) - 1
    let skip := passes.foldl min (passes.headD 0)
    drrMoves ks quantum cost n
      { r.2 with d := ks.foldl (fun m k => mput 0 m k (mget 0 m k + skip * quantum k)) r.2.d }

/-- A class is strict. -/
def State.strictClass (s : State) (c : Nat) : Bool := s.fon Fl.ostClassWtStrict c

/-- The room level of a class, for a stream. -/
def State.roomDrr (s : State) (dom c : Nat) (el : List Nat) : Option Nat × Drr :=
  let mine := el.filter fun n => s.roomClass n == c
  let d := mine.foldl (fun (m : SMap Nat) n => mput 0 m n (s.fget Fl.roomAttrDeficit n)) []
  drr (mine.map fun n => (n, (s.headOp dom n).cost)) (fun n => s.fget Fl.roomAttrQuantum n)
    { d := d, cred := s.ost.roomCredit, ptr := mget 0 s.ost.roomPtr (8 * dom + c) }

/-- The room level as drr leaves it. -/
def State.keepRoomDrr (s : State) (dom c : Nat) (el : List Nat) (x : Drr) : State :=
  let t := (el.filter fun n => s.roomClass n == c).foldl (fun (t : State) n =>
    t.fset Fl.roomAttrDeficit n (mget 0 x.d n)) s
  { t with ost := { t.ost with roomCredit := x.cred, roomPtr := mput 0 t.ost.roomPtr (8 * dom + c) x.ptr } }

/-- The class level: the class it returns, and the level as it stands then. -/
def State.classDrr (s : State) (dom : Nat) (el : List Nat) : Option Nat × Drr :=
  let cs := (List.range 8).filter fun c => !s.strictClass c && el.any fun n => s.roomClass n == c
  let cost := fun c => match (s.roomDrr dom c el).1 with
    | some n => (s.headOp dom n).cost
    | none => 0
  drr (cs.map fun c => (8 * dom + c, cost c)) (fun k => s.fget Fl.ostClassWtWt (k % 8))
    { d := s.ost.clsDeficit, cred := s.ost.clsCredit, ptr := mget 0 s.ost.clsPtr dom }

/-- The room that a selection takes: the highest strict class with an eligible room, else the class that the class level
returns (R300). -/
def State.pick (s : State) (dom : Nat) (el : List Nat) : Option (Nat × State) :=
  let room (t : State) (c : Nat) : Option (Nat × State) :=
    let r := t.roomDrr dom c el
    r.1.map fun n => (n, t.keepRoomDrr dom c el r.2)
  match (List.range 8).reverse.find? fun c => s.strictClass c && el.any fun n => s.roomClass n == c with
  | some c => room s c
  | none =>
    let r := s.classDrr dom el
    match r.1 with
    | none => none
    | some k =>
      room { s with ost := { s.ost with
        clsDeficit := r.2.d, clsCredit := r.2.cred, clsPtr := mput 0 s.ost.clsPtr dom r.2.ptr } } (k % 8)

/-! ### Selection -/

/-- The room's number in its context's log. -/
def Op.logRoom (o : Op) : Nat := if o.partner then o.room - 2048 else o.room

/-- HEAD, HEAD_NO and SEQ advance; OST_CUR shows the selection (R163, R293, Table 13.6). -/
def State.takeHead (s : State) (o : Op) : State :=
  let k := o.logRoom
  let no := mget 0 (s.ctxLog o.partner).headNo k
  let t := s.fset Fl.roomHeadHead o.room ((s.fget Fl.roomHeadHead o.room + 1) % 2 ^ 17)
  let t := t.setLog o.partner fun l => { l with
    headNo := mput 0 l.headNo k ((no + 1) % 2 ^ 48), chosen := l.chosen ++ [(o.seq, k, no)] }
  let t := { t with ost := { t.ost with seq := (t.ost.seq + 1) % 2 ^ 48 } }
  ((t.fset Fl.ostCurLastRoom 0 o.room).fset Fl.ostCurLastSeq 0 o.seq).dropDeficits o.dom o.room

/-- Attempts that came before a selection: the waymark replays of the step, where a replay runs the descriptor again
(R322). -/
def State.attempts (s : State) (o : Op) : Nat :=
  let l := s.ctxLog o.partner
  if l.replaying ∧ mget 0 l.headNo o.logRoom < mget 0 l.ranUpTo o.logRoom then l.replays else 0

/-- A LOOSE swap at the selection of `o` (R200, R319, R320): the state, and the operation with its detour. A replay applies
the logged outcome and counts nothing again. A TABLE_SWAP exposes the staged bank itself. -/
def State.looseApply (s : State) (o : Op) : State × Op :=
  let p := o.partner
  if o.d.opcode = opTswap ∨ !s.looseReady p then (s, o)
  else if s.looseLogged o then
    let t := (s.swapTables p).looseClear p
    let drop := fun (l : Log) => { l with detours := l.detours.eraseP fun x => x.1 == 3 }
    (t.setLog p drop, { o.detour 3 with bank := t.tblCur p })
  else if s.loosePending p && !s.ctxStrict p && !((s.ctxLog p).detours.any fun x => x.1 == 3) then
    let t := (s.swapTables p).looseClear p
    (t.detour p 3 o.seq (leBytes 8 o.seq), { o.detour 3 with bank := t.tblCur p })
  else (s, o)

/-- A rejection (R159): its record, or the event of BAD_CPL; STOP_ON_ERR clears the room's ENABLE (R292). -/
def State.reject (s : State) (o : Op) (code word head : Nat) : State :=
  let t := if s.fon Fl.roomAttrStopOnErr o.room then s.hwset Fl.roomAttrEnable o.room 0 else s
  if code = 0x03 then
    t.logEvent { code := 0x13, cls := .program, seq := o.seq, loc := o.room, d4 := head }
  else t.finish { o with status := code } false word

/-- A descriptor that passes every check becomes an operation (R161, R299, R297). -/
def State.accept (s : State) (o : Op) : State :=
  let d := o.d
  let arr := isArrayOp d.opcode
  let x := { o with idem := s.idempotent o, tongs := d.tongs, tongWait := s.tongWaits o, inst := s.fget Fl.grpStatSeq o.ctxNo }
  let t := { s with
    ops := s.ops ++ [x],
    ost := { s.ost with
      fence := if d.opcode = opFence then some o.seq else s.ost.fence,
      trapNan := if d.trapNan then some o.seq else s.ost.trapNan,
      lastArray := if arr then mput 0 s.ost.lastArray o.dom (o.seq + 1) else s.ost.lastArray } }
  t.addInsts x

/-- The UE lines that the reads of a selection meet (R272): the descriptor's words, the extension tensor, the bundle list. -/
def State.headUe (s : State) (o : Op) : List (Nat × Nat) :=
  let slot := s.ringBase o.room + 256 * (s.fget Fl.roomHeadHead o.room % s.ringSlots o.room)
  let x := o.d.opx0 % 2 ^ 40
  ([(slot, slot + 256), (x, x + 8 * o.ext.length), (o.d.bundleAddr, o.d.bundleAddr + 8 * o.bundle.length)].flatMap fun e =>
    s.ctxUe o.partner e).map fun l => (l, 0)

/-- The UE lines met at a selection: each is counted, and an operation that was accepted is aborted and recovered like any
that meets one (R272; log entry 126, DEDUCED). -/
def State.noteHead (s : State) (seq : Nat) (ue : List (Nat × Nat)) : State :=
  if ue.isEmpty then s else s.opMeetsUe seq ue

/-- The selection of the descriptor at the HEAD of a room. -/
def State.selectRoom (s : State) (dom n : Nat) : State :=
  let head := s.fget Fl.roomHeadHead n
  let o := s.headOp dom n
  let a := s.attempts o
  let o := { o with base := a, attempt := a }
  let r := s.looseApply o
  let t := r.1.takeHead r.2
  match r.1.check r.2 with
  | some e => (t.ueNotes r.2.seq (s.headUe o)).reject r.2 e.1 e.2 head
  | none => (t.accept r.2).noteHead r.2.seq (s.headUe o)

/-- The pre-empted operation of a stream and context. -/
def State.preempted (s : State) (dom : Nat) : Option Op :=
  s.ops.find? fun o => o.preempted && o.dom == dom && o.partner == s.twin.running

/-- The resumption of a pre-empted operation, on the sites that serve now (R304, R141). -/
def State.resume (s : State) (o : Op) : State :=
  let t := s.setOp o.seq fun p => { p with
    preempted := false, stopping := false, entered := false, indep := !s.locked, place := s.mapNow o.dom }
  let t := { t with ost := { t.ost with lastArray := mput 0 t.ost.lastArray o.dom (o.seq + 1) } }
  (t.fset Fl.ostCurLastRoom 0 o.room).fset Fl.ostCurLastSeq 0 o.seq

/-- A room of a strict class higher than class `c` is eligible. -/
def State.strictAbove (s : State) (el : List Nat) (c : Nat) : Bool :=
  el.any fun n => decide (c < s.roomClass n) && s.strictClass (s.roomClass n)

/-- The round robin of the two node contexts lets a descriptor be selected: its cost is within the deficit of the context
that runs (R350). -/
def State.ctxAllows (s : State) (cost : Nat) : Bool :=
  s.twin.serves.isNone || decide (cost ≤ mget 0 s.twin.deficits s.twin.running.toNat)

/-- The cost of a selection charged to its context. -/
def State.ctxCharge (s : State) (cost : Nat) : State :=
  if s.twin.serves.isNone then s
  else
    let k := s.twin.running.toNat
    { s with twin := { s.twin with deficits := mput 0 s.twin.deficits k (mget 0 s.twin.deficits k - cost) } }

/-- One selection of a stream (R300, R304). -/
def State.selectNext (s : State) (dom : Nat) : State :=
  let el := s.eligible dom
  let normal := match s.pick dom el with
    | some r =>
      let cost := (s.headOp dom r.1).cost
      if s.ctxAllows cost then (r.2.selectRoom dom r.1).ctxCharge cost else s
    | none => s
  match s.preempted dom with
  | some o =>
    if s.stream dom && !s.streamHeld dom && !s.strictAbove el (s.roomClass o.room) then
      if s.windowOpen dom then s.resume o else s
    else normal
  | none => normal

/-- OSTLER_SELECT. Nothing is selected before every memory is wiped (R286). -/
def execOstlerSelect (dom : Nat) (s : State) : Outcome :=
  act s fun s => if s.boot.wiping.isEmpty then s.selectNext dom else s

/-! ### Time without interruption (R303) -/

/-- The eligible rooms of strict classes keep the bell since which they have been so, kept as bell + 1; the others lose it. -/
def State.noteStrict (s : State) : State :=
  let now := (List.range 4).flatMap fun dom =>
    if s.stream dom && !s.streamHeld dom then (s.readyRooms false dom).filter fun n => s.strictClass (s.roomClass n) else []
  { s with ost := { s.ost with
      strictSince := now.foldl (fun (m : SMap Nat) n => mput 0 m n (mget (s.now + 1) s.ost.strictSince n)) [] } }

end Sys2Proof.Machine
end

