-- ==== Sys2Proof/Machine/Tick.lean ====
section
/-! DEFINITION. Tick: one array cycle in which no command comes (log entry 2, DESIGN CHOICE). -/

namespace Sys2Proof.Machine

/-- One level in force: a load-shed level of 0 ends the step-down (R388, R389). -/
def State.applyLevel (s : State) (d : Nat × Bool × Nat) : State :=
  if d.2.1 then
    let t := s.fset Fl.arrThrottleShedNNow 0 d.2.2
    if d.2.2 = 0 then t.fset Fl.pwrStatShedRamp 0 0 else t
  else s.fset Fl.arrThrottleEffN 0 d.2.2

/-- Levels whose bell has come (R388, R389): a throttle level takes effect at the next bell that is a multiple of 64,
a load-shed level at the bell stamped for it. -/
def State.applyDue (s : State) : State :=
  let now := s.now
  let t := { s with power := { s.power with due := s.power.due.filter fun d => now < d.1 } }
  (s.power.due.filter fun d => d.1 ≤ now).foldl State.applyLevel t

/-- The replicas of the bell count the cycle (R16): no field has been written yet in the one that begins (R7). -/
def State.countCycle (s : State) : State :=
  { s with bell := (List.range 4).foldl (fun m q => mput 0 m q ((mget 0 m q + 1) % 2 ^ 64)) s.bell, swFields := [] }

/-- Finishers that have completed their row (R82, Table 17.6). -/
def State.freeFinishers (s : State) : State :=
  let busy := (List.range 4).filter fun q => s.now < mget 0 s.ost.finFree q
  s.fset Fl.qchFinBusy 0 ((busy.map fun q => 2 ^ q).sum)

/-- One array cycle: the ARRAY domain runs from PWR_GOOD on, outside resets, and through a halt (R16). The Ostler notes
which strict rooms wait (R303). -/
def tick (s : State) : State :=
  if s.power.phase = .on && s.power.resetN then s.countCycle.applyDue.freeFinishers.noteStrict else s

end Sys2Proof.Machine
end

