-- ==== Sys2Proof/Machine/Power.lean ====
section
/-! DEFINITION. Power: the 56 V input, sequencing, power-down, throttle and load shed, thermal and clock events, the
reset pin (R381 to R398). -/

namespace Sys2Proof.Machine

/-- The power stage changed. -/
def State.setPower (s : State) (f : PowerStage → PowerStage) : State := { s with power := f s.power }

/-- The module is powered and out of reset, halted or not. -/
def State.powered (s : State) : Bool := s.power.phase = .on && s.power.resetN

/-- A POWER event of Table 16.5 with its LOC (Table 14.19), where the module can log it. -/
def State.powerEvent (s : State) (detail : Nat) (cls : Cls) (loc quarter : Nat) : State :=
  if s.powered then
    s.logEvent { code := 0x1A, cls := cls, quarter := quarter, loc := loc, d4 := detail, d5 := (s.rd .pwrInV 0).toNat }
  else s

/-- A THERMAL event of Table 16.5. -/
def State.thermalEvent (s : State) (detail : Nat) (cls : Cls) (src : Nat) : State :=
  if s.powered then
    s.logEvent { code := 0x1B, cls := cls, loc := src, d4 := detail, d5 := (s.rd .therm src).toNat }
  else s

/-! ### Power-up and power-down -/

/-- A power-down (R385): PWR_GOOD is deasserted, the module halts, every memory loses its contents. The registers keep
their last values until power-on, when nothing can read them (log entry 23, DESIGN CHOICE). -/
def State.powerDown (s : State) : State :=
  if s.power.phase = .on ∨ s.power.phase = .sequencing then
    { s.halt with
      mem := [], panel := [], ctrl := [], tables := {}, hbm := {}, once := [], acl := [],
      power := { s.power with phase := .down, pwrGood := false, again := false, due := [] } }
  else s

/-- The input lies in the operating range (R381). -/
def inRange (mv : Nat) : Bool := 46000 ≤ mv && mv ≤ 60000

/-- The sequencer acts on an asserted PWR_EN (R384). -/
def State.startRails (s : State) : State :=
  s.setPower fun p => { p with phase := if inRange p.mv then .sequencing else .waiting, again := false }

/-- PWR_EN_ASSERT (R384, R385): during a power-down or its wait the sequencer remembers it. -/
def execPwrEnAssert (s : State) : Outcome :=
  done s (
    if s.power.pwrEn then s
    else
      let t := s.setPower fun p => { p with pwrEn := true }
      match s.power.phase with
      | .off => t.startRails
      | .down => t.setPower fun p => { p with again := true }
      | _ => t)

/-- PWR_GOOD (R384): every rail is up, everything starts anew with the bell at 0; a rail that missed its window powers
the module down. -/
def execPwrGood (miss : Option Nat) (s : State) : Outcome :=
  done s (
    if s.power.phase = .sequencing then
      match miss with
      | some _ => s.powerDown
      | none =>
        { s with power := { s.power with phase := .on, pwrGood := true, due := [] } }.moduleReset
    else s)

/-- PWR_EN_DEASSERT (R385, R392): THERM_TRIP_N is released. -/
def execPwrEnDeassert (s : State) : Outcome :=
  done s (
    let t := s.setPower fun p => { p with pwrEn := false, again := false, thermTripN := true }
    match s.power.phase with
    | .waiting => t.setPower fun p => { p with phase := .off }
    | _ => t.powerDown)

/-- POWER_DOWN_WAIT_END (R385): a PWR_EN asserted anew meanwhile is acted on now. -/
def execPowerDownWaitEnd (s : State) : Outcome :=
  done s (
    if s.power.phase = .down then
      if s.power.again then s.startRails else s.setPower fun p => { p with phase := .off }
    else s)

/-! ### Throttle and load shed -/

/-- The load-shed level stamped last, or in force. -/
def State.shedTarget (s : State) : Nat :=
  ((s.power.due.filter fun d => d.2.1).getLast?.map fun d => d.2.2).getD (s.fget Fl.arrThrottleShedNNow 0)

/-- Array cycles between two steps of a step-down (R389). -/
def rampCycles : Nat := 8000

/-- A load-shed level stamped for a bell at most 88 array cycles ahead (R389); which one is open. -/
def State.stampShed (s : State) (level : Nat) : State :=
  let d := s.free.toNat % 89
  s.freeNext.setPower fun p => { p with due := p.due ++ [(s.now + d, true, level)], rampNext := s.now + d + rampCycles }

/-- A load shed begins, by the pin or by the input (R383, R389): the level returns at once during a step-down. -/
def State.shedOn (s : State) : State :=
  let n := s.fget Fl.pwrCapShedN 0
  if s.fon Fl.pwrStatLoadShed 0 then s
  else
    let t := s.fset Fl.pwrStatLoadShed 0 1
    if s.fon Fl.pwrStatShedRamp 0 then
      ((t.fset Fl.pwrStatShedRamp 0 0).setPower fun p => { p with due := p.due.filter fun d => !d.2.1 }).setShed n
    else t.stampShed n

/-- The first step of the step-down: by 8, or to 0 when less than 8 remains (R389). -/
def State.shedDown (s : State) : State := s.stampShed (s.shedTarget - 8)

/-- A further step, 8,000 array cycles after the last one, stamped ahead of its bell (R389). -/
def State.shedStep (s : State) : State :=
  let b := max s.now s.power.rampNext
  s.setPower fun p => { p with due := p.due ++ [(b, true, s.shedTarget - 8)], rampNext := b + rampCycles }

/-- A load shed ends where neither the pin nor the input asks for it: the step-down begins (R389). -/
def State.shedOff (s : State) : State :=
  if s.fon Fl.pwrStatLoadShed 0 ∧ s.power.loadShedN ∧ !s.power.uvShed then
    ((s.fset Fl.pwrStatLoadShed 0 0).fset Fl.pwrStatShedRamp 0 1).shedDown
  else s

/-- LOAD_SHED_FALL (R389). -/
def execLoadShedFall (s : State) : Outcome :=
  done s (
    let t := s.setPower fun p => { p with loadShedN := false }
    if s.powered then t.shedOn else t)

/-- LOAD_SHED_RISE (R389). -/
def execLoadShedRise (s : State) : Outcome :=
  done s (
    let t := s.setPower fun p => { p with loadShedN := true }
    if s.powered then t.shedOff else t)

/-- SHED_STEP_DOWN (R389): the next step, while the step-down runs, when its bell is at most 88 array cycles away. -/
def execShedStepDown (s : State) : Outcome :=
  done s (if s.powered && s.fon Fl.pwrStatShedRamp 0 && s.shedTarget != 0 && decide (s.power.rampNext ≤ s.now + 88)
    then s.shedStep else s)

/-- EFF_N follows FW_N, CAP_N and THERM_N at the next bell that is a multiple of 64 (R388). -/
def State.effNext (s : State) : State :=
  let n := max (s.fget Fl.arrThrottleFwN 0) (max (s.fget Fl.arrThrottleCapN 0) (s.fget Fl.arrThrottleThermN 0))
  let shown := ((s.power.due.filter fun d => !d.2.1).getLast?.map fun d => d.2.2).getD (s.fget Fl.arrThrottleEffN 0)
  if n = shown then s
  else s.setPower fun p => { p with due := p.due ++ [((s.now / 64 + 1) * 64, false, n)] }

/-- CAP_CONTROL_TICK (R390, R402): the averages of the last 10 µs, and CAP_N against the limit. -/
def execCapControlTick (mv ma mw : Nat) (s : State) : Outcome :=
  act s fun s =>
    let t := (s.fset Fl.pwrInVMv 0 mv).fset Fl.pwrInVMinMv 0 (min mv (s.fget Fl.pwrInVMinMv 0))
    let t := (t.fset Fl.pwrInIMa 0 ma).fset Fl.pwrInIMw 0 mw
    let l := min (t.fget Fl.pwrCapLimitW 0) (500 * t.fget Fl.pwrCapPhases 0)
    let n := t.fget Fl.arrThrottleCapN 0
    let m := if l * 1000 < mw then min 63 (n + 2) else if mw + 100000 < l * 1000 then n - 1 else n
    (t.fset Fl.arrThrottleCapN 0 m).effNext

/-! ### The input -/

/-- The input voltage noted; the stage watches it whatever the module does. -/
def State.inputAt (s : State) (mv : Nat) : State := s.setPower fun p => { p with mv := mv }

/-- The input is below 46.0 V (R383). -/
def State.undervoltage (s : State) : State :=
  if s.powered then
    let t := if s.fon Fl.pwrStatUvWarn 0 then s
      else (s.fset Fl.pwrStatUvWarn 0 1).powerEvent 0x01 .corrected 0 0
    (t.setPower fun p => { p with uvShed := true }).shedOn
  else s

/-- The warnings that the input's voltage no longer calls for. -/
def State.inputClears (s : State) : State :=
  if s.powered then
    let t := if 46000 ≤ s.power.mv then s.fset Fl.pwrStatUvWarn 0 0 else s
    let t := if t.power.mv ≤ 60000 then t.fset Fl.pwrStatOvWarn 0 0 else t
    if 46500 < t.power.mv ∧ t.power.uvShed then (t.setPower fun p => { p with uvShed := false }).shedOff else t
  else s

/-- INPUT_UNDERVOLTAGE (R383). -/
def execInputUndervoltage (mv : Nat) (s : State) : Outcome :=
  done s (if mv < 46000 then (s.inputAt mv).inputClears.undervoltage else s)

/-- INPUT_RECOVERED (R383): above 46.5 V the shed ends. -/
def execInputRecovered (mv : Nat) (s : State) : Outcome :=
  done s (if 46500 < mv then (s.inputAt mv).inputClears else s)

/-- INPUT_BROWNOUT (R383): below 44.0 V for more than 10 ms, or below 40.0 V; the input is below 46.0 V as well. -/
def execInputBrownout (mv : Nat) (s : State) : Outcome :=
  done s (
    if mv < 44000 then ((s.inputAt mv).inputClears.undervoltage.powerEvent 0x02 .fatal 0 0).powerDown else s)

/-- The input is above 60.0 V (R383). -/
def State.overvoltage (s : State) : State :=
  if s.powered && !s.fon Fl.pwrStatOvWarn 0 then (s.fset Fl.pwrStatOvWarn 0 1).powerEvent 0x03 .corrected 0 0 else s

/-- INPUT_OVERVOLTAGE_WARN (R383). -/
def execInputOvervoltageWarn (mv : Nat) (s : State) : Outcome :=
  done s (if 60000 < mv then (s.inputAt mv).inputClears.overvoltage else s)

/-- INPUT_OVERVOLTAGE_TRIP (R383): the input switch opens and the module powers down. -/
def execInputOvervoltageTrip (mv : Nat) (s : State) : Outcome :=
  done s (
    if 64000 < mv then ((s.inputAt mv).inputClears.overvoltage.powerEvent 0x04 .fatal 0 0).powerDown else s)

/-- INPUT_IN_RANGE (R384): the rails start for an asserted PWR_EN that waits; OV_WARN clears. -/
def execInputInRange (mv : Nat) (s : State) : Outcome :=
  done s (
    if inRange mv then
      let t := (s.inputAt mv).inputClears
      if t.power.phase = .waiting then t.startRails else t
    else s)

/-! ### Rails, phases, clocks -/

/-- RAIL_SHORT (R386): an array rail withdraws its quarter; any other rail powers the module down. -/
def execRailShort (rail : Nat) (s : State) : Outcome :=
  done s (
    if s.power.phase = .on then
      let t := s.fset Fl.pwrStatRailFault 0 (withBit (s.fget Fl.pwrStatRailFault 0) rail)
      if 8 ≤ rail ∧ rail ≤ 11 then
        let t := t.powerEvent 0x05 .degraded rail 0
        if t.live then t.withdrawQuarter (rail - 8) 0x03 else t.clearQuarterBit (rail - 8)
      else (t.powerEvent 0x06 .fatal rail 0).powerDown
    else s.powerDown)

/-- REMOTE_SENSE_OPEN (R394): local sense, latched until reset. -/
def execRemoteSenseOpen (s : State) : Outcome :=
  done s (if s.powered then (s.fset Fl.pwrStatSenseLocal 0 1).powerEvent 0x07 .corrected 0 0 else s)

/-- PHASE_LOST (R390, R394): fewer than four phases power the module down. -/
def execPhaseLost (s : State) : Outcome :=
  done s (
    let n := s.power.phases - 1
    let t := s.setPower fun p => { p with phases := n }
    if s.power.phase = .on then
      let t := (t.fset Fl.pwrCapPhases 0 n).fset Fl.pwrStatPhaseLost 0 1
      if n < 4 then (t.powerEvent 0x08 .fatal 0 0).powerDown else t.powerEvent 0x08 .degraded 0 0
    else t)

/-- The ports of a list that are not DISABLED go to DOWN, with no cause of Table 10.11 (log entry 24, DESIGN CHOICE). -/
def State.portsDown (s : State) (ps : List Nat) : State :=
  ps.foldl (fun s p =>
    if s.fget Fl.portStatState p = 0 ∨ s.fget Fl.portStatState p = 7 then s else s.portDown p 0) s

/-- A number without a bit. -/
def withoutBit (v k : Nat) : Nat := if bitsOf v k k = 1 then v - 2 ^ k else v

/-- REFERENCE_LOST (R396, Table 16.5). -/
def execReferenceLost (is156 : Bool) (s : State) : Outcome :=
  done s (
    if s.powered then
      if is156 then
        let t := (s.fset Fl.clkStatRef156 0 0).powerEvent 0x0C .degraded 0 0
        if t.live then t.portsDown (List.range 12) else t
      else (s.fset Fl.clkStatRef100 0 0).powerEvent 0x09 .fatal 0 0
    else s)

/-- A base die out of service: the module fails (R11). -/
def State.baseDieLost (s : State) (q why : Nat) : State :=
  (s.fset Fl.glbQmaskBaseQ 0 (withoutBit (s.fget Fl.glbQmaskBaseQ 0) q)).logEvent
    { code := 0x02, cls := .fatal, quarter := q, loc := q, d4 := why }

/-- A control complex without its clock (Table 16.5): its harts are held in reset, and the principal role passes if it
was there. -/
def State.controlLost (s : State) (q : Nat) : State :=
  if s.fget Fl.glbQmaskPrincipal 0 = q then s.handover 0x03 else s.holdHarts q

/-- PLL_LOST (R396, Table 16.5). -/
def execPllLost (pll : Pll) (s : State) : Outcome :=
  done s (
    if s.powered then
      let clr := fun (f : Fld) (q : Nat) => s.fset f 0 (withoutBit (s.fget f 0) q)
      match pll with
      | .array => (s.fset Fl.clkStatArray 0 0).powerEvent 0x09 .fatal 0 0
      | .fabric q => ((clr Fl.clkStatFabric q).powerEvent 0x0A .fatal q q).baseDieLost q 0x01
      | .memory q => ((clr Fl.clkStatMemory q).powerEvent 0x0A .fatal q q).baseDieLost q 0x01
      | .control q =>
        let t := (clr Fl.clkStatControl q).powerEvent 0x0B .degraded q q
        if t.live then t.controlLost q else t.holdHarts q
      | .serdes q =>
        let t := (clr Fl.clkStatSerdes q).powerEvent 0x0D .degraded q q
        if t.live then t.portsDown [3 * q, 3 * q + 1, 3 * q + 2] else t
    else s)

/-! ### Temperatures -/

/-- Throttle threshold and trip of a source in 1/16 °C (Table 16.4). -/
def thermLimits (n : Nat) : Option (Int × Int) :=
  if n < 4 then some (95 * 16, 110 * 16)
  else if n < 12 then some (90 * 16, 100 * 16)
  else if n = 14 then some (110 * 16, 125 * 16)
  else none

/-- THERMAL_TRIP (R392): made by comparators, also when the module is halted. -/
def execThermalTrip (src : Nat) (temp : BitVec 16) (s : State) : Outcome :=
  done s (
    match thermLimits src with
    | some (_, trip) =>
      if s.power.phase = .on ∧ trip ≤ temp.toInt then
        ((s.setPower fun p => { p with thermTripN := false }).thermalEvent 0x04 .fatal src).powerDown
      else s
    | none => s)

/-- One reading entered in THERM_n, with the events that its crossing of a threshold raises. -/
def State.noteTemp (s : State) (n : Nat) (x : BitVec 16) : State :=
  let old := s.rd .therm n
  let valid := s.fon Fl.thermValid n
  let was : Int := signedOf 16 (bitsOf old.toNat 15 0)
  let peak := if valid then max (signedOf 16 (bitsOf old.toNat 31 16)) x.toInt else x.toInt
  let t := (s.fset Fl.thermValid n 1).fset Fl.thermTemp n x.toNat
  let t := t.fset Fl.thermMax n (modPow 16 peak)
  let crossed := fun (l : Int) => l ≤ x.toInt && !(valid && l ≤ was)
  let t := match thermLimits n with
    | some (l, _) => if crossed l then t.thermalEvent 0x01 .corrected n else t
    | none => t
  if n = 12 ∧ 45 * 16 < x.toInt ∧ ¬ (valid ∧ 45 * 16 < was) then t.thermalEvent 0x03 .corrected n else t

/-- THERMAL_CONTROL_TICK (R391): readings of sources 0 to 14, and THERM_N. The event of 63 names a source at its
threshold; which one is free (log entry 97, DESIGN CHOICE). -/
def execThermalControlTick (temps : List (BitVec 16)) (s : State) : Outcome :=
  act s fun s =>
    let rs := (temps.take 15).zipIdx
    let t := rs.foldl (fun t r => t.noteTemp r.2 r.1) s
    let hots := rs.filter fun r => match thermLimits r.2 with
      | some (l, _) => decide (l ≤ r.1.toInt)
      | none => false
    let cool := rs.all fun r => match thermLimits r.2 with
      | some (l, _) => decide (r.1.toInt ≤ l - 32)
      | none => true
    let n := t.fget Fl.arrThrottleThermN 0
    let m := if !hots.isEmpty then min 63 (n + 4) else if cool then n - 1 else n
    let t := t.fset Fl.arrThrottleThermN 0 m
    let t := if m = 63 ∧ n ≠ 63 then 
        t.freeNext.thermalEvent 0x02 .degraded ((hots.map Prod.snd).getD (t.free.toNat % hots.length) 0) else t
    t.effNext

/-! ### The reset pin -/

/-- RESET_N_ASSERT (R397, R398): the module is held in reset; no effect while PWR_GOOD is deasserted. -/
def execResetNAssert (s : State) : Outcome :=
  done s (
    let t := s.setPower fun p => { p with resetN := false }
    if s.power.phase = .on then t.moduleReset else t)

/-- RESET_N_DEASSERT (R398): MODULE_ID is sampled and the boot starts from its 40 ms line. -/
def execResetNDeassert (straps : BitVec 6) (s : State) : Outcome :=
  done s (
    if s.power.resetN then s
    else
      let t := s.setPower fun p => { p with resetN := true, straps := straps }
      if s.power.phase = .on then t.moduleReset else t)

end Sys2Proof.Machine
end

