-- ==== Sys2Proof/Machine/TileCare.lean ====
section
/-! DEFINITION. TileCare: suspect tiles, soft-assigned spares, retirement and the withdrawal of a quarter (R339 to
R343, R101, R102). -/

namespace Sys2Proof.Machine

/-- The fused repair of a site: (SPARE_ROW_FOR, SPARE_COL_FOR), 63 for none (R101). -/
def State.fusedRepair (s : State) (site : Nat) : Nat × Nat :=
  match s.fuses.repairs.find? fun r => r.1 == site with
  | some r => r.2
  | none => (63, 63)

/-- A value that a repair field accepts: a logical row or column, or 63 (R101). -/
def repairOk (v : Nat) : Bool := v < 32 || v == 63

/-- TILE_REPAIR of a site written (R101, R102): a fused field stands; a change waits for the mode boundary. -/
def State.setRepair (s : State) (site row col : Nat) : State :=
  let old := s.rd .tileRepair site
  let f := s.fusedRepair site
  let t := if f.1 = 63 && repairOk row then s.fset Fl.tileRepairSpareRowFor site row else s
  let t := if f.2 = 63 && repairOk col then t.fset Fl.tileRepairSpareColFor site col else t
  if t.rd .tileRepair site = old ∨ (s.ost.repairNow.any fun e => e.1 == site) then t
  else { t with ost := { t.ost with repairNow := minsert t.ost.repairNow site old.toNat } }

/-- Sites of a quarter that are RETIRED. -/
def State.retiredIn (s : State) (q : Nat) : Nat :=
  ((s.listed .tileState).filter fun i => siteQuarter i = q && s.siteState i = stRetired).length

/-- A site becomes RETIRED, for a cause of Table 14.19 (R342); 64 of them withdraw the quarter (R343). -/
def State.retireSite (s : State) (site why : Nat) (seq : Nat := noSeq) : State :=
  if s.siteState site = stRetired then s
  else
    let q := siteQuarter site
    let t := (s.fset Fl.tileStateState site stRetired).logEvent
      { code := 0x08, cls := .degraded, quarter := q, seq := seq, loc := site, d4 := why }
    let t := t.remap false
    if 64 ≤ t.retiredIn q then t.withdrawQuarter q 0x01 else t

/-- The location of a failed check (Table 4.5) as the quench unit names it. -/
inductive FaultAt where
  /-- cells of one group, by logical row and column -/
  | cells (l : List (Nat × Nat))
  /-- a gauge-column cell, by its logical rows; a gauge-row cell, by its logical columns -/
  | gaugeCol (rows : List Nat)
  | gaugeRow (cols : List Nat)
  | corner
  | whole
  deriving DecidableEq, Repr

/-- The spare that R341 assigns: (row, column), one of them. A C8 single cell takes the spare row where it is free. -/
def spareFor (at_ : FaultAt) (single : Bool) (rowFree : Bool) : Option (Option Nat × Option Nat) :=
  match at_ with
  | .cells l =>
    let rs := (l.map fun c => c.1).eraseDups
    let cs := (l.map fun c => c.2).eraseDups
    match rs, cs with
    | [r], [c] => if single then (if rowFree then some (some r, none) else some (none, some c)) else some (none, some c)
    | _, [c] => some (none, some c)
    | [r], _ => some (some r, none)
    | _, _ => none
  | .gaugeCol [r] => some (some r, none)
  | .gaugeRow [c] => some (none, some c)
  | _ => none

/-- The site becomes SUSPECT with a spare assigned, which is logged, and its logical tile moves (R340, R341). -/
def State.assignSpare (s : State) (site row col seq : Nat) : State :=
  let t := ((s.fset Fl.tileStateState site stSuspect).setRepair site row col).remap false
  { t with ost := { t.ost with repaired := union t.ost.repaired [site] } }.logEvent
    { code := 0x07, cls := .degraded, quarter := siteQuarter site, seq := seq, loc := site, d4 := col * 256 + row }

/-- A site whose block failed its checks: SUSPECT with a spare assigned, or RETIRED (R340 to R342). While its repair
still waits for the boundary, a failure that the repair covers changes nothing more. The events name the operation whose
block failed (log entry 98, DEDUCED). -/
def State.careSite (s : State) (site : Nat) (at_ : FaultAt) (single : Bool) (seq : Nat) : State :=
  let row := s.fget Fl.tileRepairSpareRowFor site
  let col := s.fget Fl.tileRepairSpareColFor site
  let waits := s.ost.repairNow.any fun e => e.1 == site
  if s.siteState site = stRetired then s
  else if s.ost.repaired.contains site && !waits then s.retireSite site 0x02 seq
  else
    match spareFor at_ single (row == 63) with
    | some (some r, _) =>
      if row = 63 then s.assignSpare site r col seq
      else if waits && row == r then s else s.retireSite site 0x01 seq
    | some (none, some c) =>
      if col = 63 then s.assignSpare site row c seq
      else if waits && col == c then s else s.retireSite site 0x01 seq
    | _ => s.retireSite site 0x01 seq

end Sys2Proof.Machine
end

