-- ==== Sys2Proof/Machine/RegWrite.lean ====
section
/-! DEFINITION. RegWrite: reads and writes of the control registers (R4 to R8, R403 to R408) and the effects that
single registers give a write. -/

namespace Sys2Proof.Machine

/-! ### Who may write what -/

/-- Boot lock (R358). -/
def State.bootLocked (s : State) : Bool := s.fon Fl.secBootStatLock 0

/-- A requester that can make an access at all: a hart that is not held in reset, in a module where firmware runs (Table
15.10), the ROM before boot lock, a peer with the register right (R296). -/
def State.present (s : State) (req : Requester) : Bool :=
  match req with
  | .hart h => h < 16 && !(s.hart h).held && s.fget Fl.glbLifeState 0 != 0xF
  | .rom => !s.bootLocked
  | .peer node _ => s.hasRight 0 .regs node

/-- A requester acts as the principal hart (R289, R405). -/
def State.isPrincipal (s : State) (req : Requester) : Bool :=
  s.present req && match req with
    | .hart h => h == s.principalHart
    | .rom => true
    | .peer _ _ => false

/-- A requester is named among the writers of a field (R405). -/
def State.mayWrite (s : State) (req : Requester) (w : Who) : Bool :=
  match w, req with
  | .nobody, _ => false
  | .rom, .rom => s.present req
  | .rom, _ => false
  | .principal, _ => s.isPrincipal req
  | .hart, .peer _ _ => false
  | .hart, _ => s.present req
  | .hartG, _ => s.present req

/-- Whether a field takes a value: "other writes are ignored" of the field tables. -/
def State.takes (s : State) (f : Fld) (i v : Nat) : Bool :=
  match f.reg, f.lo with
  | .glbNode, 18 => v < 2
  | .ostToOp, 0 => v != 0
  | .ostClassWt, 0 => v != 0
  | .ostCtl, 16 => v != 0
  | .roomSize, 0 => 4 ≤ v && v ≤ 16
  | .roomAttr, 32 => v != 0
  | .roomAttr, 62 => !s.fon Fl.roomAttrEnable i
  | .memCtl, 40 => 1 ≤ v && v ≤ 64
  | .memCtl, 32 => v != 0
  | .memScrub, 56 => v != 0
  | .memPpr, 56 => v != 0
  | .portCtl, 58 => v != 3
  | .portCtl, 57 => v == 0 || (List.range 12).all fun p => p == i || !s.fon Fl.portCtlTwin p
  | .portCtl, 48 => v != 3
  | .colThreshT, 62 => v < 2
  | .colThreshT, 60 => v < 2
  | .colChunk, 24 => 16 ≤ v && v ≤ 4096
  | .colChunk, 8 => 4 ≤ v && v ≤ 32
  | .colMode, 8 => v != 0
  | .grpCfg, 61 => v != 3
  | .toLimit, 0 => v != 0
  | .waymarkCtl, 28 => v != 0
  | .twnCtl, 32 => 1 ≤ v && v ≤ 20
  | .pwrCap, 48 => 1200 ≤ v && v ≤ 4000
  | .pwrCap, 40 => v != 0
  | .mgtCtl, 16 => 64 ≤ v && v ≤ 256
  | _, _ => true

/-- What one field holds after a write of its register by a requester (Table 0.4); the field counts as written in this array
cycle (R7). -/
def State.fieldWrite (req : Requester) (i : Nat) (v : Word64) (s : State) (f : Fld) : State :=
  let x := bitsOf v.toNat f.hi f.lo
  if !s.mayWrite req f.who then s
  else match f.acc with
    | .rw => if s.takes f i x then s.swset f i x else s
    | .rwl => if !s.bootLocked && s.takes f i x then s.swset f i x else s
    | .w1s => if x = 1 then s.swset f i 1 else s
    | _ => s

/-- The fields of a list stored. -/
def State.storeFields (s : State) (req : Requester) (i : Nat) (v : Word64) (fs : List Fld) : State :=
  fs.foldl (State.fieldWrite req i v) s

/-- A write that the module refuses, with the rule of Table 14.19. -/
def State.refused (s : State) (off rule : Nat) (v : Word64) : State :=
  s.logEvent { code := 0x14, cls := .program, loc := off, d4 := rule, d5 := v.toNat }

/-! ### Values that the hardware forms on a read -/

/-- OST_CUR (Table 12.4). -/
def State.ostCur (s : State) : Word64 :=
  BitVec.ofNat 64 (
    s.ost.trapped.toNat * 2 ^ 63 + s.ost.fence.isSome.toNat * 2 ^ 62 + s.ost.depart.isSome.toNat * 2 ^ 61 +
    s.boundary.toNat * 2 ^ 60 + s.stopped.toNat * 2 ^ 59 + min s.ops.length 255 * 2 ^ 51 +
    (s.ops.any (·.preempted)).toNat * 2 ^ 50 + s.fget Fl.ostCurLastRoom 0 * 2 ^ 36 + s.fget Fl.ostCurLastSeq 0)

/-- ALERT_N is asserted (R378). -/
def State.alerting (s : State) : Bool :=
  s.fon Fl.mgtCtlAlert 0 || s.halted || [4, 5, 6].contains (s.fget Fl.secBootStatStage 0)

/-- Microseconds since the oldest MIRROR transaction that lacks its acknowledgement. -/
def State.lagAge (s : State) : Nat :=
  match s.twin.unacked with
  | [] => 0
  | x :: _ => min ((s.now - x.2) / cyclesPerUs) 0xFFFFFFFF

/-- Dirty granules not yet acknowledged: those still to be sent, and those on their way. -/
def State.lagGranules (s : State) : Nat :=
  let sent := (s.twin.unacked.filter fun x => x.1.arg1 = 1).map fun x => x.1.addr / 65536
  (union s.twin.dirty sent.eraseDups).length

/-- The array cycles by which the snapshot of the bell lags a read by a requester: at most 8, and never so many that
the value falls below the one it read last (R18). -/
def State.bellSnapshot (s : State) (who : Nat) : Nat := max (s.now - s.free.toNat % 9) (mget 0 s.bellRead who)

/-- A register as a read shows it. -/
def State.regRead (s : State) (r : Reg) (i : Nat) : Word64 :=
  let w := s.rd r i
  let put := fun (f : Fld) (v : Nat) (w : Word64) => BitVec.ofNat 64 (setBits w.toNat f.hi f.lo v)
  match r with
  | .ostCur => s.ostCur
  | .routeCtl => put Fl.routeCtlPlanes ((s.planes.map fun p => 2 ^ p).sum) w
  | .tblState => put Fl.tblStateBound ((s.bankBound false 0).toNat + 2 * (s.bankBound false 1).toNat)
      (put Fl.tblStateProd ((s.bankProd false 0).toNat + 2 * (s.bankProd false 1).toNat) w)
  | .twnLag => put Fl.twnLagGranules s.lagGranules (put Fl.twnLagAgeUs s.lagAge w)
  | .mgtI3c => put Fl.mgtI3cAlertN s.alerting.toNat w
  | _ => w

/-- Requesters of a bell read, by number (R408): harts, ports, the sideband, the debug unit. -/
def bellReader (req : Requester) : Nat :=
  match req with
  | .hart h => h
  | .rom => 0
  | .peer _ p => 16 + p

/-- A register read by a requester of R408: the word, and the state, which only a bell read moves on. -/
def State.readReg (s : State) (off : Nat) (who : Nat) : State × Option Word64 :=
  match regAt off with
  | none => (s, none)
  | some (.glbBell, _) =>
    let v := s.bellSnapshot who
    ({ s.freeNext with bellRead := mput 0 s.bellRead who v }, some (BitVec.ofNat 64 v))
  | some (r, i) => (s, some (s.regRead r i))

/-! ### Rooms -/

/-- An extent wholly below HBM_TOP or in the populated part of one commons window (R292, R316, R329). -/
def State.placed (s : State) (a n : Nat) : Bool := s.populated a n

/-- ROOM_BELL_n (R293): the new tail is taken when it fits the ring of a FIRMWARE room; the descriptors that enter are
logged (Table 13.4). -/
def State.doorbell (s : State) (req : Requester) (n : Nat) (v : Word64) : State :=
  if !s.mayWrite req .hartG then s
  else
    let head := s.fget Fl.roomHeadHead n
    let tail := s.fget Fl.roomTailTail n
    let new := bitsOf v.toNat 16 0
    let add := (new + 2 ^ 17 - tail) % 2 ^ 17
    let c := (tail + 2 ^ 17 - head) % 2 ^ 17
    let src := match req with
      | .peer node _ => node
      | _ => s.node
    if s.fon Fl.roomAttrSrc n ∨ s.ringSlots n - c < add then s.refused (Reg.off .roomBell n) 0x02 v
    else
      let p := s.isPartnerRoom n
      let t := (List.range add).foldl (fun t k =>
        let a := t.ringBase n + 256 * ((tail + k) % t.ringSlots n)
        t.logEnqueue n src ((List.range 256).map fun j => t.ctxByte p (a + j))) s
      t.fset Fl.roomTailTail n new

/-- ROOM_BASE_n or ROOM_SIZE_n (R292, R301): taken while ENABLE is 0; HEAD, TAIL, the deficit and the room's counts start
at 0. -/
def State.roomConfig (s : State) (req : Requester) (n : Nat) (size : Bool) (v : Word64) : State :=
  let f := if size then Fl.roomSizeLog2 else Fl.roomBaseBase
  let x := bitsOf v.toNat f.hi f.lo
  if !s.mayWrite req .hart || s.fon Fl.roomAttrEnable n || !s.takes f n x then s
  else
    let t := ((s.fset f n x).fset Fl.roomHeadHead n 0).fset Fl.roomTailTail n 0
    let t := t.fset Fl.roomAttrDeficit n 0
    let p := s.isPartnerRoom n
    let k := if p then n - 2048 else n
    let t := t.setLog p fun l => { l with
      headNo := merase l.headNo k, enqNo := merase l.enqNo k, enq := l.enq.filter fun e => e.1 ≠ k }
    ({ t with ost := { t.ost with strictSince := merase t.ost.strictSince n } } : State).dropDeficits (t.roomDom n) n

/-- Why ENABLE of room `n` may not be set, as the rule code of Table 14.19: the ring's place (R292), the partner's rooms
(R345), a PEER room of a spare (R353). -/
def State.enableRefusal (s : State) (n : Nat) (peer : Bool) : Option Nat :=
  if !s.placed (s.ringBase n) (256 * s.ringSlots n) then some 0x01
  else if s.fon Fl.twnCtlEnable 0 && decide (2048 ≤ n) then some 0x07
  else if s.fget Fl.glbNodeRole 0 = 1 && peer then some 0x08
  else none

/-- ROOM_ATTR_n (R292, Table 12.7). A class that loses its last descriptor with the room is empty (R300). -/
def State.roomAttr (s : State) (req : Requester) (n : Nat) (v : Word64) : State :=
  if !s.mayWrite req .hart then s
  else
    let t := s.storeFields req n v ((Reg.fields .roomAttr).filter fun f => f.lo ≠ 63)
    let t := t.dropClass (s.roomDom n) (s.roomClass n)
    if bitsOf v.toNat 63 63 = 0 then t.swset Fl.roomAttrEnable n 0
    else match t.enableRefusal n (t.fon Fl.roomAttrSrc n) with
      | some rule => t.refused (Reg.off .roomAttr n) rule v
      | none => t.swset Fl.roomAttrEnable n 1

/-! ### OST, ERR, RAS, DET -/

/-- OST_CTL.TRAP_CLR (R167): the principal hart releases the trap. -/
def State.trapClear (s : State) (req : Requester) : State :=
  if s.isPrincipal req then { s with ost := { s.ost with trapped := false } } else s

/-- OST_CTL.ACL_LOAD (R295, R296): all 16 lists, from a table that lies in the populated part of one commons window. -/
def State.aclLoad (s : State) (req : Requester) : State :=
  let a := s.fget Fl.ostCtlAcl64k 0 * 65536
  if s.mayWrite req .hart && inCommons a 32768 then
    { s with acl := (List.range 4096).filterMap fun k =>
        let w := BitVec.ofNat 64 (s.peekNat (a + 8 * k) 8)
        if w.getLsbD 63 then some (k / 256, w) else none }
  else s

/-- OST_CTL (Table 12.3). -/
def State.ostCtlWrite (s : State) (req : Requester) (v : Word64) : State :=
  let t := s.storeFields req 0 v (Reg.fields .ostCtl)
  let t := if v.getLsbD 62 then t.trapClear req else t
  if v.getLsbD 61 then t.aclLoad req else t

/-- TBL_GEN.LOOSE_SWAP (R200): refused under DET_STRICT. -/
def State.looseSwap (s : State) (req : Requester) : State :=
  if !s.mayWrite req .hart then s
  else if s.fon Fl.detStrictStrict 0 then (s.fset Fl.tblGenLooseSwap 0 0).refused (Reg.off .tblGen 0) 0x03 2
  else s.swset Fl.tblGenLooseSwap 0 1

/-- ERR_LOG_BASE (R329): an address that is not 64-byte aligned is ignored like one whose ring does not fit (log
entry 31, DEDUCED). -/
def State.errLogBase (s : State) (req : Requester) (v : Word64) : State :=
  let a := bitsOf v.toNat 39 0
  let n := 64 * 2 ^ (10 + bitsOf v.toNat 58 56)
  if s.mayWrite req .hart && (a == 0 || (a % 64 == 0 && s.placed a n)) then
    s.storeFields req 0 v (Reg.fields .errLogBase)
  else s

/-- The event register of an acknowledge register (Table 17.7): its COUNT and PEND. -/
def evtOf (r : Reg) : Option (Fld × Fld × Fld) :=
  match r with
  | .arrGaugeAck => some (Fl.arrGaugeAckCount, Fl.arrGaugeEvtCount, Fl.arrGaugeEvtPend)
  | .memCeAck => some (Fl.memCeAckCount, Fl.memCeEvtCount, Fl.memCeEvtPend)
  | .memUeAck => some (Fl.memUeAckCount, Fl.memUeEvtCount, Fl.memUeEvtPend)
  | .portRetryAck => some (Fl.portRetryAckCount, Fl.portRetryEvtCount, Fl.portRetryEvtPend)
  | .colFaultAck => some (Fl.colFaultAckCount, Fl.colFaultEvtCount, Fl.colFaultEvtPend)
  | .errAck => some (Fl.errAckCount, Fl.errEvtCount, Fl.errEvtPend)
  | _ => none

/-- An *_ACK write (R326): the count is stored, and PEND clears only if it equals COUNT. -/
def State.eventAck (s : State) (req : Requester) (r : Reg) (i : Nat) (v : Word64) : State :=
  match evtOf r with
  | some (ack, count, pend) =>
    let c := bitsOf v.toNat 63 32
    if s.isPrincipal req then
      let t := s.fset ack i c
      if c = t.fget count i then t.fset pend i 0 else t
    else s
  | none => s

/-- RAS_KICK.HART (R333): only the hart's own bit. -/
def State.hartKick (s : State) (h : Nat) (bits : Nat) : State :=
  if s.present (.hart h) && bitsOf bits h h = 1 then s.setHart h { s.hart h with kick := s.now } else s

/-- RAS_KICK.MODULE (R334). -/
def State.kickModule (s : State) (req : Requester) : State :=
  if s.isPrincipal req then { s with moduleKick := s.now } else s

/-- RAS_KICK (Table 14.9). -/
def State.rasKick (s : State) (req : Requester) (v : Word64) : State :=
  let t := match req with
    | .hart h => s.hartKick h (bitsOf v.toNat 15 0)
    | .rom => s.hartKick 0 (bitsOf v.toNat 15 0)
    | .peer _ _ => s
  if v.getLsbD 16 then t.kickModule req else t

/-- The module is stopped and idle (R312). -/
def State.idle (s : State) : Bool := s.stopped && s.ops.isEmpty

/-- DET_STEP, DET_SEED_n and DET_STRICT (R312). -/
def State.detWrite (s : State) (req : Requester) (r : Reg) (i : Nat) (v : Word64) : State :=
  if !s.mayWrite req .hart then s
  else if s.idle then (s.storeFields req i v r.fields).tellConfig r i
  else s.refused (r.off i) 0x04 v

/-- The header of a log that LOG_EN starts at position 0 (R316). -/
def State.logStart (s : State) : State :=
  let t := { s with log := { headNo := s.log.headNo, enqNo := s.log.enqNo } }
  t.memWrite t.logRange.1 (wordsBytes [0, 0, 0, 0, 0, 0, 0, 0])

/-- WAYMARK_CTL (R312, R316): LOG_EN needs a valid log area. DESIGN CHOICE: log entry 132, an area that moves. -/
def State.waymarkCtl (s : State) (req : Requester) (v : Word64) : State :=
  if !s.mayWrite req .hart then s
  else if !s.idle then s.refused (Reg.off .waymarkCtl 0) 0x04 v
  else
    let old := s.rd .waymarkCtl 0
    let t := s.storeFields req 0 v ((Reg.fields .waymarkCtl).filter fun f => f.lo ≠ 63)
    let r := t.logRange
    let ok := t.placed r.1 (r.2 - r.1)
    let moved := t.fget Fl.waymarkCtlLogBase 0 ≠ bitsOf old.toNat 55 36 ∨ t.fget Fl.waymarkCtlLogMib 0 ≠ bitsOf old.toNat 35 28
    let t :=
      if !v.getLsbD 63 then t.swset Fl.waymarkCtlLogEn 0 0
      else if !ok then (t.fset Fl.waymarkCtlLogEn 0 0).refused (Reg.off .waymarkCtl 0) 0x05 v
      else if !old.getLsbD 63 || moved then (t.swset Fl.waymarkCtlLogEn 0 1).logStart
      else t
    t.tellConfig .waymarkCtl 0

/-! ### Group contexts -/

/-- The member list that GRP_CFG_n names, where it is valid (R212). -/
def State.groupList (s : State) (n : Nat) : Option (List Nat) :=
  let a := s.fget Fl.grpCfgListAddr n
  let c := s.fget Fl.grpCfgCount n
  if 1 ≤ c ∧ c ≤ 262144 ∧ a % 8 = 0 ∧ inCommons a (4 * c) then
    let ms := s.readMembers false a c
    if ms.Nodup ∧ s.node ∈ ms then some ms else none
  else none

/-- GRP_CFG_n (R213, R345): with VALID the list is read and checked in the same step. -/
def State.grpCfg (s : State) (req : Requester) (n : Nat) (v : Word64) : State :=
  let st := s.fget Fl.grpStatState n
  if !s.mayWrite req .hart || st == 1 || st == 2 then s
  else
    let t := s.storeFields req n v ((Reg.fields .grpCfg).filter fun f => f.lo ≠ 63)
    let t := { t.fset Fl.grpCfgValid n 0 with ctxs := merase t.ctxs n }
    let t :=
      if !v.getLsbD 63 then t
      else if s.fon Fl.twnCtlEnable 0 && decide (512 ≤ n) then t.refused (Reg.off .grpCfg n) 0x07 v
      else match t.groupList n with
        | none => t.collEvent n 0x0C .program 0 0
        | some ms =>
          let u := (t.fset Fl.grpCfgValid n 1).fset Fl.grpStatSelf n (ms.idxOf t.node)
          let u := (u.fset Fl.grpStatFlat n (!regular ms).toNat).fset Fl.grpStatEpoch n 0
          let u := (u.fset Fl.grpStatSeq n 0).fset Fl.grpStatState n 0
          { u with ctxs := mput {} u.ctxs n { members := ms } }
    t.tellConfig .grpCfg n

/-- GRP_AUX_n (R213). -/
def State.grpAux (s : State) (req : Requester) (n : Nat) (v : Word64) : State :=
  let st := s.fget Fl.grpStatState n
  if st = 1 ∨ st = 2 then s else (s.storeFields req n v (Reg.fields .grpAux)).tellConfig .grpAux n

/-! ### Ports, power, twin, lifecycle -/

/-- A port enters DISABLED, or leaves it for DETECT, by ENABLE and ROLE (Table 10.2). An EXCLUDED module with a TWIN port
keeps every other port DISABLED (R352). -/
def State.portFollow (s : State) (p : Nat) : State :=
  let shut := s.twinSelf = twExcluded ∧ (List.range 12).any (s.fon Fl.portCtlTwin) ∧ !s.fon Fl.portCtlTwin p
  let want := s.fon Fl.portCtlEnable p && s.portRole p != 0 && !shut
  let st := s.fget Fl.portStatState p
  if !want && st != 0 then
    let t := (s.fset Fl.portStatState p 0).fset Fl.portStatWidth p 3
    let t := t.fset Fl.portLanesActive p 0
    t.setPort p { t.port p with retrain := 0, alignFails := 0 }
  else if want && st == 0 then s.fset Fl.portStatState p 1
  else s

/-- PORT_CTL_p.ENABLE written by a hart or the ROM (R240). -/
def State.portEnable (s : State) (req : Requester) (p : Nat) (enable : Bool) : State :=
  if s.mayWrite req .hart then ((s.fset Fl.portCtlEnable p enable.toNat).portFollow p).retryWaiting else s

/-- An ACTIVE port starts a retrain, from EQUALISE on (R251, R252, Table 10.2). -/
def State.retrainEnter (s : State) (p : Nat) : State :=
  let t := (s.fset Fl.portStatState p 6).fincSat Fl.portStatRetrains p
  t.setPort p { t.port p with retrain := 2, alignFails := 0, stalls := 0, retrainAt := s.now }

/-- PORT_CTL_p.RETRAIN (R240): an ACTIVE port retrains, and a DOWN port leaves for DETECT. -/
def State.portRetrain (s : State) (req : Requester) (p : Nat) : State :=
  if !s.mayWrite req .hart then s
  else match s.fget Fl.portStatState p with
    | 5 => s.retrainEnter p
    | 7 => s.fset Fl.portStatState p 1
    | _ => s

/-- PORT_CTL_p (Table 10.10). -/
def State.portCtl (s : State) (req : Requester) (p : Nat) (v : Word64) : State :=
  let t := s.storeFields req p v ((Reg.fields .portCtl).filter fun f => f.lo ≠ 0)
  let t := t.portEnable req p (v.getLsbD 0)
  if v.getLsbD 1 then t.portRetrain req p else t

/-- PWR_CAP (R390, Table 16.10). -/
def State.pwrCap (s : State) (req : Requester) (v : Word64) : State := s.storeFields req 0 v (Reg.fields .pwrCap)

/-- ARR_THROTTLE.FW_N (R388). -/
def State.arrThrottle (s : State) (req : Requester) (v : Word64) : State :=
  (s.storeFields req 0 v (Reg.fields .arrThrottle)).effNext

/-- TWN_ADOPT (R353): the principal hart of a survivor in SERVING_BOTH sends ADOPT to the spare it names; in any other
state GO does not stay set and the adoption is refused (log entry 30, DESIGN CHOICE). -/
def State.twnAdopt (s : State) (req : Requester) (v : Word64) : State :=
  if !s.isPrincipal req then s
  else
    let go := s.fon Fl.twnAdoptGo 0 && (s.reqs.any (fun q => q.who == .adopt) || s.waitTxns.any fun w => w.2.2 == some .adopt)
    let t := s.storeFields req 0 v (Reg.fields .twnAdopt)
    if !v.getLsbD 63 || go then t
    else if s.twinSelf = twServingBoth then
      ({ t with twin := { t.twin with adoptAt := t.now } } : State).sendMirror (t.fget Fl.twnAdoptNode 0) 0x05 0 (t.node * 2 ^ 18 + t.fget Fl.twnPartnerNode 0) [] .adopt
    else (t.fset Fl.twnAdoptGo 0 0).logEvent
      { code := 0x14, cls := .program, loc := t.fget Fl.twnAdoptNode 0, d4 := 0x08 }

/-- SEC_LIFE_REQ.GO (R372). -/
def State.lifeGo (s : State) (req : Requester) : State := if s.isPrincipal req then s.moduleReset else s

/-! ### Array registers -/

/-- ARR_MODE (R24): what LOCK and TEST read after the write, by what they and ARRAY_Q read before. No TEST bit is set in the
lifecycle state RETIRED (Table 15.10). -/
def State.modeTakes (s : State) (v : Word64) : Nat × Nat :=
  let lock := bitsOf v.toNat 0 0
  let test := bitsOf v.toNat 7 4
  let was := s.fget Fl.arrModeTest 0
  let q := s.fget Fl.glbQmaskArrayQ 0
  if lock = 1 ∧ test ≠ 0 then (s.fget Fl.arrModeLock 0, was)
  else (lock, ((List.range 4).map fun k =>
    if bitsOf test k k = 1 ∧ ¬ (bitsOf was k k = 0 ∧ (bitsOf q k k = 1 ∨ s.fget Fl.glbLifeState 0 = 0xF)) then 2 ^ k
    else 0).sum)

/-- A value in force kept while a changed register waits for the mode boundary (R23). -/
def keepOld (held : Option Nat) (old new : Nat) : Option Nat :=
  match held with
  | some x => some x
  | none => if old = new then none else some old

/-- ARR_MODE written (R23, R24). -/
def State.arrMode (s : State) (req : Requester) (v : Word64) : State :=
  if !s.isPrincipal req then s
  else
    let (lock, test) := s.modeTakes v
    let bl := keepOld s.ost.bLock (s.fget Fl.arrModeLock 0) lock
    let bt := keepOld s.ost.bTest (s.fget Fl.arrModeTest 0) test
    let t := (s.fset Fl.arrModeLock 0 lock).fset Fl.arrModeTest 0 test
    { t with ost := { t.ost with bLock := bl, bTest := bt } }

/-- GLB_QMASK.ARRAY_Q written (R23, R24): a bit set while that quarter's TEST reads set is ignored. -/
def State.glbQmask (s : State) (req : Requester) (v : Word64) : State :=
  if !s.isPrincipal req then s
  else
    let was := s.fget Fl.glbQmaskArrayQ 0
    let test := s.fget Fl.arrModeTest 0
    let new := ((List.range 4).map fun k =>
      if bitsOf v.toNat k k = 1 ∧ ¬ (bitsOf was k k = 0 ∧ bitsOf test k k = 1) then 2 ^ k else 0).sum
    let bq := keepOld s.ost.bArrayQ was new
    let t := s.fset Fl.glbQmaskArrayQ 0 new
    { t with ost := { t.ost with bArrayQ := bq } }

/-- TILE_REPAIR_i written (R101, R102). -/
def State.tileRepair (s : State) (req : Requester) (i : Nat) (v : Word64) : State :=
  if s.isPrincipal req then s.setRepair i (bitsOf v.toNat 5 0) (bitsOf v.toNat 13 8) else s

/-- TILE_STATE_i written (Table 14.10): ACTIVE over SUSPECT, or RETIRED over any state. -/
def State.tileState (s : State) (req : Requester) (i : Nat) (v : Word64) : State :=
  let x := bitsOf v.toNat 1 0
  if !s.isPrincipal req then s
  else if x = stRetired then s.retireSite i 0x03
  else if x = stActive ∧ s.siteState i = stSuspect then s.fset Fl.tileStateState i stActive
  else s

/-- ARR_PROVE (R118): START begins a run on a quarter under TEST when none is in progress; any other START, another hart's as
well, is refused. The quarter of a run is the one that QUARTER names as it starts. -/
def State.arrProve (s : State) (req : Requester) (v : Word64) : State :=
  if !s.isPrincipal req then
    if v.getLsbD 63 ∧ s.mayWrite req .hart then s.refused (Reg.off .arrProve 0) 0x06 v else s
  else
    let t := s.storeFields req 0 v (Reg.fields .arrProve)
    let q := bitsOf v.toNat 61 60
    if !v.getLsbD 63 then t
    else if bitsOf s.testQ q q = 1 ∧ s.ost.proving.isNone then
      { t.fset Fl.arrProveBusy 0 1 with ost := { t.ost with proving := some q } }
    else t.refused (Reg.off .arrProve 0) 0x06 v

/-! ### One write -/

/-- A write that reached a register, by the rule of that register. -/
def State.regStore (s : State) (req : Requester) (r : Reg) (i : Nat) (v : Word64) : State :=
  match r with
  | .glbQmask => s.glbQmask req v
  | .ostCtl => s.ostCtlWrite req v
  | .roomBase => s.roomConfig req i false v
  | .roomSize => s.roomConfig req i true v
  | .roomAttr => s.roomAttr req i v
  | .roomBell => s.doorbell req i v
  | .arrMode => s.arrMode req v
  | .arrThrottle => s.arrThrottle req v
  | .arrProve => s.arrProve req v
  | .tileState => s.tileState req i v
  | .tileRepair => s.tileRepair req i v
  | .tblGen => if v.getLsbD 1 then s.looseSwap req else s
  | .portCtl => s.portCtl req i v
  | .grpCfg => s.grpCfg req i v
  | .grpAux => s.grpAux req i v
  | .errLogBase => s.errLogBase req v
  | .rasKick => s.rasKick req v
  | .detStep => s.detWrite req .detStep i v
  | .detStrict => s.detWrite req .detStrict i v
  | .detSeed => s.detWrite req .detSeed i v
  | .waymarkCtl => s.waymarkCtl req v
  | .twnAdopt => s.twnAdopt req v
  | .pwrCap => s.pwrCap req v
  | .secLifeReq => if v.getLsbD 8 then s.lifeGo req else s
  | .arrGaugeAck => s.eventAck req .arrGaugeAck i v
  | .memCeAck => s.eventAck req .memCeAck i v
  | .memUeAck => s.eventAck req .memUeAck i v
  | .portRetryAck => s.eventAck req .portRetryAck i v
  | .colFaultAck => s.eventAck req .colFaultAck i v
  | .errAck => s.eventAck req .errAck i v
  | _ => s.storeFields req i v r.fields

/-- Registers that a peer may write (R405). -/
def peerWrites (r : Reg) : Bool := r == .roomBell || r == .routeAlias

/-- A write of the register range by a requester, and the status of Table 10.8 it is answered with (R4, R296, R404, R405):
a peer's right is checked first; an access of another width, off an aligned word or at a hole changes nothing, and the width
is checked before the hole (log entry 112, DESIGN CHOICE). Accesses of one array cycle come in the order of the queue (R406;
log entry 135, DESIGN CHOICE). -/
def State.regWrite (s : State) (req : Requester) (off width : Nat) (v : Word64) : State × Nat :=
  if (match req with
      | .peer node _ => !s.hasRight 0 .regs node
      | _ => false) then (s, rsDenied)
  else if width ≠ 8 ∨ off % 8 ≠ 0 then (s, rsSize)
  else match regAt off with
    | none => (s, rsHole)
    | some (r, i) => match req with
      | .peer _ _ => if peerWrites r then (s.regStore req r i v, rsOk) else (s, rsDenied)
      | _ => if s.present req then (s.regStore req r i v, rsOk) else (s, rsOk)

/-! ### The commands -/

/-- ROOM_DOORBELL. -/
def execRoomDoorbell (req : Requester) (room : Nat) (v : Word64) (s : State) : Outcome :=
  act s fun s => s.doorbell req room v

/-- ROOM_CONFIG_WRITE. -/
def execRoomConfigWrite (req : Requester) (room : Nat) (size : Bool) (v : Word64) (s : State) : Outcome :=
  act s fun s => s.roomConfig req room size v

/-- ROOM_ENABLE_WRITE. -/
def execRoomEnableWrite (req : Requester) (room : Nat) (v : Word64) (s : State) : Outcome :=
  act s fun s => s.roomAttr req room v

/-- TRAP_CLR. -/
def execTrapClr (req : Requester) (s : State) : Outcome := act s fun s => s.trapClear req

/-- ACL_LOAD. -/
def execAclLoad (req : Requester) (s : State) : Outcome := act s fun s => s.aclLoad req

/-- LOOSE_SWAP. -/
def execLooseSwap (req : Requester) (s : State) : Outcome := act s fun s => s.looseSwap req

/-- ERR_LOG_BASE_WRITE. -/
def execErrLogBaseWrite (req : Requester) (v : Word64) (s : State) : Outcome := act s fun s => s.errLogBase req v

/-- EVENT_ACK, at the offset of an *_ACK register. -/
def execEventAck (req : Requester) (off : Nat) (v : Word64) (s : State) : Outcome :=
  act s fun s => match regAt off with
    | some (r, i) => s.eventAck req r i v
    | none => s

/-- HART_KICK. -/
def execHartKick (h : Nat) (bits : BitVec 16) (s : State) : Outcome := act s fun s => s.hartKick h bits.toNat

/-- MODULE_KICK. -/
def execModuleKick (req : Requester) (s : State) : Outcome := act s fun s => s.kickModule req

/-- DET_WRITE, at the offset of DET_STEP, DET_SEED_n or DET_STRICT. -/
def execDetWrite (req : Requester) (off : Nat) (v : Word64) (s : State) : Outcome :=
  act s fun s => match regAt off with
    | some (.detStep, i) => s.detWrite req .detStep i v
    | some (.detSeed, i) => s.detWrite req .detSeed i v
    | some (.detStrict, i) => s.detWrite req .detStrict i v
    | _ => s

/-- WAYMARK_CTL_WRITE. -/
def execWaymarkCtlWrite (req : Requester) (v : Word64) (s : State) : Outcome := act s fun s => s.waymarkCtl req v

/-- GRP_CFG_WRITE. -/
def execGrpCfgWrite (req : Requester) (ctx : Nat) (v : Word64) (s : State) : Outcome := act s fun s => s.grpCfg req ctx v

/-- PORT_ENABLE_WRITE. -/
def execPortEnableWrite (req : Requester) (p : Nat) (enable : Bool) (s : State) : Outcome :=
  act s fun s => s.portEnable req p enable

/-- PORT_RETRAIN. -/
def execPortRetrain (req : Requester) (p : Nat) (s : State) : Outcome := act s fun s => s.portRetrain req p

/-- PWR_CAP_WRITE. -/
def execPwrCapWrite (req : Requester) (v : Word64) (s : State) : Outcome := act s fun s => s.pwrCap req v

/-- TWN_ADOPT. -/
def execTwnAdopt (req : Requester) (v : Word64) (s : State) : Outcome := act s fun s => s.twnAdopt req v

/-- LIFE_REQ_GO. -/
def execLifeReqGo (req : Requester) (s : State) : Outcome := act s fun s => s.lifeGo req

/-- REGISTER_WRITE. A hart whose write is not performed receives an access fault (R4). -/
def execRegisterWrite (req : Requester) (off width : Nat) (v : Word64) (s : State) : Outcome :=
  act s fun s =>
    let r := s.regWrite req off width v
    match req with
    | .hart h => if r.2 ≠ rsOk ∧ s.present req then r.1.hartFault h exStoreAccess (regBase + off) else r.1
    | _ => r.1

/-- ARR_MODE_WRITE. -/
def execArrModeWrite (req : Requester) (v : Word64) (s : State) : Outcome := act s fun s => s.arrMode req v

/-- GLB_QMASK_WRITE. -/
def execGlbQmaskWrite (req : Requester) (v : Word64) (s : State) : Outcome := act s fun s => s.glbQmask req v

/-- TILE_REPAIR_WRITE. -/
def execTileRepairWrite (req : Requester) (site : Nat) (v : Word64) (s : State) : Outcome :=
  act s fun s => s.tileRepair req site v

/-- TILE_STATE_WRITE. -/
def execTileStateWrite (req : Requester) (site : Nat) (v : Word64) (s : State) : Outcome :=
  act s fun s => s.tileState req site v

/-- ARR_THROTTLE_WRITE. -/
def execArrThrottleWrite (req : Requester) (v : Word64) (s : State) : Outcome := act s fun s => s.arrThrottle req v

/-- ARR_PROVE_START. -/
def execArrProveStart (req : Requester) (v : Word64) (s : State) : Outcome := act s fun s => s.arrProve req v

end Sys2Proof.Machine
end

