-- ==== Sys2Proof/Machine/Boot.lean ====
section
/-! DEFINITION. Boot: the boot sequence from the end of the wipes to boot lock (R286, R355 to R374, R25, R195). -/

namespace Sys2Proof.Machine

/-! ### Flash and its headers -/

/-- A byte of the flash; erased bytes read 0xFF. -/
def State.flashByte (s : State) (a : Nat) : Byte := mget 0xFF s.flash a

/-- `n` bytes of the flash. -/
def State.flashPeek (s : State) (a n : Nat) : List Byte := (List.range n).map fun i => s.flashByte (a + i)

/-- A little-endian number in the flash. -/
def State.flashNat (s : State) (a n : Nat) : Nat := leNat (s.flashPeek a n)

/-- Bytes put into the flash. -/
def State.flashPut (s : State) (a : Nat) (bs : List Byte) : State :=
  { s with flash := bs.zipIdx.foldl (fun m e => mput 0xFF m (a + e.2) e.1) s.flash }

/-- A boot header (Table 15.4). -/
structure BootHeader where
  copy : Nat
  gen : Nat
  pref : Nat
  trial : Nat
  tries : Nat
  commit : Nat
  cfg : Nat
  cfgNext : Nat
  deriving DecidableEq, Repr

/-- MAGIC of a boot header. -/
def hdrMagic : Nat := 0x4842594C

/-- The header in copy `c`, where it is valid (R360). -/
def State.headerCopy (s : State) (c : Nat) : Option BootHeader :=
  let a := 0x10000 * c
  let b (i : Nat) := (s.flashByte (a + i)).toNat
  if s.flashNat a 4 = hdrMagic ∧ s.flashNat (a + 28) 4 = crc32 (s.flashPeek a 28) then
    some ⟨c, s.flashNat (a + 4) 4, b 8, b 9, b 10, b 11, b 12, b 13⟩
  else none

/-- The header in use: the valid copy with the higher GEN, copy 0 on equal GEN (R360). -/
def State.headerInUse (s : State) : Option BootHeader :=
  match s.headerCopy 0, s.headerCopy 1 with
  | some a, some b => some (if a.gen < b.gen then b else a)
  | some a, none => some a
  | none, b => b

/-- What the ROM acts on without a valid copy (R360); a header write then goes to copy 0 with GEN 1 (log entry 25, DESIGN CHOICE). -/
def noHeader : BootHeader := ⟨1, 0, 0, 0, 0, 0, 0, 0xFF⟩

/-- The header that the ROM acts on. -/
def State.header (s : State) : BootHeader := s.headerInUse.getD noHeader

/-- The bytes of a header, its CRC included (Table 15.4). -/
def BootHeader.bytes (h : BootHeader) : List Byte :=
  let b := leBytes 4 hdrMagic ++ leBytes 4 h.gen ++
    ([h.pref, h.trial, h.tries, h.commit, h.cfg, h.cfgNext].map (BitVec.ofNat 8)) ++ List.replicate 14 0
  b ++ leBytes 4 (crc32 b)

/-- A header write (R360): into the copy not in use, with GEN one up. -/
def State.writeHeader (s : State) (f : BootHeader → BootHeader) : State :=
  let h := s.header
  s.flashPut (0x10000 * (1 - h.copy)) ({ f h with gen := (h.gen + 1) % 2 ^ 32 }).bytes

/-! ### Outcomes of the boot -/

/-- Values of SEC_BOOT_STAT.STAGE. -/
def sgRom : Nat := 1
def sgInit : Nat := 2
def sgFirmware : Nat := 3
def sgRecovery : Nat := 4
def sgStandalone : Nat := 5
def sgFailed : Nat := 6

/-- The stage of the boot. -/
def State.stage (s : State) : Nat := s.fget Fl.secBootStatStage 0

/-- ERR set; the boot goes on (Table 15.9). -/
def State.bootErr (s : State) (e : Nat) : State := s.fset Fl.secBootStatErr 0 e

/-- The boot ends in a stage with an error (Table 15.9). -/
def State.bootEnds (s : State) (stage err : Nat) : State := (s.bootErr err).fset Fl.secBootStatStage 0 stage

/-! ### The wipes and the ROM's start -/

/-- The ROM reads the boot headers and chooses the slots (R360, R361). A module whose lifecycle is RETIRED boots no
further. -/
def State.romStart (s : State) : State :=
  if s.fuses.life = 0xF then s.bootEnds sgFailed 0x09
  else
    let t := if s.headerInUse.isNone then s.bootErr 0x01 else s
    let h := t.header
    let t :=
      if h.trial = 1 then
        if h.tries = 0 then t.writeHeader fun h => { h with trial := 0, pref := 1 - h.pref % 2 }
        else t.writeHeader fun h => { h with tries := h.tries - 1 }
      else t
    let p := t.header.pref % 2
    { t with boot := { t.boot with started := true, slots := [p, 1 - p] } }

/-- The wipe bit of a memory (Table 11.7). -/
def wipeFld : WipeMem → Fld
  | .hbm => Fl.memWipeHbm
  | .panel => Fl.memWipePanel
  | .commons => Fl.memWipeCommons
  | .table => Fl.memWipeTable

/-- Zero in every location of a memory (R286). -/
def State.wiped (s : State) (m : WipeMem) : State :=
  match m with
  | .hbm => { s with mem := s.mem.filter fun c => 0xC000000000 ≤ c.1, hbm := { s.hbm with ueLines := [] } }
  | .panel => { s with panel := [], ost := { s.ost with proofed := [] } }
  | .commons => { s with mem := s.mem.filter fun c => c.1 < 0xC000000000 }
  | .table => { s with tables := { s.tables with bank0 := [], bank1 := [] } }

/-- A wipe that has completed: its bit, the bell of the last one, the base dies when the last is over (Table 17.3), and
the ROM's start once the SRAMs are wiped (Table 15.2). -/
def State.wipeComplete (s : State) (m : WipeMem) : State :=
  let t := s.wiped m
  let t := { t with boot := { t.boot with wiping := t.boot.wiping.filter (· ≠ m) } }
  let t := (t.fset (wipeFld m) 0 1).fset Fl.memWipeEndBell 0 (t.now % 2 ^ 48)
  let t := if t.boot.wiping = [] then t.fset Fl.glbQmaskBaseQ 0 0xF else t
  if !t.boot.started && t.stage = sgRom && t.boot.wiping.all (· = .hbm) then t.romStart else t

/-- WIPE_DONE (R286, Table 15.9): a wipe that fails fails the boot. HBM is wiped once it is trained (Table 15.2). -/
def execWipeDone (m : WipeMem) (ok : Bool) (s : State) : Outcome :=
  act s fun s =>
    if m ∈ s.boot.wiping ∧ (m = .hbm → s.boot.trained) then
      if ok then s.wipeComplete m else s.bootEnds sgFailed 0x07
    else s

/-! ### Lifecycle records -/

/-- SHA-256 of a key equals a fused digest. -/
def digestIs (key digest : List Byte) : Bool := sha256 key == digest

/-- Operator key `k` is blown and not revoked. -/
def Fuses.keyGood (f : Fuses) (k : Nat) : Bool := k < 4 && mget [] f.opKeys k != [] && bitsOf f.revoked k k == 0

/-- The lowest free key slot. -/
def Fuses.freeSlot (f : Fuses) : Option Nat := (List.range 4).find? fun k => mget [] f.opKeys k == []

/-- The operation of a lifecycle record has already taken effect (R371; log entry 26, DESIGN CHOICE). -/
def Fuses.lifeDone (f : Fuses) (op slot : Nat) (key : List Byte) : Bool :=
  let has (k : Nat) := bitsOf f.life k k = 1
  match op with
  | 1 => digestIs key (mget [] f.opKeys 0)
  | 2 => has 1
  | 3 => has 2
  | 4 => has 3
  | 5 => (List.range 4).any fun k => digestIs key (mget [] f.opKeys k)
  | 6 => slot < 4 && bitsOf f.revoked slot slot = 1
  | _ => false

/-- The signer of a lifecycle record is one that Table 15.12 allows for its OP, and KEY is that signer's (R371). The
KEY of an ADD_KEY record is the new key, so its signer has no key in the record to compare (log entry 26, DESIGN CHOICE). -/
def Fuses.signerOk (f : Fuses) (op signer slot : Nat) (key : List Byte) : Bool :=
  let operator := f.keyGood signer && f.life != 7
  let own := operator && digestIs key (mget [] f.opKeys signer)
  match op with
  | 1 => signer == 0xE
  | 2 => own
  | 3 => own
  | 4 => own || (signer == 0xF && (f.life == 0 || f.life == 7) && digestIs key f.isazoKey)
  | 5 => operator
  | 6 => own && signer != slot
  | _ => false

/-- The lifecycle state that an operation is allowed in, with the slot that it needs (Table 15.12). -/
def Fuses.lifeAllowed (f : Fuses) (op slot : Nat) : Bool :=
  let inUse := f.life == 1 || f.life == 3
  match op with
  | 1 => f.life == 0
  | 2 => f.life == 1
  | 3 => inUse
  | 4 => f.life != 0xF
  | 5 => inUse && f.freeSlot == some slot
  | _ => inUse && decide (slot < 4)

/-- The fuses after a lifecycle operation (Table 15.12, R372). -/
def Fuses.lifeApply (f : Fuses) (op slot : Nat) (key : List Byte) : Fuses :=
  match op with
  | 1 => { f with life := 1, opKeys := mput [] f.opKeys 0 (sha256 key) }
  | 2 => { f with life := 3 }
  | 3 => { f with life := 7 }
  | 4 => { f with life := 0xF, secret := List.replicate 32 0xFF }
  | 5 => { f with opKeys := mput [] f.opKeys slot (sha256 key) }
  | _ => { f with revoked := withBit f.revoked slot }

/-- The lifecycle authorisation record at 0x3_0000, as the ROM examines it at every boot (R371). -/
def State.lifecycle (s : State) (v : Verdicts) : State :=
  let a := 0x30000
  let b (i : Nat) := (s.flashByte (a + i)).toNat
  let op := b 4
  let key := s.flashPeek (a + 16) 32
  if s.flashNat a 4 ≠ 0x414C594C ∨ s.fuses.lifeDone op (b 6) key then s
  else
    let t := s.fset Fl.secLifeReqOp 0 op
    let valid := s.flashNat (a + 8) 8 == s.fuses.serial.toNat && s.fuses.signerOk op (b 5) (b 6) key &&
      v.life && (op != 5 || v.lifeNewKey)
    if !valid then (t.fset Fl.secLifeReqResult 0 2).bootErr 0x06
    else if !s.fuses.lifeAllowed op (b 6) then (t.fset Fl.secLifeReqResult 0 3).bootErr 0x06
    else ({ t with fuses := t.fuses.lifeApply op (b 6) key }.fset Fl.secLifeReqResult 0 1).sampleFuses

/-! ### Firmware slots -/

/-- First flash byte of a firmware slot (Table 15.3). -/
def slotBase (k : Nat) : Nat := 0x1000000 + k * 0x2000000

/-- A section of a firmware image (Table 15.6). -/
structure Section where
  dest : Nat
  off : Nat
  size : Nat
  addr : Nat
  deriving DecidableEq, Repr

/-- The sections of a staged image. -/
def imageSections (img : List Byte) : List Section :=
  (List.range (img.getD 6 0).toNat).map fun i =>
    let e := img.drop (64 + 32 * i)
    ⟨(e.getD 0 0).toNat, leNat ((e.drop 4).take 4), leNat ((e.drop 8).take 4), leNat ((e.drop 16).take 8)⟩

/-- First hart physical address of control SRAM (Table 12.1). -/
def ctrlBase : Nat := 0x10000000000

/-- A section's destination is populated (R363). -/
def State.destOk (s : State) (x : Section) : Bool :=
  match x.dest with
  | 0 => decide (ctrlBase ≤ x.addr) && decide (x.addr + x.size ≤ ctrlBase + 0x400000)
  | 1 => decide (x.addr + x.size ≤ s.hbmTop)
  | 2 => inCommons x.addr x.size
  | _ => false

/-- No two sections overlap at their destinations (R363). -/
def noOverlap (l : List Section) : Bool :=
  l.zipIdx.all fun x => l.zipIdx.all fun y =>
    x.2 == y.2 || x.1.dest != y.1.dest ||
      !meets (x.1.addr, x.1.addr + x.1.size) (y.1.addr, y.1.addr + y.1.size)

/-- A number in an image header (Table 15.5). -/
def imgNat (img : List Byte) (at_ n : Nat) : Nat := leNat ((img.drop at_).take n)

/-- SVN of an image. -/
def imgSvn (img : List Byte) : Nat := imgNat img 7 1

/-- Signed LENGTH of an image. -/
def imgLength (img : List Byte) : Nat := imgNat img 12 4

/-- A staged image verifies (R362, R363), with what the security unit found of its signature. -/
def State.imageOk (s : State) (img : List Byte) (sig : Bool) : Bool :=
  let len := imgLength img
  let sec := imageSections img
  let n := imgNat img 6 1
  imgNat img 0 4 == 0x5746594C && imgNat img 4 2 == 1 && decide (1 ≤ n) && decide (n ≤ 16) &&
  decide (len + 7856 ≤ 0x2000000) && digestIs ((img.drop 16).take 32) s.fuses.isazoKey && sig &&
  decide (max s.fuses.rollbackA s.fuses.rollbackB ≤ imgSvn img) &&
  sec.all (fun x => decide (4096 ≤ x.off) && decide (x.off + x.size ≤ len)) && noOverlap sec && sec.all s.destOk

/-- The image in slot `k` as it is staged (R357). -/
def State.slotImage (s : State) (k : Nat) : List Byte := s.flashPeek (slotBase k) 0x2000000

/-- What the security unit found of the signature of slot `k`. -/
def fwSig (v : Verdicts) (k : Nat) : Bool := if k = 0 then v.fwA else v.fwB

/-- Slot `k` verifies. -/
def State.slotOk (s : State) (v : Verdicts) (k : Nat) : Bool := s.imageOk (s.slotImage k) (fwSig v k)

/-- ROLLBACK fuses blown up to a value, and the COMMIT bit cleared (R364). -/
def State.commitSlot (v : Verdicts) (s : State) (k : Nat) : State :=
  if bitsOf s.header.commit k k = 1 ∧ s.slotOk v k then
    let n := imgSvn (s.slotImage k)
    let f := if k = 0 then { s.fuses with rollbackA := max s.fuses.rollbackA n }
      else { s.fuses with rollbackB := max s.fuses.rollbackB n }
    { s with fuses := f }.sampleFuses.writeHeader fun h => { h with commit := h.commit - 2 ^ k }
  else s

/-! ### Configuration records -/

/-- First flash byte of a configuration slot (Table 15.3). -/
def cfgBase (k : Nat) : Nat := 0x40000 + k * 0x40000

/-- The sections of a record from byte `pos` on, each a type and its entries (R365), where they fill it up to LENGTH. -/
def recordSections (r : List Byte) (len : Nat) : Nat → Nat → Option (List (Nat × List Byte))
  | 0, _ => none
  | f + 1, pos =>
    if pos = len then some []
    else if len < pos + 8 then none
    else
      let size := imgNat r (pos + 4) 4
      let next := pos + 8 + (size + 7) / 8 * 8
      if len < next then none
      else (recordSections r len f next).map fun rest => (imgNat r pos 2, (r.drop (pos + 8)).take size) :: rest

/-- Bytes of an entry of a section (Table 15.8). -/
def entryBytes (ty : Nat) : Nat := [0, 16, 4, 2, 1, 8, 2, 2].getD ty 0

/-- The entries of a section. -/
def recordEntries (secs : List (Nat × List Byte)) (ty : Nat) : List (List Byte) :=
  match secs.find? fun x => x.1 == ty with
  | some x => piecesOf (entryBytes ty) x.2.length x.2
  | none => []

/-- The block letters of R366 by register. -/
def recordReg (r : Reg) : Bool :=
  match r with
  | .ostCtl | .ostCur | .ostToOp | .ostClassWt
  | .memCtl | .memCeEvt | .memUeEvt | .memScrub | .memPpr | .memRetire | .memPswin | .memWipe
  | .portCtl | .portStat | .portLanes | .portRetryEvt | .vcWt | .routeCtl | .routeAlias
  | .colThreshP | .colThreshT | .colThreshK | .colThreshS | .colChunk | .colMode | .colFaultEvt
  | .grpCfg | .grpAux | .grpStat | .grpBell
  | .toLimit | .errLogBase | .errEvt
  | .detCount | .detCause | .detStrict | .waymarkCtl
  | .twnCtl | .twnPartner | .twnReserve | .twnLag | .twnState | .twnAdopt => true
  | _ => false

/-- A register of the TWL block, whose entries are port settings (R367). -/
def portReg (r : Reg) : Bool :=
  match r with
  | .portCtl | .portStat | .portLanes | .portRetryEvt | .vcWt | .routeCtl | .routeAlias => true
  | _ => false

/-- The register writes of a record: register, instance, value with every WO field 0 (R366, R367); none where an entry
names another register. -/
def recordWrites (secs : List (Nat × List Byte)) : Option (List (Reg × Nat × Word64)) :=
  (recordEntries secs 1).mapM fun e =>
    match regAt (imgNat e 0 4) with
    | some (r, i) =>
      if recordReg r ∧ imgNat e 0 4 % 8 = 0 then
        let v := (r.fields.filter fun f => f.acc == .wo).foldl (fun v f => setBits v f.hi f.lo 0) (imgNat e 8 8)
        some (r, i, BitVec.ofNat 64 v)
      else none
    | none => none

/-- Header and sections meet R365 and R366's limits on register entries. -/
def recordForm (r : List Byte) : Option (List (Nat × List Byte)) :=
  let len := imgNat r 12 4
  if imgNat r 0 4 = 0x5243594C ∧ imgNat r 4 2 = 1 ∧ imgNat r 6 1 ≤ 3 ∧ imgNat r 7 1 ≤ 64 ∧ imgNat r 9 1 ≤ 1 ∧
      64 ≤ len ∧ len + 7856 ≤ 0x40000 then
    match recordSections r len (len + 1) 64 with
    | some secs =>
      if (secs.map (·.1)).Nodup ∧ secs.all (fun x => 1 ≤ x.1 ∧ x.1 ≤ 7 ∧ x.2.length % entryBytes x.1 = 0) ∧
          (recordEntries secs 6).length ≤ 4 ∧ (recordWrites secs).isSome then some secs else none
    | none => none
  else none

/-- Everything of R366 but the node check. -/
def State.recordOk (s : State) (r : List Byte) (sig : Bool) : Bool :=
  let k := imgNat r 6 1
  (recordForm r).isSome && s.fuses.keyGood k && digestIs ((r.drop 24).take 32) (mget [] s.fuses.opKeys k) && sig &&
    decide (s.fuses.cfgEpoch ≤ imgNat r 7 1)

/-- The node check of R366. -/
def State.nodeOk (s : State) (r : List Byte) : Bool := imgNat r 16 4 % 64 == s.power.straps.toNat

/-- The record in a configuration slot. -/
def State.cfgImage (s : State) (k : Nat) : List Byte := s.flashPeek (cfgBase k) 0x40000

/-- What the security unit found of the signature of configuration slot `k`. -/
def cfgSig (v : Verdicts) (k : Nat) : Bool := if k = 0 then v.cfg0 else v.cfg1

/-- The record in configuration slot `k` verifies. -/
def State.cfgOk (s : State) (v : Verdicts) (k : Nat) : Bool :=
  s.recordOk (s.cfgImage k) (cfgSig v k) && s.nodeOk (s.cfgImage k)

/-- TILE_REPAIR, TILE_RETIRE and QUARTERS of a record (R101, R339, R25). -/
def State.recordRepairs (s : State) (secs : List (Nat × List Byte)) : State :=
  let t := (recordEntries secs 2).foldl (fun (t : State) e =>
    let site := imgNat e 0 2
    let f := t.fusedRepair site
    let row := imgNat e 2 1
    let col := imgNat e 3 1
    let t := if site < 4224 ∧ f.1 = 63 ∧ repairOk row then t.fset Fl.tileRepairSpareRowFor site row else t
    if site < 4224 ∧ f.2 = 63 ∧ repairOk col then t.fset Fl.tileRepairSpareColFor site col else t) s
  let t := (recordEntries secs 3).foldl (fun (t : State) e =>
    if imgNat e 0 2 < 4224 then t.fset Fl.tileStateState (imgNat e 0 2) stRetired else t) t
  { t with boot := { t.boot with
      excluded := (recordEntries secs 4).foldl (fun x e => Nat.lor x (imgNat e 0 1 % 16)) 0 } }

/-- The register writes of a record that a test picks, in entry order (R367). -/
def State.recordRegs (s : State) (secs : List (Nat × List Byte)) (pick : Reg → Bool) : State :=
  (((recordWrites secs).getD []).filter fun w => pick w.1).foldl
    (fun (t : State) w => (t.regWrite .rom (w.1.off w.2.1) 8 w.2.2).1) s

/-- The twin reserve that the record sets up lies below the HBM_TOP that its retirements leave (R345). -/
def State.reserveOk (s : State) (secs : List (Nat × List Byte)) : Bool :=
  let t := s.recordRegs secs fun r => r == .twnCtl || r == .twnReserve
  !t.fon Fl.twnCtlEnable 0 ||
    decide (t.resBase + t.resGranules * 65536 ≤ 0xC000000000 - (recordEntries secs 6).length * 0x60000000)

/-- A verified record applied, up to its port settings (R367, Table 15.2). A twin reserve that breaks R345 leaves the
module to boot standalone (Table 15.9; log entry 27, DESIGN CHOICE). -/
def State.applyRecord (s : State) (r : List Byte) : State :=
  match recordForm r with
  | none => s
  | some secs =>
    let t := s.fset Fl.secBootStatCfgOk 0 1
    if !s.reserveOk secs then (t.bootErr 0x05).fset Fl.glbNodeNode 0 s.power.straps.toNat
    else
      let t := (t.fset Fl.glbNodeNode 0 (imgNat r 16 4)).fset Fl.glbNodeRole 0 (imgNat r 9 1)
      let t := t.recordRepairs secs
      let t := if bitsOf (imgNat r 8 1) 0 0 = 1 then
        { t with fuses := { t.fuses with cfgEpoch := max t.fuses.cfgEpoch (imgNat r 7 1) } }.sampleFuses else t
      { t with boot := { t.boot with record := r.take (imgNat r 12 4) } }.recordRegs secs portReg

/-- The configuration slots in the order in which the ROM tries them (R361). -/
def BootHeader.cfgSlots (h : BootHeader) : List Nat :=
  if h.cfgNext < 2 then [h.cfgNext, h.cfg % 2] else [h.cfg % 2]

/-- The record chosen and applied, or the standalone boot (R361, R365 to R368, Table 15.9). -/
def State.configure (s : State) (v : Verdicts) : State :=
  let h := s.header
  let alone := s.fset Fl.glbNodeNode 0 s.power.straps.toNat
  if s.fuses.life ≠ 1 ∧ s.fuses.life ≠ 3 then alone
  else
    let next := decide (h.cfgNext < 2) && s.cfgOk v h.cfgNext
    let t := if next then s.writeHeader fun h => { h with cfg := h.cfgNext, cfgNext := 0xFF }
      else if h.cfgNext ≠ 0xFF then s.writeHeader fun h => { h with cfgNext := 0xFF } else s
    match h.cfgSlots.find? (s.cfgOk v) with
    | some k => (t.fset Fl.secBootStatCfg 0 k).applyRecord (s.cfgImage k)
    | none =>
      let k := h.cfg % 2
      (t.bootErr (if s.recordOk (s.cfgImage k) (cfgSig v k) then 0x04 else 0x03)).fset Fl.glbNodeNode 0 s.power.straps.toNat

/-! ### Measurements -/

/-- A digest put into SEC_MEAS (R374). -/
def State.measure (s : State) (m : Nat) (d : List Byte) : State :=
  (List.range 4).foldl (fun (t : State) w => t.wr .secMeas (4 * m + w) (BitVec.ofNat 64 (leNat ((d.drop (8 * w)).take 8)))) s

/-- The sections of the types that measurement 3 takes, as stored, from byte `pos` of a record on (R374). -/
def repairSections (r : List Byte) : Nat → Nat → List Byte
  | 0, _ => []
  | f + 1, pos =>
    let n := 8 + (imgNat r (pos + 4) 4 + 7) / 8 * 8
    let ty := imgNat r pos 2
    if r.length < pos + 8 then []
    else (if 2 ≤ ty ∧ ty ≤ 6 then (r.drop pos).take n else []) ++ repairSections r f (pos + n)

/-- The six measurements of R374 (log entry 28, DESIGN CHOICE). -/
def State.measureAll (s : State) : State :=
  let f := s.fuses
  let t := (List.range 4).foldl (fun (t : State) w => t.wr .secMeas w (Config.romDigest w)) s
  let t := t.measure 1 (sha256 (s.boot.staged.take (imgLength s.boot.staged)))
  let t := if s.boot.record = [] then t.measure 2 (List.replicate 32 0) else t.measure 2 (sha256 s.boot.record)
  let t := t.measure 3 (sha256 (Config.repairBytes f.repairs f.retired f.rows ++ repairSections s.boot.record s.boot.record.length 64))
  let t := t.measure 4 (sha256 (leBytes 8 (s.rd .glbArev 0).toNat))
  t.measure 5 (sha256 (leBytes 8 (s.rd .glbLife 0).toNat))

/-! ### FIRMWARE_VERIFIED -/

/-- The slot that boots, its trial and version, and its staged copy (R357, R361, R374). -/
def State.takeSlot (s : State) (h : BootHeader) (k : Nat) : State :=
  let img := s.slotImage k
  let t := (s.fset Fl.secBootStatSlot 0 k).fset Fl.secBootStatTrial 0 (decide (h.trial = 1 ∧ k = h.pref % 2)).toNat
  let t := (t.fset Fl.secFwverVersion 0 (imgNat img 8 4)).fset Fl.secFwverSvn 0 (imgSvn img)
  { t with boot := { t.boot with
      verified := true, staged := img.take (imgLength img), entry := imgNat img 48 8, restart := imgNat img 56 8 } }

/-- INIT begins: the array is under test, the ports in DETECT (Table 15.2, R369). -/
def State.initStage (s : State) : State :=
  ((s.fset Fl.secBootStatStage 0 sgInit).fset Fl.arrModeLock 0 0).fset Fl.arrModeTest 0 0xF

/-- The ROM acts on what the security unit found: the lifecycle record first, then the firmware slot, the commits and
the configuration record (R361 to R368, R371). -/
def State.firmware (s : State) (v : Verdicts) : State :=
  let t := s.lifecycle v
  if t.fuses.life = 0xF then t.bootEnds sgFailed 0x09
  else
    match t.boot.slots.find? (t.slotOk v) with
    | none => t.bootEnds sgRecovery 0x02
    | some k =>
      let t := t.takeSlot t.header k
      let t := [0, 1].foldl (State.commitSlot v) t
      (t.configure v).measureAll.initStage

/-- FIRMWARE_VERIFIED. -/
def execFirmwareVerified (v : Verdicts) (s : State) : Outcome :=
  act s fun s => if s.boot.started && !s.boot.verified && s.stage = sgRom then s.firmware v else s

/-! ### HBM_TRAINING_DONE -/

/-- The rows and pseudo-channels of the record in force (R275, R276, Table 15.8). -/
def State.recordHbm (s : State) : State :=
  match recordForm s.boot.record with
  | none => s
  | some secs =>
    let rows := (recordEntries secs 5).map fun e =>
      (pcOf (imgNat e 0 1) (imgNat e 1 1), imgNat e 2 1 * 2 ^ 32 + imgNat e 4 4)
    let t := { s with hbm := { s.hbm with repaired := rows } }
    ((recordEntries secs 6).map fun e => imgNat e 0 2 % 512).foldl
      (fun (t : State) pc => (t.listRetired pc).channelEvent .degraded pc 0x04 0) t

/-- HBM_TRAINING_DONE (Table 15.2): the stacks serve; a stack that is lost is a module failure (R276). -/
def execHbmTrainingDone (lost : List Nat) (s : State) : Outcome :=
  act s fun s =>
    if s.stage = sgInit ∧ !s.boot.trained then
      match lost with
      | [] =>
        let t := (List.range 8).foldl (fun (t : State) k => t.fset Fl.memCtlState k 1) s
        { t with boot := { t.boot with trained := true } }.recordHbm
      | k :: _ =>
        let t := lost.foldl (fun (t : State) k => t.fset Fl.memCtlState k 3) s
        (t.bootEnds sgFailed 0x08).channelEvent .fatal k 0x06 0
    else s

/-! ### BOOT_LOCK -/

/-- A section placed at its destination (R363): control SRAM of every quarter in service, HBM or commons. -/
def State.placeSection (img : List Byte) (s : State) (x : Section) : State :=
  let bs := (img.drop x.off).take x.size
  match x.dest with
  | 0 =>
    (List.range 4).foldl (fun (t : State) q =>
      if t.complexUp q then
        { t with ctrl := bs.zipIdx.foldl (fun m e => mput 0 m (q * 2 ^ 22 + (x.addr - ctrlBase) + e.2) e.1) t.ctrl }
      else t) s
  | _ => s.memWrite x.addr bs

/-- The built-in tables of bank 0 (R195, R201). -/
def State.builtinTables (s : State) : State :=
  let img := (List.range 16).flatMap fun n => (List.range 512).map (builtinImage n)
  let attr := (builtinAttr.zipIdx).foldl (fun m e => mput 0 m e.2 e.1) []
  let t := { s with tables :=
    { bank0 := cellsFrom img, bank1 := [], attr0 := attr, attr1 := [], valid0 := 0xFFFF, valid1 := 0 } }
  let t := (t.fset Fl.tblGenGen 0 1).fset Fl.tblGenCur 0 0
  (t.fset Fl.tblStateValid 0 0xFFFF).fset Fl.tblStateB0State 0 2

/-- The quarters that boot leaves in service (R25). -/
def State.bootQuarters (s : State) : Nat :=
  ((List.range 4).map fun q =>
    if bitsOf s.boot.excluded q q = 0 ∧ bitsOf s.boot.failed q q = 0 then 2 ^ q else 0).sum

/-- The array as boot leaves it: LOCKED, no test, ARRAY_Q formed, the map and the depths computed (R25, R409, R410). -/
def State.arrayBoot (s : State) : State :=
  let t := ((s.fset Fl.arrModeLock 0 1).fset Fl.arrModeTest 0 0).fset Fl.glbQmaskArrayQ 0 s.bootQuarters
  { t with ost := { t.ost with bLock := none, bTest := none, bArrayQ := none, repairNow := [] } }.remap true

/-- Every hart in service starts at the image's entry point (Table 15.2), its watchdog kicked. -/
def State.hartsStart (s : State) (entry : Nat) : State :=
  let t := (List.range 16).foldl (fun (t : State) h =>
    if t.complexUp (h / 4) then t.setHart h { (t.hart h).fresh entry with kick := t.now } else t) s
  { t with moduleKick := t.now }

/-- The boot is ready to hand over: everything wiped, trained, verified and proved. -/
def State.bootReady (s : State) : Bool :=
  s.stage = sgInit && s.boot.verified && s.boot.trained && s.boot.wiping.isEmpty &&
    (List.range 4).all (· ∈ s.boot.proved)

/-- What follows the placement of the sections: registers, staging area, lock, entry (R357, R358, R367, R369). -/
def State.bootLock (s : State) : State :=
  let t := (imageSections s.boot.staged).foldl (State.placeSection s.boot.staged) s
  let t := t.builtinTables.arrayBoot
  let t := match recordForm s.boot.record with
    | some secs => t.recordRegs secs fun r => !portReg r
    | none => t
  let t := { t with boot := { t.boot with staged := [] } }
  let t := (t.fset Fl.secBootStatLock 0 1).fset Fl.secBootStatStartBell 0 (t.now % 2 ^ 48)
  (t.fset Fl.secBootStatStage 0 (if s.boot.record = [] then sgStandalone else sgFirmware)).hartsStart s.boot.entry

/-- BOOT_LOCK. -/
def execBootLock (s : State) : Outcome := act s fun s => if s.bootReady then s.bootLock else s

end Sys2Proof.Machine
end

