-- ==== Sys2Proof/Machine/BellHold.lean ====
section
/-! DEFINITION. BellHold: the check of the bell's replicas (R17), stamps and hold cycles (R105, R106, R108, R110, R387). -/

namespace Sys2Proof.Machine

/-! ### The bell check (R17) -/

/-- Bits [63:16] of a quarter's replica. -/
def State.bellHigh (s : State) (q : Nat) : Nat := bitsOf (s.replica q) 63 16

/-- Bits [15:0] of a quarter's replica. -/
def State.bellLow (s : State) (q : Nat) : Nat := bitsOf (s.replica q) 15 0

/-- The fatal clock error (Table 14.19). -/
def State.clockError (s : State) (src dst : Nat) (missing : Bool) (value : Nat) : State :=
  s.logEvent { code := 0x01, cls := .fatal, quarter := dst, loc := dst, d4 := missing.toNat * 256 + src, d5 := value,
               d6 := s.replica dst }

/-- A quarter sends its check value to the other three. -/
def State.bellSend (s : State) (q : Nat) : State :=
  if s.bellLow q = 0 then
    { s with bellMail := ((List.range 4).filter (· ≠ q)).foldl (fun m d => mput 0 m (4 * q + d) (s.bellHigh q + 1)) s.bellMail }
  else s

/-- A check value arrives: the receiver makes both comparisons. -/
def State.bellArrive (s : State) (src dst value : Nat) : State :=
  let t := { s with bellMail := merase s.bellMail (4 * src + dst), bellSeen := mput 0 s.bellSeen (4 * src + dst) (value + 1) }
  if value = s.bellHigh dst ∧ s.bellLow dst = 3 then t else t.clockError src dst false value

/-- The receiver's low bits reach 4 without the value. -/
def State.bellMissing (s : State) (src dst : Nat) : State :=
  if s.bellLow dst = 4 ∧ (mget 0 s.bellMail (4 * src + dst) ≠ 0 ∨ mget 0 s.bellSeen (4 * src + dst) ≠ s.bellHigh dst + 1)
  then s.clockError src dst true 0 else s

/-- BELL_CHECK_SEND. -/
def execBellCheckSend (q : Nat) (s : State) : Outcome := act s fun s => s.bellSend q

/-- BELL_CHECK_ARRIVE. -/
def execBellCheckArrive (src dst : Nat) (value : BitVec 48) (s : State) : Outcome :=
  act s fun s => if src = dst then s else s.bellArrive src dst value.toNat

/-- BELL_CHECK_MISSING. -/
def execBellCheckMissing (src dst : Nat) (s : State) : Outcome :=
  act s fun s => if src = dst then s else s.bellMissing src dst

/-! ### Hold decisions (R106, R107) -/

/-- A hold is stamped for a bell of a domain. -/
def State.holdAt (s : State) (dom bell : Nat) : Bool := s.holds.any fun h => h.dom == dom && h.bell == bell

/-- The domain's systolic pipeline stands still now (R105): its hold is stamped for this bell, or has just been counted. -/
def State.frozen (s : State) (dom : Nat) : Bool :=
  s.holdAt dom s.now || (mget {} s.domains dom).last == s.now + 1

/-- A request for a hold: stamped four bells ahead, and merged with a request of the same stamp (R106). -/
def State.requestHold (s : State) (dom cause : Nat) : State :=
  let b := s.now + 4
  if s.holdAt dom b then
    { s with holds := s.holds.map fun h =>
        if h.dom == dom && h.bell == b then { h with causes := union h.causes [cause] } else h }
  else { s with holds := s.holds ++ [{ bell := b, dom := dom, causes := [cause] }] }

/-- The non-hold bells among now and the next three (R107). -/
def State.needed (s : State) (dom : Nat) : Nat :=
  ((List.range 4).filter fun i => !s.holdAt dom (s.now + i)).length

/-- Level n puts a hold on bell b (R387). -/
def levelHolds (n b : Nat) : Bool :=
  let i := b % 64
  decide (i * n / 64 < (i + 1) * n / 64)

/-- K-part of a logical tile in its relay chain (R130). -/
def Desc.partOf (d : Desc) (tile : Nat) : Nat := tile / 64 % d.parts

/-- The K indices of a part, in order. -/
def Desc.partKs (d : Desc) (t : Nat) : List Nat := (List.range d.matK).filter fun k => d.kpart k == t

/-- Steps that one term takes in outer and relay mode (R129); one strip step takes one index of each row (R135). -/
def Desc.perTerm (d : Desc) : Nat :=
  if d.strip then 1
  else match d.cls with
    | 0 | 1 => 1
    | 2 => if d.pair.1 = .posit32 ∨ d.pair.2 = .posit32 then 3 else 1
    | _ => 4

/-- Steps that a tile issues for its part of a block (of one sub-pass in strip mode). -/
def Desc.tileSteps (d : Desc) (tile : Nat) : Nat :=
  let n := (d.partKs (d.partOf tile)).length
  if d.strip then d.segLen n else d.stepsFor n

/-- Groups of a block that go down a relay chain: in strip mode one for each output (R131, R136). -/
def Desc.relayN (d : Desc) : Nat := if d.strip then 32 else d.hm * d.hn

/-- Steps that a front issues in its tile. -/
def Op.frontSteps (o : Op) (f : Front) : Nat := if o.d.isMat then o.d.tileSteps f.tile else (o.pass f.sub).steps

/-- Steps that a front has still to issue in its tile. -/
def State.stepsToGo (s : State) (t : Tile) : Nat :=
  match t.cur with
  | none => 0
  | some f => match s.op? f.seq with
    | none => 0
    | some o => o.frontSteps f - t.steps

/-- Entries that a bellows releases at each step: one; in strip mode a column bellows releases those that carry the
weights of 32 rows, 128 bits each (R135). -/
def Desc.entriesPerStep (d : Desc) (row : Bool) : Nat :=
  if d.strip && !row then ceilDiv (32 * (if d.t1.w = 6 then 8 else d.t1.w)) 128 else 1

/-- Stamps whose bell has passed are dropped. -/
def State.pruneHolds (s : State) : State := { s with holds := s.holds.filter fun h => decide (s.now ≤ h.bell) }

/-! ### Hold cycles (R106, R108) -/

/-- The hold counters that a hold cycle advances: TOTAL and every cause that asked for it. -/
def State.countHold (s : State) (causes : List Nat) : State :=
  (0 :: causes).foldl (fun (t : State) c => t.finc Fl.arrHoldCauseCycles c) s

/-- A list with the elements at some places advanced by one. -/
def bumpAt (l : List Nat) (is_ : List Nat) : List Nat :=
  (List.range 12).map fun i => l.getD i 0 + (if is_.contains i then 1 else 0)

/-- The hold cycle of a domain at this bell. -/
def State.holdNow (s : State) (dom : Nat) : State :=
  match s.holds.find? fun h => h.dom == dom && h.bell == s.now with
  | none => s
  | some h =>
    let x := mget {} s.domains dom
    let y : HoldDom := { run := if x.last = s.now then x.run + 1 else 1, last := s.now + 1, causes := h.causes }
    let t := s.countHold h.causes
    { t with
      holds := t.holds.filter fun k => k != h,
      domains := mput {} t.domains dom y,
      ops := t.ops.map fun o =>
        if o.inArray && o.dom == dom then { o with holds := bumpAt o.holds (0 :: h.causes) } else o }

/-- HOLD_CYCLE. -/
def execHoldCycle (dom : Nat) (s : State) : Outcome := act s fun s => s.holdNow dom

end Sys2Proof.Machine
end

