-- ==== Sys2Proof/Machine/CollWire.lean ====
section
/-! DEFINITION. CollWire: what collectives carry: contributions, chunks as bytes, residues, tags, and the delivery of
results (R215, R216, R220 to R223, R226, R227). -/

namespace Sys2Proof.Machine

/-! ### Bits of a chunk -/

/-- Codes of `w` bits back to back, from the lowest bit on, with zeros to the byte (R29). -/
def packCodes (w : Nat) (l : List Nat) : List Byte :=
  leBytes (ceilDiv (w * l.length) 8) ((l.zipIdx.map fun x => x.1 % 2 ^ w * 2 ^ (w * x.2)).foldl (· + ·) 0)

/-- The first `n` codes of a byte string. -/
def unpackCodes (w n : Nat) (bs : List Byte) : List Nat :=
  let v := leNat bs
  (List.range n).map fun i => v / 2 ^ (w * i) % 2 ^ w

/-- Residue of groups (R226): flag packs count as 0. -/
def grpsResidue (gs : List Grp) : Nat :=
  (((gs.map fun (g : Grp) => if g.nar || g.sHi then 0 else g.v).foldl (· + ·) 0) % 65535).toNat

/-- Residue of groups as an adder computes them, before flags are encoded (R227). -/
def sumResidue (gs : List Grp) : Nat := (((gs.map fun (g : Grp) => g.v).foldl (· + ·) 0) % 65535).toNat

/-- Residue of bytes (R226): little-endian u16 words, a last odd byte with a high byte of 0. -/
def bytesResidue (bs : List Byte) : Nat :=
  ((piecesOf 2 bs.length bs).map leNat).foldl (· + ·) 0 % 65535

/-! ### Contributions (R220, R221) -/

/-- The group of an output where the epilogue has added the zero-point and saddlebag terms, and not yet the bias
(R221). -/
def contribGroup (v : Env) (l : Nat) : Grp :=
  let w := v.d.gw
  let a := v.d.ganchor
  let g := (startGroup v l w a).addAll w ((opPairs v l).map fun p => prodTerm w a p.1.val p.2.val)
  if v.d.isMat then g.addAll w (zpTerms v l w a ++ laneTerms v l w a) else g

/-- A group rounded once to a format (R220, R57). -/
def roundGroup (f : Fmt) (d : Desc) (u : Word32) (w : Nat) (a : Int) (g : Grp) : Nat :=
  let c := g.rangeTest w
  if c.nar || c.sHi then (deliverNar f).code else (deliverXV f d.mode d.sat u (xvRat c.v 1 a)).code

/-- The source elements of a COLLECTIVE in order: T0's, or the bundle's entries one after the other (R224). -/
def srcElems (o : Op) (v : Env) : List Elem :=
  let one (t : Tensor) : List Elem := (List.range t.count).map fun l => t.elemAt v.rd l
  if o.d.bundled then o.bundleTensors.flatMap one else one o.d.t0

/-- The group of a standalone reduction's input element (R221): the term x × 1.0, or the V of a quire element. -/
def srcGroup (f : Fmt) (w : Nat) (a : Int) (e : Elem) : Grp :=
  match f.quireW with
  | some q => quireLoad q e.code
  | none => unitTerm w a e.val

/-- XFER_FMT of an instance. -/
def Inst.xfer (i : Inst) : Fmt := (fmtOfCode i.d.xferCode).getD .uint8

/-- A reduction travels as groups, or as rounded elements. -/
def Inst.exact (i : Inst) : Bool := i.d.wire == 0

/-- First element and number of elements of chunk `c`. -/
def Inst.chunkElems (i : Inst) (c : Nat) : Nat × Nat := (c * i.perChunk, min i.perChunk (i.elems - c * i.perChunk))

/-- The random word of a result element (R208, R220). -/
def Inst.sr (i : Inst) (l : Nat) : Word32 := (randWords i.key i.step i.d.stream l).getD 3 0

/-- A member's groups of one chunk as it contributes them: packs, or each rounded once to XFER_FMT (R220). SPILL_LO is
not carried (R77). -/
def Inst.encode (i : Inst) (first : Nat) (gs : List Grp) : List Byte :=
  if i.exact then gs.flatMap (packGroup i.w)
  else packCodes i.xfer.bits (gs.zipIdx.map fun g => roundGroup i.xfer i.d (i.sr (first + g.2)) i.w i.anchor g.1)

/-- Width and anchor at which an adder adds: the instance's groups, or those of XFER_FMT's own pair (R220, R227). -/
def Inst.addW (i : Inst) : Nat := if i.exact then i.w else pairWidth i.xfer i.xfer
def Inst.addA (i : Inst) : Int := if i.exact then i.anchor else pairAnchor i.xfer i.xfer anchorAuto

/-- An input of an adder as groups: packs, or decoded elements as terms x × 1.0; none if a pack is malformed (R78) or the
length is not the chunk's. -/
def Inst.decode (i : Inst) (n : Nat) (bs : List Byte) : Option (List Grp) :=
  if i.exact then
    match unpackAll i.w (n + 1) bs with
    | some gs => if gs.length = n then some gs else none
    | none => none
  else if bs.length = ceilDiv (i.xfer.bits * n) 8 then
    some ((unpackCodes i.xfer.bits n bs).map fun c => unitTerm i.addW i.addA (decodeCode i.xfer [] c))
  else none

/-- The sum of an adder's inputs, element by element (R74). -/
def addGroups (w n : Nat) (ins : List (List Grp)) : List Grp :=
  (List.range n).map fun k => ({} : Grp).addAll w (ins.map fun l => l.getD k {})

/-- An adder's output as it is sent: packs, or the sum rounded once to XFER_FMT (R220). -/
def Inst.encodeSum (i : Inst) (first : Nat) (gs : List Grp) : List Byte :=
  if i.exact then gs.flatMap (packGroup i.w)
  else packCodes i.xfer.bits (gs.zipIdx.map fun g => roundGroup i.xfer i.d (i.sr (first + g.2)) i.addW i.addA g.1)

/-! ### Tags (Table 9.6) -/

/-- GROUP as the members number it: a partner context goes by its own number (R350). -/
def State.groupNo (s : State) (c : Nat) : Nat := if s.twin.serves.isSome && decide (512 ≤ c) then c - 512 else c

/-- Word 0 of a tag. -/
def tagWord0 (residue no group : Nat) (ack : Bool) : Word64 :=
  BitVec.ofNat 64 (residue * 2 ^ 48 + no * 2 ^ 16 + group * 2 ^ 6 + ack.toNat)

/-- Word 1 of a tag. -/
def tagWord1 (src epoch stage : Nat) (out resend : Bool) (wire kind fmt chunk : Nat) : Word64 :=
  BitVec.ofNat 64 (src * 2 ^ 46 + epoch * 2 ^ 38 + stage * 2 ^ 36 + out.toNat * 2 ^ 35 + resend.toNat * 2 ^ 34 +
    wire * 2 ^ 32 + kind * 2 ^ 28 + fmt * 2 ^ 20 + chunk)

/-- The fields of a tag. -/
def tgResidue (t : Word64) : Nat := wbits t 63 48
def tgSeq (t : Word64) : Nat := wbits t 47 16
def tgGroup (t : Word64) : Nat := wbits t 15 6
def tgAck (t : Word64) : Bool := wbits t 0 0 == 1
def tgSrc (t : Word64) : Nat := wbits t 63 46
def tgEpoch (t : Word64) : Nat := wbits t 45 38
def tgStage (t : Word64) : Nat := wbits t 37 36
def tgOut (t : Word64) : Bool := wbits t 35 35 == 1
def tgResend (t : Word64) : Bool := wbits t 34 34 == 1
def tgWire (t : Word64) : Nat := wbits t 33 32
def tgKind (t : Word64) : Nat := wbits t 31 28
def tgFmt (t : Word64) : Nat := wbits t 27 20
def tgChunk (t : Word64) : Nat := wbits t 19 0

/-- A word 1 without RESEND. -/
def tgPlain (t : Word64) : Word64 := BitVec.ofNat 64 (setBits t.toNat 34 34 0)

/-- Word 1 of an instance's own chunk or message. -/
def State.instTag1 (s : State) (i : Inst) (stage : Nat) (out resend : Bool) (chunk : Nat) : Word64 :=
  tagWord1 (s.selfIdx i.ctx) i.epoch stage out resend i.d.wire i.kind i.fmtCode chunk

/-! ### Results -/

/-- Member number of this module among the members that the instance was numbered with. -/
def State.selfName (s : State) (i : Inst) : Nat := i.names.idxOf ((s.members i.ctx).getD (s.selfIdx i.ctx) 0)

/-- The elements of a reduction's result that member number `m` takes (R222): first and number. -/
def Inst.takes (i : Inst) (m : Nat) : Nat × Nat :=
  if i.kind = kdReduceScatter then shareOf i.elems i.names.length m
  else if (i.kind = kdReduce ∨ i.kind = kdGather) ∧ m ≠ i.d.root then (0, 0)
  else (0, i.elems)

/-- Member number `m` takes elements of chunk `c`. -/
def Inst.takesChunk (i : Inst) (m c : Nat) : Bool :=
  let t := i.takes m
  let e := i.chunkElems c
  t.1 < e.1 + e.2 && e.1 < t.1 + t.2

/-- The parts of a gather that lie in chunk `c`, in order, with the first element and number of each piece (R222). -/
def Inst.pieces (i : Inst) (c : Nat) : List (Nat × Nat × Nat) :=
  let n := i.elems / max 1 i.names.length
  let e := i.chunkElems c
  (List.range i.names.length).filterMap fun p =>
    let lo := max e.1 (p * n)
    let hi := min (e.1 + e.2) ((p + 1) * n)
    if lo < hi then some (p, lo, hi - lo) else none

/-- Bits of a gathered element on the wire. -/
def Inst.srcFmt (i : Inst) (o : Op) : Fmt :=
  (fmtOfCode (if i.d.opcode = opColl then o.srcCode else i.d.wholeSlot.2.fmtCode)).getD .uint8

/-- One result element of a reduction (R221): the combined group with the bias and the remaining steps; or the decoded
final value, whose roundings draw at the element's position in the result (R220). `l` is that position and `li` the one in
this member's T2 (R208). -/
def Inst.resultElem (i : Inst) (v : Env) (l li : Nat) (g : Grp) (code : Nat) : OutElem :=
  if i.exact then
    let o1 := g.addAll i.w (biasTerms v l i.w i.anchor)
    let c := o1.rangeTest i.w
    let r := deliverGroup v li i.anchor c
    { idx := li, code := r.code, cat := r.cat, sLo := false, sHi := c.sHi,
      evs := biasEvents v l i.w i.anchor ++ (if c.sHi && !o1.sHi then [{ cause := 0x06, outIdx := li }] else []) }
  else
    let x := decodeCode i.xfer [] code
    match v.t2.fmt.quireW with
    | some q =>
      let a := if v.d.anchor = anchorAuto then quireAnchor q else v.d.anchor
      let o1 := (unitTerm q a x).addAll q (biasTerms v l q a)
      let c := o1.rangeTest q
      { idx := li, code := quireStore q c, cat := if c.nar || c.sHi then .narOut else .plain, sLo := c.sLo, sHi := c.sHi,
        evs := biasEvents v l q a ++ (if c.sHi && !o1.sHi then [{ cause := 0x06, outIdx := li }] else []) }
    | none =>
      if v.d.opcode = opColl ∨ v.d.groupOutputs then
        let y := xvOfVal x
        let z := if v.d.biasAddr = 0 then y else y.add (xvOfVal (biasOf v l))
        let r := epilogueX v l z
        { idx := li, code := r.code, cat := r.cat }
      else
        let r := deliverVal v.t2.fmt v.d.mode v.d.sat (v.sr l) x
        { idx := li, code := r.code, cat := r.cat }

/-- One gathered element as T2 takes it: unchanged, or converted as COPY converts (R49, R413); `e` is what its code reads as
under the group scale or codebook of the part (R39 to R45). -/
def gatheredElem (v : Env) (f : Fmt) (l code : Nat) (e : Elem) : OutElem :=
  let g := v.t2.fmt
  if f = g then { idx := l, code := code }
  else match f.quireW, g.quireW with
    | some wf, some wg =>
      if code = 2 ^ (wf - 1) then { idx := l, code := 2 ^ (wg - 1), cat := .narOut }
      else
        let x := signedOf wf code
        if -(2 ^ (wg - 1) : Int) < x ∧ x < 2 ^ (wg - 1) then { idx := l, code := modPow wg x }
        else { idx := l, code := 2 ^ (wg - 1), cat := .narOut, sHi := true }
    | some wf, none =>
      let d := deliverVal g v.d.mode v.d.sat (v.sr l) (decodeQuire wf (quireConvAnchor v wf) code)
      { idx := l, code := d.code, cat := d.cat }
    | none, some wg =>
      let q := (unitTerm wg (quireConvAnchor v wg) e.val).rangeTest wg
      { idx := l, code := quireStore wg q, cat := if q.nar || q.sHi then .narOut else .plain, sLo := q.sLo, sHi := q.sHi,
        evs := wideEvents l [e] }
    | none, none =>
      let d := deliverVal g v.d.mode v.d.sat (v.sr l) e.val
      { idx := l, code := d.code, cat := d.cat, evs := wideEvents l [e] }

/-- The code that stands for a part not taken (R223, Table 2.11). -/
def narCode (f : Fmt) : Nat :=
  match f.quireW with
  | some w => 2 ^ (w - 1)
  | none => (deliverNar f).code

/-- The elements that chunk `c` of a sealed or provisional result writes at this member, and the tensor they go to: a
reduction's T2, a gather's whole tensor. A fused gather leaves the member's own part as it stands (R222). -/
def State.chunkOutsTo (s : State) (i : Inst) (o : Op) (dst : Tensor) (c : Nat) : RunOut :=
  let me := s.selfName i
  if i.isGather then
    let f := i.srcFmt o
    let v := { s.envOf o with t2 := dst }
    let fused := i.d.opcode ≠ opColl
    let n := i.elems / max 1 i.names.length
    -- every part is laid out as T0, whose group scales and codebooks this member holds (log entry 105, DEDUCED)
    let read (p l code : Nat) : Elem := i.d.t0.codeAs v.rd (unlinear i.d.t0.psizes (l - p * n)) code
    let left (p : Nat) : Bool := i.firstK ≠ 0 && i.parts.length == i.firstK && !i.parts.contains p
    let live := (i.pieces c).filter fun p =>
      !(fused && p.1 == me) && (left p.1 || (mget none i.held (2 ^ 20 * p.1 + c)).isSome)
    { dst := some dst,
      outs := live.flatMap fun p =>
        if left p.1 then
          (List.range p.2.2).map fun k => { idx := p.2.1 + k, code := narCode dst.fmt }
        else
          (unpackCodes f.bits p.2.2 ((mget none i.held (2 ^ 20 * p.1 + c)).getD [])).zipIdx.map fun x =>
            gatheredElem v f (p.2.1 + x.2) x.1 (read p.1 (p.2.1 + x.2) x.1) }
  else
    let v := s.envOf o
    let e := i.chunkElems c
    let t := i.takes me
    let bs := (mget none i.result c).getD []
    let gs := if i.exact then (i.decode e.2 bs).getD [] else []
    let codes := if i.exact then [] else unpackCodes i.xfer.bits e.2 bs
    { dst := some dst,
      outs := ((List.range e.2).filter fun k => t.1 ≤ e.1 + k && e.1 + k < t.1 + t.2).map fun k =>
        i.resultElem v (e.1 + k) (e.1 + k - t.1) (gs.getD k {}) (codes.getD k 0) }

/-- The tensor that an instance's result goes to: a reduction's T2, the whole tensor of a gather. -/
def Inst.resultTensor (i : Inst) : Tensor := if i.isGather then i.d.wholeSlot.2 else i.d.slot2

/-- The elements of chunk `c` as they are written to the instance's result. -/
def State.chunkOuts (s : State) (i : Inst) (o : Op) (c : Nat) : RunOut := s.chunkOutsTo i o i.resultTensor c

end Sys2Proof.Machine
end

