-- ==== Sys2Proof/Machine/CollFlow.lean ====
section
/-! DEFINITION. CollFlow: the stages of an instance (R217 to R219, Table 9.7), what each member sends and adds, and the
chunks and messages on their way (R225, R234). -/

namespace Sys2Proof.Machine

/-! ### Instances -/

/-- The instance `no` of a context. -/
def State.inst? (s : State) (c no : Nat) : Option Inst := s.insts.find? fun i => i.ctx == c && i.no == no

/-- An instance changed. -/
def State.setInst (s : State) (c no : Nat) (f : Inst → Inst) : State :=
  { s with insts := s.insts.map fun i => if i.ctx = c ∧ i.no = no then f i else i }

/-! ### Stages -/

/-- Algorithms of Table 9.7. -/
def agExchange : Nat := 0
def agScatter : Nat := 1
def agTree : Nat := 2
def agRing : Nat := 3

/-- The algorithm of a stage for a set of a nominal size (R218); barriers and scalar reductions always use ALG_LO
(R231). -/
def State.algFor (s : State) (st : Nat) (lo : Bool) (n : Nat) : Nat :=
  let f (hi low lim : Fld) : Nat := if lo ∨ n ≤ s.fget lim 0 then s.fget low 0 else s.fget hi 0
  match st with
  | 1 => f Fl.colThreshTAlgHi Fl.colThreshTAlgLo Fl.colThreshTLimit
  | 2 => f Fl.colThreshKAlgHi Fl.colThreshKAlgLo Fl.colThreshKLimit
  | _ => f Fl.colThreshSAlgHi Fl.colThreshSAlgLo Fl.colThreshSLimit

/-- A stage as one member takes part in it: its code, its subgroup in rank order, the member's rank, the algorithm, and
the chunks the member holds as it enters the stage inbound. -/
structure Stg where
  code : Nat
  sub : List Nat
  rank : Nat
  alg : Nat
  set : List Nat
  deriving DecidableEq, Repr

/-- The stages of a reduction, a barrier or a scalar reduction at this member, from a plan and an entering set
(R218, R219). -/
def State.redStages (s : State) (i : Inst) : List (Nat × List Nat) → List Nat → List Stg
  | [], _ => []
  | (st, sub) :: rest, set =>
    let m := sub.length
    let r := sub.idxOf (s.selfIdx i.ctx)
    let alg := s.algFor st i.isMsg (set.length * i.perChunk * i.nominal)
    let next := if alg = agExchange then set
      else if alg = agTree then (if r = 0 then set else [])
      else (set.zipIdx.filter fun x => x.2 % m == r).map fun x => x.1
    ⟨st, sub, r, alg, set⟩ :: s.redStages i rest next

/-- The stages of a gather (R219): the set that enters a stage is the parts that the stages before it have brought
together. -/
def State.gatStages (s : State) (i : Inst) : List (Nat × List Nat) → List Stg
  | [] => []
  | (st, sub) :: rest =>
    let parts := rest.foldl (fun n x => n * x.2.length) 1
    let n := ceilDiv (parts * (i.elems / max 1 i.names.length)) i.perChunk * i.perChunk * i.nominal
    ⟨st, sub, sub.idxOf (s.selfIdx i.ctx), s.algFor st false n, []⟩ :: s.gatStages i rest

/-- The chunks that an instance runs: from the first unsealed segment on, after a re-form (R237). -/
def Inst.live (i : Inst) : List Nat := (List.range i.chunks).filter fun c => i.firstSeg * i.seg ≤ c

/-- The stages of an instance at this member, in inbound order. -/
def State.stages (s : State) (i : Inst) : List Stg :=
  let plan := planOf (s.members i.ctx) (s.selfIdx i.ctx)
  if i.isGather then s.gatStages i plan else s.redStages i plan i.live

/-- A member's coordinate in a stage: its rank in the subgroup of that stage. -/
def coord (ms : List Nat) (st x : Nat) : Nat :=
  if regular ms then
    match st with
    | 1 => tRank ms x
    | 2 => kRank ms x
    | _ => rankBy (fun j => (tRank ms j, kRank ms j)) x
  else x

/-! ### Trees and rings (R218) -/

/-- The lowest set bit of a rank, as a power of two. -/
def lowBitOf (r : Nat) : Nat := 2 ^ lowBit 32 r

/-- Children of a rank in the binomial tree over `m` ranks. -/
def treeChildren (m r : Nat) : List Nat :=
  ((List.range 18).map fun j => 2 ^ j).filterMap fun b =>
    if (r = 0 ∨ b < lowBitOf r) ∧ r + b < m then some (r + b) else none

/-- Parent of a rank other than 0. -/
def treeParent (r : Nat) : Nat := r - lowBitOf r

/-- The ranks below a rank in the tree, itself included. -/
def treeBelow (m r : Nat) : List Nat :=
  if r = 0 then List.range m else (List.range (lowBitOf r)).filterMap fun k => if r + k < m then some (r + k) else none

namespace Stg

/-- Members of the subgroup, other than this one, as ranks. -/
def others (x : Stg) : List Nat := (List.range x.sub.length).filter (· ≠ x.rank)

/-- The rank that keeps a position of the set, in SCATTER and RING. -/
def keeper (x : Stg) (p : Nat) : Nat := p % x.sub.length

/-- Ranks that the chunk at position `p` comes from, inbound (Table 9.7). -/
def senders (x : Stg) (p : Nat) : List Nat :=
  let m := x.sub.length
  if x.alg = agExchange then x.others
  else if x.alg = agScatter then (if x.keeper p = x.rank then x.others else [])
  else if x.alg = agTree then treeChildren m x.rank
  else if x.rank = (x.keeper p + 1) % m then [] else [(x.rank + m - 1) % m]

/-- Ranks that the member's own part goes to as it enters the stage: EXCHANGE and SCATTER. -/
def ownDests (x : Stg) (p : Nat) : List Nat :=
  if x.alg = agExchange then x.others
  else if x.alg = agScatter ∧ x.keeper p ≠ x.rank then [x.keeper p]
  else []

/-- Ranks that the sum goes to: TREE and RING. -/
def sumDests (x : Stg) (p : Nat) : List Nat :=
  let m := x.sub.length
  if x.alg = agTree ∧ x.rank ≠ 0 then [treeParent x.rank]
  else if x.alg = agRing ∧ x.keeper p ≠ x.rank then [(x.rank + 1) % m]
  else []

/-- The member goes on to the next stage with the chunk. -/
def keeps (x : Stg) (p : Nat) : Bool :=
  x.alg == agExchange || (x.alg == agTree && x.rank == 0) ||
    ((x.alg == agScatter || x.alg == agRing) && x.keeper p == x.rank)

/-- The rank that a chunk starts from, outbound, in a reduction. -/
def origin (x : Stg) (p : Nat) : Nat := if x.alg = agTree then 0 else x.keeper p

/-- Outbound destinations of a rank that holds a chunk which started from rank `o`, each with the ranks that it brings
the chunk to. A gather by EXCHANGE goes straight to every other member, and by TREE down the tree counted from the part's
holder (log entry 37, DEDUCED). -/
def outDests (x : Stg) (gather : Bool) (o : Nat) : List (Nat × List Nat) :=
  let m := x.sub.length
  let rel := (x.rank + m - o) % m
  let abs (k : Nat) : Nat := (o + k) % m
  if x.alg = agExchange ∨ x.alg = agScatter then
    if x.rank = o ∧ (gather ∨ x.alg = agScatter) then x.others.map fun r => (r, [r]) else []
  else if x.alg = agTree then (treeChildren m rel).map fun k => (abs k, (treeBelow m k).map abs)
  else if rel + 1 < m then [(abs (rel + 1), ((List.range m).filter fun k => rel < k).map abs)]
  else []

end Stg

/-! ### Sending (R225, R234) -/

/-- The node ID that this module goes by in a context (R350). -/
def State.ctxNode (s : State) (c : Nat) : Nat :=
  if decide (512 ≤ c) then (s.twin.serves.getD s.node) else s.node

/-- A transaction of a collective engine, from the context's node. -/
def State.issueFrom (s : State) (src : Nat) (t : Txn) (stream : Nat) (who : Option Waiter) : State :=
  s.tagNext.issueOn { t with tag := s.newTag, src := src } stream who false

/-- The CHUNK transactions of one chunk (Tables 10.6 and 10.7): at most 4,096 bytes each; the last one is marked. -/
def State.sendChunk (s : State) (src : Nat) (x : Sent) : State :=
  let ps := if x.data.isEmpty then [[]] else piecesOf 4096 x.data.length x.data
  ps.zipIdx.foldl (fun (t : State) p =>
    let last := p.2 + 1 = ps.length
    t.issueFrom src { blankTxn ttChunk 2 x.dst with
      last := last, addr := 4096 * p.2, len := p.1.length, arg0 := x.tag0, arg1 := x.tag1, data := p.1 }
      (tgChunk x.tag1 % 16) (if last then some .coll else none)) s

/-- Chunks sent to a node in a direction and not yet acknowledged. -/
def State.inflight (s : State) (dst : Nat) (out : Bool) : Nat :=
  ((s.insts.flatMap (·.sent)).filter fun x => x.gone && !x.acked && x.dst == dst && tgOut x.tag1 == out).length

/-- Staging space in use (R225): every chunk sent, until its segment is sealed; chunks that wait for their instance or are
being put together; and, where BUF is STAGED, the chunks received. -/
def State.stagingUsed (s : State) : Nat :=
  let bytes (l : List Nat) : Nat := l.foldl (· + ·) 0
  bytes (s.insts.map fun i =>
    bytes ((i.sent.filter fun x => x.gone).map fun x => x.data.length) +
      (if i.d.direct then 0 else bytes (i.got.map fun g => g.data.length))) +
  bytes ((s.early.filter fun e => !e.msg).map fun e => e.data.length) +
  bytes (s.staging.map fun x => bytes (x.parts.map fun p => p.2.length))

/-- A chunk finds staging space. -/
def State.stages? (s : State) (x : Sent) : Bool := decide (s.stagingUsed + x.data.length ≤ s.stagingCap)

/-- A chunk waits because staging space is short (R225). -/
def State.stagingShort (s : State) (i : Inst) : Bool := i.sent.any fun x => !x.gone && !s.stages? x

/-- One retained chunk sent, where INFLIGHT and staging space allow (R225). -/
def State.pumpOne (i : Inst) (s : State) (x : Sent) : State :=
  if !x.gone && decide (s.inflight x.dst (tgOut x.tag1) < s.fget Fl.colChunkInflight 0) && s.stages? x then
    (s.setInst i.ctx i.no fun j => { j with
      sent := j.sent.map fun y => if y = x then { y with gone := true } else y }).sendChunk (s.ctxNode i.ctx) x
  else s

/-- Chunks that wait for their turn, in order. -/
def State.pump (s : State) : State := s.insts.foldl (fun t i => i.sent.foldl (State.pumpOne i) t) s

/-- A COLL_MSG sent (R234). -/
def State.sendMsg (s : State) (src : Nat) (x : Sent) : State :=
  s.issueFrom src { blankTxn ttCollMsg 1 x.dst with
    len := x.data.length, arg0 := x.tag0, arg1 := x.tag1, data := x.data } 0 (some .coll)

/-- A message sent and kept until it is acknowledged. -/
def State.postMsg (s : State) (c : Nat) (x : Sent) : State :=
  { s with msgs := s.msgs ++ [{ x with gone := true, since := s.now }] }.sendMsg (s.ctxNode c) x

/-- The residue of a chunk of an instance (R226). -/
def Inst.residue (i : Inst) (n : Nat) (bs : List Byte) : Nat :=
  if i.isReduce && i.exact then grpsResidue ((i.decode n bs).getD []) else bytesResidue bs

/-- A chunk, or the message of a barrier or scalar reduction, put on its way to a rank of a stage. A chunk is retained
until its segment is sealed (R225). -/
def State.toRank (s : State) (i : Inst) (x : Stg) (rank chunk : Nat) (out resend : Bool) (bs : List Byte) : State :=
  let dst := (s.members i.ctx).getD (x.sub.getD rank 0) 0
  let tag1 := s.instTag1 i x.code out resend chunk
  if i.isMsg then
    s.postMsg i.ctx { dst := dst, tag0 := tagWord0 0 i.no (s.groupNo i.ctx) false, tag1 := tag1, data := bs }
  else
    let tag0 := tagWord0 (i.residue (i.chunkElems chunk).2 bs) i.no (s.groupNo i.ctx) false
    s.setInst i.ctx i.no fun j => { j with sent := j.sent ++ [{ dst := dst, tag0 := tag0, tag1 := tag1, data := bs }] }

/-- The same to several ranks. -/
def State.toRanks (s : State) (i : Inst) (x : Stg) (ranks : List Nat) (chunk : Nat) (out resend : Bool)
    (bs : List Byte) : State :=
  ranks.foldl (fun t r => t.toRank i x r chunk out resend bs) s

/-! ### Outbound (R219) -/

/-- A member from which a taker of the chunk can still be reached: it agrees with the taker in the stages done, and in
the stages to come that move nothing outbound. -/
def State.leads (s : State) (i : Inst) (stg : List Stg) (j g chunk : Nat) : Bool :=
  let ms := s.members i.ctx
  (List.range ms.length).any fun x =>
    (i.isMsg || i.kind == kdAllReduce || i.kind == kdAllGather || i.takesChunk (i.names.idxOf (ms.getD x 0)) chunk) &&
    stg.zipIdx.all fun y =>
      (y.2 < j && (i.isGather || i.kind == kdBarrier || y.1.alg != agExchange)) ||
        coord ms y.1.code x == coord ms y.1.code g

/-- Outbound destinations of this member in stage `j`, for a chunk that started from rank `o`. -/
def State.outRanks (s : State) (i : Inst) (stg : List Stg) (j o chunk : Nat) : List Nat :=
  match stg[j]? with
  | none => []
  | some x =>
    -- the release of a barrier goes from its one root to every member
    let ds := x.outDests (i.isGather || i.kind == kdBarrier) o
    (ds.filter fun d => d.2.any fun r => s.leads i stg j (x.sub.getD r 0) chunk).map fun d => d.1

/-- The chunk sent on by its holder in the stages below `j`, the last inbound stage first. -/
def State.outBelow (s : State) (i : Inst) (stg : List Stg) (chunk : Nat) (resend : Bool) (bs : List Byte) : Nat → State
  | 0 => s
  | j + 1 =>
    let t := match stg[j]? with
      | none => s
      | some x => s.toRanks i x (s.outRanks i stg j x.rank chunk) chunk true resend bs
    t.outBelow i stg chunk resend bs j

/-! ### What a member takes -/

/-- The operation of an instance; where it has completed, what its descriptor still says of it. -/
def State.instOp (s : State) (i : Inst) : Op :=
  (s.op? i.op).getD { seq := i.op, room := 0, dom := 0, words := i.words }

/-- The instance belongs to the partner's context. -/
def State.instPartner (s : State) (i : Inst) : Bool := decide (512 ≤ i.ctx) && s.twin.serves.isSome

/-- With BUF = DIRECT, gathered parts and final results are written straight to their destinations (R225); their counts
and ledger events follow with the seal (log entry 103, DEDUCED). -/
def State.placeDirect (s : State) (c no chunk : Nat) : State :=
  match s.inst? c no with
  | none => s
  | some i =>
    if i.d.direct && i.takesChunk (s.selfName i) chunk then
      let o := s.instOp i
      let r := s.chunkOuts i o chunk
      s.ctxBitsAll o.partner (r.writes { s.envOf o with t2 := r.dst.getD o.d.slot2 })
    else s

/-- A result chunk arrives where it is taken, or is formed there: it is logged before any operation can read it
(Table 13.4, R229; log entry 38, DEDUCED). -/
def State.takeResult (s : State) (i : Inst) (tag0 tag1 : Word64) (chunk : Nat) (bs : List Byte) : State :=
  if i.takesChunk (s.selfName i) chunk && (mget none i.result chunk).isNone then
    ((s.setInst i.ctx i.no fun j => { j with result := mput none j.result chunk (some bs) }).logCollIn
      (s.instPartner i) tag0 tag1 bs).placeDirect i.ctx i.no chunk
  else s

/-- A total formed at this member (R219): taken, and sent outbound. -/
def State.total (s : State) (i : Inst) (chunk : Nat) (resend : Bool) (bs : List Byte) : State :=
  let stg := s.stages i
  let tag0 := tagWord0 (i.residue (i.chunkElems chunk).2 bs) i.no (s.groupNo i.ctx) false
  let t := s.takeResult i tag0 (s.instTag1 i 0 true false chunk) chunk bs
  t.outBelow i stg chunk resend bs stg.length

/-! ### Inbound -/

/-- A chunk enters inbound stage `k` at this member: what Table 9.7 sends at once is sent; where the member adds nothing,
the chunk goes on. Past the last stage it is a total; those of barriers and scalar reductions stay in `held`. -/
def State.enterStage (c no chunk : Nat) (resend : Bool) : Nat → State → Nat → List Byte → State
  | 0, s, _, _ => s
  | f + 1, s, k, bs =>
    match s.inst? c no with
    | none => s
    | some i =>
      let t := s.setInst c no fun j => { j with held := mput none j.held (2 ^ 20 * k + chunk) (some bs) }
      match (s.stages i)[k]? with
      | none => if i.isMsg then t else t.total i chunk resend bs
      | some x =>
        let p := x.set.idxOf chunk
        let t := t.toRanks i x (x.ownDests p) chunk false resend bs
        if x.senders p = [] then
          let t := t.toRanks i x (x.sumDests p) chunk false resend bs
          if x.keeps p then State.enterStage c no chunk resend f t (k + 1) bs else t
        else t

/-- The adder of a chunk that has all its inputs: the stage, and the inputs, the member's own first (R219). -/
def State.addable (s : State) (i : Inst) (chunk : Nat) : Option (Nat × Stg × List (List Byte)) :=
  (s.stages i).zipIdx.findSome? fun y =>
    let x := y.1
    let k := y.2
    let p := x.set.idxOf chunk
    match mget none i.held (2 ^ 20 * k + chunk) with
    | none => none
    | some own =>
      if i.added.contains (2 ^ 20 * k + chunk) || x.senders p == [] then none
      else
        let ins := (x.senders p).map fun r =>
          (i.got.find? fun g => g.stage == x.code && !g.out && g.chunk == chunk && g.src == x.sub.getD r 0).map
            fun (g : Got) => g.data
        if ins.all Option.isSome then some (k, x, own :: ins.map fun b => b.getD []) else none

/-- A sum leaves the adder of stage `k`. -/
def State.addDone (s : State) (i : Inst) (k : Nat) (x : Stg) (chunk : Nat) (bs : List Byte) : State :=
  let p := x.set.idxOf chunk
  let t := s.setInst i.ctx i.no fun j => { j with added := j.added ++ [2 ^ 20 * k + chunk] }
  let t := t.toRanks i x (x.sumDests p) chunk false false bs
  if x.keeps p then State.enterStage i.ctx i.no chunk false ((s.stages i).length + 1) t (k + 1) bs else t

/-! ### Gathers -/

/-- The members whose parts a member holds as it enters outbound stage `j`: those that agree with it in the stages up to
`j` (R219), by member number of the instance. -/
def State.partsAt (s : State) (i : Inst) (stg : List Stg) (j g : Nat) : List Nat :=
  let ms := s.members i.ctx
  ((List.range ms.length).filter fun x =>
    stg.zipIdx.all fun y => j < y.2 || coord ms y.1.code x == coord ms y.1.code g).map fun x => i.names.idxOf (ms.getD x 0)

/-- The bytes of the pieces of a chunk that lie in given parts, in order; none while one is missing or where there is
none. -/
def Inst.piecesOf (i : Inst) (f : Fmt) (parts : List Nat) (chunk : Nat) : Option (List Byte) :=
  let ps := (i.pieces chunk).filter fun p => parts.contains p.1
  let bs := ps.map fun p => mget none i.held (2 ^ 20 * p.1 + chunk)
  if ps.isEmpty || bs.any Option.isNone then none
  else some (packCodes f.bits ((ps.zip bs).flatMap fun x => unpackCodes f.bits x.1.2.2 (x.2.getD [])))

/-- A chunk is covered by given parts. -/
def Inst.covered (i : Inst) (parts : List Nat) (chunk : Nat) : Bool :=
  (i.pieces chunk).all fun p => parts.contains p.1

/-- The chunk sent by this member as the holder of its parts, in stage `j`: where the parts do not cover the chunk, it goes
straight to each member (log entry 37, DEDUCED). -/
def State.gatherFrom (s : State) (i : Inst) (f : Fmt) (stg : List Stg) (resend : Bool) (j chunk : Nat) : State :=
  match stg[j]? with
  | none => s
  | some x =>
    let parts := s.partsAt i stg j (s.selfIdx i.ctx)
    match i.piecesOf f parts chunk with
    | none => s
    | some bs =>
      let y := if i.covered parts chunk then x else { x with alg := agScatter }
      let ds := (y.outDests true y.rank).filter fun d => d.2.any fun r => s.leads i stg j (x.sub.getD r 0) chunk
      s.toRanks i x (ds.map fun d => d.1) chunk true resend bs

/-- A gathered part has arrived when all its pieces have (R223). -/
def Inst.partIn (i : Inst) (p : Nat) : Bool :=
  (List.range i.chunks).all fun c => (i.pieces c).all fun x => x.1 ≠ p || (mget none i.held (2 ^ 20 * p + c)).isSome

/-- Parts that have arrived since, in the order in which they did, at most FIRST_K (R223). -/
def Inst.noteParts (i : Inst) : Inst :=
  if i.firstK = 0 then i
  else
    let new := (List.range i.names.length).filter fun p => i.partIn p && !i.parts.contains p
    { i with parts := (i.parts ++ new).take i.firstK }

/-- Pieces of a chunk put where they belong. -/
def Inst.putPieces (i : Inst) (f : Fmt) (parts : List Nat) (chunk : Nat) (bs : List Byte) : Inst :=
  let ps := (i.pieces chunk).filter fun p => parts.contains p.1
  let codes := unpackCodes f.bits (ps.map fun p => p.2.2).sum bs
  ((ps.foldl (fun (x : Inst × List Nat) p =>
    ({ x.1 with held := mput none x.1.held (2 ^ 20 * p.1 + chunk) (some (packCodes f.bits (x.2.take p.2.2))) },
      x.2.drop p.2.2)) (i, codes)).1).noteParts

/-- The rank that a gathered chunk received in stage `j` started from: the one whose parts cover it, else its sender. -/
def State.gatherOrigin (s : State) (i : Inst) (stg : List Stg) (j : Nat) (x : Stg) (src chunk : Nat) : Nat :=
  match (List.range x.sub.length).find? fun r => i.covered (s.partsAt i stg j (x.sub.getD r 0)) chunk with
  | some r => r
  | none => x.sub.idxOf src

/-- A gathered chunk taken in stage `j` (R219): its pieces are kept, it is handed on within the stage, and sent as holder
in the stages below. -/
def State.gatherIn (s : State) (i : Inst) (f : Fmt) (stg : List Stg) (j : Nat) (x : Stg) (tag0 tag1 : Word64)
    (bs : List Byte) : State :=
  let chunk := tgChunk tag1
  let o := s.gatherOrigin i stg j x (tgSrc tag1) chunk
  let parts := s.partsAt i stg j (x.sub.getD o 0)
  let i2 := i.putPieces f parts chunk bs
  let t := (s.setInst i.ctx i.no fun _ => i2).logCollIn (s.instPartner i) tag0 tag1 bs
  let t := t.placeDirect i.ctx i.no chunk
  let t := if i.covered parts chunk then t.toRanks i2 x (t.outRanks i2 stg j o chunk) chunk true false bs else t
  (List.range j).reverse.foldl (fun (t : State) k => match t.inst? i.ctx i.no with
    | some i3 => t.gatherFrom i3 f stg false k chunk
    | none => t) t

end Sys2Proof.Machine
end

