-- ==== Sys2Proof/Machine/CollSeal.lean ====
section
/-! DEFINITION. CollSeal: the start of an instance, its seals and their effect, retraction, ends, and the loss of a member
(R222, R223, R227 to R237, R320, R321). -/

namespace Sys2Proof.Machine

/-- Member number `p` of an instance is still a member. -/
def State.partAlive (s : State) (i : Inst) (p : Nat) : Bool := (s.members i.ctx).contains (i.names.getD p 0)

/-! ### What has been delivered -/

/-- The first k parts have arrived (R223). -/
def Inst.firstDone (i : Inst) : Bool := i.firstK != 0 && decide (i.firstK ≤ i.parts.length)

/-- A chunk has been delivered to this member as far as it takes it. -/
def State.delivered (s : State) (i : Inst) (c : Nat) : Bool :=
  !i.takesChunk (s.selfName i) c ||
  (if i.isGather then
    (i.pieces c).all fun p => (mget none i.held (2 ^ 20 * p.1 + c)).isSome || !s.partAlive i p.1 ||
      (i.firstDone && !i.parts.contains p.1)
   else (mget none i.result c).isSome)

/-- The chunks of a segment (R216). -/
def Inst.segChunks (i : Inst) (g : Nat) : List Nat :=
  (List.range (min i.seg (i.chunks - g * i.seg))).map (· + g * i.seg)

/-- The chunks of a segment that member number `m` takes. -/
def Inst.segTaken (i : Inst) (g m : Nat) : List Nat := (i.segChunks g).filter (i.takesChunk m)

/-- Every chunk of a segment that this member takes has been delivered. -/
def State.segDelivered (s : State) (i : Inst) (g : Nat) : Bool := (i.segChunks g).all (s.delivered i)

/-- Every chunk of an instance that this member takes has been delivered. -/
def State.allDelivered (s : State) (i : Inst) : Bool := (List.range i.chunks).all (s.delivered i)

/-! ### Seal reports (R228, Table 9.18) -/

/-- The chunks that a complete segment has over the group. -/
def State.expected (s : State) (i : Inst) (g : Nat) : Nat :=
  ((s.members i.ctx).map fun n => (i.segTaken g (i.names.idxOf n)).length).foldl (· + ·) 0

/-- The result chunks of a segment as this member holds them. -/
def State.segBytes (s : State) (i : Inst) (g : Nat) : List Byte :=
  (i.segTaken g (s.selfName i)).flatMap fun c =>
    if i.isGather then (i.pieces c).flatMap fun p => (mget none i.held (2 ^ 20 * p.1 + c)).getD []
    else (mget none i.result c).getD []

/-- The ranks below this member in the tree over member indices. -/
def State.sealKids (s : State) (c : Nat) : List Nat := treeChildren (s.members c).length (s.selfIdx c)

/-- This member's report of a segment combined with those of its children, once all of them are there: chunks verified,
fault bit, digest. -/
def State.combined (s : State) (i : Inst) (g : Nat) : Option (Nat × Bool × Nat) :=
  let rs := (s.sealKids i.ctx).map fun k => mget none i.reports (2 ^ 20 * k + g)
  if !i.reported.contains g || rs.any Option.isNone then none
  else
    let same := i.kind == kdAllReduce || i.kind == kdAllGather
    let own := ((i.segTaken g (s.selfName i)).length, false, crc64 (s.segBytes i g))
    some (rs.foldl (fun (a : Nat × Bool × Nat) r => match r with
      | some b => (a.1 + b.1, a.2.1 || b.2.1 || (same && a.2.2 != b.2.2), if same then a.2.2 else Nat.xor a.2.2 b.2.2)
      | none => a) own)

/-- A seal report or a seal sent to a member. -/
def State.sendSeal (s : State) (i : Inst) (member : Nat) (out : Bool) (payload : List Byte) : State :=
  s.postMsg i.ctx
    { dst := (s.members i.ctx).getD member 0, tag0 := tagWord0 0 i.no (s.groupNo i.ctx) false,
      tag1 := tagWord1 (s.selfIdx i.ctx) i.epoch 0 out false i.d.wire kdSeal i.fmtCode 0, data := payload }

/-- Payload of a seal report. -/
def reportBytes (g : Nat) (r : Nat × Bool × Nat) : List Byte :=
  leBytes 4 g ++ leBytes 4 r.1 ++ leBytes 1 r.2.1.toNat ++ List.replicate 7 0 ++ leBytes 8 r.2.2

/-- Payload of a seal. -/
def sealBytes (g : Nat) (ok : Bool) (digest : Nat) : List Byte :=
  leBytes 4 g ++ leBytes 1 (if ok then 1 else 2) ++ List.replicate 3 0 ++ leBytes 8 digest

/-! ### Results written -/

/-- Two sets of counts added; each saturates. -/
def Counts.plus (a b : Counts) : Counts :=
  { infZero := sat32 (a.infZero + b.infZero), narOut := sat32 (a.narOut + b.narOut), spillHi := sat32 (a.spillHi + b.spillHi),
    spillLo := sat32 (a.spillLo + b.spillLo), flush := sat32 (a.flush + b.flush), sat := sat32 (a.sat + b.sat),
    gaugeRun := sat32 (a.gaugeRun + b.gaugeRun), gaugeSkip := sat32 (a.gaugeSkip + b.gaugeSkip) }

/-- The result elements of one chunk written, with their ledger events and counts (R221, R238). -/
def State.writeChunk (i : Inst) (o : Op) (s : State) (c : Nat) : State :=
  if i.takesChunk (s.selfName i) c then
    let r := s.chunkOuts i o c
    let v := { s.envOf o with t2 := r.dst.getD o.d.slot2 }
    let t := (s.noteMirror o.partner v.t2).ctxBitsAll o.partner (r.writes v)
    (t.ledger o.seq (r.outs.flatMap fun (x : OutElem) => x.evs)).setOp o.seq fun o => { o with cnt := o.cnt.plus (r.counts v) }
  else s

/-- The out-of-range indices of a result's write list (R147). -/
def State.resultIndex (s : State) (i : Inst) (o : Op) : State :=
  let t := if i.isGather then i.d.wholeSlot.2 else i.d.slot2
  let es := listEvents t (s.ctxRd o.partner)
  if (i.takes (s.selfName i)).2 = 0 ∨ es = [] then s
  else (s.ledger o.seq es).setOp o.seq fun o => { o with status := if o.status = 0 then 0x24 else o.status }

/-! ### Ends -/

/-- An instance leaves; a context without another one is idle (Table 9.3). -/
def State.dropInst (s : State) (i : Inst) : State :=
  let t := { s with insts := s.insts.filter fun j => !(j.ctx == i.ctx && j.no == i.no) }
  if (t.insts.any fun j => j.ctx == i.ctx) || t.fget Fl.grpStatState i.ctx != gsActive then t
  else t.fset Fl.grpStatState i.ctx gsIdle

/-- A sealed instance's operation goes on: a fused gather has filled its slot (R157); other results have been written. -/
def State.opProgress (s : State) (i : Inst) : State :=
  s.setOp i.op fun o =>
    if i.isGather && i.d.opcode != opColl then (if o.phase = .selected then { o with phase := .gathered } else o)
    else if o.phase = .rerun then o
    else { o with phase := .written, inArray := false }

/-- The retemper of a COLLECTIVE gather with a change of format (R187 to R189): from the parts that it holds. -/
def State.gatherRetemper (s : State) (i : Inst) : State :=
  let o := s.instOp i
  if i.isGather ∧ o.d.opcode = opColl ∧ (s.op? i.op).isSome then
    let v := s.envOf o
    let all := (List.range i.chunks).filter (i.takesChunk (s.selfName i))
    let n := (all.map fun c => ((s.chunkOuts i o c).live v).length).sum
    if o.d.overThresh n o.cnt.sat o.cnt.flush 0 then
      let wide := o.d.rtTensor
      s.retemperAdd o v { dst := some wide, outs := all.flatMap fun c => (s.chunkOutsTo i o wide c).outs }
    else s
  else s

/-- An instance is sealed (R228), or a message instance has its result. -/
def State.instDone (s : State) (i : Inst) : State :=
  let t := if i.isMsg then s else (s.resultIndex i (s.instOp i)).gatherRetemper i
  (t.opProgress i).dropInst i

/-- Instances of an operation leave with it. -/
def State.dropInsts (s : State) (seq : Nat) : State := (s.instsOf seq).foldl State.dropInst s

/-- An instance ends with COLL_FAULT or DETOUR_DENIED (R227, R228, R235, R237): its operation is lost with it (R338); no
result element of an unsealed segment is written. -/
def State.endInst (s : State) (i : Inst) (status : Nat) : State :=
  let t := (s.dropInsts i.op).dropInst i
  match t.op? i.op with
  | some o => t.opLost o status
  | none => t

/-! ### Retraction (R230) -/

/-- An operation's reductions forget what it contributed to them. -/
def State.forget (s : State) (seq : Nat) : State :=
  { s with insts := s.insts.map fun i =>
      if i.op = seq ∧ i.isReduce then { i with started := false, held := [], added := [], result := [] } else i }

/-- The bytes of the result elements of chunks, in this member's copy of the result. -/
def State.chunkExts (s : State) (i : Inst) (cs : List Nat) : List Extent :=
  let t := if i.isGather then i.d.wholeSlot.2 else i.d.slot2
  let own := i.takes (s.selfName i)
  let rd := s.ctxRd (s.instPartner i)
  cs.flatMap fun c =>
    let e := i.chunkElems c
    (List.range e.2).filterMap fun k =>
      let l := e.1 + k
      if own.1 ≤ l ∧ l < own.1 + own.2 then
        match t.place rd (unlinear t.psizes (if i.isGather then l else l - own.1)) with
        | .at b _ => some (b / 8, b / 8 + ceilDiv (b % 8 + t.w) 8)
        | _ => none
      else none

/-- The consumers that have read provisional chunks of an instance, among `cs`, are aborted and replayed (R230): the
operation whose gather it is, and the readers of its result. -/
def State.retract (s : State) (i : Inst) (cs : List Nat) : State :=
  let read := s.ops.filter fun o => o.specUsed && o.partner == s.instPartner i &&
    ((o.seq == i.op && i.isGather) ||
      (o.seq != i.op && (s.opIns o).any fun x => (s.chunkExts i cs).any fun y => x.meets y))
  read.foldl (fun t o => (t.forget o.seq).abortOp o.seq 0x07) s

/-! ### Start and restart -/

/-- The chunk of a gather put on its way from what this member holds, the highest stage first. -/
def State.gatherStart (s : State) (c no chunk : Nat) (resend : Bool) : State :=
  match s.inst? c no with
  | none => s
  | some i =>
    let stg := s.stages i
    (List.range stg.length).reverse.foldl (fun (t : State) k => match t.inst? c no with
      | some j => t.gatherFrom j (j.srcFmt (t.instOp j)) stg resend k chunk
      | none => t) s

/-- This member's own part of a chunk enters its instance: pieces of a gather, or the contribution to a reduction. -/
def State.enterOwn (s : State) (c no chunk : Nat) (resend : Bool) (bs : List Byte) : State :=
  match s.inst? c no with
  | none => s
  | some i =>
    if i.isGather then
      let me := s.selfName i
      if (i.pieces chunk).any fun p => p.1 == me then
        (s.setInst c no fun j => j.putPieces (i.srcFmt (s.instOp i)) [me] chunk bs).gatherStart c no chunk resend
      else s
    else State.enterStage c no chunk resend ((s.stages i).length + 1) s 0 bs

/-- What this member put into a chunk: its contribution, or its own piece. -/
def State.ownBytes (s : State) (i : Inst) (chunk : Nat) : Option (List Byte) :=
  mget none i.held (if i.isGather then 2 ^ 20 * s.selfName i + chunk else chunk)

/-- Chunks of an instance run again from what this member contributed (R228, R237). -/
def State.runAgain (s : State) (c no : Nat) (cs : List Nat) (resend : Bool) : State :=
  match s.inst? c no with
  | none => s
  | some i =>
    let keep := fun (k : Nat) => !cs.contains (k % 2 ^ 20) || (if i.isGather then k / 2 ^ 20 == s.selfName i else k < 2 ^ 20)
    let t := s.setInst c no fun j => { j with
      held := j.held.filter fun e => keep e.1,
      added := j.added.filter fun k => !cs.contains (k % 2 ^ 20),
      sent := j.sent.filter fun x => !cs.contains (tgChunk x.tag1),
      got := j.got.filter fun x => !cs.contains x.chunk,
      result := j.result.filter fun e => !cs.contains e.1 }
    cs.foldl (fun (t : State) k => match s.ownBytes i k with
      | some bs => t.enterOwn c no k resend bs
      | none => t) t

/-- The result chunks of an instance that the log still holds for a replay: tag words and bytes (R321). -/
def State.loggedFor (s : State) (i : Inst) : List (Word64 × Word64 × List Byte) :=
  (s.ctxLog (s.instPartner i)).collIns.filter fun e =>
    tgSeq e.1 == i.no % 2 ^ 32 && tgGroup e.1 == s.groupNo i.ctx && tgKind e.2.1 == i.kind

/-- A logged chunk given to an instance (R321). -/
def State.feedOne (c no : Nat) (s : State) (e : Word64 × Word64 × List Byte) : State :=
  match s.inst? c no with
  | none => s
  | some i =>
    let ch := tgChunk e.2.1
    if i.isGather then
      match (s.stages i).zipIdx.find? fun y => y.1.code == tgStage e.2.1 with
      | none => s
      | some y =>
        let o := s.gatherOrigin i (s.stages i) y.2 y.1 (tgSrc e.2.1) ch
        let parts := s.partsAt i (s.stages i) y.2 (y.1.sub.getD o 0)
        s.setInst c no fun j => j.putPieces (i.srcFmt (s.instOp i)) parts ch e.2.2
    else s.setInst c no fun j => { j with result := mput none j.result ch (some e.2.2) }

/-! ### Detours of a replay (R320) -/

/-- The logged outcome of a cause that a replay applies to an operation: the entry's SEQ is the one with which the same
descriptor was selected first (log entry 34, DEDUCED). -/
def State.loggedDetour (s : State) (o : Op) (cause : Nat) : Option (Nat × List Nat) :=
  let l := s.ctxLog o.partner
  let mine := l.chosen.filter fun c => c.2.1 == o.logRoom && c.1 != o.seq &&
    (l.chosen.any fun d => d.1 == o.seq && d.2 == c.2)
  l.detours.find? fun e => e.1 == cause && mine.any fun c => c.1 == e.2.headD 0

/-- A logged outcome has been applied. -/
def State.usedDetour (s : State) (p : Bool) (e : Nat × List Nat) : State :=
  s.setLog p fun l => { l with detours := l.detours.erase e }

/-! ### Re-forming (R237) -/

/-- The membership of a context without one member: the later indices move down, EPOCH advances, and the plan follows. -/
def State.exclude (s : State) (c m : Nat) : State :=
  let x := mget {} s.ctxs c
  let self := s.selfIdx c
  let ms := x.members.eraseIdx m
  let dead := x.members.getD m 0
  let t := { s with ctxs := mput {} s.ctxs c { x with members := ms, suspects := x.suspects.filter (· ≠ dead) } }
  let t := (t.fset Fl.grpStatSelf c (if m < self then self - 1 else self)).finc Fl.grpStatEpoch c
  (t.fset Fl.grpStatFlat c (!regular ms).toNat).hwset Fl.grpCfgCount c ms.length

/-- The first segment of an instance that is not sealed. -/
def Inst.firstOpen (i : Inst) : Nat := ((List.range i.segs).find? fun g => !i.sealedSegs.contains g).getD i.segs

/-- One unsealed instance restarts from its first unsealed segment under the new membership. -/
def State.reformInst (c no : Nat) (s : State) : State :=
  match s.inst? c no with
  | none => s
  | some i =>
    let g := i.firstOpen
    let t := (s.retract i ((List.range i.chunks).filter fun k => g * i.seg ≤ k)).setInst c no fun j => { j with
      epoch := s.fget Fl.grpStatEpoch c, firstSeg := g, reported := j.sealedSegs, reports := [], sealFails := [] }
    if i.started then
      let t := if i.isMsg then t.setInst c no fun j => { j with got := [], added := [], held := j.held.filter fun e => e.1 < 2 ^ 20 } else t
      t.runAgain c no ((List.range i.chunks).filter fun k => g * i.seg ≤ k) true
    else t

/-- The detours of a re-form in the records of the operations it affects: exclusion of a member, and for a
ROUNDED_FIXED instance that restarts the second cause (R237, R319). -/
def State.reformOp (s : State) (i : Inst) : State :=
  let t := s.setOp i.op fun o => o.detour 0
  if i.isReduce && !i.exact then t.setOp i.op fun o => o.detour 1 else t

/-- The detours of a re-form counted and logged: one for the exclusion, one for each ROUNDED_FIXED instance. -/
def State.reformDetours (s : State) (c m : Nat) (is : List Inst) : State :=
  let p := decide (512 ≤ c) && s.twin.serves.isSome
  let g := s.groupNo c
  let ep := s.fget Fl.grpStatEpoch c
  let first := ((is.head?).map Inst.firstOpen).getD 0
  let t := s.detour p 0 (((is.head?).map fun (i : Inst) => i.op).getD noSeq)
    (leBytes 4 g ++ leBytes 4 ep ++ leBytes 4 m ++ leBytes 4 first)
  (is.filter fun i => i.isReduce && !i.exact).foldl (fun (t : State) i =>
    t.detour p 1 i.op (leBytes 4 g ++ leBytes 4 i.no ++ leBytes 4 ep)) t

/-- A context re-formed without member `m` (R237); `log` is false where a replay applies a recorded outcome (R320). -/
def State.reform (s : State) (c m : Nat) (log : Bool) : State :=
  let is := s.insts.filter fun i => i.ctx == c
  let t := s.exclude c m
  let t := if log then (t.reformDetours c m is).collEvent c 0x09 .degraded 0 0 else t
  let t := is.foldl State.reformOp t
  let t := is.foldl (fun (t : State) i => t.reformInst c i.no) t
  let busy := is.any fun i => (t.inst? c i.no).isSome
  (t.fset Fl.grpStatState c (if !(mget {} t.ctxs c).suspects.isEmpty then gsSuspect else if busy then gsActive else gsIdle)).pump

/-- A context fails: its unsealed instances end with a status, and it accepts no collective (R235, R237). -/
def State.failCtx (s : State) (c status : Nat) : State :=
  let t := (s.insts.filter fun i => i.ctx == c).foldl (fun (t : State) i =>
    if (t.inst? c i.no).isSome then t.endInst i status else t) s
  t.fset Fl.grpStatState c gsFailed

/-! ### Seals -/

/-- The seal reports, or the seals, of a segment are no longer taken for copies of earlier ones: after a failed seal the
segment is reported, and sealed, again (R228, R234; log entry 104, DEDUCED). -/
def State.forgetSeen (s : State) (i : Inst) (g : Nat) (out : Bool) : State :=
  { s with seen := s.seen.filter fun k =>
      !(tgSeq k.1 == i.no % 2 ^ 32 && tgGroup k.1 == s.groupNo i.ctx && tgKind k.2.1 == kdSeal && tgOut k.2.1 == out &&
        k.2.2 == g) }

/-- A segment's seal acted on at this member (R228): its results are written and its retained chunks freed; after a failure
everything of it is run and reported again, and a second failure ends the instance. -/
def State.sealAct (s : State) (c no g : Nat) (ok : Bool) : State :=
  match s.inst? c no with
  | none => s
  | some i =>
    let cs := i.segChunks g
    if i.sealedSegs.contains g then s
    else if ok then
      let t := (cs.foldl (State.writeChunk i (s.instOp i)) s).setInst c no fun j => { j with
        sealedSegs := j.sealedSegs ++ [g],
        sent := j.sent.filter fun x => !cs.contains (tgChunk x.tag1) }
      match t.inst? c no with
      | some j => if j.sealed then t.instDone j else t
      | none => t
    else
      let cls : Cls := if mget 0 i.sealFails g = 0 then .recovered else .lost
      let t := s.collEvent c 0x05 cls 0 0
      if mget 0 i.sealFails g = 0 then
        let t := ((t.retract i cs).forgetSeen i g false).setInst c no fun j => { j with
          sealFails := mput 0 j.sealFails g 1, reported := j.reported.filter (· ≠ g),
          reports := j.reports.filter fun e => e.1 % 2 ^ 20 ≠ g }
        t.runAgain c no cs true
      else t.endInst i 0x23

/-- A seal handed down the tree and acted on. -/
def State.sealDown (s : State) (i : Inst) (g : Nat) (ok : Bool) (digest : Nat) : State :=
  ((s.sealKids i.ctx).foldl (fun (t : State) k => t.sendSeal i k true (sealBytes g ok digest)) s).sealAct i.ctx i.no g ok

/-- The root's decisions that can be made now: instances of one context are sealed in order (R214, R228). -/
def State.rootSeals (c : Nat) : Nat → State → State
  | 0, s => s
  | f + 1, s =>
    match s.insts.find? fun i => i.ctx == c && !i.isMsg with
    | none => s
    | some i =>
      match (List.range i.segs).find? fun g => !i.sealedSegs.contains g && (s.combined i g).isSome with
      | none => s
      | some g =>
        match s.combined i g with
        | none => s
        | some r => State.rootSeals c f (s.sealDown i g (r.1 == s.expected i g && !r.2.1) r.2.2)

/-- Decisions enough for every segment of a context, each at most twice. -/
def State.sealFuel (s : State) : Nat := 2 * (s.insts.map fun (i : Inst) => i.segs).sum + 1

/-- A complete report goes up the tree; at member 0 it is decided. -/
def State.reportUp (s : State) (c no g : Nat) : State :=
  match s.inst? c no with
  | none => s
  | some i =>
    if s.selfIdx c = 0 then State.rootSeals c s.sealFuel s
    else match s.combined i g with
      | some r => s.sendSeal i (treeParent (s.selfIdx c)) false (reportBytes g r)
      | none => s

/-- The detour of a GATHER that takes the first k parts (R223): once for the instance; counted, in its record, and
logged. -/
def State.firstKDetour (s : State) (i : Inst) (g : Nat) : State :=
  let o := s.instOp i
  if i.firstK = 0 ∨ bitsOf o.detCause 2 2 = 1 then s
  else
    let words := [s.groupNo i.ctx, i.no, g] ++ i.parts
    (s.detour o.partner 2 o.seq (words.flatMap (leBytes 4))).setOp o.seq fun o => o.detour 2

/-- This member reports a segment (R228). -/
def State.report (s : State) (c no g : Nat) : State :=
  match s.inst? c no with
  | none => s
  | some i =>
    if i.started && !i.isMsg && decide (g < i.segs) && !i.reported.contains g && s.segDelivered i g then
      (((s.firstKDetour i g).forgetSeen i g true).setInst c no fun j => { j with
        reported := j.reported ++ [g] }).reportUp c no g
    else s

/-! ### An instance starts -/

/-- FIRST_K under DET_STRICT: the GATHER waits for every part, and its record shows DETOUR_DENIED (R223). A replay takes the
parts that the log names (R320). -/
def State.firstKStart (s : State) (i : Inst) : State :=
  let o := s.instOp i
  let p := o.partner
  if i.firstK = 0 then s
  else match s.loggedDetour o 2 with
    | some e =>
      let t := (s.usedDetour p e).setInst i.ctx i.no fun j => { j with parts := e.2.drop 4, firstK := (e.2.drop 4).length }
      t.setOp o.seq fun o => o.detour 2
    | none =>
      if s.ctxStrict p then
        ((s.setInst i.ctx i.no fun j => { j with firstK := 0 }).setOp o.seq fun o => { o with status := 0x22 }).collEvent
          i.ctx 0x0A .lost 0 0
      else s

/-- A logged re-form applied where a replay reaches the operation it affected (R320). -/
def State.reformStart (s : State) (i : Inst) : State :=
  let o := s.instOp i
  match s.loggedDetour o 0 with
  | some e =>
    let t := (s.usedDetour o.partner e).reform i.ctx (e.2.getD 3 0) false
    match t.loggedDetour o 1 with
    | some f => t.usedDetour o.partner f
    | none => t
  | none => s

/-- An instance's result chunks are all in the log of a replay, so that it is not run again (R321): it takes some, or its
operation had been selected before the replay began. -/
def State.sealedBefore (s : State) (i : Inst) : Bool :=
  let l := s.ctxLog (s.instPartner i)
  l.replaying && !i.started &&
    (!(s.loggedFor i).isEmpty || (!i.isMsg && decide (0 < (s.instOp i).base) && !s.instPartner i))

/-- A sealed instance of a replay: its logged results stand, and nothing is sent. -/
def State.sealLogged (s : State) (i : Inst) : State :=
  (List.range i.segs).foldl (fun (t : State) g => t.sealAct i.ctx i.no g true) s

/-- An instance starts with this member's own bytes, chunk by chunk. In a replay an instance whose results are all in the
log is sealed at once. -/
def State.startInst (s : State) (c no : Nat) (own : Nat → List Byte) : State :=
  match s.inst? c no with
  | none => s
  | some i =>
    if i.started ∨ (i.isMsg ∧ s.sealedBefore i) then s
    else
      let t := (s.firstKStart i).reformStart i
      let fed := if t.sealedBefore i then (t.loggedFor i).foldl (State.feedOne c no) t else t
      match fed.inst? c no with
      | none => fed
      | some j =>
        if t.sealedBefore i && !j.isMsg then
          let fed := if j.isGather then fed.setInst c no fun j => (j.live).foldl (fun (j : Inst) k =>
            if (j.pieces k).any fun p => p.1 == fed.selfName j then
              j.putPieces (j.srcFmt (fed.instOp j)) [fed.selfName j] k (own k) else j) j else fed
          match fed.inst? c no with
          | some k => if fed.allDelivered k then fed.sealLogged k
                      else (k.live.foldl (fun (t : State) n => t.enterOwn c no n false (own n))
                        (t.setInst c no fun j => { j with started := true, since := t.now })).pump
          | none => fed
        else
          let u := t.setInst c no fun j => { j with started := true, since := t.now }
          match u.inst? c no with
          | some k => (k.live.foldl (fun (t : State) n => t.enterOwn c no n false (own n)) u).pump
          | none => u

end Sys2Proof.Machine
end

