-- ==== Sys2Proof/Machine/Lanes.lean ====
section
/-! DEFINITION. Lanes: what a port puts on its lanes: alignment sequences, RS(544,514) codewords over its unbroken flit
stream, and the symbol interleave (R242, R244, R245). -/

namespace Sys2Proof.Machine

/-! ### The code of IEEE 802.3 (R244; log entry 96, PRESUMED) -/

/-- A product in GF(2^10), whose polynomial is x^10 + x^3 + 1. -/
def laneMul (a b : Nat) : Nat :=
  (List.range 10).foldl (fun r k =>
    let d := if 512 ≤ r then Nat.xor (2 * r) 0x409 else 2 * r
    if b / 2 ^ (9 - k) % 2 = 1 then Nat.xor d a else d) 0

/-- A polynomial, lowest power first, times x + r. -/
def laneTimesRoot (r : Nat) (g : List Nat) : List Nat :=
  List.zipWith Nat.xor (0 :: g) (g.map (laneMul r) ++ [0])

/-- The generator: its roots are the first 30 powers of 2. -/
def laneGen : List Nat :=
  ((List.range 30).foldl (fun (x : List Nat × Nat) _ => (laneTimesRoot x.2 x.1, laneMul 2 x.2)) ([1], 1)).1

/-- One message symbol through the encoder's register, lowest power first. -/
def laneStep (g reg : List Nat) (m : Nat) : List Nat :=
  let fb := Nat.xor m (reg.getLastD 0)
  List.zipWith (fun a b => Nat.xor a (laneMul fb b)) (0 :: reg.dropLast) (g.take 30)

/-- A codeword in the order it is sent: 514 message symbols, then 30 check symbols, highest power first. -/
def laneCodeword (msg : List Nat) : List Nat :=
  msg ++ (msg.foldl (laneStep laneGen) (List.replicate 30 0)).reverse

/-! ### Flits to lanes (R244, R245) -/

/-- Message symbols of 5,140 bits: symbol j is bits 10 j to 10 j + 9. -/
def messageSymbols (bits : Nat) : List Nat := (List.range 514).map fun j => bits / 2 ^ (10 * j) % 1024

/-- A group of four codewords on `n` lanes: slot p of lane l is symbol n * (p / 4) + l of codeword p mod 4. -/
def interleave (n : Nat) (group : List (List Nat)) : List (List Nat) :=
  (List.range n).map fun l => (List.range (2176 / n)).map fun p =>
    (group.getD (p % 4) []).getD (n * (p / 4) + l) 0

/-- A complete codeword joins its group; the fourth of a group puts the group on the lanes. -/
def FecTx.push (x : FecTx) (n : Nat) (cw : List Nat) : FecTx :=
  let g := x.group ++ [cw]
  if g.length < 4 then { x with group := g, count := (x.count + 1) % 512 }
  else { x with group := [], sent := interleave n g, count := (x.count + 1) % 512 }

/-- The bits of a flit join the message stream, across codeword boundaries and with no gap. -/
def FecTx.flit (x : FecTx) (n : Nat) (bytes : List Byte) : FecTx :=
  let msg := x.msg + leNat bytes * 2 ^ x.bits
  let bits := x.bits + 8 * bytes.length
  if bits < 5140 then { x with msg := msg, bits := bits }
  else { x with msg := msg / 2 ^ 5140, bits := bits - 5140 }.push n (laneCodeword (messageSymbols (msg % 2 ^ 5140)))

/-! ### Alignment (R242) -/

/-- An alignment lane word (Table 10.16; log entry 96, PRESUMED). -/
def alignWord (lane count passed proposed : Nat) (final : Bool) : Nat :=
  let top := 0x7A1EC0D3 * 2 ^ 64 + lane % 256 * 2 ^ 56 + count % 256 * 2 ^ 48 + passed % 256 * 2 ^ 40 +
    proposed % 256 * 2 ^ 32 + final.toNat * 2 ^ 31
  top * 2 ^ 64 + crc32 (leBytes 12 top) * 2 ^ 32

/-- The alignment sequence of each lane. -/
def alignSequence (lanes : List Nat) (passed proposed : Nat) (final : Bool) : List (Nat × List Nat) :=
  lanes.map fun l => (l, (List.range 64).map fun c => alignWord l c passed proposed final)

/-- A sequence added to the words that each lane has sent. -/
def addSequence (sent more : List (Nat × List Nat)) : List (Nat × List Nat) :=
  more.map fun e => (e.1, (((sent.find? fun f => f.1 == e.1).map fun (f : Nat × List Nat) => f.2).getD []) ++ e.2)

end Sys2Proof.Machine
end

