-- ==== Sys2Proof/Machine/Port.lean ====
section
/-! DEFINITION. Port: a Torwald port from its training to its flits: states, alignment, CONFIG, retry, credits, the choice
of the next flit, framing, and the delay measurement (R239 to R258, R263). -/

namespace Sys2Proof.Machine

/-! ### Transactions as bytes (Table 10.6) -/

/-- Word 0 of a transaction header. -/
def Txn.word0 (t : Txn) : Nat :=
  t.ttype % 256 * 2 ^ 56 + t.last.toNat * 2 ^ 55 + t.once.toNat * 2 ^ 54 + t.dst % 2 ^ 18 * 2 ^ 32 +
    t.src % 2 ^ 18 * 2 ^ 14 + t.len % 2 ^ 13

/-- Word 1 of a transaction header. -/
def Txn.word1 (t : Txn) : Nat := t.tag % 2 ^ 16 * 2 ^ 48 + t.status % 256 * 2 ^ 40 + t.addr % 2 ^ 40

/-- A transaction as the bytes of its channel's stream. -/
def txnBytes (t : Txn) : List Byte := wordsBytes [Txn.word0 t, Txn.word1 t, t.arg0.toNat, t.arg1.toNat] ++ t.data

/-- The transaction at the head of a channel's stream, and the rest; none while bytes of it are missing. -/
def nextTxn (vc : Nat) (bs : List Byte) : Option (Txn × List Byte) :=
  if bs.length < 32 then none
  else
    let w := fun (k : Nat) => leNat ((bs.drop (8 * k)).take 8)
    let len := bitsOf (w 0) 12 0
    if bs.length < 32 + len then none
    else some (
      { ttype := bitsOf (w 0) 63 56, vc := vc, last := bitsOf (w 0) 55 55 = 1, once := bitsOf (w 0) 54 54 = 1,
        dst := bitsOf (w 0) 49 32, src := bitsOf (w 0) 31 14, len := len, tag := bitsOf (w 1) 63 48,
        status := bitsOf (w 1) 47 40, addr := bitsOf (w 1) 39 0, arg0 := BitVec.ofNat 64 (w 2),
        arg1 := BitVec.ofNat 64 (w 3), data := (bs.drop 32).take len }, bs.drop (32 + len))

/-- Every whole transaction at the head of a stream, in order, and what is left (R258). -/
def frames (vc : Nat) : Nat → List Byte → List Txn × List Byte
  | 0, bs => ([], bs)
  | f + 1, bs =>
    match nextTxn vc bs with
    | none => ([], bs)
    | some (t, r) =>
      let (ts, rest) := frames vc f r
      (t :: ts, rest)

/-- The channels of a transaction type (Table 10.7); none for an unknown type. -/
def vcsOf (ttype : Nat) : List Nat :=
  if ttype = ttRead then [3] else if ttype = ttReadRsp then [4] else if ttype = ttWrite then [4, 7]
  else if ttype = ttWriteAck then [4] else if ttype = ttWorkOrder ∨ ttype = ttWorkAck then [5]
  else if ttype = ttChunk ∨ ttype = ttChunkAck then [2] else if ttype = ttCollMsg then [1]
  else if ttype = ttMirror ∨ ttype = ttMirrorAck then [6] else if ttype = ttMgmt then [0] else []

/-- Why a transaction is discarded on arrival, as Table 14.19 codes it: unknown type, wrong channel, malformed length, MGMT
from a port that is not a PLANE port (R258, R262). -/
def State.screen (s : State) (p : Nat) (t : Txn) : Option Nat :=
  if (vcsOf t.ttype).isEmpty then some 0x01
  else if !(vcsOf t.ttype).contains t.vc then some 0x02
  else if 4096 < t.len ∨ (t.ttype = ttWorkOrder ∧ t.len ≠ 256) then some 0x05
  else if t.ttype = ttMgmt ∧ s.portRole p ≠ 2 then some 0x04
  else none

/-- PROTOCOL (Table 14.19). -/
def State.protocolEvent (s : State) (p d4 d5 : Nat) : State :=
  s.logEvent { code := 0x0F, cls := .peer, quarter := portQuarter p, loc := p, d4 := d4, d5 := d5 }

/-! ### Training (R240 to R243, R253) -/

/-- The state of Table 10.2 that a port's training is in: its own, or the one a retrain passes through. -/
def State.trainPhase (s : State) (p : Nat) : Nat :=
  if s.fget Fl.portStatState p = 6 then (s.port p).retrain else s.fget Fl.portStatState p

/-- A port moves on in its training; in a retrain STATE stays RETRAIN. -/
def State.trainTo (s : State) (p phase : Nat) : State :=
  if s.fget Fl.portStatState p = 6 then s.setPort p { s.port p with retrain := phase }
  else s.fset Fl.portStatState p phase

/-- Buffered flits cut down to a number of bytes. -/
def trimFlits : Nat → List Nat → List Nat
  | _, [] => []
  | n, f :: r => if n = 0 then [] else if n ≤ f then [n] else f :: trimFlits (n - f) r

/-- Bytes of the whole transactions of a channel that wait to be executed. -/
def Port.rxBytes (x : Port) (v : Nat) : Nat :=
  ((x.rxq.filter fun e => e.txn.vc = v).map fun (e : RxTxn) => 32 + e.txn.len).sum

/-- A link that trains from DETECT starts anew, with SEQ and expected SEQ 0 (R249): transactions with an unacknowledged flit
wait again, and a transaction that had not come whole is gone (log entry 71, DESIGN CHOICE). -/
def Port.anew (x : Port) : Port :=
  let held := x.held
  { x with
    trained := false, seq := 0, acked := 4095, expect := 0, replay := [], resend := [], credit := [], owed := [], round := [],
    txq := (List.range 8).foldl (fun (m : SMap (List Txn)) v => mput [] m v (held.filter fun t => t.vc = v)) [],
    cur := [], txb := [], rxb := [],
    rxFlits := (List.range 8).foldl (fun (m : SMap (List Nat)) v =>
      mput [] m v (trimFlits (x.rxBytes v) (mget [] x.rxFlits v))) [] }

/-- PORT_DETECT: training frames of the far end. -/
def execPortDetect (p : Nat) (s : State) : Outcome := act s fun s =>
  if p < 12 ∧ s.fget Fl.portStatState p = 1 then
    (s.setPort p (s.port p).anew).fset Fl.portStatState p 2
  else s

/-- Lanes that were trained and have not failed: they send alignment sequences (R242). -/
def State.lanesTrained (s : State) (p : Nat) : List Nat :=
  (List.range 8).filter fun l =>
    bitsOf (s.fget Fl.portLanesFailed p) l l = 0 && bitsOf (s.fget Fl.portLanesDisable p) l l = 0

/-- Lanes that count as passed: trained, not failed in the last EQUALISE and not WEAK (R246, R253). -/
def State.passedLanes (s : State) (p : Nat) : List Nat :=
  (List.range 8).filter fun l =>
    bitsOf (s.fget Fl.portLanesFailed p) l l = 0 && bitsOf (s.fget Fl.portLanesWeak p) l l = 0 &&
      bitsOf (s.fget Fl.portLanesDisable p) l l = 0

/-- Lanes of a width code: 8, 4 or 2. -/
def lanesOfWidth (w : Nat) : Nat := 8 / 2 ^ w


/-- The lane sets of R253, widest first and then lowest, each with its width code. -/
def laneSets : List (Nat × List Nat) :=
  [(0, [0, 1, 2, 3, 4, 5, 6, 7]), (1, [0, 1, 2, 3]), (1, [4, 5, 6, 7]), (2, [0, 1]), (2, [2, 3]), (2, [4, 5]), (2, [6, 7])]

/-- The set that both ends propose: the widest whose lanes both of them passed (R242, R253). -/
def chooseLanes (own far : List Nat) : Option (Nat × List Nat) :=
  laneSets.find? fun x => x.2.all fun l => own.contains l && far.contains l

/-- Lanes as the bits of a field. -/
def laneBits (l : List Nat) : Nat := (l.map fun k => 2 ^ k).sum

/-- One alignment sequence sent on every lane that has not failed (R242). -/
def State.sendAlign (s : State) (p proposed : Nat) (final : Bool) : State :=
  let x := s.port p
  s.setPort p { x with
    align := addSequence x.align (alignSequence (s.lanesTrained p) (laneBits (s.passedLanes p)) proposed final) }

/-- A port enters ALIGN: it sends alignment sequences. Until the far end's PASSED is known it proposes no lane
(log entry 100, DESIGN CHOICE). -/
def State.alignBegin (s : State) (p : Nat) : State :=
  let t := s.trainTo p 3
  (t.setPort p { t.port p with align := [], alignAt := s.now }).sendAlign p 0 false

/-- EQUALISE_DONE (R241): failed lanes are marked; too few for MIN_WIDTH take the port down. -/
def execEqualiseDone (p : Nat) (failed : BitVec 8) (s : State) : Outcome := act s fun s =>
  if p < 12 ∧ s.trainPhase p = 2 then
    let t := s.fset Fl.portLanesFailed p (failed.toNat - failed.toNat.land (s.fget Fl.portLanesDisable p))
    if (t.passedLanes p).length < lanesOfWidth (t.fget Fl.portCtlMinWidth p) then t.portDown p 0x02
    else t.alignBegin p
  else s

/-- ALIGN fails (R242, Table 10.2): the first two failures lead back to EQUALISE, the third takes the port down. -/
def State.alignFail (s : State) (p : Nat) : State :=
  let n := (s.port p).alignFails + 1
  let t := s.setPort p { s.port p with alignFails := n }
  if 3 ≤ n then t.portDown p 0x05 else t.trainTo p 2

/-- Receive buffer of each channel, in flits (Table 10.5). -/
def bufferFlits : List Nat := [32, 128, 768, 128, 512, 64, 256, 160]

/-- Flits of a channel's receive buffer that are free (R255). -/
def Port.freeFlits (x : Port) (v : Nat) : Nat := bufferFlits.getD v 0 - (mget [] x.rxFlits v).length

/-- This end's CONFIG payload (Table 10.17): its initial credits are what its receive buffer has free. -/
def State.configPayload (s : State) (p : Nat) : List Byte :=
  [0x01, BitVec.ofNat 8 p, BitVec.ofNat 8 (s.portRole p), BitVec.ofNat 8 (2 * s.fget Fl.portCtlTwin p)] ++
    leBytes 4 s.node ++ ((List.range 8).map (s.port p).freeFlits).flatMap (leBytes 2) ++ leBytes 2 1 ++
    List.replicate 22 0

/-- A PROBE begun (R263): its number advances by one and wraps. Its bell is filled in as it is sent. -/
def State.startProbe (s : State) (p : Nat) : State :=
  let x := s.port p
  let no := (x.probeNo + 1) % 256
  s.setPort p { x with
    probeNo := no, probe := some (no, s.now), spoiled := false, probeAt := s.now,
    ctrl := x.ctrl ++ [[0x03, BitVec.ofNat 8 no] ++ List.replicate 14 0] }

/-- The port leaves ALIGN for CONFIG with a width and its lanes (R242, R245, R253); a retrain measures the delay again before it
is ACTIVE (R263). -/
def State.alignTo (s : State) (p w : Nat) (ls : List Nat) : State :=
  let again := s.fget Fl.portStatState p = 6
  let t := (s.trainTo p 4).fset Fl.portStatWidth p w
  let x := t.port p
  let t := t.setPort p { x with
    lanes := BitVec.ofNat 8 (laneBits ls), configOk := false, badCw := 0, nakDue := false, nakOut := false,
    resumeDue := x.trained, resend := [], ctrl := [t.configPayload p], fec := {} }
  if again then t.startProbe p else t

/-- ALIGN_DONE (R242, R253): four sequences of the far end have come on every lane. This end proposes the lanes that both ends
passed. Where the far end proposes the same, each sends its last sequence and the port exchanges CONFIG; a last sequence of
the far end that proposes others fails ALIGN. `farPassed` and `farProposed` are in this end's lane order. -/
def execAlignDone (p : Nat) (far : AlignFar) (s : State) : Outcome := act s fun s =>
  if p < 12 ∧ s.trainPhase p = 3 then
    match chooseLanes (s.passedLanes p) ((List.range 8).filter fun l => far.passed.getLsbD l) with
    | none => s.portDown p 0x02
    | some (w, ls) =>
      if s.fget Fl.portCtlMinWidth p < w then s.portDown p 0x02
      else
        let t := s.sendAlign p (laneBits ls) false
        if far.proposed.toNat ≠ laneBits ls then t.alignFail p
        else (t.sendAlign p (laneBits ls) true).alignTo p w ls
  else s

/-- ALIGN_TIMEOUT (R242): 10 µs in ALIGN. -/
def execAlignTimeout (p : Nat) (s : State) : Outcome := act s fun s =>
  if p < 12 ∧ s.trainPhase p = 3 ∧ s.elapsed (s.port p).alignAt (10 * cyclesPerUs) then s.alignFail p else s

/-- RETRAIN_TIMEOUT (R254): the retrain has lasted TO_LIMIT_4. -/
def execRetrainTimeout (p : Nat) (s : State) : Outcome := act s fun s =>
  if p < 12 ∧ s.fget Fl.portStatState p = 6 ∧ s.elapsed (s.port p).retrainAt (s.limitUs 4) then s.portDown p 0x01 else s

/-! ### CONFIG and RESUME (R243, R249, R252) -/

/-- The cause of DOWN_CAUSE for a far end that does not fit the port (R243). -/
def State.peerFault (s : State) (p : Nat) (payload : List Byte) : Option Nat :=
  let node := bitsOf (leNat ((payload.drop 4).take 4)) 17 0
  let switch := bitsOf (leNat ((payload.drop 3).take 1)) 0 0 = 1
  let fits :=
    if s.portRole p = 2 then switch
    else !switch && trayOf node == trayOf s.node && slotOf node == s.fget Fl.portCtlPeerSlot p &&
      (!s.fon Fl.portCtlTwin p || node == s.fget Fl.twnPartnerNode 0)
  if !fits then some 0x03
  else if s.fget Fl.portStatState p = 6 ∧ (s.port p).peer ≠ some node then some 0x04
  else none

/-- The RESUME payload (Table 10.17); the expected SEQ is filled in as it is sent. -/
def resumePayload : List Byte := 0x02 :: List.replicate 7 0

/-- A port enters ACTIVE: after a retrain its first new flit is RESUME (R252). What has come before is replayed from the far
end's RESUME on. -/
def State.portUp (s : State) (p : Nat) : State :=
  let x := s.port p
  let t := (s.fset Fl.portStatState p 5).fset Fl.portLanesActive p x.lanes.toNat
  let t := t.setPort p { x with
    retrain := 0, configOk := false, trained := true, alignFails := 0, stalls := 0, probeAt := s.now,
    resend := if x.resumeDue then [] else x.resend,
    ctrl := (if x.trained then [resumePayload] else []) ++ x.ctrl }
  (t.twinPortUp p).retryWaiting

/-- The far end's CONFIG (R243): the port enters ACTIVE, or DOWN. The credits of the first training set the counters (R255,
R252). -/
def State.configIn (s : State) (p : Nat) (payload : List Byte) : State :=
  if s.trainPhase p ≠ 4 ∨ payload.head? ≠ some 0x01 then s
  else
    let node := bitsOf (leNat ((payload.drop 4).take 4)) 17 0
    let t := s.fset Fl.portStatPeerNode p node
    match s.peerFault p payload with
    | some cause => t.portDown p cause
    | none =>
      let x := t.port p
      let first := !x.trained
      let credits := (List.range 8).foldl (fun (m : SMap Nat) v =>
        mput 0 m v (leNat ((payload.drop (8 + 2 * v)).take 2))) []
      let t := t.setPort p { x with
        peer := some node, configOk := true, credit := if first then credits else x.credit }
      if x.probe.isSome ∧ s.fget Fl.portStatState p = 6 then t else t.portUp p

/-- An acknowledgement frees every flit up to and including the SEQ it names (R251). -/
def Port.ackTo (x : Port) (a : Nat) : Port :=
  let n := (a + 4096 - x.acked) % 4096
  if n = 0 ∨ x.replay.length < n then x
  else
    let gone := (x.replay.take n).map fun (f : TxFlit) => f.seq
    { x with acked := a, replay := x.replay.drop n, stalls := 0, resend := x.resend.filter fun f => !gone.contains f.seq }

/-- The port carries flits: ACTIVE, or in the CONFIG of its training (Table 10.2). -/
def State.linkUp (s : State) (p : Nat) : Bool := s.portActive p || s.trainPhase p == 4

/-- The far end's RESUME (R252), also while this end is still in CONFIG: flits below its expected SEQ are acknowledged, and the
rest are sent again. -/
def State.resumeIn (s : State) (p : Nat) (payload : List Byte) : State :=
  let x := s.port p
  if !s.linkUp p ∨ payload.head? ≠ some 0x02 ∨ !x.resumeDue then s
  else
    let e := bitsOf (leNat ((payload.drop 4).take 2)) 11 0
    let y := x.ackTo ((e + 4095) % 4096)
    s.setPort p { y with resumeDue := false, resend := y.replay, spoiled := y.spoiled || !y.replay.isEmpty }

/-! ### The delay (R263) -/

/-- A PROBE is answered with this end's bell at receipt; its bell at send is filled in as the reply is sent. -/
def State.probeIn (s : State) (p : Nat) (payload : List Byte) : State :=
  let x := s.port p
  if !s.linkUp p ∨ payload.head? ≠ some 0x03 then s
  else
    let reply := [0x04] ++ (payload.drop 1).take 1 ++ List.replicate 6 0 ++ (payload.drop 8).take 8 ++
      leBytes 8 s.now ++ List.replicate 8 0
    s.setPort p { x with ctrl := x.ctrl ++ [reply] }

/-- One-way delay from the two round-trip bells and the far end's two (R263). -/
def oneWay (sent back got replied : Nat) : Nat :=
  ((back + 2 ^ 64 - sent) % 2 ^ 64 - (replied + 2 ^ 64 - got) % 2 ^ 64) / 2

/-- A PROBE_REPLY: DELAY follows, unless a replay has come between (R263). -/
def State.probeReplyIn (s : State) (p : Nat) (payload : List Byte) : State :=
  let x := s.port p
  let no := leNat ((payload.drop 1).take 1)
  let w := fun (k : Nat) => leNat ((payload.drop k).take 8)
  match x.probe with
  | none => s
  | some (n, sent) =>
    if !s.linkUp p ∨ payload.head? ≠ some 0x04 ∨ n ≠ no then s
    else
      let t := s.setPort p { x with probe := none, spoiled := false }
      let t := if x.spoiled then t else t.fset Fl.portStatDelay p (oneWay sent s.now (w 16) (w 24))
      if x.configOk ∧ s.trainPhase p = 4 then t.portUp p else t

/-- A CTRL payload (R248, R249). -/
def State.ctrlIn (s : State) (p : Nat) (payload : List Byte) : State :=
  let c := leNat (payload.take 1)
  if c = 1 then s.configIn p payload
  else if c = 2 then s.resumeIn p payload
  else if c = 3 then s.probeIn p payload
  else if c = 4 then s.probeReplyIn p payload
  else s.protocolEvent p c 0x03

/-- A sequenced flit taken in order (R250). -/
def State.tookFlit (s : State) (p : Nat) : State :=
  let x := s.port p
  s.setPort p { x with expect := (x.expect + 1) % 4096, spoiled := x.spoiled || x.nakOut, nakOut := false }

/-- A flit with a CTRL payload that arrives in order: its SEQ is taken, then its payload (R248, R249). -/
def State.ctrlFlit (s : State) (p ctype : Nat) (payload : List Byte) : State :=
  if p < 12 ∧ leNat (payload.take 1) = ctype ∧ s.linkUp p then
    (s.tookFlit p).ctrlIn p payload
  else s

/-- CONFIG_FLIT. -/
def execConfigFlit (p : Nat) (payload : List Byte) (s : State) : Outcome := act s fun s => s.ctrlFlit p 1 payload

/-- RESUME_FLIT. -/
def execResumeFlit (p : Nat) (payload : List Byte) (s : State) : Outcome := act s fun s => s.ctrlFlit p 2 payload

/-- PROBE_FLIT. -/
def execProbeFlit (p : Nat) (payload : List Byte) (s : State) : Outcome := act s fun s => s.ctrlFlit p 3 payload

/-- PROBE_REPLY_FLIT. -/
def execProbeReplyFlit (p : Nat) (payload : List Byte) (s : State) : Outcome := act s fun s => s.ctrlFlit p 4 payload

/-- PROBE_SEND: 2^20 array cycles have passed since the last PROBE, or since the port became ACTIVE (R263). -/
def execProbeSend (p : Nat) (s : State) : Outcome := act s fun s =>
  if p < 12 ∧ s.portActive p ∧ (s.port p).probeAt + 2 ^ 20 ≤ s.now then s.startProbe p else s

/-! ### Retry (R250, R251) -/

/-- A replay started for a cause of PORT_RETRY_EVT: it is counted and logged; the sixteenth without progress retrains the
port. -/
def State.replayStart (s : State) (p cause : Nat) : State :=
  let x := s.port p
  let t := s.setPort p { x with resend := x.replay, stalls := x.stalls + 1, spoiled := true, replayAt := s.now }
  let t := (t.bump Fl.portRetryEvtCount Fl.portRetryEvtPend p).fset Fl.portRetryEvtCause p cause
  let t := t.logEvent { code := 0x0E, cls := .corrected, quarter := portQuarter p, loc := p, d4 := cause }
  if 16 ≤ x.stalls + 1 ∧ s.portActive p then t.retrainEnter p else t

/-- A NAK with ACK `ack` (R251): it starts a replay from ack + 1, or restarts one that has passed that SEQ. -/
def State.nakIn (s : State) (p ack cause : Nat) : State :=
  let x := (s.port p).ackTo ack
  let t := s.setPort p x
  let begin_ := match x.resend with
    | [] => !x.replay.isEmpty
    | f :: _ =>
      let d := (f.seq + 4096 - (ack + 1) % 4096) % 4096
      d != 0 && decide (d < 2048)
  if begin_ then t.replayStart p cause else t

/-- NAK_RECEIVE. -/
def execNakReceive (p : Nat) (ack : Nat) (cause : BitVec 8) (s : State) : Outcome := act s fun s =>
  if p < 12 ∧ s.linkUp p then s.nakIn p (ack % 4096) cause.toNat else s

/-- The oldest unacknowledged flit has waited longer than TO_LIMIT_3, which is in ns, since it was sent, or since the last
replay began (R251; log entry 136, DESIGN CHOICE). -/
def State.ackLate (s : State) (p : Nat) : Bool :=
  let x := s.port p
  match x.replay with
  | [] => false
  | f :: _ => decide (s.fget Fl.toLimitLimit 3 * cyclesPerUs < (s.now - max f.sentAt x.replayAt) * 1000)

/-- ACK_TIMEOUT: the oldest flit has waited too long; a replay under way serves it (R251). -/
def execAckTimeout (p : Nat) (s : State) : Outcome := act s fun s =>
  if p < 12 ∧ s.linkUp p ∧ s.ackLate p ∧ (s.port p).resend.isEmpty then s.replayStart p 0x03 else s

/-- A bad flit, or one out of order: the first asks for a replay (R250). -/
def State.badFlit (s : State) (p : Nat) : State :=
  let x := s.port p
  if x.nakOut then s else s.setPort p { x with nakDue := true, nakOut := true }

/-- Codewords counted by the decoder; corrections older than 2^20 codewords leave the window (R246). -/
def Port.countCw (x : Port) (n : Nat) : Port :=
  { x with rxCw := x.rxCw + n, corrected := x.corrected.filter fun e => x.rxCw + n < e.2.1 + 2 ^ 20 }

/-- FEC_UNCORRECTABLE (R246, R245): the flits under the codeword are discarded; four in a row lose the lock. -/
def execFecUncorrectable (p : Nat) (s : State) : Outcome := act s fun s =>
  if p < 12 ∧ s.linkUp p then
    let t := s.badFlit p
    let n := (t.port p).badCw + 1
    let t := t.setPort p { (t.port p).countCw 1 with badCw := n }
    if 4 ≤ n ∧ s.portActive p then (t.setPort p { t.port p with badCw := 0 }).retrainEnter p else t
  else s

/-- Symbols corrected on a lane in the last 2^20 codewords. -/
def Port.laneErrors (x : Port) (lane : Nat) : Nat :=
  ((x.corrected.filter fun e => e.1 == lane).map fun (e : Nat × Nat × Nat) => e.2.2).sum

/-- LANE_WEAK (R246): `codewords` codewords on, in the last of which the decoder corrects `symbols` symbols on a lane. A lane
with more than SER_MAX in the window is marked WEAK. -/
def execLaneWeak (p : Nat) (errors : LaneErrors) (s : State) : Outcome := act s fun s =>
  let lane := errors.lane
  if p < 12 ∧ lane < 8 ∧ s.linkUp p ∧ bitsOf (s.fget Fl.portLanesActive p) lane lane = 1 then
    let x := (s.port p).countCw errors.codewords
    let x := { x with corrected := x.corrected ++ [(lane, x.rxCw, errors.symbols)] }
    let t := s.setPort p x
    if s.fget Fl.portLanesSerMax p < x.laneErrors lane then
      t.fset Fl.portLanesWeak p (withBit (t.fget Fl.portLanesWeak p) lane)
    else t
  else s

/-! ### Receiving (R247, R248, R250, R258) -/

/-- Buffer given up by `n` bytes that have been executed: what stays, and the flits that are free. -/
def useBytes : Nat → List Nat → List Nat × Nat
  | _, [] => ([], 0)
  | n, f :: r => if f ≤ n then ((useBytes (n - f) r).1, (useBytes (n - f) r).2 + 1) else ((f - n) :: r, 0)

/-- The transaction that a channel of a port executes next (R262). -/
def Port.rxHead (x : Port) (v : Nat) : Option RxTxn := x.rxq.find? fun e => e.txn.vc = v

/-- The next transaction of a channel leaves the receive buffer; the flits that it was the last to use are owed as credits
(R255). -/
def Port.popRx (x : Port) (v : Nat) : Port :=
  match x.rxHead v with
  | none => x
  | some e =>
    let u := useBytes (32 + e.txn.len) (mget [] x.rxFlits v)
    { x with
      rxq := x.rxq.eraseP fun e => e.txn.vc = v, rxFlits := mput [] x.rxFlits v u.1,
      owed := mput 0 x.owed v (mget 0 x.owed v + u.2) }

/-- The refusal of a transaction of a collective whose DST is not served here (R258): nothing for an acknowledgement, and for a
chunk after its last transaction. -/
def State.refuseColl (s : State) (t : Txn) : State :=
  let r := { blankTxn t.ttype t.vc t.src with src := t.dst, tag := t.tag, status := rsNoRoute, arg0 := t.arg0, arg1 := t.arg1 }
  if t.ttype = ttChunk then (if t.last then s.issueOn { r with ttype := ttChunkAck } 0 none false else s)
  else if t.ttype = ttCollMsg ∧ wbits t.arg0 0 0 = 0 then
    s.issueOn { r with arg0 := BitVec.ofNat 64 (setBits t.arg0.toNat 0 0 1) } 0 none false
  else s

/-- Word 1 of a tag without RESEND. -/
def plainTag (t : Word64) : Word64 := BitVec.ofNat 64 (setBits t.toNat 34 34 0)

/-- The transaction belongs to a chunk in staging. -/
def Staged.isOf (x : Staged) (t : Txn) : Bool :=
  x.dst == t.dst && x.src == t.src && x.tag0 == t.arg0 && plainTag x.tag1 == plainTag t.arg1

/-- A CHUNK transaction takes its place in its chunk, by ADDR (R258, Table 10.6). -/
def State.stage_ (s : State) (t : Txn) : State :=
  let old := (s.staging.find? fun x => x.isOf t).getD { dst := t.dst, src := t.src, tag0 := t.arg0, tag1 := t.arg1 }
  let new := { old with
    tag1 := t.arg1, parts := mput [] old.parts t.addr t.data, size := if t.last then some (t.addr + t.data.length) else old.size }
  { s with staging := s.staging.filter (fun x => !x.isOf t) ++ [new] }

/-- What a channel's buffer gives up by itself, in order: transactions to be discarded (R258), chunks into staging, and the
collective transactions of a node that is not served here. Any other waits for its execution. -/
def State.drainRx (p v : Nat) : Nat → State → State
  | 0, s => s
  | f + 1, s =>
    match (s.port p).rxHead v with
    | none => s
    | some e =>
      let t := e.txn
      let u := s.setPort p ((s.port p).popRx v)
      match s.screen p t with
      | some why => State.drainRx p v f (u.protocolEvent p (Txn.word0 t) why)
      | none =>
        if (t.ttype = ttChunk ∨ t.ttype = ttChunkAck ∨ t.ttype = ttCollMsg) ∧ !s.answersFor t.dst then
          State.drainRx p v f (u.refuseColl t)
        else if t.ttype = ttChunk then State.drainRx p v f (u.stage_ t)
        else if (t.ttype = ttChunkAck ∨ t.ttype = ttCollMsg) ∧ t.status ≠ rsOk then State.drainRx p v f u
        else s

/-- Bytes of a DATA flit taken into their channel's stream, and the transactions that are then whole (R258). The flit takes its
place in the receive buffer (R255). -/
def State.dataIn (s : State) (p vc : Nat) (bytes : List Byte) : State :=
  let x := s.port p
  let all := mget [] x.rxb vc ++ bytes
  let r := frames vc all.length all
  let t := s.setPort p { x with
    rxb := mput [] x.rxb vc r.2, rxFlits := mput [] x.rxFlits vc (mget [] x.rxFlits vc ++ [bytes.length]),
    rxq := x.rxq ++ r.1.map fun t => { txn := t, acl := s.acl } }
  State.drainRx p vc (t.port p).rxq.length t

/-! ### Transactions of the collective engines (R258, R262) -/

/-- The state in which a transaction of the collective engines acts: it leaves the buffer of the port that holds it, and is none
where another of its channel comes first there. One that no buffer holds arrives as it stands. -/
def State.collArrives (s : State) (isIt : Txn → Bool) : Option State :=
  match (List.range 12).find? fun p => (s.port p).rxq.any fun e => isIt e.txn with
  | none => some s
  | some p => match ((s.port p).rxq.find? fun e => isIt e.txn).bind fun e => (s.port p).rxHead e.txn.vc with
    | none => none
    | some e =>
      if isIt e.txn then
        some (State.drainRx p e.txn.vc (s.port p).rxq.length (s.setPort p ((s.port p).popRx e.txn.vc)))
      else none

/-- A COLL_MSG with a tag and payload. -/
def isCollMsg (dst : Nat) (tag0 tag1 : Word64) (data : List Byte) (t : Txn) : Bool :=
  t.ttype == ttCollMsg && t.dst == dst && t.arg0 == tag0 && t.arg1 == tag1 && t.data == data

/-- An acknowledgement of a type with a tag from a node. -/
def isCollAck (ttype src : Nat) (tag0 tag1 : Word64) (t : Txn) : Bool :=
  t.ttype == ttype && t.src == src && t.arg0 == tag0 && t.arg1 == tag1

/-- The bytes of a chunk in staging, once all of its transactions have come. -/
def Staged.whole (x : Staged) : Option (List Byte) :=
  let bs := x.parts.foldl (fun (b : Option (List Byte)) e =>
    b.bind fun l => if e.1 = l.length then some (l ++ e.2) else none) (some [])
  bs.filter fun l => x.size == some l.length

/-- The state in which a chunk acts: it leaves staging, where it must be whole. One of which staging holds nothing arrives as it
stands. -/
def State.chunkArrives (s : State) (dst : Nat) (tag0 tag1 : Word64) (data : List Byte) : Option State :=
  let isIt := fun (x : Staged) => x.dst == dst && x.tag0 == tag0 && x.tag1 == tag1
  match s.staging.find? isIt with
  | none => some s
  | some x => if x.whole = some data then some { s with staging := s.staging.erase x } else none

/-! ### Flits received -/

/-- ACK and credits of a flit with a good CRC, even one that is discarded (R250, R255). -/
def State.flitHead (s : State) (p h : Nat) : State :=
  let x := (s.port p).ackTo (bitsOf h 51 40)
  let v := bitsOf h 31 29
  let t := s.setPort p { x with credit := mput 0 x.credit v (mget 0 x.credit v + bitsOf h 28 20) }
  if bitsOf h 32 32 = 1 then t.freeNext.nakIn p (bitsOf h 51 40) ([1, 2, 4].getD (t.free.toNat % 3) 1) else t

/-- A flit arrives (R250): a sequenced one is taken in order of its SEQ. -/
def State.flitIn (s : State) (p : Nat) (flit : List Byte) (fecBad : Bool) : State :=
  let h := leNat (flit.take 8)
  let ty := bitsOf h 36 33
  let body := ((flit.drop 8).take 240).take (bitsOf h 19 12)
  let crcOk := !fecBad && flit.length == 256 && crc64 (flit.take 248) == leNat (flit.drop 248)
  if !crcOk then s.badFlit p
  else
    let t := (s.flitHead p h).setPort p { (s.flitHead p h).port p with badCw := 0 }
    if ty = 0 then t
    else if 2 < ty ∨ (t.port p).expect ≠ bitsOf h 63 52 then t.badFlit p
    else if ty = 1 then (t.tookFlit p).dataIn p (bitsOf h 39 37) body
    else (t.tookFlit p).ctrlIn p body

/-- FLIT_RECEIVE: an ACTIVE port takes every flit, and so does one in CONFIG; the rest of training takes none (R252). -/
def execFlitReceive (p : Nat) (flit : List Byte) (fecBad : Bool) (s : State) : Outcome := act s fun s =>
  if p < 12 ∧ s.linkUp p then s.flitIn p flit fecBad else s

/-! ### Sending (R248, R251, R255, R256) -/

/-- Weight of a channel (R256, Table 10.14). -/
def State.vcWeight (s : State) (p v : Nat) : Nat := bitsOf (s.rd .vcWt p).toNat (8 * v + 7) (8 * v)

/-- A channel has bytes to send. -/
def Port.hasFlit (x : Port) (v : Nat) : Bool := !(mget [] x.txb v).isEmpty || !(mget [] x.txq v).isEmpty

/-- The first of some channels at or after the turn. -/
def fromTurn (turn : Nat) (l : List Nat) : Option Nat :=
  match l.find? fun v => turn ≤ v with
  | some v => some v
  | none => l.head?

/-- The channel of the next DATA flit (R256), and whether a new round begins with it. -/
def State.nextVc (s : State) (p : Nat) : Option (Nat × Bool) :=
  let x := s.port p
  let can := (List.range 8).filter fun v => x.hasFlit v && mget 0 x.credit v != 0
  let heavy := can.filter fun v => s.vcWeight p v != 0
  let left := heavy.filter fun v => mget 0 x.round v < s.vcWeight p v
  if left.contains 1 then some (1, false)
  else match fromTurn x.turn (left.filter fun v => v ≠ 1) with
    | some v => some (v, false)
    | none =>
      if heavy.contains 1 then some (1, true)
      else match fromTurn x.turn heavy with
        | some v => some (v, true)
        | none =>
          if (List.range 8).any fun v => x.hasFlit v && s.vcWeight p v != 0 then none
          else (fromTurn x.turn can).map fun v => (v, false)

/-- Up to `n` bytes of a channel's stream, with the transactions that have a byte in it. -/
def takeBytes : Nat → Nat → List Txn → List Byte → List Txn → List Byte × List Txn × List Byte × List Txn × List Txn
  | 0, _, cur, txb, q => ([], cur, txb, q, [])
  | f + 1, n, cur, txb, q =>
    if n ≤ txb.length then
      (txb.take n, if txb.length = n then [] else cur.drop (cur.length - 1), txb.drop n, q, cur)
    else match q with
      | [] => (txb, [], [], [], cur)
      | t :: r => takeBytes f n (cur ++ [t]) (txb ++ txnBytes t) r

/-- A flit's 256 bytes (R247, Table 10.4). -/
def flitBytes (h : Nat) (payload : List Byte) : List Byte :=
  let b := leBytes 8 h ++ payload ++ List.replicate (240 - payload.length) 0
  b ++ leBytes 8 (crc64 b)

/-- A flit put on the lanes with the current ACK, NAK and the credits of one channel (R248, R255). -/
def State.putFlit (s : State) (p seq ty vc used : Nat) (payload : List Byte) : State :=
  let x := s.port p
  let cv := ((List.range 8).find? fun v => mget 0 x.owed v != 0).getD 0
  let n := min 511 (mget 0 x.owed cv)
  let h := seq * 2 ^ 52 + (x.expect + 4095) % 4096 * 2 ^ 40 + vc * 2 ^ 37 + ty * 2 ^ 33 + x.nakDue.toNat * 2 ^ 32 +
    cv * 2 ^ 29 + n * 2 ^ 20 + used * 2 ^ 12
  let b := flitBytes h payload
  s.setPort p { x with
    wire := b, fec := x.fec.flit (lanesOfWidth (s.fget Fl.portStatWidth p)) b, nakDue := false,
    owed := mput 0 x.owed cv (mget 0 x.owed cv - n) }

/-- A CTRL payload as it is sent: the expected SEQ of a RESUME, and the bells of a PROBE and a PROBE_REPLY, are those of this
moment (R252, R263). -/
def State.stamp (s : State) (p : Nat) (c : List Byte) : List Byte :=
  if c.head? = some 0x02 then c.take 4 ++ leBytes 2 (s.port p).expect ++ c.drop 6
  else if c.head? = some 0x03 then c.take 8 ++ leBytes 8 s.now
  else if c.head? = some 0x04 then c.take 24 ++ leBytes 8 s.now
  else c

/-- The bell of a PROBE that is sent is the one its measurement starts from (R263). -/
def Port.sentCtrl (x : Port) (now : Nat) (c : List Byte) : Port :=
  if c.head? = some 0x03 then { x with probe := x.probe.map fun q => (q.1, now) } else x

/-- A new sequenced flit (R248, R251). -/
def State.newFlit (s : State) (p ty vc : Nat) (payload : List Byte) (txns : List Txn) : State :=
  let x := s.port p
  let f : TxFlit :=
    { seq := x.seq, ftype := ty, vc := vc, used := payload.length, payload := payload, txns := txns, sentAt := s.now }
  let t := s.setPort p { x with seq := (x.seq + 1) % 4096, replay := x.replay ++ [f] }
  t.putFlit p x.seq ty vc payload.length payload

/-- A DATA flit of a channel (R255, R256): it uses a credit, and counts in the round. -/
def State.sendData (s : State) (p v : Nat) (fresh : Bool) : State :=
  let x := s.port p
  let r := takeBytes 241 240 (mget [] x.cur v) (mget [] x.txb v) (mget [] x.txq v)
  let round := if fresh then [] else x.round
  let used := mget 0 round v + 1
  let turn := if v = 1 then x.turn else if s.vcWeight p v ≤ used then (v + 1) % 8 else v
  let t := s.setPort p { x with
    cur := mput [] x.cur v r.2.1, txb := mput [] x.txb v r.2.2.1, txq := mput [] x.txq v r.2.2.2.1,
    credit := mput 0 x.credit v (mget 0 x.credit v - 1), round := mput 0 round v used, turn := turn }
  t.newFlit p 1 v r.1 r.2.2.2.2

/-- An IDLE flit: the last SEQ sent, no payload (R248). -/
def State.sendIdle (s : State) (p : Nat) : State := s.putFlit p (((s.port p).seq + 4095) % 4096) 0 0 0 []

/-- The next CTRL flit. -/
def State.sendCtrl (s : State) (p : Nat) (c : List Byte) (r : List (List Byte)) : State :=
  (s.setPort p { (s.port p).sentCtrl s.now c with ctrl := r }).newFlit p 2 0 (s.stamp p c) []

/-- A new flit: a CTRL flit, DATA by the choice of channel, or an IDLE where there is nothing else. A full replay buffer sends
IDLE (R251); DATA waits for ACTIVE, and after a retrain for the far end's RESUME (R252). -/
def State.sendNew (s : State) (p : Nat) : State :=
  let x := s.port p
  if 2048 ≤ x.replay.length then s.sendIdle p
  else match x.ctrl with
    | c :: r => s.sendCtrl p c r
    | [] =>
      if !s.portActive p ∨ x.resumeDue then s.sendIdle p
      else match s.nextVc p with
        | some (v, fresh) => s.sendData p v fresh
        | none => s.sendIdle p

/-- FLIT_SEND (R256): a replay goes first, in SEQ order, but for the RESUME that follows a retrain (R252). -/
def execFlitSend (p : Nat) (s : State) : Outcome := act s fun s =>
  let x := s.port p
  if p < 12 ∧ s.linkUp p then
    match x.resend with
    | f :: r =>
      if s.portActive p ∧ (x.ctrl.headD []).head? = some 0x02 ∧ x.replay.length < 2048 then s.sendNew p
      else (s.setPort p { x with resend := r }).putFlit p f.seq f.ftype f.vc f.used f.payload
    | [] => s.sendNew p
  else s

end Sys2Proof.Machine
end

