-- ==== Sys2Proof/Machine/CollRows.lean ====
section
/-! DEFINITION. CollRows: chunks and messages of collectives as they arrive, acknowledgements, resends, the loss of a member,
and the rows of these (R225 to R237). -/

namespace Sys2Proof.Machine

/-- The context that a chunk or message is for: the own one of that number, or the partner's (R350). -/
def State.ctxAt (s : State) (dst : Nat) (tag0 : Word64) : Option Nat :=
  let g := tgGroup tag0
  let c := if dst = s.node then some g else if s.twin.serves = some dst ∧ g < 512 then some (512 + g) else none
  c.filter fun c => s.fon Fl.grpCfgValid c && s.fget Fl.grpStatState c != gsFailed

/-- A number of an instance that this module has not selected yet. -/
def State.future (s : State) (c no : Nat) : Bool := decide ((no + 2 ^ 32 - s.fget Fl.grpStatSeq c) % 2 ^ 32 < 2 ^ 31)

/-- The epoch that chunks and messages of an instance must carry (R237). -/
def State.epochOf (s : State) (c no : Nat) : Nat := ((s.inst? c no).map fun (i : Inst) => i.epoch).getD (s.fget Fl.grpStatEpoch c)

/-- Requests of the collective engines that an acknowledgement answers, or a new copy replaces. -/
def State.dropCollReq (s : State) (ttype dst : Nat) (tag0 tag1 : Word64) : State :=
  ({ s with reqs := s.reqs.filter fun q =>
    !(q.txn.ttype == ttype && q.txn.dst == dst && q.txn.arg0 == tag0 && tgPlain q.txn.arg1 == tgPlain tag1) } : State).retryWaiting

/-- Tag word 1 with RESEND set. -/
def tgAgain (t : Word64) : Word64 := BitVec.ofNat 64 (setBits t.toNat 34 34 1)

/-! ### A member that is back (R236) -/

/-- A member that was suspect answers again: its twin has taken over. The chunks sent to its node go out again. -/
def State.memberBack (s : State) (c node : Nat) : State :=
  let x := mget {} s.ctxs c
  if !x.suspects.contains node then s
  else
    let sus := x.suspects.filter (· ≠ node)
    let t := { s with ctxs := mput {} s.ctxs c { x with suspects := sus } }
    let busy := t.insts.any fun i => i.ctx == c
    let t := if sus.isEmpty then t.fset Fl.grpStatState c (if busy then gsActive else gsIdle) else t
    let t := t.collEvent c 0x08 .recovered 0 0
    let gone := (t.insts.filter fun i => i.ctx == c).flatMap fun i => i.sent.filter fun x => x.dst == node && x.gone
    let t := gone.foldl (fun (t : State) x => t.dropCollReq ttChunk node x.tag0 x.tag1) t
    ({ t with insts := t.insts.map fun i =>
        if i.ctx = c then { i with sent := i.sent.map fun x =>
          if x.dst = node ∧ x.gone then { x with tag1 := tgAgain x.tag1, gone := false, acked := false } else x }
        else i } : State).pump

/-- A twin answers for a node in every context that waits for it. -/
def State.nodeBack (s : State) (node : Nat) : State :=
  (s.ctxs.map fun e => e.1).foldl (fun (t : State) c => t.memberBack c node) s

/-- A chunk or message of a member has come: it is no longer waited for from before (R235). -/
def State.memberHeard (s : State) (c node : Nat) : State :=
  let x := mget {} s.ctxs c
  { s with ctxs := mput {} s.ctxs c { x with heard := mput 0 x.heard node s.now } }

/-- The node of the member that a tag names as its sender. -/
def State.senderNode (s : State) (c : Nat) (tag1 : Word64) : Nat := (s.members c).getD (tgSrc tag1) 0

/-! ### Chunks (R225 to R227) -/

/-- The acknowledgement of a chunk (Table 10.7). -/
def State.ackChunk (s : State) (c : Nat) (tag0 tag1 : Word64) : State :=
  s.issueFrom (s.ctxNode c) { blankTxn ttChunkAck 2 (s.senderNode c tag1) with arg0 := tag0, arg1 := tag1 } 0 none

/-- The chunk that a fault is counted for (R227): its number, stage, direction and sender; an adder's output is a chunk of its
own. -/
def faultKey (cause : Nat) (tag1 : Word64) : Nat :=
  tgChunk tag1 + 2 ^ 20 * (tgStage tag1 + 4 * (tgOut tag1).toNat + 8 * (cause == 0x02).toNat + 16 * tgSrc tag1)

/-- A chunk fault (R227): an event, and COLL_FAULT after RESEND_MAX resends of one chunk. -/
def State.chunkFault (s : State) (i : Inst) (cause : Nat) (tag0 tag1 : Word64) : State :=
  let k := faultKey cause tag1
  let n := mget 0 i.faults k + 1
  let q := s.carrier i (tgChunk tag1)
  let t := (s.collEventAt q i.ctx cause .recovered tag0.toNat tag1.toNat).setInst i.ctx i.no fun j => { j with
    faults := mput 0 j.faults k n }
  if s.fget Fl.colModeResendMax 0 < n then (t.collEventAt q i.ctx 0x04 .lost tag0.toNat tag1.toNat).endInst i 0x23 else t

/-- The event cause of a chunk that fails its check on arrival (R226, R78): none where it holds. -/
def Inst.chunkBad (i : Inst) (tag0 tag1 : Word64) (data : List Byte) : Option Nat :=
  let n := (i.chunkElems (tgChunk tag1)).2
  if i.isReduce ∧ i.exact then
    match i.decode n data with
    | none => some 0x03
    | some gs => if grpsResidue gs = tgResidue tag0 then none else some 0x01
  else if bytesResidue data ≠ tgResidue tag0 ∨ (i.isReduce ∧ (i.decode n data).isNone) then some 0x01
  else none

/-- The same chunk has been verified before (R236). -/
def Inst.hasChunk (i : Inst) (tag1 : Word64) : Bool :=
  i.got.any fun g => g.src == tgSrc tag1 && g.stage == tgStage tag1 && g.out == tgOut tag1 && g.chunk == tgChunk tag1

/-- A verified chunk: an inbound one waits for its adder, an outbound one is taken and handed on (R219). -/
def State.chunkGood (s : State) (i : Inst) (tag0 tag1 : Word64) (data : List Byte) : State :=
  let ch := tgChunk tag1
  let out := tgOut tag1
  let g : Got := { src := tgSrc tag1, stage := tgStage tag1, out := out, chunk := ch, data := if out then [] else data }
  let t := s.setInst i.ctx i.no fun j => { j with got := j.got ++ [g] }
  let stg := s.stages i
  match stg.zipIdx.find? fun y => y.1.code == tgStage tag1 with
  | none => t
  | some y =>
    if !out then t
    else if i.isGather then
      match t.inst? i.ctx i.no with
      | some j => (t.gatherIn j (j.srcFmt (t.instOp j)) stg y.2 y.1 tag0 tag1 data).pump
      | none => t
    else
      let t := t.takeResult i tag0 tag1 ch data
      let t := t.toRanks i y.1 (t.outRanks i stg y.2 (y.1.origin (y.1.set.idxOf ch)) ch) ch true false data
      (t.outBelow i stg ch false data y.2).pump

/-- A chunk arrives, whole (R224 to R227, R236, R237). -/
def State.chunkIn (s : State) (dst : Nat) (tag0 tag1 : Word64) (data : List Byte) : State :=
  match s.ctxAt dst tag0 with
  | none => s
  | some c =>
    let no := tgSeq tag0
    let s := (s.memberHeard c (s.senderNode c tag1)).memberBack c (s.senderNode c tag1)
    let e : Early := { msg := false, dst := dst, tag0 := tag0, tag1 := tag1, data := data }
    if tgEpoch tag1 ≠ s.epochOf c no then s
    else match s.inst? c no with
      | none =>
        if s.future c no then { s with early := union s.early [e] } else s.ackChunk c tag0 tag1
      | some i =>
        if tgKind tag1 ≠ i.kind ∨ tgFmt tag1 ≠ i.fmtCode ∨ i.chunks ≤ tgChunk tag1 then
          s.collEventAt (min 3 (s.carrier i (tgChunk tag1))) c 0x06 .peer tag0.toNat tag1.toNat
        else if !i.started then { s with early := union s.early [e] }
        else if i.hasChunk tag1 then s.ackChunk c tag0 tag1
        else match i.chunkBad tag0 tag1 data with
          | some cause => s.chunkFault i cause tag0 tag1
          | none => (s.ackChunk c tag0 tag1).chunkGood i tag0 tag1 data

/-- CHUNK. -/
def execChunk (dst : Nat) (tag0 tag1 : Word64) (data : List Byte) (s : State) : Outcome :=
  act s fun s => match s.chunkArrives dst tag0 tag1 data with
    | some t => t.chunkIn dst tag0 tag1 data
    | none => s

/-- A retained chunk acknowledged by a node. -/
def ackSent (src : Nat) (tag0 tag1 : Word64) (x : Sent) : Sent :=
  if x.dst == src && x.tag0 == tag0 && tgPlain x.tag1 == tgPlain tag1 then { x with acked := true } else x

/-- An acknowledged chunk: the sender may send the next chunk to that destination (R225). -/
def State.chunkAcked (s : State) (src : Nat) (tag0 tag1 : Word64) : State :=
  let t := { s with insts := s.insts.map fun (i : Inst) => { i with sent := i.sent.map (ackSent src tag0 tag1) } }
  (t.dropCollReq ttChunk src tag0 tag1).pump

/-- CHUNK_ACK. -/
def execChunkAck (src : Nat) (tag0 tag1 : Word64) (s : State) : Outcome := act s fun s =>
  match s.collArrives (isCollAck ttChunkAck src tag0 tag1) with
  | some t => t.chunkAcked src tag0 tag1
  | none => s

/-- A chunk without its acknowledgement in time goes out again from its retained copy, at most RESEND_MAX times (R227,
R260). -/
def State.resendChunk (s : State) (dst : Nat) (tag0 tag1 : Word64) : State :=
  let isIt := fun (x : Sent) => x.dst == dst && x.tag0 == tag0 && tgPlain x.tag1 == tgPlain tag1 && x.gone && !x.acked
  match s.insts.find? fun i => i.sent.any isIt with
  | none => s
  | some i =>
    match i.sent.find? isIt with
    | none => s
    | some x =>
      if decide (s.fget Fl.colModeResendMax 0 ≤ x.resends) then
        (s.collEventAt (s.carrier i (tgChunk tag1)) i.ctx 0x04 .lost tag0.toNat tag1.toNat).endInst i 0x23
      else
        let y := { x with tag1 := tgAgain x.tag1, resends := x.resends + 1 }
        (s.setInst i.ctx i.no fun j => { j with sent := j.sent.map fun z => if z = x then y else z }).sendChunk
          (s.ctxNode i.ctx) y

/-! ### The stage adder (R74, R227) -/

/-- The adder's sum with a soft error in bit `b` of group `k`. -/
def flipSum (w : Nat) (f : Option (Nat × Nat)) (gs : List Grp) : List Grp :=
  match f with
  | none => gs
  | some (k, b) => gs.zipIdx.map fun x =>
      if x.2 = k ∧ b < w + 8 then
        { x.1 with v := signedOf (w + 8) (Nat.xor (modPow (w + 8) x.1.v) (2 ^ b)) } else x.1

/-- STAGE_ADD: the sum of a chunk's inputs, checked, goes on (R219, R227); a sum that fails its check is recomputed later. -/
def State.stageAdd (s : State) (c no chunk : Nat) (flip : Option (Nat × Nat)) : State :=
  match s.inst? c no with
  | none => s
  | some i =>
    if i.isMsg ∨ !i.started then s
    else match s.addable i chunk with
      | none => s
      | some (k, x, ins) =>
        let e := i.chunkElems chunk
        let gss := ins.map fun b => (i.decode e.2 b).getD []
        let sum := flipSum i.addW flip (addGroups i.addW e.2 gss)
        if sumResidue sum = ((gss.map sumResidue).foldl (· + ·) 0) % 65535 then
          (s.addDone i k x chunk (i.encodeSum e.1 sum)).pump
        else s.chunkFault i 0x02 (tagWord0 0 no (s.groupNo c) false) (s.instTag1 i x.code false false chunk)

/-- STAGE_ADD. -/
def execStageAdd (ctx inst chunk : Nat) (flip : Option (Nat × Nat)) (s : State) : Outcome :=
  act s fun s => s.stageAdd ctx inst chunk flip

/-! ### Scalar reductions (R231, Table 9.18) -/

/-- Payload of a scalar contribution or result. -/
def scalarBytes (n subop fmt : Nat) (vals : List Byte) : List Byte :=
  let p := vals.length
  leBytes 1 n ++ leBytes 1 subop ++ leBytes 1 fmt ++ [0] ++ leBytes 4 p ++ vals ++ List.replicate ((8 - p % 8) % 8) 0

/-- The values of a payload. -/
def scalarVals (bs : List Byte) : List Byte := (bs.drop 8).take (leNat ((bs.drop 4).take 4))

/-- The head of a payload matches the instance: count, sub-operation, format and length. -/
def Inst.scalarHead (i : Inst) (bs : List Byte) : Bool :=
  let p := leNat ((bs.drop 4).take 4)
  decide (8 ≤ bs.length) && leNat (bs.take 1) == i.d.t0.count && leNat ((bs.drop 1).take 1) == i.d.subop &&
    leNat ((bs.drop 2).take 1) == i.d.t0.fmtCode && bs.length == 8 + (p + 7) / 8 * 8

/-- The groups of a SUM payload; none where a pack is malformed (R78). -/
def Inst.scalarPacks (i : Inst) (bs : List Byte) : Option (List Grp) :=
  unpackAll i.w (leNat ((bs.drop 4).take 4) + 1) (scalarVals bs)

/-- The payload matches the instance: its head, and as many values. -/
def Inst.scalarOk (i : Inst) (bs : List Byte) : Bool :=
  let n := i.d.t0.count
  i.scalarHead bs &&
    (if i.d.subop = 0 then (match i.scalarPacks bs with
      | some gs => gs.length == n
      | none => false)
     else leNat ((bs.drop 4).take 4) == ceilDiv (i.d.t0.fmt.bits * n) 8)

/-- A SUM payload that matches but for a malformed pack: a chunk fault (R78, R227). -/
def Inst.scalarMalformed (i : Inst) (bs : List Byte) : Bool :=
  i.kind == kdScalar && i.d.subop == 0 && i.scalarHead bs && (i.scalarPacks bs).isNone

/-- A scalar value's code as this member reads it: under the group scale or codebook of that value of its own T0 (R39 to
R45; log entry 105, DEDUCED). -/
def State.scalarVal (s : State) (i : Inst) (k code : Nat) : Elem :=
  i.d.t0.codeAs (s.ctxRd (s.instPartner i)) (unlinear i.d.t0.psizes k) code

/-- The combination of the inputs of a stage: the exact sum, or the selection of ELEMWISE MAX and MIN; nothing for a
barrier. `val` reads a code of a value. -/
def Inst.combine (i : Inst) (val : Nat → Nat → Val) (ins : List (List Byte)) : List Byte :=
  let n := i.d.t0.count
  let f := i.d.t0.fmt
  if i.kind = kdBarrier then []
  else if i.d.subop = 0 then
    scalarBytes n 0 i.d.t0.fmtCode
      ((addGroups i.w n (ins.map fun b => (unpackAll i.w (n + 1) (scalarVals b)).getD [])).flatMap (packGroup i.w))
  else
    let codes := ins.map fun b => unpackCodes f.bits n (scalarVals b)
    let best (k : Nat) : Nat := (codes.map fun l => l.getD k 0).foldl (fun a b =>
      if selects (i.d.subop == 2) (val k a) (val k b) then b else a) ((codes.headD []).getD k 0)
    scalarBytes n i.d.subop i.d.t0.fmtCode (packCodes f.bits ((List.range n).map best))

/-- The result elements of a scalar reduction (R221, R419). -/
def Inst.scalarOuts (i : Inst) (v : Env) (val : Nat → Nat → Val) (bs : List Byte) : RunOut :=
  let n := i.d.t0.count
  let f := i.d.t0.fmt
  let gs := (unpackAll i.w (n + 1) (scalarVals bs)).getD []
  let codes := unpackCodes f.bits n (scalarVals bs)
  { dst := some i.d.slot2,
    outs := (List.range n).map fun k =>
      if i.d.subop = 0 then i.resultElem v k k (gs.getD k {}) 0
      else epilogueExact v k true (xvOfVal (val k (codes.getD k 0))) }

/-- The result of a scalar reduction written here; its operation waits for its record. -/
def State.scalarWrite (s : State) (i : Inst) (bs : List Byte) : State :=
  match s.op? i.op with
  | none => s.instDone i
  | some o =>
    let v := s.envOf o
    let val (k c : Nat) : Val := (s.scalarVal i k c).val
    let r := i.scalarOuts v val bs
    let t := (s.applyRun o v r).setOp o.seq fun o => { o with
      cnt := o.cnt.plus (r.counts v), status := if r.index v then 0x24 else o.status }
    let wide := o.d.rtTensor
    (if retempers v r then t.retemperAdd o v { i.scalarOuts { v with t2 := wide } val bs with dst := some wide }
     else t).instDone i

/-- The result of a scalar reduction delivered here: logged, and written. -/
def State.scalarDone (s : State) (i : Inst) (tag0 tag1 : Word64) (bs : List Byte) : State :=
  (s.logCollIn (s.instPartner i) tag0 tag1 bs).scalarWrite i bs

/-! ### Barriers and departures (R232, R233) -/

/-- The group bell of a context. -/
def State.groupBell (s : State) (c : Nat) : Nat := (s.now + s.fget Fl.grpBellOffset c) % 2 ^ 64

/-- Payload of a barrier release. -/
def releaseBytes (stamp d : Nat) : List Byte := leBytes 8 stamp ++ leBytes 4 d ++ List.replicate 4 0

/-- A departure: selection waits until the group bell has reached R + D, of every departure under way; a release that comes
after it is LATE (R233). -/
def State.depart (s : State) (c stamp d : Nat) : State :=
  let late := (s.groupBell c + 2 ^ 64 - stamp) % 2 ^ 64
  if d = 0 then s
  else if d < late then s.collEvent c 0x0B .corrected 0 0
  else { s with ost := { s.ost with depart := some (max (s.ost.depart.getD 0) (s.now + (d - late))) } }

/-- The root's own bell is its GLB_BELL: OFFSET is 0 from the first barrier after VALID on (R232; log entry 106,
DEDUCED). -/
def State.rootBell (s : State) (c : Nat) : State :=
  let x := mget {} s.ctxs c
  if x.aligned then s else { s.fset Fl.grpBellOffset c 0 with ctxs := mput {} s.ctxs c { x with aligned := true } }

/-- A release as COLL_IN: a replay takes it in place of the barrier (R236; log entry 107, DEDUCED). -/
def State.logRelease (s : State) (i : Inst) (tag0 tag1 : Word64) (data : List Byte) : State :=
  s.logCollIn (s.instPartner i) tag0 tag1 data

/-- The root's release (R232): member 0 stamps it with its group bell. -/
def State.rootRelease (s : State) (i : Inst) : State :=
  let c := i.ctx
  let s := s.rootBell c
  let stamp := s.groupBell c
  let d := i.d.opx0 % 2 ^ 32
  let tag0 := tagWord0 0 i.no (s.groupNo c) false
  let s := s.logRelease i tag0 (s.instTag1 i 0 true false 0) (releaseBytes stamp d)
  let t := s.outBelow i (s.stages i) 0 false (releaseBytes stamp d) (s.stages i).length
  (t.depart c stamp d).instDone i

/-- A release received over a port (R232): the port's delay is added, OFFSET follows, and the corrected release goes on. As
the stamp grows by a delay, the D that goes on shrinks by it, so that R + D is the same at every member (R233; log entry
108, DEDUCED). -/
def State.released (s : State) (i : Inst) (port : Nat) (tag0 tag1 : Word64) (data : List Byte) : State :=
  let c := i.ctx
  let r := leNat (data.take 8)
  let d0 := leNat ((data.drop 8).take 4)
  let delay := s.fget Fl.portStatDelay port
  let stamp := (r + delay) % 2 ^ 64
  let d := if d0 = 0 then 0 else max 1 (d0 - delay)
  let s := s.logRelease i tag0 tag1 data
  let t := s.fset Fl.grpBellOffset c ((stamp + 2 ^ 64 - s.now) % 2 ^ 64)
  let stg := t.stages i
  let t := match stg.zipIdx.find? fun y => y.1.code == tgStage tag1 with
    | none => t
    | some y =>
      let u := t.toRanks i y.1 (t.outRanks i stg y.2 0 0) 0 true false (releaseBytes stamp d)
      u.outBelow i stg 0 false (releaseBytes stamp d) y.2
  (t.depart c r d0).instDone i

/-! ### Messages (R234) -/

/-- A message instance as far as it can go: sums of stages, then the release or the result (R219, R231). -/
def State.msgStep (c no : Nat) : Nat → State → State
  | 0, s => s
  | f + 1, s =>
    match (s.inst? c no).filter Inst.isMsg with
    | none => s
    | some i =>
      match s.addable i 0 with
      | some (k, x, ins) => State.msgStep c no f (s.addDone i k x 0 (i.combine (fun k c => (s.scalarVal i k c).val) ins))
      | none =>
        match mget none i.held (2 ^ 20 * (s.stages i).length) with
        | none => s
        | some bs =>
          if i.kind = kdBarrier then (if s.selfIdx c = 0 then s.rootRelease i else s)
          else
            let tag0 := tagWord0 0 no (s.groupNo c) false
            let t := s.outBelow i (s.stages i) 0 false bs (s.stages i).length
            t.scalarDone i tag0 (s.instTag1 i 0 true false 0) bs

/-- The acknowledgement of a message: its tag with ACK set (R234). -/
def State.ackMsg (s : State) (c : Nat) (tag0 tag1 : Word64) : State :=
  s.issueFrom (s.ctxNode c)
    { blankTxn ttCollMsg 1 (s.senderNode c tag1) with arg0 := BitVec.ofNat 64 (setBits tag0.toNat 0 0 1), arg1 := tag1 } 0 none

/-- The segment that a message of KIND 8 names. -/
def msgSeg (tag1 : Word64) (data : List Byte) : Nat := if tgKind tag1 = kdSeal then leNat (data.take 4) else 0

/-- The payload matches Table 9.18 for a kind and direction. -/
def Inst.msgOk (i : Inst) (tag1 : Word64) (data : List Byte) : Bool :=
  let k := tgKind tag1
  let out := tgOut tag1
  if k = kdSeal then !i.isMsg && data.length == (if out then 16 else 24) && decide (leNat (data.take 4) < i.segs)
  else if k ≠ i.kind then false
  else if k = kdBarrier then data.length == (if out then 16 else 0)
  else if k = kdScalar then i.scalarOk data && tgFmt tag1 == i.fmtCode
  else false

/-- A segment's seal sent again to a member that reports it after it has been sealed here: a twin's replay (R236). -/
def State.sealAgain (s : State) (i : Inst) (g src : Nat) : State :=
  if i.sealedSegs.contains g then
    s.sendSeal i src true (sealBytes g true (((s.combined i g).map fun r => r.2.2).getD 0))
  else s

/-- What a message does at its first copy. -/
def State.msgAct (s : State) (i : Inst) (port : Nat) (tag0 tag1 : Word64) (data : List Byte) : State :=
  let c := i.ctx
  let k := tgKind tag1
  if k = kdSeal then
    let g := leNat (data.take 4)
    if tgOut tag1 then
      s.sealDown i g (leNat ((data.drop 4).take 1) == 1) (leNat (data.drop 8))
    else
      let r := (leNat ((data.drop 4).take 4), leNat ((data.drop 8).take 1) % 2 == 1, leNat (data.drop 16))
      ((s.setInst c i.no fun j => { j with
        reports := mput none j.reports (2 ^ 20 * tgSrc tag1 + g) (some r) }).reportUp c i.no g).sealAgain i g (tgSrc tag1)
  else if tgOut tag1 then
    if k = kdBarrier then s.released i port tag0 tag1 data
    else
      let stg := s.stages i
      let t := match stg.zipIdx.find? fun y => y.1.code == tgStage tag1 with
        | none => s
        | some y =>
          let u := s.toRanks i y.1 (s.outRanks i stg y.2 (y.1.origin 0) 0) 0 true false data
          u.outBelow i stg 0 false data y.2
      t.scalarDone i tag0 tag1 data
  else
    let g : Got := { src := tgSrc tag1, stage := tgStage tag1, out := false, chunk := 0, data := data }
    State.msgStep c i.no 8 (s.setInst c i.no fun j => { j with got := j.got ++ [g] })

/-- A COLL_MSG arrives, with the kind and direction that its row names. -/
def State.msgIn (s : State) (kind : Nat) (out : Bool) (dst port : Nat) (tag0 tag1 : Word64) (data : List Byte) : State :=
  match s.ctxAt dst tag0 with
  | none => s
  | some c =>
    let no := tgSeq tag0
    let s := (s.memberHeard c (s.senderNode c tag1)).memberBack c (s.senderNode c tag1)
    let e : Early := { msg := true, dst := dst, tag0 := tag0, tag1 := tag1, data := data }
    let key := (tag0, tgPlain tag1, msgSeg tag1 data)
    if tgKind tag1 ≠ kind ∨ tgOut tag1 ≠ out then s
    else if tgEpoch tag1 ≠ s.epochOf c no then s
    else if s.seen.contains key then
      let t := s.ackMsg c tag0 tag1
      match t.inst? c no with
      | some i => if kind = kdSeal ∧ !out then t.sealAgain i (msgSeg tag1 data) (tgSrc tag1) else t
      | none => t
    else match s.inst? c no with
      | none => if s.future c no then { s with early := union s.early [e] } else s.ackMsg c tag0 tag1
      | some i =>
        if !i.started then { s with early := union s.early [e] }
        else if tgKind tag1 = i.kind ∧ i.scalarMalformed data then s.chunkFault i 0x03 tag0 tag1
        else if !i.msgOk tag1 data then s.collEvent c 0x06 .peer tag0.toNat tag1.toNat
        else ({ s with seen := s.seen ++ [key] }.ackMsg c tag0 tag1).msgAct i port tag0 tag1 data

/-- A COLL_MSG as its row brings it: the next of its channel where a port's buffer holds it (R262). -/
def State.msgRow (s : State) (kind : Nat) (out : Bool) (dst port : Nat) (tag0 tag1 : Word64) (data : List Byte) : State :=
  match s.collArrives (isCollMsg dst tag0 tag1 data) with
  | some t => t.msgIn kind out dst port tag0 tag1 data
  | none => s

/-- SEAL_REPORT_SEND. -/
def execSealReportSend (ctx inst seg : Nat) (s : State) : Outcome := act s fun s => s.report ctx inst seg

/-- SEAL_REPORT. -/
def execSealReport (dst : Nat) (tag0 tag1 : Word64) (data : List Byte) (s : State) : Outcome :=
  act s fun s => s.msgRow kdSeal false dst 0 tag0 tag1 data

/-- SEAL. -/
def execSealMsg (dst : Nat) (tag0 tag1 : Word64) (data : List Byte) (s : State) : Outcome :=
  act s fun s => s.msgRow kdSeal true dst 0 tag0 tag1 data

/-- BARRIER_ARRIVAL. -/
def execBarrierArrival (dst : Nat) (tag0 tag1 : Word64) (data : List Byte) (s : State) : Outcome :=
  act s fun s => s.msgRow kdBarrier false dst 0 tag0 tag1 data

/-- BARRIER_RELEASE. -/
def execBarrierRelease (dst port : Nat) (tag0 tag1 : Word64) (data : List Byte) (s : State) : Outcome :=
  act s fun s => s.msgRow kdBarrier true dst port tag0 tag1 data

/-- SCALAR_CONTRIBUTION. -/
def execScalarContribution (dst : Nat) (tag0 tag1 : Word64) (data : List Byte) (s : State) : Outcome :=
  act s fun s => s.msgRow kdScalar false dst 0 tag0 tag1 data

/-- SCALAR_RESULT. -/
def execScalarResult (dst : Nat) (tag0 tag1 : Word64) (data : List Byte) (s : State) : Outcome :=
  act s fun s => s.msgRow kdScalar true dst 0 tag0 tag1 data

/-- A message is acknowledged; acknowledgements of KIND 8 name no segment, and answer the oldest copy. -/
def State.msgAcked (s : State) (src : Nat) (tag0 tag1 : Word64) : State :=
  let plain := BitVec.ofNat 64 (setBits tag0.toNat 0 0 0)
  ({ s with msgs := s.msgs.eraseP fun x =>
      x.dst == src && x.tag0 == plain && tgPlain x.tag1 == tgPlain tag1 } : State).dropCollReq ttCollMsg src plain tag1

/-- COLL_MSG_ACK. -/
def execCollMsgAck (src : Nat) (tag0 tag1 : Word64) (s : State) : Outcome := act s fun s =>
  match s.collArrives fun t => isCollAck ttCollMsg src tag0 tag1 t && wbits t.arg0 0 0 == 1 with
  | some t => t.msgAcked src tag0 tag1
  | none => s

/-- COLL_MSG_RESEND: 20 µs without an acknowledgement; a suspect destination gets no more copies (R234). -/
def execCollMsgResend (idx : Nat) (s : State) : Outcome := act s fun s =>
  match s.msgs[idx]? with
  | none => s
  | some x =>
    if !s.elapsed x.since (20 * cyclesPerUs) || s.ctxs.any fun e => e.2.suspects.contains x.dst then s
    else
      let y := { x with tag1 := tgAgain x.tag1, resends := x.resends + 1, since := s.now }
      let c := (s.ctxAt s.node x.tag0).getD 0
      let src := if ((s.members c).getD (tgSrc x.tag1) s.node) = s.node then s.node else s.twin.serves.getD s.node
      ({ s with msgs := s.msgs.set idx y }.dropCollReq ttCollMsg x.dst x.tag0 x.tag1).sendMsg src y

/-! ### The start of an instance, with what has come early -/

/-- Chunks and messages that waited for the instance. -/
def State.drainEarly (s : State) (c no : Nat) : State :=
  let isIt := fun (e : Early) => s.ctxAt e.dst e.tag0 == some c && tgSeq e.tag0 == no
  (s.early.filter isIt).foldl (fun (t : State) e =>
      if e.msg then t.msgIn (tgKind e.tag1) (tgOut e.tag1) e.dst 0 e.tag0 e.tag1 e.data
      else t.chunkIn e.dst e.tag0 e.tag1 e.data)
    { s with early := s.early.filter fun e => !isIt e }

/-- A barrier or scalar reduction of a replay whose release or result is in the log: it is not run again (R236, R321). -/
def State.msgLogged (s : State) (c no : Nat) : State :=
  match s.inst? c no with
  | none => s
  | some i =>
    if i.started ∨ !i.isMsg ∨ !s.sealedBefore i then s
    else match (s.loggedFor i).head? with
      | none => s
      | some e => if i.kind = kdBarrier then s.instDone i else s.scalarWrite i e.2.2

/-- An instance starts: its own bytes by chunk, then what has come early. -/
def State.beginInst (s : State) (c no : Nat) (own : Nat → List Byte) : State :=
  let t := State.msgStep c no 8 (((s.msgLogged c no).startInst c no own).drainEarly c no)
  t.pump

/-! ### Losing a member (R235 to R237) -/

/-- A member becomes suspect: the context acts by ON_LOSS (Table 9.13). -/
def State.suspect (s : State) (c m : Nat) : State :=
  let x := mget {} s.ctxs c
  let node := x.members.getD m 0
  if !s.fon Fl.grpCfgValid c || s.fget Fl.grpStatState c == gsFailed || decide (x.members.length ≤ m) || m == s.selfIdx c ||
     x.suspects.contains node then s
  else
    let t := { s with ctxs := mput {} s.ctxs c { x with suspects := x.suspects ++ [node], suspectAt := s.now } }
    let t := (t.fset Fl.grpStatState c gsSuspect).collEvent c 0x07 .degraded 0 0
    if s.fget Fl.grpCfgOnLoss c = 2 then t.failCtx c 0x23 else t

/-- The fabric reports a node unreachable (R235). -/
def State.nodeLost (s : State) (node : Nat) : State :=
  (s.ctxs.filter fun e => e.2.members.contains node).foldl (fun (t : State) e => t.suspect e.1 (e.2.members.idxOf node)) s

/-- An instance of the context has run, with nothing from a node, for longer than the collective stage timeout (R235; log
entry 137, DESIGN CHOICE). -/
def State.stageOver (s : State) (c node : Nat) : Bool :=
  s.insts.any fun i => i.ctx == c && i.started &&
    decide (max i.since (mget 0 (mget {} s.ctxs c).heard node) + s.limitUs 7 < s.now)

/-- MEMBER_SUSPECT: an instance of the context has waited longer than the collective stage timeout. -/
def execMemberSuspect (ctx member : Nat) (s : State) : Outcome := act s fun s =>
  if s.stageOver ctx ((s.members ctx).getD member 0) then s.suspect ctx member else s

/-- The suspects of a context excluded one by one. -/
def State.reformAll (s : State) (c : Nat) : State :=
  (mget {} s.ctxs c).suspects.foldl (fun (t : State) n =>
    let m := (t.members c).idxOf n
    if m < (t.members c).length then t.reform c m true else t) s

/-- TWIN_WAIT_EXPIRE: no takeover completed in time. TWIN_THEN_REFORM re-forms, unless DET_STRICT denies it (R235, R237). -/
def execTwinWaitExpire (ctx : Nat) (s : State) : Outcome := act s fun s =>
  if s.fget Fl.grpStatState ctx ≠ gsSuspect ∨ !s.elapsed (mget {} s.ctxs ctx).suspectAt (s.limitUs 6) then s
  else if s.fget Fl.grpCfgOnLoss ctx = 1 then
    if s.ctxStrict (decide (512 ≤ ctx) && s.twin.serves.isSome) then (s.collEvent ctx 0x0A .lost 0 0).failCtx ctx 0x22
    else s.reformAll ctx
  else s.failCtx ctx 0x23

/-- DEPARTURE: the group bell has reached R + D (R233). -/
def execDeparture (dom : Nat) (s : State) : Outcome := act s fun s =>
  match s.ost.depart with
  | some b => if b ≤ s.now ∧ s.stream dom then { s with ost := { s.ost with depart := none } } else s
  | none => s

end Sys2Proof.Machine
end

