-- ==== Sys2Proof/Machine/OpRows.lean ====
section
/-! DEFINITION. OpRows: the operations of Table 6.8 from their run to their record: array and engine operations, fused and
standalone collectives, barriers, scalar reductions, table operations, WAYMARK, FENCE and NOP, budgets (R119 to R138, R154
to R168, R186, R197 to R211, R220 to R224, R229, R280, R281, R313). -/

namespace Sys2Proof.Machine

/-! ### When an operation runs -/

/-- Unsealed instances whose results an operation reads (R229): gathers that fill its slot, and earlier instances. -/
def State.readsOpen (s : State) (o : Op) : List Inst :=
  s.insts.filter fun i => !i.isMsg && s.instPartner i == o.partner &&
    ((i.op == o.seq && i.isGather) || (i.op != o.seq && (s.opIns o).any fun x => x.meets i.resultExt))

/-- Its fused gather is sealed, and so are all instances it reads; with SPEC_CONSUME it is enough that their chunks have
been delivered (R229). -/
def State.gatherReady (s : State) (o : Op) : Bool :=
  (s.readsOpen o).all fun i => o.d.specConsume && i.started && s.allDelivered i

/-- Earlier operations in the array of its stream have left it (R20), and those it follows under tongs have written what
they share (R299). -/
def State.turnOf (s : State) (o : Op) : Bool :=
  s.ops.all fun p => p.seq == o.seq || (p.seq + 2 ^ 48 - o.seq) % 2 ^ 48 < 2 ^ 47 ||
    (!(isArrayOp o.d.opcode && p.dom == o.dom && p.notOut && !p.preempted) && (!s.ordered o p || p.phase == .written))

/-- An operation can run now, whole. -/
def State.runnable (s : State) (o : Op) : Bool :=
  (o.phase == .selected || o.phase == .gathered || o.phase == .rerun) && o.blocks.isEmpty && o.rows.isEmpty && !o.entered &&
  !o.preempted && !o.stopping && o.partner == s.twin.running && s.stream o.dom && s.turnOf o && s.gatherReady o

/-- Provisional results of unsealed instances put where they will stand (R229). -/
def State.provisional (s : State) (o : Op) : State :=
  (s.readsOpen o).foldl (fun (t : State) i =>
    (List.range i.chunks).foldl (fun (t : State) c =>
      if i.takesChunk (t.selfName i) c then
        let p := t.instOp i
        let r := t.chunkOuts i p c
        t.ctxBitsAll o.partner (r.writes { t.envOf p with t2 := r.dst.getD p.d.slot2 })
      else t) t) s

/-- What an operation runs on, provisional chunks included. -/
def State.runEnv (s : State) (o : Op) : Env :=
  if (s.readsOpen o).isEmpty then s.envOf o else { s.envOf o with rd := (s.provisional o).ctxRd o.partner }

/-! ### Fused reductions (R220, R221) -/

/-- The operation's reduction is fused. -/
def Op.fusedPost (o : Op) : Bool := o.d.opcode != opColl && o.d.collPost != 0

/-- Groups of an operation whose outputs come from groups, as it gives them to its reduction. -/
def contribOf (v : Env) : List Grp := if v.d.groupOutputs then (List.range v.t2.count).map (contribGroup v) else []

/-- Codes of a rounded contribution whose outputs come from no group: each delivered element, decoded and rounded once to
XFER_FMT (Table 9.10). -/
def codesOf (v : Env) (r : RunOut) : List Nat :=
  let x := (fmtOfCode v.d.xferCode).getD .uint8
  if v.d.groupOutputs then []
  else r.outs.map fun e => (deliverVal x v.d.mode v.d.sat (v.sr e.idx) (decodeCode v.t2.fmt [] e.code)).code

/-- A run that ends in contributions: its own counts and term events are taken now, those of delivery at the delivery. -/
def State.runContrib (s : State) (o : Op) (v : Env) : State :=
  let r := runOf v
  let gs := contribOf v
  let evs := (r.events v).filter fun e => e.cause != 0x06
  let cnt : Counts :=
    { infZero := sat32 (r.infZero + (r.outs.map fun (e : OutElem) => e.infZero).sum),
      spillLo := sat32 (gs.filter fun (g : Grp) => g.sLo).length,
      gaugeRun := sat32 r.gaugeRun, gaugeSkip := sat32 r.gaugeSkip }
  ((s.ledger o.seq evs).addUnchecked r.gaugeSkip).setOp o.seq fun o => { o with
    cnt := cnt, contrib := gs, codes := codesOf v r, phase := .computed, inArray := false }

/-- The run of an array or data operation. A re-run whose fused reduction is sealed already has its outputs. -/
def State.runDo (s : State) (o : Op) : State :=
  let v := s.runEnv o
  let t := if (s.readsOpen o).isEmpty then s else s.setOp o.seq fun o => { o with specUsed := true }
  let t := t.takeProd o
  if o.fusedPost then
    if (t.instsOf o.seq).any fun i => i.isReduce then t.runContrib o v
    else t.setOp o.seq fun o => { o with phase := .written, inArray := false }
  else t.runOp o v

/-- Rows that the finishers complete for an operation (R82): MAX, MIN and VAR of REDUCE, NORM, SOFTMAX and ATTEND. -/
def finisherRows (v : Env) : Nat :=
  let d := v.d
  if d.opcode = opNorm ∨ d.opcode = opSoftmax then rowCount v
  else if d.opcode = opReduce ∧ 2 ≤ d.subop then rowCount v
  else if d.opcode = opAttend then d.matM * d.batches
  else 0

/-- The finishers that complete the rows of an operation that runs whole, with the rows of each: its domain's quarters in turn
(log entry 125, DESIGN CHOICE). -/
def State.finisherShare (s : State) (o : Op) (n : Nat) : List (Nat × Nat) :=
  let qs := if (s.domQuarters o.dom).isEmpty then [o.dom] else s.domQuarters o.dom
  (qs.zipIdx.map fun q => (q.1, ceilDiv (n - q.2) qs.length)).filter fun x => x.2 != 0

/-- A finisher of a quarter is busy. -/
def State.finBusy (s : State) (q : Nat) : Bool := bitsOf (s.fget Fl.qchFinBusy 0) q q == 1

/-- A quarter's finisher takes up rows, 16 array cycles each (R82). -/
def State.useFinisher (s : State) (q rows : Nat) : State :=
  let t := s.fset Fl.qchFinBusy 0 (setBits (s.fget Fl.qchFinBusy 0) q q 1)
  { t with ost := { t.ost with finFree := mput 0 t.ost.finFree q (s.now + 16 * rows) } }

/-- Rows counted in QCH_FIN (Table 17.6). -/
def State.countRows (s : State) (n : Nat) : State := s.fset Fl.qchFinRows 0 ((s.fget Fl.qchFinRows 0 + n) % 2 ^ 48)

/-- The finishers that an operation's rows need are free (R82). -/
def State.finishersFree (s : State) (o : Op) : Bool :=
  (s.finisherShare o (finisherRows (s.runEnv o))).all fun x => !s.finBusy x.1

/-- Rows taken up by the finishers, and counted. -/
def State.takeRows (s : State) (o : Op) : State :=
  let n := finisherRows (s.runEnv o)
  ((s.finisherShare o n).foldl (fun (t : State) x => t.useFinisher x.1 x.2) s).countRows n

/-- The row of an operation: it runs whole where it is that operation and can run. An uncorrectable line among its reads
aborts it (R272); a write that finds no reserve space in the partner's context loses it (R350). -/
def State.opRow (s : State) (seq op subop : Nat) : State :=
  match s.op? seq with
  | none => s
  | some o =>
    if o.d.opcode ≠ op ∨ o.d.subop ≠ subop ∨ !s.runnable o ∨ !s.finishersFree o then s
    else if !(s.opUe o).isEmpty then s.opMeetsUe seq (s.opUe o)
    else if !s.runRoom o then s.opLost o 0x21
    else (s.takeRows o).runDo o

/-! ### The rows of array and data operations -/

/-- MATMUL (R119 to R138). -/
def execMatmul (seq : Nat) (s : State) : Outcome := act s fun s => s.opRow seq opMatmul 0
/-- MATVEC (R134 to R137). -/
def execMatvec (seq : Nat) (s : State) : Outcome := act s fun s => s.opRow seq opMatvec 0
/-- ELEMWISE UNARY (R154). -/
def execElemwiseUnary (seq : Nat) (s : State) : Outcome := act s fun s => s.opRow seq opElemwise 0
/-- ELEMWISE ADD. -/
def execElemwiseAdd (seq : Nat) (s : State) : Outcome := act s fun s => s.opRow seq opElemwise 1
/-- ELEMWISE SUB. -/
def execElemwiseSub (seq : Nat) (s : State) : Outcome := act s fun s => s.opRow seq opElemwise 2
/-- ELEMWISE MUL. -/
def execElemwiseMul (seq : Nat) (s : State) : Outcome := act s fun s => s.opRow seq opElemwise 3
/-- ELEMWISE FMA. -/
def execElemwiseFma (seq : Nat) (s : State) : Outcome := act s fun s => s.opRow seq opElemwise 4
/-- ELEMWISE MAX (R419). -/
def execElemwiseMax (seq : Nat) (s : State) : Outcome := act s fun s => s.opRow seq opElemwise 5
/-- ELEMWISE MIN (R419). -/
def execElemwiseMin (seq : Nat) (s : State) : Outcome := act s fun s => s.opRow seq opElemwise 6
/-- ELEMWISE DROPOUT (R211). -/
def execDropout (seq : Nat) (s : State) : Outcome := act s fun s => s.opRow seq opElemwise 7
/-- REDUCE SUM (R79). -/
def execReduceSum (seq : Nat) (s : State) : Outcome := act s fun s => s.opRow seq opReduce 0
/-- REDUCE SUMSQ (R80). -/
def execReduceSumsq (seq : Nat) (s : State) : Outcome := act s fun s => s.opRow seq opReduce 1
/-- REDUCE MAX (R419). -/
def execReduceMax (seq : Nat) (s : State) : Outcome := act s fun s => s.opRow seq opReduce 2
/-- REDUCE MIN (R419). -/
def execReduceMin (seq : Nat) (s : State) : Outcome := act s fun s => s.opRow seq opReduce 3
/-- REDUCE VAR (R81). -/
def execReduceVar (seq : Nat) (s : State) : Outcome := act s fun s => s.opRow seq opReduce 4
/-- NORM LAYER (R206). -/
def execNormLayer (seq : Nat) (s : State) : Outcome := act s fun s => s.opRow seq opNorm 0
/-- NORM RMS (R206). -/
def execNormRms (seq : Nat) (s : State) : Outcome := act s fun s => s.opRow seq opNorm 1
/-- SOFTMAX (R202 to R204). -/
def execSoftmax (seq : Nat) (s : State) : Outcome := act s fun s => s.opRow seq opSoftmax 0
/-- ATTEND (R205). -/
def execAttend (seq : Nat) (s : State) : Outcome := act s fun s => s.opRow seq opAttend 0
/-- CONVERT QUANT (R169 to R175). -/
def execQuant (seq : Nat) (s : State) : Outcome := act s fun s => s.opRow seq opConvert 0
/-- CONVERT FOLD (R186). -/
def execFold (seq : Nat) (s : State) : Outcome := act s fun s => s.opRow seq opConvert 1
/-- CONVERT CB_BUILD (R180). -/
def execCbBuild (seq : Nat) (s : State) : Outcome := act s fun s => s.opRow seq opConvert 2
/-- CONVERT SB_BUILD (R178). -/
def execSbBuild (seq : Nat) (s : State) : Outcome := act s fun s => s.opRow seq opConvert 3
/-- GATHER (R154). -/
def execGather (seq : Nat) (s : State) : Outcome := act s fun s => s.opRow seq opGather 0
/-- SCATTER_ACC, every term added in one step (R280, R281). -/
def execScatterAcc (seq : Nat) (s : State) : Outcome := act s fun s => s.opRow seq opScatter 0
/-- RNG_FILL UNIFORM (R210). -/
def execRngUniform (seq : Nat) (s : State) : Outcome := act s fun s => s.opRow seq opRng 0
/-- RNG_FILL NORMAL (R210). -/
def execRngNormal (seq : Nat) (s : State) : Outcome := act s fun s => s.opRow seq opRng 1
/-- RNG_FILL BERNOULLI (R210). -/
def execRngBernoulli (seq : Nat) (s : State) : Outcome := act s fun s => s.opRow seq opRng 2
/-- COPY (R49, R413). -/
def execCopy (seq : Nat) (s : State) : Outcome := act s fun s => s.opRow seq opCopy 0

/-- A run of one source element of a SCATTER_ACC. -/
def scatterOne (v : Env) (l : Nat) : RunOut :=
  let dst := v.t2
  let w := dst.w
  let e := v.d.t0.elemAt v.rd l
  let t := scatterTerm v w e
  match dst.place v.rd (unlinear dst.psizes l) with
  | .at b _ =>
    { extra := [(b, w, exactAddElem w t (rdBits v.rd b w))], evs := scatterEvents l e t,
      spillLo := t.sLo.toNat, spillHi := t.sHi.toNat, narOut := t.nar.toNat }
  | _ => {}

/-- EXACT_ADD (R281): the exact-add unit adds the term of one source element, indivisibly; the last one ends the
operation. -/
def State.exactAdd (s : State) (seq elem : Nat) : State :=
  match s.op? seq with
  | none => s
  | some o =>
    let n := o.d.t0.count
    if o.d.opcode ≠ opScatter ∨ n ≤ elem ∨ o.blocks.contains (elem, 0) ∨ !s.runnable { o with blocks := [] } then s
    else if !(s.opUe o).isEmpty then s.opMeetsUe seq (s.opUe o)
    else if !s.runRoom o then s.opLost o 0x21
    else
      let v := s.runEnv o
      let r := scatterOne v elem
      let t := ((s.noteMirror o.partner v.t2).ctxBitsAll o.partner r.extra).ledger seq r.evs
      let c : Counts := { spillHi := r.spillHi, spillLo := r.spillLo, narOut := r.narOut }
      let t := t.setOp seq fun o => { o with blocks := o.blocks ++ [(elem, 0)], cnt := o.cnt.plus c }
      if o.blocks.length + 1 < n then t
      else
        let es := listEvents o.d.t0 v.rd ++ listEvents v.t2 v.rd
        (t.ledger seq es).setOp seq fun o => { o with
          phase := .written, status := if (listEvents v.t2 v.rd).isEmpty then o.status else 0x24 }

/-- EXACT_ADD. -/
def execExactAdd (seq elem : Nat) (s : State) : Outcome := act s fun s => s.exactAdd seq elem

/-! ### Collectives -/

/-- The pieces of this member's own part of a chunk, from the codes of the part. -/
def Inst.ownPart (i : Inst) (me : Nat) (f : Fmt) (codes : List Nat) (c : Nat) : List Byte :=
  let n := i.elems / max 1 i.names.length
  packCodes f.bits (((i.pieces c).filter fun p => p.1 == me).flatMap fun p => (codes.drop (p.2.1 - me * n)).take p.2.2)

/-- The code that an element is sent as: unchanged; NAR where its row's index is out of range (R147). -/
def sentCode (f : Fmt) (e : Elem) : Nat := if e.badIdx then narCode f else e.code

/-- The codes of the part that a fused gather finds in place (R222). -/
def wholeCodes (i : Inst) (me : Nat) (rd : Rd) : List Nat :=
  let n := i.elems / max 1 i.names.length
  let t := i.d.wholeSlot.2
  (List.range n).map fun k => sentCode t.fmt (t.elemAt rd (me * n + k))

/-- The contribution of a chunk of a fused reduction. -/
def Inst.ownSum (i : Inst) (o : Op) (c : Nat) : List Byte :=
  let e := i.chunkElems c
  if i.d.groupOutputs then i.encode e.1 ((o.contrib.drop e.1).take e.2)
  else packCodes i.xfer.bits ((o.codes.drop e.1).take e.2)

/-- The contribution of a chunk of a standalone reduction (R220, R221). -/
def Inst.ownInput (i : Inst) (o : Op) (es : List Elem) (c : Nat) : List Byte :=
  let e := i.chunkElems c
  let f := (fmtOfCode o.srcCode).getD .uint8
  let xs := (es.drop e.1).take e.2
  if i.exact then (xs.map (srcGroup f i.w i.anchor)).flatMap (packGroup i.w)
  else
    let val (x : Elem) : Val := match f.quireW with
      | some w => decodeQuire w i.anchor x.code
      | none => x.val
    packCodes i.xfer.bits (xs.zipIdx.map fun x =>
      (deliverVal i.xfer i.d.mode i.d.sat (i.sr (e.1 + x.2)) (val x.1)).code)

/-- The unsealed instances that an operation reads, its own gather apart, can be read (R229). -/
def State.openReady (s : State) (o : Op) : Bool :=
  (s.readsOpen o).all fun j => j.op == o.seq || (o.d.specConsume && j.started && s.allDelivered j)

/-- An operation that reads provisional chunks shows SPEC_USED (R229). -/
def State.noteSpec (s : State) (o : Op) : State :=
  if (s.readsOpen o).any fun j => j.op != o.seq then s.setOp o.seq fun p => { p with specUsed := true } else s

/-- COLLECTIVE (R222): the instance starts with T0's elements; its operation waits for the seal. -/
def State.collRow (s : State) (seq : Nat) : State :=
  match s.op? seq with
  | none => s
  | some o =>
    match (s.instsOf seq).head? with
    | none => s
    | some i =>
      let ready := s.turnOf o && o.partner == s.twin.running && s.stream o.dom && o.phase != .written && s.openReady o
      if o.d.opcode ≠ opColl ∨ (i.started ∧ o.phase = .computed) ∨ !ready then s
      else if !(s.opUe o).isEmpty then s.opMeetsUe seq (s.opUe o)
      else if !s.runRoom o then s.opLost o 0x21
      else
        let v := s.runEnv o
        let es := srcElems o v
        let f := (fmtOfCode o.srcCode).getD .uint8
        let gs := if i.isReduce ∧ i.exact then es.map (srcGroup f i.w i.anchor) else []
        let evs :=
          if f.isQuire ∨ !i.isReduce then []
          else if i.exact then es.zipIdx.flatMap fun x => termEvents i.w i.anchor x.2 0 x.1 elemOne
          else es.zipIdx.flatMap fun x => wideEvents x.2 [x.1]
        let cnt : Counts := { spillLo := sat32 (gs.filter fun (g : Grp) => g.sLo).length }
        let t := ((s.noteSpec o).ledger seq (listEvents o.d.t0 v.rd ++ evs)).setOp seq fun o => { o with phase := .computed, cnt := cnt }
        if i.isGather then t.beginInst i.ctx i.no (i.ownPart (s.selfName i) f (es.map (sentCode f)))
        else t.beginInst i.ctx i.no (i.ownInput o es)

/-- COLLECTIVE. -/
def execCollective (seq : Nat) (s : State) : Outcome := act s fun s => s.collRow seq

/-- A fused gather of a kind starts before the operation reads its slot (R157). At a member other than ROOT a GATHER does
no more than send its part (R222). -/
def State.fusedGather (s : State) (seq kind : Nat) : State :=
  match s.op? seq with
  | none => s
  | some o =>
    match (s.instsOf seq).find? fun i => i.kind == kind with
    | none => s
    | some i =>
      if o.d.opcode = opColl ∨ i.started ∨ o.partner ≠ s.twin.running ∨ !s.turnOf o ∨ !s.openReady o then s
      else if !(s.readUe o).isEmpty then s.opMeetsUe seq ((s.readUe o).map fun l => (l, 0))
      else
        let me := s.selfName i
        let t := if kind = kdGather ∧ me ≠ i.d.root then s.setOp seq fun o => { o with phase := .computed } else s
        (t.noteSpec o).beginInst i.ctx i.no (i.ownPart me (i.srcFmt o) (wholeCodes i me (s.runEnv o).rd))

/-- A fused reduction of a kind starts once the operation's groups have been formed (R221). -/
def State.fusedReduce (s : State) (seq kind : Nat) : State :=
  match s.op? seq with
  | none => s
  | some o =>
    match (s.instsOf seq).find? fun i => i.kind == kind with
    | none => s
    | some i =>
      if o.d.opcode = opColl ∨ i.started ∨ o.phase ≠ .computed then s
      else s.beginInst i.ctx i.no (i.ownSum o)

/-- FUSED_GATHER. -/
def execFusedGather (seq : Nat) (s : State) : Outcome := act s fun s => s.fusedGather seq kdGather
/-- FUSED_ALL_GATHER. -/
def execFusedAllGather (seq : Nat) (s : State) : Outcome := act s fun s => s.fusedGather seq kdAllGather
/-- FUSED_REDUCE. -/
def execFusedReduce (seq : Nat) (s : State) : Outcome := act s fun s => s.fusedReduce seq kdReduce
/-- FUSED_ALL_REDUCE. -/
def execFusedAllReduce (seq : Nat) (s : State) : Outcome := act s fun s => s.fusedReduce seq kdAllReduce
/-- FUSED_REDUCE_SCATTER. -/
def execFusedReduceScatter (seq : Nat) (s : State) : Outcome := act s fun s => s.fusedReduce seq kdReduceScatter

/-- BARRIER (R231, R232): this member arrives. -/
def State.barrierRow (s : State) (seq : Nat) : State :=
  match s.op? seq with
  | none => s
  | some o =>
    match (s.instsOf seq).head? with
    | none => s
    | some i =>
      if o.d.opcode ≠ opBarrier ∨ i.started ∨ o.partner ≠ s.twin.running then s
      else (s.setOp seq fun o => { o with phase := .computed }).beginInst i.ctx i.no fun _ => []

/-- BARRIER. -/
def execBarrier (seq : Nat) (s : State) : Outcome := act s fun s => s.barrierRow seq

/-- SCALAR_REDUCE (R231): the values go out as packs, or as elements of their format. -/
def State.scalarRow (s : State) (seq subop : Nat) : State :=
  match s.op? seq with
  | none => s
  | some o =>
    match (s.instsOf seq).head? with
    | none => s
    | some i =>
      let ready := o.partner == s.twin.running && s.turnOf o && (s.readsOpen o).isEmpty
      if o.d.opcode ≠ opScalar ∨ o.d.subop ≠ subop ∨ i.started ∨ !ready then s
      else if !(s.opUe o).isEmpty then s.opMeetsUe seq (s.opUe o)
      else if !s.runRoom o then s.opLost o 0x21
      else
        let v := s.envOf o
        let es := (List.range o.d.t0.count).map fun l => o.d.t0.elemAt v.rd l
        let gs := es.map fun (e : Elem) => unitTerm i.w i.anchor e.val
        let sum := decide (subop = 0)
        let evs := es.zipIdx.flatMap fun x =>
          if sum then termEvents i.w i.anchor x.2 0 x.1 elemOne else wideEvents x.2 [x.1]
        let cnt : Counts := { spillLo := if sum then (gs.filter fun (g : Grp) => g.sLo).length else 0 }
        let vals := if sum then gs.flatMap (packGroup i.w) else packCodes o.d.t0.fmt.bits (es.map (sentCode o.d.t0.fmt))
        let t := (s.ledger seq (listEvents o.d.t0 v.rd ++ evs)).setOp seq fun o => { o with phase := .computed, cnt := cnt }
        t.beginInst i.ctx i.no fun _ => scalarBytes o.d.t0.count subop o.d.t0.fmtCode vals

/-- SCALAR_REDUCE SUM. -/
def execScalarReduceSum (seq : Nat) (s : State) : Outcome := act s fun s => s.scalarRow seq 0
/-- SCALAR_REDUCE MAX. -/
def execScalarReduceMax (seq : Nat) (s : State) : Outcome := act s fun s => s.scalarRow seq 2
/-- SCALAR_REDUCE MIN. -/
def execScalarReduceMin (seq : Nat) (s : State) : Outcome := act s fun s => s.scalarRow seq 3

/-! ### Table operations -/

/-- TABLE_LOAD (R197). -/
def execTableLoad (seq : Nat) (s : State) : Outcome := act s fun s =>
  match s.op? seq with
  | none => s
  | some o =>
    if o.d.opcode ≠ opTload ∨ !s.runnable o then s
    else if !(s.readUe o).isEmpty then s.opMeetsUe seq ((s.readUe o).map fun l => (l, 0))
    else (s.loadTables o).setOp seq fun o => { o with phase := .written }

/-- TABLE_SWAP (R199); a pending LOOSE_SWAP clears without a detour (R200). -/
def execTableSwap (seq : Nat) (s : State) : Outcome := act s fun s =>
  match s.op? seq with
  | none => s
  | some o =>
    if o.d.opcode ≠ opTswap ∨ (o.phase ≠ .selected ∧ o.phase ≠ .rerun) then s
    else
      let t := s.swapTables o.partner
      (if s.loosePending o.partner then t.looseClear o.partner else t).setOp seq fun o => { o with phase := .written }

/-! ### FENCE, NOP and the completion record -/

/-- NOP (R154). -/
def execNop (seq : Nat) (s : State) : Outcome := act s fun s =>
  match s.op? seq with
  | none => s
  | some o => if o.d.opcode = opNop then s.finish o false 0 else s

/-- The conditions of a FENCE's SCOPE (R155). Every other operation in progress is an earlier one; its NOTIFY write is still to
be sent. -/
def State.fenceMet (s : State) (o : Op) : Bool :=
  let sc := o.d.fld 26 2 0
  let isOp (w : Option Waiter) : Bool := match w with
    | some (.op _) => true
    | _ => false
  (sc % 2 == 0 || s.ops.all fun p => p.seq == o.seq || p.phase == .written) &&
  (sc / 2 % 2 == 0 || s.insts.isEmpty) &&
  (sc / 4 == 0 || ((s.ops.all fun p => p.seq == o.seq || p.d.notify == 0) &&
    !(s.reqs.any fun q => isOp (some q.who)) && !(s.waitTxns.any fun q => isOp q.2.2)))

/-- FENCE (R155). -/
def execFence (seq : Nat) (s : State) : Outcome := act s fun s =>
  match s.op? seq with
  | none => s
  | some o => if o.d.opcode = opFence ∧ s.fenceMet o then s.finish o false 0 else s

/-- A fused GATHER at a member other than ROOT has sent its part (R222). -/
def State.partSent (s : State) (o : Op) : Bool :=
  o.phase == .computed && o.d.opcode != opColl && o.d.collPre == 1 && s.selfIdx o.ctxNo != o.d.root &&
    (s.instsOf o.seq).all fun i => i.kind != kdGather || (i.started && i.sent.all fun x => x.gone)

/-- COMPLETION_RECORD (R162, R167, R222, R338): the operation has written all its outputs, and every instance that it read or
that delivers its outputs is sealed. -/
def execCompletionRecord (seq : Nat) (s : State) : Outcome := act s fun s =>
  match s.op? seq with
  | none => s
  | some o =>
    if (o.phase ≠ .written ∧ !s.partSent o) ∨ (o.specUsed ∧ !(s.readsOpen o).isEmpty) then s
    else if o.status = 0x22 then s.opLost o 0x22
    else s.finish o o.nanTrap 0

/-- The budget of an operation in milliseconds (R166). -/
def State.budgetMs (s : State) (o : Op) : Nat := if o.d.budgetMs = 0 then s.fget Fl.ostToOpDefaultMs 0 else o.d.budgetMs

/-- BUDGET_EXPIRE (R166): an operation in progress past its budget is aborted. -/
def execBudgetExpire (seq : Nat) (s : State) : Outcome := act s fun s =>
  match s.op? seq with
  | none => s
  | some o =>
    if s.now < o.startBell + 800000 * s.budgetMs o then s
    else ((s.dropFronts seq).dropInsts seq).opLost o 0x20

/-! ### WAYMARK (R313) -/

/-- Bytes of a bank in a SEAL entry: 32 attributes, then 16 KiB of tables. -/
def sealBank (bytes : List Host.Cell) (attr : SMap Nat) : List Byte :=
  ((List.range 32).map fun k => BitVec.ofNat 8 (mget 0 attr k)) ++ (List.range 16384).map fun k => mget 0 bytes k

/-- The payload of a SEAL entry (Table 13.6). -/
def State.sealPayload (s : State) (p : Bool) : List Byte :=
  let l := s.ctxLog p
  let tb := s.ctxTables p
  let count := if p then s.twin.other.count.toNat else (s.rd .detCount 0).toNat
  let cause := if p then s.twin.other.cause % 16 else s.fget Fl.detCauseStep 0
  let rooms := (List.range 4096).flatMap fun n =>
    if p && decide (2048 ≤ n) then [0, 0]
    else [mget 0 l.headNo n + s.fget Fl.roomAttrEnable (ctxRoomNo p n) * 2 ^ 63, mget 0 l.enqNo n]
  let ctxs := (List.range 1024).flatMap fun n =>
    if p && decide (512 ≤ n) then [0, 0]
    else [(s.rd .grpStat (ctxGroupNo p n)).toNat, (s.rd .grpBell (ctxGroupNo p n)).toNat]
  wordsBytes ([s.now, l.sealPos, count, cause + (s.ctxStrict p).toNat * 2 ^ 63] ++
    ((List.range 16).map fun k => (s.ctxSeed p k).toNat) ++ [(s.ctxTblGen p).toNat, (s.ctxTblState p).toNat] ++ rooms ++ ctxs) ++
  sealBank tb.bank0 tb.attr0 ++ sealBank tb.bank1 tb.attr1

/-- Step 2: the SEAL entry, SEAL_POS, SEAL_STEP and RETAIN_POS (R313, R317, R318). -/
def State.logSeal (s : State) (p : Bool) (step : Nat) : State :=
  if s.logOn p then
    let bs := s.sealPayload p
    let t := s.logAppend p 0x04 bs
    let pos := (t.ctxLog p).writePos - up64 (16 + bs.length)
    (t.setLog p fun l =>
      let m := { l with sealPos := pos, sealStep := step, sealed := true,
                        enq := l.enq.filter fun e => mget 0 l.headNo e.1 ≤ e.2.1 }
      { m with retainPos := m.retainAt }).logHeader p
  else s

/-- Steps 4 and 5: the record, DET_CAUSE.STEP, DET_STEP; what a replay of the sealed step needed is over. -/
def State.waymarkDone (s : State) (o : Op) : State :=
  let p := o.partner
  let t := s.finish o false 0
  let step := (o.step + 1) % 2 ^ 48
  let t := if p then t.setOther fun c => { c with step := step, cause := c.cause / 16 * 16 }
    else (t.fset Fl.detCauseStep 0 0).hwset Fl.detStepStep 0 step
  let t := (t.setLog p fun l => { l with
    replays := 0, replaying := false, chosen := [], ranUpTo := [], detours := [], collIns := [] }).logMend p
  let mine := fun (e : Nat × Ctx) => (decide (512 ≤ e.1) && t.twin.serves.isSome) == p
  let cs := t.ctxs.map fun e => (e.1, if mine e then { e.2 with sealedMembers := e.2.members } else e.2)
  { t with
    ctxs := cs, twin := { t.twin with
      written := if p then t.twin.written else [], pWritten := if p then [] else t.twin.pWritten } }

/-- Where a context's waymark is sealed (R313 step 3, R352): own state at the twin, the partner's at its new twin. -/
def State.sealAt (s : State) (p : Bool) : Option Nat :=
  if p then s.twin.newTwin else if s.mirroring then some s.twinNode else none

/-- Step 3: SEAL goes out once every earlier MIRROR transaction has been acknowledged (R347). -/
def State.sendSealTx (s : State) (o : Op) (node : Nat) : State :=
  let dirty := if o.partner then s.twin.pDirty else s.twin.dirty
  if !dirty.isEmpty || !s.twin.unacked.isEmpty || s.twin.sealWait.isSome then s
  else
    ({ s with twin := { s.twin with sealWait := some o.seq } } : State).sendKept node 0x03 0 o.step []

/-- WAYMARK (R313): step 1 waits for the collectives, step 2 logs, step 3 seals at the twin and waits for it, steps 4 and 5
complete it. -/
def State.waymark (s : State) (seq : Nat) : State :=
  match s.op? seq with
  | none => s
  | some o =>
    if o.d.opcode ≠ opWaymark ∨ !s.insts.isEmpty then s
    else
      let t := if o.phase = .computed then s
        else (s.logSeal o.partner o.step).setOp seq fun o => { o with phase := .computed }
      match t.sealAt o.partner with
      | some node => t.sendSealTx o node
      | none => t.waymarkDone o

/-- WAYMARK. -/
def execWaymark (seq : Nat) (s : State) : Outcome := act s fun s => s.waymark seq

/-! ### SRAM (R284) -/

/-- Quarter of a commons window (R264). -/
def commonsQuarter (a : Nat) : Nat := (a - 0xFE00000000) / 0x8000000 % 4

/-- Quarter, LOCATION and D4 of an SRAM event (Table 14.19). -/
def sramWords : SramLoc → Nat × Nat × Nat
  | .commons a _ => (commonsQuarter a, commonsQuarter a, a)
  | .panel site a => (siteQuarter site, 2 ^ 62 + site, a)
  | .table site bank o => (siteQuarter site, 2 ^ 63 + site, bank.toNat * 2 ^ 14 + o % 2 ^ 14)

/-- SRAM_UE logged. -/
def State.sramUe (s : State) (loc : SramLoc) (cls : Cls) (how seq : Nat) : State :=
  let w := sramWords loc
  s.logEvent { code := 0x0D, cls := cls, quarter := w.1, seq := seq, loc := w.2.1, d4 := w.2.2, d5 := how }

/-- A double-bit error: a staged chunk is a chunk fault (R227); in the commons an operation ends with ABORTED, in a panel store
or table RAM its pass is aborted; a peer is answered MEM_UE. -/
def State.sramDouble (s : State) (loc : SramLoc) (u : SramUse) : State :=
  match u with
  | .scrub => s.sramUe loc .degraded 0x04 noSeq
  | .operation seq =>
    match s.op? seq with
    | none => s
    | some o =>
      let commons := match loc with
        | .commons _ _ => true
        | _ => false
      let back := if commons then s.canReplay o.partner else s.recovers o
      let t := s.sramUe loc (if back then .recovered else .lost) 0x02 seq
      if commons then (t.dropFronts seq).abandon o else t.abortOp seq 0x04
  | .peer _ t => (s.sramUe loc .lost 0x03 noSeq).respond t (t.ttype + 1)
      (if t.ttype = ttWorkOrder then 5 else 4) rsUe []
  | .stagedChunk ctx inst chunk =>
    let t := s.sramUe loc .recovered 0x01 noSeq
    match t.inst? ctx inst with
    | none => t
    | some i => t.chunkFault i 0x01 (tagWord0 0 inst (t.groupNo ctx) false) (BitVec.ofNat 64 chunk)

/-- SRAM_SCRUB: a single-bit error is corrected, written back and counted; a double-bit error is handled by where it lies. -/
def execSramScrub (loc : SramLoc) (dbl : Bool) (use : SramUse) (s : State) : Outcome := act s fun s =>
  if dbl then s.sramDouble loc use
  else
    let w := sramWords loc
    s.logEvent { code := 0x0C, cls := .corrected, quarter := w.1, loc := w.2.1, d4 := w.2.2 }

end Sys2Proof.Machine
end

