-- ==== Sys2Proof/Machine/TilePlan.lean ====
section
/-! DEFINITION. TilePlan: which outputs a tile works on, which operand lines and K indices in a matrix product, where operand
words lie in its panel store, the pieces of wide significands, and the fills of the bellows (R87 to R91, R121 to R129, R134,
R135). -/

namespace Sys2Proof.Machine

/-! ### Blocks -/

/-- The key of the block of a logical tile in a strip sub-pass. -/
def blockKey (tile sub : Nat) : Nat := tile + 4096 * sub

/-- The key of a front's block. -/
def Front.key (f : Front) : Nat := blockKey f.tile f.sub

/-- The last tile of a logical tile's relay chain (R130). -/
def Desc.lastOf (d : Desc) (tile : Nat) : Nat := tile + 64 * (d.parts - 1 - d.partOf tile)

/-- Strip sub-passes of a tile (R136). -/
def Desc.subs (d : Desc) : Nat := if d.strip then d.matM else 1

/-- The blocks that a matrix product's tiles run: every tile of a chain whose last tile holds outputs, in every
sub-pass. -/
def Desc.tileBlocks (d : Desc) : List (Nat × Nat) :=
  (opBlocks d).flatMap fun b => (List.range d.parts).flatMap fun i =>
    (List.range d.subs).map fun u => (b.1, blockKey (b.2 - 64 * i) u)

/-- The blocks of an array operation (log entry 13, DESIGN CHOICE, for the passes of one that is no matrix product). -/
def Op.tileBlocks (o : Op) : List (Nat × Nat) :=
  if o.d.isMat then o.d.tileBlocks
  else o.passes.zipIdx.flatMap fun e => e.1.blocks.map fun b => (b.1, blockKey b.2 e.2)

/-- First output row and column of a block, and its batch index (R121, R122, R134, R137). -/
structure Corner where
  m0 : Nat
  n0 : Nat
  beta : Nat
  deriving DecidableEq, Repr

/-- The corner of the block of a logical tile in a placement. -/
def Desc.corner (d : Desc) (plc tile sub : Nat) : Corner :=
  let k := d.parts
  let last := d.lastOf tile
  if d.strip then
    let i := ((List.range (4096 / k)).find? fun i => stripTile k i == last).getD 0
    let b := plc * (4096 / k) + i
    let nb := ceilDiv d.matN 32
    { m0 := sub, n0 := b % nb * 32, beta := b / nb }
  else
    let rows := 64 / k * d.hm
    let pm := ceilDiv d.matM rows
    let pn := ceilDiv d.matN (64 * d.hn)
    { m0 := plc % pm * rows + last / 64 / k * d.hm, n0 := plc / pm % pn * (64 * d.hn) + last % 64 * d.hn,
      beta := plc / (pm * pn) }

/-- The corner of a front's block. -/
def Desc.cornerOf (d : Desc) (f : Front) : Corner := d.corner f.plc f.tile f.sub

/-- Batch position of a corner. -/
def Desc.batchOf (d : Desc) (c : Corner) : List Nat := unlinear (d.t2.psizes.drop 2) c.beta

/-- How the groups of a block lie in a tile (Table 3.1): group rows and columns, the rows and columns of cells that each
group has, and W. -/
structure Layout where
  rows : Nat
  cols : Nat
  rowsPer : Nat
  colsPer : Nat
  w : Nat
  deriving DecidableEq, Repr

/-- The layout of a class (Table 3.1). -/
def clsLayout (c : Nat) : Layout :=
  { rows := clsHm c, cols := clsHn c, rowsPer := if c = 0 then 1 else 2,
    colsPer := match c with | 0 => 1 | 1 => 1 | 2 => 2 | _ => 4, w := clsWidth c }

/-- The layout of strip mode (R134): each logical column has groups of its own, so a group of C32 or C64 stands in one
column, in as many rows as it has cells (log entry 123, DESIGN CHOICE: Table 3.1 gives such a group two or four columns). -/
def stripLayout (c : Nat) : Layout := { rows := 32 / 2 ^ c, cols := 32, rowsPer := 2 ^ c, colsPer := 1, w := clsWidth c }

/-- The layout of a matrix product, and of any front of an operation. -/
def Desc.lay (d : Desc) : Layout := if d.strip then stripLayout d.cls else clsLayout d.cls
def Op.lay (o : Op) (f : Front) : Layout := if o.d.isMat then o.d.lay else clsLayout (o.pass f.sub).cls

/-- The logical cells of a group, in the order of the bits of G that they hold; the last one's tally is the group tally. -/
def Layout.cells (y : Layout) (i j : Nat) : List (Nat × Nat) :=
  (List.range y.rowsPer).flatMap fun r => (List.range y.colsPer).map fun c => (i * y.rowsPer + r, j * y.colsPer + c)

/-- The group places of a block. -/
def Layout.places (y : Layout) : List (Nat × Nat) :=
  (List.range y.rows).flatMap fun i => (List.range y.cols).map fun j => (i, j)

/-- The 128 bits of G that cell `n` of a group holds, and the group tally, the bits of V above G (R60, R61). -/
def Grp.slice (w : Nat) (g : Grp) (n : Nat) : Nat := modPow w g.v / 2 ^ (128 * n) % 2 ^ 128
def Grp.tally (w : Nat) (g : Grp) : Nat := modPow (w + 8) g.v / 2 ^ w

/-- V from the slices of its cells and the tally. -/
def Grp.ofSlices (w : Nat) (slices : List Nat) (tally : Nat) : Int :=
  wrapS (w + 8) (((slices.zipIdx.map fun e => e.1 * 2 ^ (128 * e.2)).sum + tally * 2 ^ w : Nat) : Int)

/-- The output of group row i and column j of a block; none beyond M or N (R122). In strip mode a block's outputs are its
columns. -/
def Desc.outAt (d : Desc) (f : Front) (i j : Nat) : Option Nat :=
  let c := d.cornerOf f
  let m := if d.strip then c.m0 else c.m0 + i
  let n := c.n0 + j
  if m < d.matM ∧ n < d.matN then
    some (linear d.t2.psizes (if d.t2.prank = 1 then [n] else [n, m] ++ d.batchOf c))
  else none

/-- The group or output of a pass at group row i and column j of a block. -/
def Pass.at_ (p : Pass) (plc tile i j : Nat) : Option Nat :=
  let hm := clsHm p.cls
  let hn := clsHn p.cls
  if p.lin then
    let l := (plc * 4096 + tile) * (hm * hn) + i * hn + j
    if l < p.count then some l else none
  else
    let pm := ceilDiv (p.sizes.getD 1 1) (64 * hm)
    let per := pm * ceilDiv (p.sizes.getD 0 1) (64 * hn)
    let m := (plc % per % pm * 64 + tile / 64) * hm + i
    let n := (plc % per / pm * 64 + tile % 64) * hn + j
    if m < p.sizes.getD 1 1 ∧ n < p.sizes.getD 0 1 then
      some (linear p.sizes ((([n, m] ++ unlinear (p.sizes.drop 2) (plc / per))).take p.sizes.length))
    else none

/-! ### Lines, K indices and the panel store -/

/-- Element width as the panel store holds it: 6-bit elements are expanded to 8 bits (R90). -/
def panelW (t : Tensor) : Nat := if t.w = 6 then 8 else t.w

/-- Chunk buffers of an operand: two (Table 5.3); in strip mode, where plane 0 holds the weights and plane 1 the activations,
the 32 blocks of a plane make four (R135; log entry 42, DESIGN CHOICE). -/
def Desc.nbuf (d : Desc) : Nat := if d.strip then 4 else 2

/-- Elements in a 64-bit word (R125). -/
def perWord (t : Tensor) : Nat := 64 / panelW t

/-- The operand tensor. -/
def Desc.side (d : Desc) (isB : Bool) : Tensor := if isB then d.t1 else d.t0

/-- K is the operand's innermost dimension: KP layout (R125). -/
def Desc.kpLayout (d : Desc) (isB : Bool) : Bool :=
  if isB then !d.t1.trans else d.t0.prank == 1 || !d.t0.trans

/-- Lines of an operand in a tile (Table 5.2); in strip mode 32 of either (log entry 42, DESIGN CHOICE). -/
def Desc.lines (d : Desc) (isB : Bool) : Nat := if d.strip then 32 else if isB then d.hn else d.hm

/-- K indices of each row that a chunk of strip mode holds (log entry 42, DESIGN CHOICE). -/
def Desc.stripRun (d : Desc) : Nat := d.kc / 32

/-- Steps in a K-chunk (R124, R140). -/
def Desc.chunkSteps (d : Desc) : Nat := if d.strip then d.stripRun else d.stepsFor d.kc

/-- The place of index `x` of a chunk among the indices of a K-part: outer and relay mode take whole chunks in order
(R130); in strip mode each logical row has its own stretch (R134). None beyond a row's stretch. -/
def Desc.chunkPos (d : Desc) (n chunk x : Nat) : Option Nat :=
  if d.strip then
    let s := chunk * d.stripRun + x % d.stripRun
    let ls := d.segLen n
    if s < ls then some (x / d.stripRun * ls + s) else none
  else some (chunk * d.kc + x)

/-- Where element (line, x) of a chunk lies in its panel-store blocks: block, i, j and place in the word (R125). -/
structure Cellpos where
  block : Nat
  i : Nat
  j : Nat
  slot : Nat
  deriving DecidableEq, Repr

/-- The layouts of R125; an operand of fewer lines than a word holds has one word for each index. -/
def Desc.panelPos (d : Desc) (isB : Bool) (line x : Nat) : Cellpos :=
  let e := perWord (d.side isB)
  let l := d.lines isB
  if d.kpLayout isB then
    let per := 1024 * e / l
    let k := x % per
    { block := x / per, i := k / e % 32, j := line + l * (k / (32 * e)), slot := k % e }
  else
    let lw := ceilDiv l e
    let per := 1024 / lw
    let k := x % per
    { block := x / per, i := line / e + lw * (k / 32), j := k % 32, slot := line % e }

/-- The (line, index) that place `slot` of word (i, j) of a block holds. -/
def Desc.panelElem (d : Desc) (isB : Bool) (block i j slot : Nat) : Nat × Nat :=
  let e := perWord (d.side isB)
  let l := d.lines isB
  if d.kpLayout isB then (j % l, block * (1024 * e / l) + e * (i + 32 * (j / l)) + slot)
  else
    let lw := ceilDiv l e
    (e * (i % lw) + slot, block * (1024 / lw) + j + 32 * (i / lw))

/-- The number of a word within a chunk buffer. -/
def wordNo (p : Cellpos) : Nat := p.block * 1024 + p.i * 32 + p.j

/-- The byte of the panel stores at which a word of a chunk buffer starts: B in the even blocks of plane 0, A in the odd ones
of plane 1 (Table 5.3, R91, R135), for `nbuf` buffers of eight blocks. -/
def panelByte (site : Nat) (isB : Bool) (nbuf chunk : Nat) (p : Cellpos) : Nat :=
  site * 2 ^ 19 + panelPlace (16 * (chunk % nbuf) + 2 * p.block + (if isB then 0 else 1)) p.i p.j

/-- The presented indices of an operand's element of a block's line and K index; none beyond M or N. -/
def Desc.lineIdx (d : Desc) (f : Front) (isB : Bool) (line k : Nat) : Option (List Nat) :=
  let c := d.cornerOf f
  let b := d.batchOf c
  if isB then if c.n0 + line < d.matN then some (bIdx d b k (c.n0 + line)) else none
  else
    let m := if d.strip then line else c.m0 + line
    if m < d.matM then some (aIdx d b m k) else none

/-- A word of a chunk as the fill path delivers it: whole elements, zeros where there is none (R122, R148). -/
def panelWord (v : Env) (f : Front) (isB : Bool) (chunk block i j : Nat) : Nat :=
  let d := v.d
  let t := d.side isB
  let ks := d.partKs (d.partOf f.tile)
  ((List.range (perWord t)).map fun slot =>
    let lx := d.panelElem isB block i j slot
    let code := match (d.chunkPos ks.length chunk lx.2).bind fun p => ks[p]? with
      | none => 0
      | some k => match d.lineIdx f isB lx.1 k with
        | none => 0
        | some p => (t.elem v.rd p).code
    code * 2 ^ (panelW t * slot)).sum

/-! ### Where a block is -/

/-- A front is of a block. -/
def Front.isOf (f : Front) (seq plc key : Nat) : Bool := f.seq == seq && f.plc == plc && f.key == key

/-- A tile holds a block in its drain registers or in the buffers of its quench unit. -/
def Tile.drains (t : Tile) (seq plc key : Nat) : Bool :=
  (t.drain.any fun b => b.front.isOf seq plc key) || t.bufs.any fun b => b.front.isOf seq plc key

/-- A tile holds a block, in its cells or on its way out. -/
def Tile.holdsBlock (t : Tile) (seq plc key : Nat) : Bool :=
  (t.cur.any fun f => f.isOf seq plc key) || t.drains seq plc key

/-- A block is in some tile. -/
def State.inTiles (s : State) (seq plc key : Nat) : Bool := s.tiles.any fun e => e.2.holdsBlock seq plc key

/-- The re-run that a block waits for. -/
def Op.rerunOf (o : Op) (plc key : Nat) : Option Rerun := o.reruns.find? fun r => r.plc == plc && r.key == key

/-- A block is still to be run: neither quenched nor in a tile. -/
def State.blockLeft (s : State) (o : Op) (plc key : Nat) : Bool :=
  !o.blocks.contains (plc, key) && !s.inTiles o.seq plc key

/-- The site that runs a block: the spare that its re-run was given, else R138's. -/
def Op.runSite (o : Op) (plc key : Nat) : Nat :=
  match (o.rerunOf plc key).bind fun r => r.site with
  | some i => i
  | none => o.siteFor plc (key % 4096)

/-! ### Rows and columns in use -/

/-- The logical row or column that a physical one runs (R101); none for one that runs none. -/
def logicalOf (spareFor phys : Nat) : Option Nat :=
  if phys = 32 then (if spareFor < 32 then some spareFor else none)
  else if phys < 32 ∧ phys ≠ spareFor then some phys else none

/-- The physical row or column of a site that runs a logical one. -/
def State.physRow (s : State) (site r : Nat) : Nat := physOf (s.spareRow site) r
def State.physCol (s : State) (site c : Nat) : Nat := physOf (s.spareCol site) c

/-- A bellows that logical row r or column c of a front uses: its line holds outputs. -/
def Desc.usesRow (d : Desc) (f : Front) (r : Nat) : Bool :=
  d.strip || decide ((d.cornerOf f).m0 + r / d.lay.rowsPer < d.matM && r / d.lay.rowsPer < d.lay.rows)
def Desc.usesCol (d : Desc) (f : Front) (c : Nat) : Bool :=
  decide ((d.cornerOf f).n0 + c / d.lay.colsPer < d.matN && c / d.lay.colsPer < d.lay.cols)

/-- Where the bellows of a resumed block go on, after `steps` steps. -/
def Desc.resumePos (d : Desc) (row : Bool) (steps : Nat) : Nat :=
  if d.strip then steps * d.entriesPerStep row else if d.cls ≤ 1 then 2 * steps else steps / d.perTerm

/-! ### Fills -/

/-- The front of a block, as far as its operands depend on it. -/
def frontOf (o : Op) (plc key : Nat) : Front :=
  { seq := o.seq, plc := plc, tile := key % 4096, bank := o.bank, sub := key / 4096 }

/-- Earlier array operations of the stream that are not yet out of the array. -/
def State.before (s : State) (o : Op) : List Op :=
  s.ops.filter fun p => p.dom == o.dom && p.partner == o.partner && p.notOut && !p.preempted && p.seq != o.seq &&
    decide (2 ^ 47 ≤ (p.seq + 2 ^ 48 - o.seq) % 2 ^ 48)

/-- A block of an operation with steps left, and its site. -/
structure Ahead where
  op : Op
  plc : Nat
  key : Nat
  site : Nat

/-- The blocks of an operation that have steps left: neither quenched nor on their way out. -/
def State.stepsAhead (s : State) (o : Op) : List Ahead :=
  (o.tileBlocks.filter fun b => !o.blocks.contains b && !(s.tiles.any fun e => e.2.drains o.seq b.1 b.2)).map fun b =>
    { op := o, plc := b.1, key := b.2, site := o.runSite b.1 b.2 }

/-- The round of a block. -/
def Ahead.round (a : Ahead) : Nat := a.op.roundOf a.plc (a.key % 4096)

/-- A block is the one in the cells of its site. -/
def State.isCur (s : State) (a : Ahead) : Bool :=
  (s.tile a.site).cur.any fun f => f.isOf a.op.seq a.plc a.key

/-- Entries of a bellows, and indices of a chunk, that the positions of a bellows count in. -/
def Desc.chunkUnit (d : Desc) (isB : Bool) : Nat :=
  if d.strip then (if isB then d.entriesPerStep false else 1) * d.stripRun else d.kc

/-- The physical bellows that a front uses. -/
def State.usedBellows (s : State) (site : Nat) (d : Desc) (f : Front) (row : Bool) : List Nat :=
  if row then ((List.range 32).filter (d.usesRow f)).map (s.physRow site)
  else ((List.range 32).filter (d.usesCol f)).map (s.physCol site)

/-- The save of a block (R140). -/
def Op.savedOf (o : Op) (plc key : Nat) : Option Saved := o.saved.find? fun x => x.plc == plc && x.key == key

/-- The chunk that a block's bellows still read. -/
def State.chunkNow (s : State) (a : Ahead) (isB : Bool) : Nat :=
  let d := a.op.d
  let t := s.tile a.site
  if s.isCur a then
    let ps := (s.usedBellows a.site d (frontOf a.op a.plc a.key) (!isB)).map fun i =>
      (mget {} (if isB then t.colB else t.rowB) i).pos
    ps.foldl min (ps.headD 0) / d.chunkUnit isB
  else match a.op.savedOf a.plc a.key with
    | some x => d.resumePos (!isB) x.steps / d.chunkUnit isB
    | none => 0

/-- Chunks of a block (R124). -/
def Ahead.chunks (a : Ahead) : Nat :=
  let n := (a.op.d.partKs (a.op.d.partOf (a.key % 4096))).length
  if a.op.d.strip then ceilDiv (a.op.d.segLen n) (max 1 a.op.d.stripRun) else ceilDiv n a.op.d.kc

/-- A block still reads a chunk buffer. -/
def State.readsBuffer (s : State) (a : Ahead) (isB : Bool) (buf : Nat) : Bool :=
  (List.range a.chunks).any fun c => c % a.op.d.nbuf == buf && decide (s.chunkNow a isB ≤ c)

/-- A block takes a fill: its bellows read that chunk or one that comes before it in another buffer (R124), and no block
that its site runs before it still reads the buffer. -/
def State.takesFill (s : State) (isB : Bool) (chunk : Nat) (all : List Ahead) (a : Ahead) : Bool :=
  let now := s.chunkNow a isB
  decide (chunk < now + a.op.d.nbuf) &&
  (s.isCur a || all.all fun e => e.site != a.site || (e.op.seq == a.op.seq && e.plc == a.plc && e.key % 4096 == a.key % 4096) ||
    !(s.isCur e || e.op.seq != a.op.seq || decide (e.round < a.round)) ||
    !s.readsBuffer e isB (chunk % a.op.d.nbuf))

/-- The steps of earlier operations and of this one that are still to be issued. -/
def State.allAhead (s : State) (o : Op) : List Ahead := (s.before o).flatMap s.stepsAhead ++ s.stepsAhead o

/-- A tile holds a word of a chunk. -/
def Tile.gotWord (t : Tile) (isB : Bool) (seq plc tile chunk w : Nat) : Bool :=
  t.panels.any fun p => p.isB == isB && p.seq == seq && p.plc == plc && p.tile == tile && p.chunk == chunk && p.words.contains w

/-- The blocks of a placement that want a word of a chunk: they read it yet, and it has not come. Of two sub-passes of one
tile the first one that wants it counts. -/
def State.wanting (s : State) (o : Op) (plc : Nat) (isB : Bool) (chunk w : Nat) : List Ahead :=
  let l := (s.stepsAhead o).filter fun a => a.plc == plc && decide (s.chunkNow a isB ≤ chunk) && decide (chunk < a.chunks) &&
    !(s.tile a.site).gotWord isB o.seq plc (a.key % 4096) chunk w
  l.filter fun a => l.all fun b => b.key % 4096 != a.key % 4096 || decide (a.key ≤ b.key)

/-- The blocks that a word goes to, all at once, since it is read once for a placement and chunk (R123): those of the
placement's home round, and after it those of an extra round, which reads it again. -/
def State.fillBlocks (s : State) (o : Op) (plc : Nat) (isB : Bool) (chunk w : Nat) : List Ahead :=
  let l := s.wanting o plc isB chunk w
  l.filter fun a => l.all fun b => decide (a.round ≤ b.round)

/-- The tiles that a fill goes to, as (site, logical tile). -/
def State.fillTiles (s : State) (o : Op) (plc : Nat) (isB : Bool) (chunk w : Nat) : List (Nat × Nat) :=
  (s.fillBlocks o plc isB chunk w).map fun a => (a.site, a.key % 4096)

/-- Chunk buffers of operations that are out of the array are free. -/
def State.livePanels (s : State) (t : Tile) : Tile :=
  { t with panels := t.panels.filter fun p => (s.op? p.seq).any fun o => o.notOut }

/-- A tile's chunk buffer is free for a chunk, or already its own (R124). -/
def Tile.bufferFor (t : Tile) (isB : Bool) (nbuf seq plc tile chunk : Nat) : Bool :=
  t.panels.all fun p => p.isB != isB || p.chunk % nbuf != chunk % nbuf ||
    (p.seq == seq && p.plc == plc && p.tile == tile && p.chunk == chunk)

/-- A word noted as arrived. -/
def Tile.noteWord (t : Tile) (isB : Bool) (seq plc tile chunk w : Nat) : Tile :=
  let mine (p : Panel) : Bool := p.isB == isB && p.seq == seq && p.plc == plc && p.tile == tile && p.chunk == chunk
  if t.panels.any mine then
    { t with panels := t.panels.map fun p => if mine p then { p with words := union p.words [w] } else p }
  else { t with panels := t.panels ++ [{ isB := isB, seq := seq, plc := plc, tile := tile, chunk := chunk, words := [w] }] }

/-- Bytes put into the panel stores. -/
def State.panelPoke (s : State) (a : Nat) : List Byte → State
  | [] => s
  | b :: r => { s with panel := mput 0 s.panel a b }.panelPoke (a + 1) r

/-- Every tile that a word goes to can take it now: its bellows are near enough, and the buffer is free (R124). -/
def State.fillFree (s : State) (o : Op) (plc chunk : Nat) (isB : Bool) (w : Nat) : Bool :=
  (s.fillBlocks o plc isB chunk w).all fun a =>
    s.takesFill isB chunk (s.allAhead o) a &&
      (s.livePanels (s.tile a.site)).bufferFor isB o.d.nbuf o.seq plc (a.key % 4096) chunk

/-! ### Pieces (R127 to R129) -/

/-- SIG of the common form (Table 2.2). -/
def sigOf (m : Nat) : Nat := m * 2 ^ 59 / 2 ^ Nat.log2 m

/-- Piece splits: (high bit, low bit) by piece (Table 5.4). -/
def pieceBits (d : Desc) (f : Fmt) : List (Nat × Nat) :=
  if d.cls = 2 then
    if d.perTerm = 3 then [(59, 48), (47, 36), (35, 32)] else [(59, 48), (47, 36)]
  else if f = .binary64 then [(59, 49), (48, 38), (37, 27), (26, 17), (16, 7)]
  else [(59, 48), (47, 36), (35, 24), (23, 12), (11, 0)]

/-- A piece product of a step: the row and the column of the cell within its group, and the pieces of A and of B. -/
structure PieceCell where
  row : Nat
  col : Nat
  a : Nat
  b : Nat
  deriving DecidableEq, Repr

/-- The cells that form a product at step `n` of a term (Tables 5.5 and 5.6). -/
def pieceCells (d : Desc) (n : Nat) : List PieceCell :=
  let c (l : List (Nat × Nat × Nat × Nat)) : List PieceCell := l.map fun x => ⟨x.1, x.2.1, x.2.2.1, x.2.2.2⟩
  let square : List PieceCell := c [(0, 0, 0, 0), (0, 1, 0, 1), (1, 0, 1, 0), (1, 1, 1, 1)]
  if d.cls = 2 then
    match n with
    | 0 => square
    | 1 => c [(0, 0, 2, 0), (0, 1, 2, 2), (1, 1, 0, 2)]
    | _ => c [(0, 0, 2, 1), (1, 1, 1, 2)]
  else
    let full (p q : Nat) : List PieceCell := (List.range 4).map (fun m => ⟨0, m, p, m⟩) ++ (List.range 4).map fun m => ⟨1, m, q, m⟩
    match n with
    | 0 => full 0 1
    | 1 => full 2 3
    | 2 => (List.range 4).map (fun m => ⟨0, m, 4, m⟩) ++ c [(1, 0, 0, 4), (1, 1, 1, 4)]
    | _ => c [(0, 0, 4, 4), (1, 1, 2, 4), (1, 2, 3, 4)]

/-- The pieces in the slots of a row's or a column's entry at a step, slot 0 first. -/
def slotPieces (d : Desc) (n : Nat) (row : Bool) (at_ : Nat) : List Nat :=
  (((pieceCells d n).filter fun c => (if row then c.row else c.col) == at_).map fun c => if row then c.a else c.b).eraseDups

/-- A piece as an entry carries it: 12 bits with the class, the sign, the position of its lowest bit and the scale of its
element (R127). -/
structure SigPiece where
  bits : Nat
  cls : Nat
  neg : Bool
  low : Nat
  scale : Int
  deriving DecidableEq, Repr

/-- A piece in a slot: bits in [11:0], class in [13:12] (0 ZERO, 1 NORMAL, 2 NAR, 3 INF), sign in [14], lowest bit in [20:15]
and scale in [36:21] (log entry 124, DESIGN CHOICE). -/
def SigPiece.pack (x : SigPiece) : Nat :=
  x.bits + x.cls * 2 ^ 12 + x.neg.toNat * 2 ^ 14 + x.low * 2 ^ 15 + modPow 16 x.scale * 2 ^ 21
def SigPiece.ofSlot (w : Nat) : SigPiece :=
  { bits := bitsOf w 11 0, cls := bitsOf w 13 12, neg := bitsOf w 14 14 == 1, low := bitsOf w 20 15,
    scale := signedOf 16 (bitsOf w 36 21) }

/-- Piece `i` of a value of a format. -/
def pieceOf (d : Desc) (f : Fmt) (x : Val) (i : Nat) : SigPiece :=
  let (hi, lo) := (pieceBits d f).getD i (0, 0)
  match x with
  | .fin n m e => { bits := bitsOf (sigOf m) hi lo, cls := 1, neg := n, low := lo, scale := e + Nat.log2 m }
  | .zero n => { bits := 0, cls := 0, neg := n, low := lo, scale := 0 }
  | .nar => { bits := 0, cls := 2, neg := false, low := lo, scale := 0 }
  | .inf n => { bits := 0, cls := 3, neg := n, low := lo, scale := 0 }

/-- The value of a piece at its offset; `sig` in place of its bits gives the whole element. -/
def SigPiece.val (x : SigPiece) (sig : Nat) : Val :=
  match x.cls with
  | 0 => .zero x.neg
  | 1 => .fin x.neg sig (x.scale - 59)
  | 2 => .nar
  | _ => .inf x.neg
def SigPiece.part (x : SigPiece) : Nat := x.bits * 2 ^ x.low

/-! ### Bellows -/

/-- An element on its way to a bellows: its place in the panel store, its K index and the index before it. -/
structure Pick where
  line : Nat
  chunk : Nat
  x : Nat
  k : Nat
  before : Option Nat
  deriving DecidableEq, Repr

/-- The element of place `p` of a K-part, for a line. -/
def Desc.pickOf (d : Desc) (ks : List Nat) (line p : Nat) : Option Pick :=
  let ls := max 1 (d.segLen ks.length)
  match ks[p]? with
  | none => none
  | some k =>
    let cx := if d.strip then (p % ls / d.stripRun, p / ls * d.stripRun + p % ls % d.stripRun) else (p / d.kc, p % d.kc)
    let first := if d.strip then p % ls == 0 else p == 0
    some { line := line, chunk := cx.1, x := cx.2, k := k,
           before := if first then none else ks[p - 1]? }

/-- A panel-store word of a front has arrived. -/
def Tile.hasWord (t : Tile) (f : Front) (isB : Bool) (chunk w : Nat) : Bool := t.gotWord isB f.seq f.plc f.tile chunk w

/-- The code of an element, from the panel store. -/
def State.pickCode (s : State) (site : Nat) (d : Desc) (isB : Bool) (x : Pick) : Nat :=
  let p := d.panelPos isB x.line x.x
  let a := panelByte site isB d.nbuf x.chunk p
  let w := panelW (d.side isB)
  leNat ((List.range 8).map fun i => mget 0 s.panel (a + i)) / 2 ^ (w * p.slot) % 2 ^ w

/-- The group number of an element's scale or codebook, where it has one. -/
def groupOf (v : Env) (f : Front) (isB : Bool) (line k : Nat) : Option Nat :=
  let t := v.d.side isB
  match v.d.lineIdx f isB line k with
  | none => none
  | some p => match t.place v.rd p with
    | .at _ idx => some (t.group idx)
    | _ => none

/-- The fields of Table 4.3 that come with an element: GSTART and SCALE. -/
def pickHead (v : Env) (f : Front) (isB : Bool) (x : Option Pick) : Bool × Nat :=
  let t := v.d.side isB
  match x with
  | none => (false, 0x7F)
  | some x =>
    let g := groupOf v f isB x.line x.k
    let start := match x.before with
      | none => true
      | some k => g != groupOf v f isB x.line k
    (start, match g with | some g => t.scaleCode v.rd g | none => 0x7F)

/-- The codebook of an element's group (R88). -/
def pickBook (v : Env) (f : Front) (isB : Bool) (x : Option Pick) : List Nat :=
  let t := v.d.side isB
  match x.bind fun x => groupOf v f isB x.line x.k with
  | some g => t.codebook v.rd g
  | none => []

/-- An entry (Table 4.3). -/
def entryBits (gstart : Bool) (scale slot1 slot0 : Nat) : BitVec 137 :=
  BitVec.ofNat 137 (gstart.toNat * 2 ^ 136 + scale * 2 ^ 128 + slot1 * 2 ^ 64 + slot0)

/-- The next entries of a bellows, with the words they need: those of one panel-store word in KP layout, the pair of R126
or one element in LP layout. In C32 and C64 an element gives an entry for each of the steps of its term, which the number of
the entry names (R129). -/
structure Fill where
  picks : List (Option Pick)
  /-- K indices or strip steps placed -/
  adv : Nat
  entries : List (List (Option Pick) × Nat)
  deriving DecidableEq, Repr

/-- The fill of a bellows at its position, for a line (outer and relay mode) or a logical row or column (strip mode). -/
def Desc.fillOf (d : Desc) (ks : List Nat) (row : Bool) (lineOrRow pos sub : Nat) : Fill :=
  let isB := !row
  let e := perWord (d.side isB)
  let pick := d.pickOf ks
  if d.strip then
    let ls := d.segLen ks.length
    if row then
      let n := if d.kpLayout false then min (e - pos % d.stripRun % e) (min (d.stripRun - pos % d.stripRun) (ls - pos)) else 1
      let xs := (List.range n).map fun i => pick sub (lineOrRow * ls + pos + i)
      { picks := xs, adv := n, entries := xs.map fun x => ([x], 0) }
    else
      let per := d.entriesPerStep false
      let nr := 32 / per
      let xs := (List.range nr).map fun i => pick lineOrRow ((pos % per * nr + i) * ls + pos / per)
      { picks := xs, adv := 1, entries := [(xs, 0)] }
  else
    let line := lineOrRow / (if row then d.lay.rowsPer else d.lay.colsPer)
    let n := if d.kpLayout isB then (if d.cls ≤ 1 then max 2 e else e) else if d.cls ≤ 1 then 2 else 1
    let n := min n (ks.length - pos)
    let xs := (List.range n).map fun i => pick line (pos + i)
    let es := if d.cls ≤ 1 then
        (List.range (ceilDiv n 2)).map fun i => ([(xs.getD (2 * i) none), (xs.getD (2 * i + 1) none)], 0)
      else xs.flatMap fun x => (List.range d.perTerm).map fun n => ([x], n)
    { picks := xs, adv := n, entries := es }

/-- The value that pieces are cut from: the element as decoded, before the group scale that the entry carries (R127, R88). -/
def pickVal (v : Env) (f : Front) (isB : Bool) (x : Option Pick) (code : Nat) : Val :=
  let t := v.d.side isB
  match x.bind fun x => v.d.lineIdx f isB x.line x.k with
  | none => .zero false
  | some p => match t.place v.rd p with
    | .outside => .zero false
    | .badIndex => .nar
    | .at _ _ => decodeCode t.fmt (pickBook v f isB x) code

/-- A row's codebook as strip mode keeps it: 16 codes. -/
def padBook (l : List Nat) : List Nat := (List.range 16).map fun i => l.getD i 0

/-- One entry of a fill, for a logical row or column. -/
def State.makeEntry (s : State) (site : Nat) (v : Env) (f : Front) (row : Bool) (line : Nat) (e : List (Option Pick) × Nat) :
    Entry :=
  let isB := !row
  let xs := e.1
  let code (x : Option Pick) : Nat := match x with
    | none => 0
    | some x => s.pickCode site v.d isB x
  let first := xs.headD none
  let h := pickHead v f isB first
  if v.d.strip && isB then
    let w := panelW v.d.t1
    let all := ((List.range xs.length).map fun i => code (xs.getD i none) * 2 ^ (w * i)).sum
    { bits := entryBits h.1 h.2 (all / 2 ^ 64) (all % 2 ^ 64), cb := xs.flatMap fun x => padBook (pickBook v f isB x),
      scales := xs.map fun x => (pickHead v f isB x).2 }
  else if v.d.strip || decide (v.d.cls ≤ 1) then
    { bits := entryBits h.1 h.2 (code (xs.getD 1 none)) (code first), cb := pickBook v f isB first, code := code first }
  else
    let place := line % (if row then v.d.lay.rowsPer else v.d.lay.colsPer)
    let x := pickVal v f isB first (code first)
    let ps := (slotPieces v.d e.2 row place).map fun i => (pieceOf v.d (v.d.side isB).fmt x i).pack
    { bits := entryBits h.1 h.2 (ps.getD 1 0) (ps.getD 0 0), cb := pickBook v f isB first, code := code first }

/-- A strip tile holds the chunks for the sub-passes still to come, where its buffers hold them all (R136). -/
def Desc.heldOver (d : Desc) (f : Front) : Bool :=
  let n := (d.partKs (d.partOf f.tile)).length
  d.strip && decide (f.sub + 1 < d.subs) && decide (ceilDiv (d.segLen n) (max 1 d.stripRun) ≤ d.nbuf)

/-- Chunk buffers that every bellows of the operand has passed are free again (R124). -/
def Tile.dropPassed (t : Tile) (d : Desc) (f : Front) (isB : Bool) (used : List Nat) : Tile :=
  let m := if isB then t.colB else t.rowB
  let per := if d.strip && isB then d.entriesPerStep false else 1
  let unit := if d.strip then d.stripRun else d.kc
  let past (c : Nat) : Bool := used.all fun i => decide ((c + 1) * unit ≤ (mget {} m i).pos / per)
  if d.heldOver f then t
  else { t with panels := t.panels.filter fun p =>
      !(p.isB == isB && p.seq == f.seq && p.plc == f.plc && p.tile == f.tile && past p.chunk) }

/-- A bellows fills from its tile's panel store (R90), where the words have arrived and it has room. Fills are not frozen
by a hold. -/
def State.fillBellows (s : State) (site : Nat) (row : Bool) (idx : Nat) : State :=
  let t := s.tile site
  match t.cur with
  | none => s
  | some f => match s.op? f.seq with
    | none => s
    | some o =>
      let d := o.d
      let ks := d.partKs (d.partOf f.tile)
      if !d.isMat then s else
      match logicalOf (if row then s.spareRow site else s.spareCol site) idx with
      | none => s
      | some r =>
        if !(if row then d.usesRow f r else d.usesCol f r) then s
        else
          let b := mget {} (if row then t.rowB else t.colB) idx
          let x := d.fillOf ks row r b.pos f.sub
          let here := x.picks.all fun p => match p with
            | none => true
            | some p => t.hasWord f (!row) p.chunk (wordNo (d.panelPos (!row) p.line p.x))
          let total := d.tileSteps f.tile * d.entriesPerStep row
          let placed := if d.strip then b.pos else if d.cls ≤ 1 then b.pos / 2 else b.pos * d.perTerm
          if !here ∨ total ≤ placed ∨ 64 < b.q.length + x.entries.length then s
          else
            let v := s.runEnv o
            let nb : Bellows := { q := b.q ++ x.entries.map (s.makeEntry site v f row r), pos := b.pos + x.adv }
            let t := if row then { t with rowB := mput {} t.rowB idx nb } else { t with colB := mput {} t.colB idx nb }
            s.setTile site (t.dropPassed d f (!row) (s.usedBellows site d f row))

/-- BELLOWS_FILL. -/
def execBellowsFill (site : Nat) (row : Bool) (idx : Nat) (s : State) : Outcome :=
  act s fun s => s.fillBellows site row idx

end Sys2Proof.Machine
end

