-- ==== Sys2Proof/Machine/TileStep.lean ====
section
/-! DEFINITION. TileStep: fronts, tongs waits, product tables and the steps of a tile: products into groups, gauges and
the moves into the drain registers (R20, R84 to R86, R89, R92 to R94, R111, R112, R127 to R129, R131, R133 to R136, R141,
R181, R182, R184). -/

namespace Sys2Proof.Machine

/-- A residue product added to a gauge cell's accumulator. -/
def gaugeAdd (m : SMap Nat) (k r : Nat) : SMap Nat := mput 0 m k (mget 0 m k + r)

/-! ### Fronts (R133) -/

/-- A block of an operation is still to issue steps in a site. -/
def State.stepsLeftAt (s : State) (p : Op) (site : Nat) : Bool :=
  p.tileBlocks.any fun b =>
    p.runSite b.1 b.2 == site && !p.blocks.contains b && !(s.tile site).drains p.seq b.1 b.2

/-- The operation can have fronts in tiles now: it waits for its run, its gather has filled its slot, and at most one other
operation is in the array of its domain (R20). -/
def State.mayFront (s : State) (o : Op) : Bool :=
  isArrayOp o.d.opcode && (o.phase == .selected || o.phase == .gathered || o.phase == .rerun) && !o.preempted && !o.stopping &&
  o.partner == s.twin.running && s.stream o.dom && s.gatherReady o && !s.frozen o.dom &&
  (s.before o).all (fun p => p.entered) &&
  (o.inArray || decide ((s.ops.filter fun p => p.inArray && p.dom == o.dom).length < 2))

/-- Sub-passes of a tile's blocks in strip mode, or the passes of an operation that is no matrix product. -/
def Op.subs (o : Op) : Nat := if o.d.isMat then o.d.subs else o.passes.length

/-- A block comes before another of its operation: it belongs to an earlier round of the same site (R122, R138), or to an
earlier pass, whose groups the later one may need (R205). -/
def Op.runsBefore (o : Op) (b : Nat × Nat) (plc key : Nat) : Bool :=
  if o.d.isMat then o.siteFor b.1 (b.2 % 4096) == o.siteFor plc (key % 4096) &&
    decide (o.roundOf b.1 (b.2 % 4096) < o.roundOf plc (key % 4096))
  else decide (b.2 / 4096 < key / 4096) || (b.2 / 4096 == key / 4096 && o.siteFor b.1 (b.2 % 4096) == o.siteFor plc (key % 4096) &&
    decide (o.roundOf b.1 (b.2 % 4096) < o.roundOf plc (key % 4096)))

/-- Such a block is still to be run; the blocks of an earlier pass must have been quenched. -/
def State.earlierLeft (s : State) (o : Op) (plc key : Nat) : Bool :=
  o.tileBlocks.any fun b => o.runsBefore b plc key && (o.rerunOf b.1 b.2).isNone &&
    if o.d.isMat then s.blockLeft o b.1 b.2
    else !o.blocks.contains b && (decide (b.2 / 4096 < key / 4096) || s.blockLeft o b.1 b.2)

/-- The first block of a tile that is still to be run. -/
def State.nextSub (s : State) (o : Op) (plc tile : Nat) : Option Nat :=
  (List.range o.subs).find? fun u => o.tileBlocks.contains (plc, blockKey tile u) && s.blockLeft o plc (blockKey tile u)

/-- Group (i, j) as it stands before the first step: zero, or the element that ACC adds onto, in the tile that quenches
the block, in strip mode in group row 0 (R63, R69, R131, R136). -/
def startOf (v : Env) (f : Front) (i j : Nat) : Grp :=
  let d := v.d
  if d.acc ∧ d.partOf f.tile + 1 = d.parts ∧ (d.strip → i = 0) then
    match d.outAt f i j with
    | some l => startGroup v l d.gw d.ganchor
    | none => {}
  else {}

/-- A group loaded with a value: its residue goes to the gauge cells of its first row and column, and to the corner (R94). -/
def State.loadGroup (s : State) (site : Nat) (y : Layout) (t : Tile) (i j : Nat) (g : Grp) : Tile :=
  let r := res g.v
  { t with grps := mput {} t.grps (64 * i + j) g,
           gRow := gaugeAdd t.gRow (s.physRow site (i * y.rowsPer)) r,
           gCol := gaugeAdd t.gCol (s.physCol site (j * y.colsPer)) r, gCorner := t.gCorner + r }

/-- The starting values of a matrix product's block loaded. -/
def State.loadStart (s : State) (site : Nat) (v : Env) (f : Front) (t : Tile) : Tile :=
  if v.d.acc then
    v.d.lay.places.foldl (fun (t : Tile) p =>
      let g := startOf v f p.1 p.2
      if g = {} then t else s.loadGroup site v.d.lay t p.1 p.2 g) t
  else t

/-! ### Saved blocks (R140, R141) -/

/-- The logical tile in whose part of the save area a block of a site is saved: its own where it is home, else the one that
its site serves (R303). -/
def Op.saveTile (o : Op) (site tile : Nat) : Nat :=
  if (o.homeOf tile).isSome then tile
  else ((List.range 4096).find? fun n => o.homeOf n == some site).getD tile

/-- Where a block's save lies. -/
def State.saveAddr (s : State) (n : Nat) : Nat := s.fget Fl.ostCtlSaveGb 0 * 2 ^ 30 + 18432 * n

/-- The bytes of a save: the slices of every group, cell by cell, then the tallies, the flags in nibbles and the sums of
activation codes (R61, R140, R184; log entry 43, DESIGN CHOICE). -/
def saveBytes (y : Layout) (b : Block) : List Byte :=
  let gs := y.places.map fun p => mget {} b.grps (64 * p.1 + p.2)
  let flag (g : Grp) : Nat := g.nar.toNat + 2 * g.sLo.toNat + 4 * g.sHi.toNat
  let pad (n : Nat) (l : List Byte) : List Byte := l ++ List.replicate (n - l.length) 0
  pad 16384 (gs.flatMap fun g => (List.range (y.w / 128)).flatMap fun n => leBytes 16 (g.slice y.w n)) ++
  pad 1024 (gs.flatMap fun g => leBytes 1 (g.tally y.w)) ++
  pad 512 ((List.range (gs.length / 2)).flatMap fun i => leBytes 1 (flag (gs.getD (2 * i) {}) + 16 * flag (gs.getD (2 * i + 1) {}))) ++
  pad 512 ((List.range 32).flatMap fun r => leBytes 8 (modPow 64 (mget 0 b.sa r)))

/-- A saved block loaded: every group with its V, tally and flags, and its gauges (R141). -/
def State.loadSave (s : State) (site : Nat) (y : Layout) (base : Nat) (t : Tile) : Tile :=
  let n := y.w / 128
  let t := y.places.zipIdx.foldl (fun (t : Tile) e =>
    let k := e.2
    let v := Grp.ofSlices y.w ((List.range n).map fun i => s.peekNat (base + 16 * (n * k + i)) 16) (s.peekNat (base + 16384 + k) 1)
    let fl := s.peekNat (base + 17408 + k / 2) 1 / 16 ^ (k % 2)
    let g : Grp := { v := v, nar := fl % 2 == 1, sLo := fl / 2 % 2 == 1, sHi := fl / 4 % 2 == 1 }
    if g = {} then t else s.loadGroup site y t e.1.1 e.1.2 g) t
  { t with sa := (List.range 32).foldl (fun (m : SMap Int) r =>
      mput 0 m r (signedOf 64 (s.peekNat (base + 17920 + 8 * r) 8))) [] }

/-! ### Moves into the drain registers (R86) -/

/-- A gauge column or row with every cell folded to 24 bits (R93). -/
def foldGauge (m : SMap Nat) : SMap Nat := m.foldl (fun (r : SMap Nat) e => mput 0 r e.1 (e.2 % gaugeM)) []

/-- What the cells and gauges of a tile hold, as it moves into the drain registers. -/
def Tile.block (t : Tile) (f : Front) : Block :=
  { front := f, grps := t.grps, gRow := foldGauge t.gRow, gCol := foldGauge t.gCol, gCorner := t.gCorner % gaugeM, sa := t.sa }

/-- The front's groups, gauges and code sums moved into the drain registers, and the cells cleared. -/
def Tile.drainAll (t : Tile) (f : Front) (next : Option Front) : Tile :=
  { t.freed with cur := next, drain := some (t.block f) }

/-- What the tile takes up after a block: the next sub-pass of its strip, where that is still to be run (R136). -/
def State.nextFront (s : State) (o : Op) (f : Front) : Option Front :=
  let key := blockKey f.tile (f.sub + 1)
  if o.d.isMat ∧ f.sub + 1 < o.d.subs ∧ s.blockLeft o f.plc key ∧ (o.rerunOf f.plc key).isNone ∧ (o.savedOf f.plc key).isNone
  then some { f with sub := f.sub + 1 } else none

/-- A tile whose K-part holds no index issues no step: its groups go to the drain registers as they start (R130), but not
in a hold cycle, which freezes moves into drain registers (R105). -/
def State.drainEmpty (s : State) (site : Nat) : State :=
  let t := s.tile site
  match t.cur with
  | none => s
  | some f => match s.op? f.seq with
    | none => s
    | some o =>
      if o.frontSteps f = 0 ∧ t.drain = none ∧ !f.wait ∧ !s.frozen o.dom then
        s.setTile site ((s.loadStart site (s.runEnv o) f t).drainAll f (s.nextFront o f))
      else s

/-! ### FRONT_ENTER -/

/-- What a front finds in its tile: the save of its block, where it has one (R141), else nothing. -/
def State.resumeTile (s : State) (site : Nat) (o : Op) (f : Front) (t : Tile) : Tile :=
  match o.savedOf f.plc f.key with
  | none => t
  | some x =>
    let at_ (row : Bool) : SMap Bellows := (s.usedBellows site o.d f row).foldl (fun (m : SMap Bellows) i =>
      mput {} m i { pos := o.d.resumePos row x.steps }) []
    { s.loadSave site (o.lay f) (s.saveAddr x.slot) { t with steps := x.steps } with
      rowB := at_ true, colB := at_ false, ptabStep := x.steps }

/-- The front of a block enters its tile: the tile takes the operation's class, anchor, table binding and TONG_WAIT mark
(R133). The first one puts the operation into the array (R20). -/
def State.enterFront (s : State) (seq tile plc : Nat) : State :=
  match s.op? seq with
  | none => s
  | some o => match s.nextSub o plc tile with
    | none => s
    | some u =>
      let key := blockKey tile u
      let site := o.runSite plc key
      let t := s.tile site
      if !s.mayFront o ∨ t.cur.isSome ∨ s.earlierLeft o plc key ∨ (s.before o).any (fun p => s.stepsLeftAt p site) then s
      else
        let f : Front := { frontOf o plc key with wait := o.tongWait.contains tile }
        let own (p : Panel) : Bool := p.seq == seq && p.plc == plc && p.tile == tile
        let t := s.resumeTile site o f { t with cur := some f, steps := 0, panels := t.panels.filter own }
        let z := if o.entered then s else s.takeProd o
        let z := z.setOp seq fun o => { o with
          entered := true, inArray := true, saved := o.saved.filter fun x => !(x.plc == plc && x.key == key) }
        (z.setTile site t).drainEmpty site

/-- FRONT_ENTER. -/
def execFrontEnter (seq tile plc : Nat) (s : State) : Outcome := act s fun s => s.enterFront seq tile plc

/-! ### TONG_WAIT_END -/

/-- The draining operation's last write of the block has been accepted (R111): every block of the tile of an earlier
operation that shares its region has been written. -/
def State.tongDone (s : State) (o : Op) (tile : Nat) : Bool :=
  (s.ops.filter fun p => p.seq != o.seq && p.notOut && s.ordered o p &&
    decide (2 ^ 47 ≤ (p.seq + 2 ^ 48 - o.seq) % 2 ^ 48)).all fun p =>
      (p.tileBlocks.filter fun b => b.2 % 4096 == tile).all fun b => p.blocks.contains b

/-- The TONG_WAIT mark of a tile is satisfied: its front is admitted. -/
def State.endWait (s : State) (tile : Nat) : State :=
  match s.ops.find? fun o => o.tongWait.contains tile && s.tongDone o tile with
  | none => s
  | some o =>
    let t := s.setOp o.seq fun o => { o with tongWait := o.tongWait.filter (· ≠ tile) }
    t.tiles.foldl (fun (t : State) e => match e.2.cur with
      | some f =>
        if f.seq = o.seq ∧ f.tile = tile then
          (t.setTile e.1 { t.tile e.1 with cur := some { f with wait := false } }).drainEmpty e.1
        else t
      | none => t) t

/-- TONG_WAIT_END. -/
def execTongWaitEnd (tile : Nat) (s : State) : Outcome := act s fun s => s.endWait tile

/-! ### Elements from entries -/

/-- SCALE, SLOT1 and SLOT0 of an entry (Table 4.3). -/
def Entry.scale (e : Entry) : Nat := bitsOf e.bits.toNat 135 128
def Entry.slot (e : Entry) (i : Nat) : Nat := bitsOf e.bits.toNat (64 * i + 63) (64 * i)

/-- The K index that place `p` of a row's work stands for: slot `p` of a step in outer mode, the row's index in strip
mode; none beyond K. -/
def Desc.stepK (d : Desc) (ks : List Nat) (row step slot : Nat) : Option Nat :=
  if d.strip then (if step < d.segLen ks.length then ks[row * d.segLen ks.length + step]? else none)
  else if d.cls ≤ 1 then ks[2 * step + slot]? else ks[step / d.perTerm]?

/-- An element as a bellows decodes it at its release (R88): class ZERO outside a WINDOW, NAR under a list index out of
range. -/
def decodeEntry (v : Env) (isB : Bool) (p : List Nat) (code scale : Nat) (cb : List Nat) : Elem :=
  let t := v.d.side isB
  let e : Elem := match t.place v.rd p with
    | .outside => { val := .zero false }
    | .badIndex => { val := .nar, badIdx := true }
    | .at b idx =>
      let raw := decodeCode t.fmt cb code
      { val := if t.scaled then applyScale scale raw else raw, code := code, addr := b / 8,
        scaleNan := t.scaled && scale == 0xFF, cbWide := codeCbWide t.fmt cb code, lin := linear t.storedSizes idx }
  if v.d.raw then rawElem (if isB then v.d.rawBW else v.d.rawAW) (if isB then v.d.rawBS else v.d.rawAS) e else e

/-- The A element of a row entry: in outer and relay mode of the slot's element, in C32 and C64 of the element that its
pieces were cut from. -/
def rowElem (v : Env) (f : Front) (r k : Nat) (en : Entry) (slot : Nat) : Option Elem :=
  let line := if v.d.strip then f.sub else r / v.d.lay.rowsPer
  let code := if v.d.strip || decide (v.d.cls ≤ 1) then en.slot slot else en.code
  (v.d.lineIdx f false line k).map fun p => decodeEntry v false p code en.scale en.cb

/-- The B element of a column entry for logical row `r`; in strip mode the entry carries the weights of several rows. -/
def colElem (v : Env) (f : Front) (c r k : Nat) (es : List Entry) (slot : Nat) : Option Elem :=
  let d := v.d
  if d.strip then
    let nr := 32 / max 1 (d.entriesPerStep false)
    let en := es.getD (r / nr) { bits := 0 }
    let w := panelW d.t1
    let code := bitsOf en.bits.toNat 127 0 / 2 ^ (w * (r % nr)) % 2 ^ w
    (d.lineIdx f true c k).map fun p =>
      decodeEntry v true p code (en.scales.getD (r % nr) 0x7F) ((en.cb.drop (16 * (r % nr))).take 16)
  else
    let en := es.headD { bits := 0 }
    let code := if d.cls ≤ 1 then en.slot slot else en.code
    (d.lineIdx f true (c / d.lay.colsPer) k).map fun p => decodeEntry v true p code en.scale en.cb

/-! ### Product tables (R181) -/

/-- The 6-bit significand, leading 1 at bit 5, and the scale of a C8 value. -/
def sig6 (m : Nat) (e : Int) : Nat × Int := (m * 2 ^ 5 / 2 ^ Nat.log2 m, e + Nat.log2 m)

/-- The 32 products of a row's activation significand. -/
def prodTable (x : Val) : List Nat :=
  match x with
  | .fin _ m e => (List.range 32).map fun i => (sig6 m e).1 * (32 + i)
  | _ => List.replicate 32 0

/-- The table builder forms the tables of every row for the next strip step, in the ring of four steps (R182). -/
def State.buildTables (s : State) (site : Nat) : State :=
  let t := s.tile site
  match t.cur with
  | none => s
  | some f => match s.op? f.seq with
    | none => s
    | some o =>
      let d := o.d
      let ks := d.partKs (d.partOf f.tile)
      let n := t.ptabStep - t.steps
      let rows := List.range 32
      let entry (r : Nat) : Option Entry := (mget {} t.rowB (s.physRow site r)).q[n]?
      if !d.prodTables ∨ d.tileSteps f.tile ≤ t.ptabStep ∨ 4 ≤ n ∨ !(rows.all fun r => (entry r).isSome) then s
      else
        let v := s.runEnv o
        let put (m : SMap (List Nat)) (r : Nat) : SMap (List Nat) :=
          let x : Val := match d.stepK ks r t.ptabStep 0, entry r with
            | some k, some en => ((rowElem v f r k en 0).map fun e => e.val).getD (.zero false)
            | _, _ => .zero false
          mput [] m (64 * (t.ptabStep % 4) + s.physRow site r) (prodTable x)
        s.setTile site { t with ptab := rows.foldl put t.ptab, ptabStep := t.ptabStep + 1 }

/-- PRODUCT_TABLE_BUILD. -/
def execProductTableBuild (site : Nat) (s : State) : Outcome := act s fun s => s.buildTables site

/-- A product read from the row's table (R181): the value that stands for x times the codebook entry y. -/
def tableProduct (tab : List Nat) (x y : Val) : Val × Val :=
  match x, y with
  | .fin n m e, .fin p k f =>
    let a := sig6 m e
    let b := sig6 k f
    (.fin n (tab.getD (b.1 - 32) 0) (a.2 - 5), .fin p 1 (b.2 - 5))
  | x, y => (x, y)

/-! ### STEP_ISSUE -/

/-- One product of a step: the cell that forms it, by its logical row and column, its group, the slot of the step that its
operands share, its K index, the elements, and in C32 and C64 the pieces. -/
structure CellTerm where
  row : Nat
  col : Nat
  i : Nat
  j : Nat
  slot : Nat
  k : Nat
  x : Elem
  y : Elem
  px : SigPiece := { bits := 0, cls := 0, neg := false, low := 0, scale := 0 }
  py : SigPiece := { bits := 0, cls := 0, neg := false, low := 0, scale := 0 }
  deriving DecidableEq, Repr

/-- The bellows entries of a step: the front entries of the rows and columns in use. -/
def Tile.heads (t : Tile) (row : Bool) (idx n : Nat) : List Entry :=
  ((mget {} (if row then t.rowB else t.colB) idx).q).take n

/-- The cells that form a product at a step, once for each slot they use, as (logical row, logical column, slot, piece of A,
piece of B): both slots in C8, the slot of the row's parity in C16, a row's own index in strip mode (Table 4.2, R134), and
in C32 and C64 the cells of the piece schedule, each pair of pieces a slot (R129); for the rows and columns in use. -/
def Desc.cellSlots (d : Desc) (rows cols : List Nat) (step : Nat) : List (Nat × Nat × Nat × Nat × Nat) :=
  let y := d.lay
  let cells := pieceCells d (step % d.perTerm)
  rows.flatMap fun r => cols.flatMap fun c =>
    if d.strip then [(r, c, r, 0, 0)]
    else match d.cls with
      | 0 => [(r, c, 0, 0, 0), (r, c, 1, 0, 0)]
      | 1 => [(r, c, r % 2, 0, 0)]
      | _ => (cells.filter fun x => x.row == r % y.rowsPer && x.col == c % y.colsPer).map fun x => (r, c, 8 * x.a + x.b, x.a, x.b)

/-- The slot of an entry that a cell reads: in strip mode slot 0, in C32 and C64 the one that carries its piece. -/
def Desc.entrySlot (d : Desc) (row : Bool) (step at_ slot piece : Nat) : Nat :=
  if d.strip then 0 else if d.cls ≤ 1 then slot
  else (slotPieces d (step % d.perTerm) row (at_ % (if row then d.lay.rowsPer else d.lay.colsPer))).idxOf piece

/-- The piece in a slot of an entry, under the entry's scale (R88). -/
def Entry.piece (v : Env) (isB : Bool) (e : Entry) (slot : Nat) : SigPiece :=
  let x := SigPiece.ofSlot (e.slot slot)
  let t := v.d.side isB
  if t.scaled then
    if e.scale = 0xFF then { x with cls := 2 } else { x with scale := x.scale + (e.scale : Int) - 127 }
  else x

/-- The products of a step of a tile. -/
def State.cellTerms (s : State) (site : Nat) (v : Env) (f : Front) (t : Tile) : List CellTerm :=
  let d := v.d
  let ks := d.partKs (d.partOf f.tile)
  let rows := (List.range 32).filter (d.usesRow f)
  let cols := (List.range 32).filter (d.usesCol f)
  (d.cellSlots rows cols t.steps).filterMap fun e =>
    let (r, c, slot, a, b) := e
    let es := t.heads false (s.physCol site c) (d.entriesPerStep false)
    match d.stepK ks r t.steps slot, (t.heads true (s.physRow site r) 1).head? with
    | some k, some ra =>
      let rs := d.entrySlot true t.steps r slot a
      let cs := d.entrySlot false t.steps c slot b
      match rowElem v f r k ra rs, colElem v f c r k es cs with
      | some x, some y => some {
          row := r, col := c, i := r / d.lay.rowsPer, j := c / d.lay.colsPer, slot := slot, k := k, x := x, y := y,
          px := ra.piece v false rs, py := (es.headD { bits := 0 }).piece v true cs }
      | _, _ => none
    | _, _ => none

/-- Whether the cells form piece products, which the assembler sums (R128). -/
def Desc.pieces (d : Desc) : Bool := !d.strip && decide (2 ≤ d.cls)

/-- What a product's operands contribute to the edge sums: elements, or pieces at their offsets (R93). -/
def CellTerm.xVal (d : Desc) (c : CellTerm) : Val := if d.pieces then c.px.val c.px.part else c.x.val
def CellTerm.yVal (d : Desc) (c : CellTerm) : Val := if d.pieces then c.py.val c.py.part else c.y.val

/-- The edge sums of a step, by slot: the residues of the A elements over the rows, and of the B elements, in units of 2^a,
over the columns (R93). -/
structure EdgeSums where
  a : SMap Nat := []
  b : SMap Nat := []
  /-- A residues by 64 slot + row, and B residues by 64 slot + column -/
  rows : SMap Nat := []
  cols : SMap Nat := []

/-- The edge summers' work on a step. -/
def edgeSums (d : Desc) (cs : List CellTerm) : EdgeSums :=
  let rows := cs.foldl (fun (m : SMap Nat) c => mput 0 m (64 * c.slot + c.row) (resVal 0 (c.xVal d))) []
  let cols := cs.foldl (fun (m : SMap Nat) c => mput 0 m (64 * c.slot + c.col) (resVal d.ganchor (c.yVal d))) []
  let sum (l : SMap Nat) : SMap Nat :=
    l.foldl (fun (m : SMap Nat) e => mput 0 m (e.1 / 64) ((mget 0 m (e.1 / 64) + e.2) % gaugeM)) []
  { a := sum rows, b := sum cols, rows := rows, cols := cols }

/-- The gauge cells' accumulators after a step: sums of residue products, not reduced until the drain (R93). -/
def State.gaugeStep (s : State) (site : Nat) (e : EdgeSums) (t : Tile) : Tile :=
  { t with
    gRow := e.rows.foldl (fun (m : SMap Nat) r => gaugeAdd m (s.physRow site (r.1 % 64)) (r.2 * mget 0 e.b (r.1 / 64))) t.gRow,
    gCol := e.cols.foldl (fun (m : SMap Nat) c => gaugeAdd m (s.physCol site (c.1 % 64)) (mget 0 e.a (c.1 / 64) * c.2)) t.gCol,
    gCorner := t.gCorner + (e.a.map fun x => x.2 * mget 0 e.b x.1).sum }

/-- One product goes to its group (R84): by the multiplier or through the product table; a piece product goes to the group's
assembler (R128). -/
def State.cellAdd (s : State) (site : Nat) (d : Desc) (t : Tile) (c : CellTerm) : Tile :=
  let key := 64 * c.i + c.j
  let put (x y : Val) : Tile := { t with grps := mput {} t.grps key ((mget {} t.grps key).add d.gw (prodTerm d.gw d.ganchor x y)) }
  if d.pieces then { t with asm := mput 0 t.asm key (mget 0 t.asm key + c.px.part * c.py.part) }
  else if d.prodTables then
    let p := tableProduct (mget [] t.ptab (64 * (t.steps % 4) + s.physRow site c.row)) c.x.val c.y.val
    put p.1 p.2
  else put c.x.val c.y.val

/-- The last piece product of a term has arrived: the assembler's sum is SIG(A) times SIG(B), and the term is added once
(R128). -/
def assembleTerm (d : Desc) (t : Tile) (c : CellTerm) : Tile :=
  let key := 64 * c.i + c.j
  let g := (mget {} t.grps key).add d.gw (prodTerm d.gw d.ganchor (c.px.val (mget 0 t.asm key)) (c.py.val 1))
  { t with grps := mput {} t.grps key g, asm := merase t.asm key }

/-- The products of a step that stand for whole terms: each group's first at the last step of a term in C32 and C64. -/
def stepTerms (d : Desc) (steps : Nat) (cs : List CellTerm) : List CellTerm :=
  if d.pieces then
    if steps % d.perTerm + 1 = d.perTerm then
      cs.filter fun c => cs.find? (fun e => e.i == c.i && e.j == c.j) == some c
    else []
  else cs

/-- The row bellows accumulate the codes they release (R184): each K index of a line once. -/
def Tile.addCodes (t : Tile) (d : Desc) (ts : List CellTerm) : Tile :=
  let codes : List (Nat × Nat × Int) := (ts.map fun c => (if d.strip then 0 else c.i, c.k, codeInt d.t0 c.x.code)).eraseDups
  if d.zpEn then { t with sa := codes.foldl (fun (m : SMap Int) e => mput 0 m e.1 (mget 0 m e.1 + e.2.2)) t.sa } else t

/-- The ledger events of the terms of a step (R168). -/
def stepEvents (d : Desc) (f : Front) (ts : List CellTerm) : List LEvent :=
  ts.flatMap fun c => match d.outAt f c.i c.j with
    | some l => termEvents d.gw d.ganchor l c.k c.x c.y
    | none => []

/-- The bellows release the entries of a step. -/
def releaseAll (m : SMap Bellows) (used : List Nat) (n : Nat) : SMap Bellows :=
  used.foldl (fun (m : SMap Bellows) i => let b := mget {} m i; mput {} m i { b with q := b.q.drop n }) m

/-- A step of a matrix product: the products into the groups, the edge sums into the gauges, the codes into their sums. -/
def State.stepMat (s : State) (site : Nat) (v : Env) (f : Front) (t : Tile) : Tile × List LEvent :=
  let d := v.d
  let t := if t.steps = 0 then s.loadStart site v f t else t
  let cs := s.cellTerms site v f t
  let ts := stepTerms d t.steps cs
  let t1 := s.gaugeStep site (edgeSums d cs) (cs.foldl (s.cellAdd site d) t)
  let t2 := (if d.pieces then ts.foldl (assembleTerm d) t1 else t1).addCodes d ts
  ({ t2 with steps := t.steps + 1, rowB := releaseAll t2.rowB (s.usedBellows site d f true) 1,
             colB := releaseAll t2.colB (s.usedBellows site d f false) (d.entriesPerStep false) }, stepEvents d f ts)

/-- The groups of a block of an operation that is no matrix product, with their gauges, as its last step leaves them: the
spec gives these operations no order of steps over bellows entries, so their terms stand at the last one (log entry 55, DESIGN CHOICE,
DESIGN CHOICE). -/
def State.stepPass (s : State) (site : Nat) (v : Env) (o : Op) (f : Front) (t : Tile) : Tile :=
  let p := o.pass f.sub
  let y := o.lay f
  let t := { t with steps := t.steps + 1 }
  if t.steps < p.steps ∨ !p.grouped then t
  else y.places.foldl (fun (t : Tile) e =>
    match p.at_ f.plc f.tile e.1 e.2 with
    | none => t
    | some l =>
      let start := passStart v l p
      let t := if start = {} then t else s.loadGroup site y t e.1 e.2 start
      let ts := passTerms v f.sub l p
      let r := (ts.map fun x => x.2).sum
      { t with grps := mput {} t.grps (64 * e.1 + e.2) (passGrp v f.sub l p),
               gRow := gaugeAdd t.gRow (s.physRow site (e.1 * y.rowsPer)) r,
               gCol := gaugeAdd t.gCol (s.physCol site (e.2 * y.colsPer)) r, gCorner := t.gCorner + r }) t

/-- A tile can issue its next step: no hold, no tongs wait, every bellows can release, the tables are built, the drain
registers are free for a last step (R86, R133), and no pre-emption stops it at a chunk boundary (R140). -/
def State.canStep (s : State) (site : Nat) (o : Op) (f : Front) (t : Tile) : Bool :=
  let d := o.d
  let n := o.frontSteps f
  decide (t.steps < n) && !f.wait && !s.frozen o.dom && !(o.stopping && t.steps % d.chunkSteps == 0) &&
  (decide (t.steps + 1 < n) || t.drain.isNone) &&
  (!d.isMat || ((s.usedBellows site d f true).all (fun i => decide (1 ≤ (mget {} t.rowB i).q.length)) &&
    (s.usedBellows site d f false).all (fun i => decide (d.entriesPerStep false ≤ (mget {} t.colB i).q.length)) &&
    (!d.prodTables || decide (t.steps < t.ptabStep))))

/-- The tile's chunk buffers without those of a front whose last block leaves the cells. -/
def Tile.dropPanels (t : Tile) (f : Front) : Tile :=
  { t with panels := t.panels.filter fun p => !(p.seq == f.seq && p.plc == f.plc && p.tile == f.tile) }

/-- A tile issues a step (R84 to R86, R89); at the last one its groups move into the drain registers. -/
def State.issueStep (s : State) (site : Nat) : State :=
  let t := s.tile site
  match t.cur with
  | none => s
  | some f => match s.op? f.seq with
    | none => s
    | some o =>
      if o.frontSteps f = 0 then s.drainEmpty site
      else if !s.canStep site o f t then s
      else
        let v := s.runEnv o
        let (t2, evs) := if o.d.isMat then s.stepMat site v f t else (s.stepPass site v o f t, [])
        let nf := s.nextFront o f
        let t3 := if t2.steps = o.frontSteps f then (if nf.isNone then t2.dropPanels f else t2).drainAll f nf else t2
        ((s.setTile site t3).ledger f.seq evs).setOp f.seq fun o => { o with
          stepsLeft := if f.tile = 0 then o.stepsLeft - 1 else o.stepsLeft,
          specUsed := o.specUsed || !(s.readsOpen o).isEmpty }

/-- STEP_ISSUE. -/
def execStepIssue (site : Nat) (s : State) : Outcome := act s fun s => s.issueStep site

end Sys2Proof.Machine
end

