-- ==== Sys2Proof/Machine/TileQuench.lean ====
section
/-! DEFINITION. TileQuench: the quench of a block: gauge checks, relay, strip sums, saddlebag terms, the epilogue and the
writes, and what follows a failed check (R75, R94 to R100, R131, R136, R139, R156, R178, R184, R188, R335, R340); rows of
the finisher (R82). -/

namespace Sys2Proof.Machine

/-! ### Block buffers -/

/-- The first block in the buffers that a choice fits. -/
def Tile.buf? (t : Tile) (c : Block → Bool) : Option Block := t.bufs.find? c

/-- A buffered block replaced by what it has become. -/
def Tile.putBuf (t : Tile) (b : Block) : Tile := { t with bufs := t.bufs.map fun x => if x.front = b.front then b else x }

/-- The quench unit reads the drain registers into a free block buffer, and so frees them (R86, R95). -/
def Tile.readDrain (t : Tile) : Tile :=
  match t.drain with
  | some b => if t.bufs.length < 2 then { t with drain := none, bufs := t.bufs ++ [b] } else t
  | none => t

/-! ### Soft errors (R99) -/

/-- A number with one bit flipped. -/
def flipNat (x b : Nat) : Nat := if bitsOf x b b = 1 then x - 2 ^ b else x + 2 ^ b

/-- A soft error in the drain registers or the block buffer. -/
def Block.flip (w : Nat) (t : Block) (f : Flip) : Block :=
  match f with
  | .cell k b =>
    let g := mget {} t.grps k
    if b < w + 8 then { t with grps := mput {} t.grps k { g with v := wrapS (w + 8) (flipNat (modPow (w + 8) g.v) b) } }
    else t
  | .gaugeRow r b => if b < 24 then { t with gRow := mput 0 t.gRow r (flipNat (mget 0 t.gRow r) b) } else t
  | .gaugeCol c b => if b < 24 then { t with gCol := mput 0 t.gCol c (flipNat (mget 0 t.gCol c) b) } else t
  | .gaugeCorner b => if b < 24 then { t with gCorner := flipNat t.gCorner b } else t

/-! ### The checks (R95, R98) -/

/-- What the checks of a block found: group rows and columns that failed, and the corner against the gauge column and
against the gauge row. -/
structure Checked where
  rows : List Nat
  cols : List Nat
  cornerCol : Bool
  cornerRow : Bool
  deriving DecidableEq, Repr

/-- Every check matches. -/
def Checked.ok (c : Checked) : Bool := c.rows.isEmpty && c.cols.isEmpty && !c.cornerCol && !c.cornerRow

/-- The gauge-column value of a group row: the sum over its logical rows. -/
def State.gaugeOfRow (s : State) (site : Nat) (y : Layout) (b : Block) (i : Nat) : Nat :=
  ((List.range y.rowsPer).map fun r => mget 0 b.gRow (s.physRow site (i * y.rowsPer + r))).sum % gaugeM

/-- The gauge-row value of a group column. -/
def State.gaugeOfCol (s : State) (site : Nat) (y : Layout) (b : Block) (j : Nat) : Nat :=
  ((List.range y.colsPer).map fun c => mget 0 b.gCol (s.physCol site (j * y.colsPer + c))).sum % gaugeM

/-- The checks of R95. -/
def State.checkBlock (s : State) (site : Nat) (y : Layout) (b : Block) : Checked :=
  let is_ := List.range y.rows
  let js := List.range y.cols
  let v (i j : Nat) : Nat := res (mget {} b.grps (64 * i + j)).v
  { rows := is_.filter fun i => (js.map fun j => v i j).sum % gaugeM != s.gaugeOfRow site y b i,
    cols := js.filter fun j => (is_.map fun i => v i j).sum % gaugeM != s.gaugeOfCol site y b j,
    cornerCol := (is_.map (s.gaugeOfRow site y b)).sum % gaugeM != b.gCorner % gaugeM,
    cornerRow := (js.map (s.gaugeOfCol site y b)).sum % gaugeM != b.gCorner % gaugeM }

/-- A block that carries a SPILL flag is left unchecked (R96). -/
def Block.spills (b : Block) : Bool := b.grps.any fun e => e.2.sLo || e.2.sHi

/-- The location of Table 4.5: its code, and the group row and column that DETAIL names. -/
def Checked.located (c : Checked) : Nat × Nat × Nat :=
  match c.rows, c.cols, c.cornerCol, c.cornerRow with
  | [i], [j], false, false => (0, i, j)
  | [i], [], true, false => (1, i, 0)
  | [], [j], false, true => (2, 0, j)
  | [], [], _, _ => (3, 0, 0)
  | _, _, _, _ => (4, 0, 0)

/-- What the spare rules take from a location (R341). -/
def Layout.faultAt (y : Layout) (l : Nat × Nat × Nat) : FaultAt :=
  match l with
  | (0, i, j) => .cells (y.cells i j)
  | (1, i, _) => .gaugeCol ((List.range y.rowsPer).map fun r => i * y.rowsPer + r)
  | (2, _, j) => .gaugeRow ((List.range y.colsPer).map fun c => j * y.colsPer + c)
  | (3, _, _) => .corner
  | _ => .whole

/-- The cell fields of a GAUGE entry (R418). -/
def State.gaugeCell (s : State) (site tile : Nat) (y : Layout) (l : Nat × Nat × Nat) : Nat :=
  let r := l.2.1 * y.rowsPer
  let c := l.2.2 * y.colsPer
  match l.1 with
  | 0 => cellField true c r (s.physCol site c) (s.physRow site r) site tile
  | 1 => cellField true 0 r 33 (s.physRow site r) site tile
  | 2 => cellField true c 0 (s.physCol site c) 33 site tile
  | 3 => cellField true 0 0 33 33 site tile
  | _ => cellField false 0 0 0 0 site tile

/-- The site that re-runs a failed block: the spare of the failed site's column where it is SPARE, else another site in
service as in an extra round (R335). -/
def State.rerunSite (s : State) (o : Op) (site : Nat) : Option Nat :=
  if s.siteState (spareOf site) = stSpare then some (spareOf site)
  else o.sites.find? fun i => i != site && s.siteState i == stActive

/-- A block whose checks fail (R97, R335, R340): it is not written; the failure is counted, entered in the ledger and
logged; the block is run again, at most twice, and the site is cared for. -/
def State.blockFails (s : State) (site : Nat) (f : Front) (o : Op) (c : Checked) : State :=
  let y := o.lay f
  let l := c.located
  let ev : LEvent := { cause := 0x08, detail := l.1 + l.2.1 * 2 ^ 8 + l.2.2 * 2 ^ 16, cell := s.gaugeCell site f.tile y l }
  let word1 := (ledgerWords o ev ev.cell s.now).getD 1 0
  let fails := ((o.rerunOf f.plc f.key).map fun r => r.fails).getD 0 + 1
  let again : Rerun := { plc := f.plc, key := f.key, fails := fails, site := s.rerunSite o site }
  let t := (s.setTile site ((s.tile site).dropBuf f)).ledger o.seq [ev]
  let t := (t.bump Fl.arrGaugeEvtCount Fl.arrGaugeEvtPend 0).logEvent
    { code := 0x06, cls := .recovered, quarter := siteQuarter site, seq := o.seq, loc := site, d4 := ev.detail, d5 := word1 }
  let t := t.setOp o.seq fun o => { o with
    gaugeFail := o.gaugeFail + 1, reruns := (o.reruns.filter fun r => r.plc != f.plc || r.key != f.key) ++ [again] }
  let t := if 3 ≤ fails then t.abortOp o.seq 0x08 else t
  t.careSite site (y.faultAt l) (l.1 == 0 && y.w == 128) f.seq

/-! ### The end of an operation's work in the array -/

/-- Elements of T2 that a run writes (R147, R188). -/
def liveCount (v : Env) : Nat :=
  ((List.range v.t2.count).filter fun l => match v.t2.place v.rd (unlinear v.t2.psizes l) with
    | .at _ _ => true
    | _ => false).length

/-- What is left of a run once its outputs have been delivered, block by block or row by row: its other writes and events. -/
def restOfRun (v : Env) : RunOut :=
  if v.d.isMat then { evs := listEvents v.d.t0 v.rd ++ listEvents v.d.t1 v.rd }
  else { runOf v with outs := [], gaugeRun := 0, gaugeSkip := 0 }

/-- Every output has been delivered: list indices, the writes beside T2's elements and the retemper rule are taken up (R147,
R188); a fused reduction takes the groups (R221). -/
def State.endRun (s : State) (o : Op) : State :=
  let v := s.runEnv o
  let d := o.d
  let r := restOfRun v
  let bad := r.badIndex || !(listEvents v.t2 v.rd).isEmpty
  let st := if bad then 0x24 else o.status
  if o.fusedPost then
    if (s.instsOf o.seq).any fun i => i.isReduce then
      let gs := contribOf v
      let run := if d.isMat then {} else runOf v
      let evs := if d.isMat then r.evs ++ listEvents v.t2 v.rd else (run.events v).filter fun e => e.cause != 0x06
      let inf := if d.isMat then (List.range v.t2.count).map fun l => countInfZero (opPairs v l) + laneInfZero v l
        else run.infZero :: run.outs.map fun (e : OutElem) => e.infZero
      (s.ledger o.seq evs).setOp o.seq fun o => { o with
        cnt := { infZero := sat32 inf.sum, spillLo := sat32 (gs.filter fun (g : Grp) => g.sLo).length,
                 gaugeRun := o.cnt.gaugeRun, gaugeSkip := o.cnt.gaugeSkip },
        contrib := gs, codes := codesOf v run, status := st, phase := .computed, inArray := false }
    else (s.ledger o.seq (listEvents v.t2 v.rd)).setOp o.seq fun o => { o with status := st, phase := .written, inArray := false }
  else
    let t := (s.ctxBitsAll o.partner r.extra).ledger o.seq (r.evs ++ listEvents v.t2 v.rd)
    let cnt := o.cnt.plus (r.counts v)
    if d.overThresh (liveCount v) cnt.sat cnt.flush r.sbFull then
      t.retemperRun o v { runOf { v with t2 := d.rtTensor } with dst := some d.rtTensor } bad
    else t.setOp o.seq fun o => { o with cnt := cnt, status := st, phase := .written, inArray := false }

/-- Operations whose rows the finishers complete after their last block (R82). -/
def Desc.byRows (d : Desc) : Bool :=
  d.opcode == opNorm || d.opcode == opSoftmax || d.opcode == opAttend || (d.opcode == opReduce && decide (2 ≤ d.subop))

/-- A block is done: its buffer is free, and the last one ends the operation's work in the array, or leaves it to the
finishers. -/
def State.blockDone (s : State) (site : Nat) (f : Front) (seq : Nat) : State :=
  let t := (s.setTile site ((s.tile site).dropBuf f)).setOp seq fun o => { o with
    blocks := o.blocks ++ [(f.plc, f.key)], reruns := o.reruns.filter fun r => r.plc != f.plc || r.key != f.key }
  match t.op? seq with
  | none => t
  | some o => if o.tileBlocks.all (fun b => o.blocks.contains b) && !o.d.byRows then t.endRun o else t

/-! ### Relay (R131, R139) -/

/-- Places of the groups that a block sends down or delivers. -/
def Desc.relayKeys (d : Desc) : List Nat :=
  if d.strip then List.range 32 else d.lay.places.map fun p => 64 * p.1 + p.2

/-- The code sum that travels with a group: that of its group row, with the row's first group. -/
def Block.saFor (b : Block) (k : Nat) : Int := if k % 64 = 0 then mget 0 b.sa (k / 64) else 0

/-- The hop below a block does not join two tiles that stand on their relay path in the same round: its groups go through a
spill (R139). -/
def Op.spillBelow (o : Op) (f : Front) : Bool :=
  let off (tile : Nat) : Bool := (o.homeOf tile).isNone || o.runSite f.plc (blockKey tile f.sub) != o.siteFor f.plc tile
  off f.tile || off (f.tile + 64)

/-- Bytes of spills in the commons of a quarter: a block's groups with tallies and flags (R139, R140). -/
def spillBytes : Nat := 18432
def State.spillUsed (s : State) (q : Nat) : Nat :=
  (s.ops.map fun o => spillBytes * (o.sends.filter fun r =>
    o.spillBelow (frontOf o r.plc r.key) && siteQuarter (o.runSite r.plc (r.key + 64)) == q).length).sum

/-- A block's groups can go down: on the relay path at once, through a spill where the receiving quarter's commons has room
(R139; log entry 57, DESIGN CHOICE). -/
def State.canSend (s : State) (o : Op) (f : Front) : Bool :=
  !o.spillBelow f || (o.sends.any fun r => r.plc == f.plc && r.key == f.key) ||
    decide (s.spillUsed (siteQuarter (o.runSite f.plc (f.key + 64))) + spillBytes ≤ s.stagingCap / 4)

/-- Groups put on their way down from a block. -/
def State.sendDown (s : State) (f : Front) (seq : Nat) (gs : List (Nat × Grp × Int)) : State :=
  s.setOp seq fun o =>
    if o.sends.any fun r => r.plc == f.plc && r.key == f.key then
      { o with sends := o.sends.map fun r =>
          if r.plc == f.plc && r.key == f.key then { r with grps := r.grps ++ gs } else r }
    else { o with sends := o.sends ++ [{ plc := f.plc, key := f.key, grps := gs }] }

/-- The key of the block above in the chain. -/
def Front.above (f : Front) : Nat := f.key - 64

/-- The relayed group that waits for a block at a place. -/
def Op.inbound (o : Op) (f : Front) (k : Nat) : Option (Grp × Int) :=
  match o.sends.find? fun r => r.plc == f.plc && r.key == f.above with
  | none => none
  | some r => (r.grps.find? fun g => g.1 == k).map fun g => g.2

/-- Taken from the groups on their way. -/
def Op.take (o : Op) (f : Front) (k : Nat) : Op :=
  { o with sends := (o.sends.map fun r =>
      if r.plc == f.plc && r.key == f.above then { r with grps := r.grps.filter fun g => g.1 != k } else r).filter fun r =>
        !(r.plc == f.plc && r.key == f.above && r.grps.isEmpty) }

/-- A buffered block takes the relayed group of a place: it has passed its checks, and the group has not come yet. -/
def State.takesRelay (s : State) (k : Nat) (b : Block) : Bool :=
  match s.op? b.front.seq with
  | none => false
  | some o => o.d.isMat && decide (o.d.partOf b.front.tile ≠ 0) && b.checked && !b.relayGot.contains k &&
      o.d.relayKeys.contains k && (o.inbound b.front k).isSome &&
      (decide (o.d.partOf b.front.tile + 1 = o.d.parts) || s.canSend o b.front)

/-- A relayed group arrives at a block that has passed its checks: it is added exactly to the block's own group of the same
place, and the sum goes on down; the last tile keeps it for its quench (R75, R131). -/
def State.relayIn (s : State) (site k : Nat) : State :=
  let t := s.tile site
  match t.buf? (s.takesRelay k) with
  | none => s
  | some b => match s.op? b.front.seq with
    | none => s
    | some o => match o.inbound b.front k with
      | none => s
      | some g =>
        let f := b.front
        let d := o.d
        let sum := (mget {} b.grps k).add d.gw g.1
        let sa := if k % 64 = 0 then mput 0 b.sa (k / 64) (mget 0 b.sa (k / 64) + g.2) else b.sa
        let b2 := { b with grps := mput {} b.grps k sum, sa := sa, relayGot := b.relayGot ++ [k] }
        let z := (s.setTile site (t.putBuf b2)).setOp f.seq fun o => o.take f k
        if d.partOf f.tile + 1 = d.parts then z
        else
          let z := z.sendDown f f.seq [(k, sum, b2.saFor k)]
          if b2.relayGot.length = d.relayN then z.blockDone site f f.seq else z

/-- RELAY_ARRIVE. -/
def execRelayArrive (site grp : Nat) (s : State) : Outcome := act s fun s => s.relayIn site grp

/-! ### The saddlebag lane (R178) -/

/-- The operation has a saddlebag on an operand. -/
def Desc.hasBags (d : Desc) : Bool := d.t0.sbag != 0 || d.t1.sbag != 0

/-- Outputs of a block with the place of the group of each. -/
def Desc.blockPlaces (d : Desc) (f : Front) : List (Nat × Nat) :=
  d.relayKeys.filterMap fun k => (d.outAt f (k / 64) (k % 64)).map fun l => (k, l)

/-- A buffered block still needs the lane's terms: it is the last of its chain in an operation with a saddlebag. -/
def State.wantsLane (s : State) (b : Block) : Bool :=
  match s.op? b.front.seq with
  | none => false
  | some o => o.d.isMat && o.d.hasBags && !b.laneGot && decide (o.d.partOf b.front.tile + 1 = o.d.parts)

/-- The lane forms the saddlebag terms of every group of a drained block that its quarter quenches. -/
def State.laneTile (s : State) (site : Nat) : State :=
  let t := (s.tile site).readDrain
  match t.buf? s.wantsLane with
  | none => s
  | some b => match s.op? b.front.seq with
    | none => s
    | some o =>
      let d := o.d
      let v := s.runEnv o
      let ps := d.blockPlaces b.front
      let m := ps.foldl (fun (m : SMap Grp) p =>
        mput {} m p.1 (({} : Grp).addAll d.gw (laneTerms v p.2 d.gw d.ganchor))) []
      (s.setTile site (t.putBuf { b with lane := m, laneGot := true })).ledger b.front.seq (ps.flatMap fun p => laneEvents v p.2)

/-- SADDLEBAG_LANE_TERMS. -/
def execSaddlebagLaneTerms (site : Nat) (s : State) : Outcome := act s fun s => s.laneTile site

/-! ### The quench -/

/-- The groups of each column summed over all group rows (R136). -/
def stripSums (d : Desc) (m : SMap Grp) : SMap Grp :=
  (List.range 32).foldl (fun (r : SMap Grp) j =>
    mput {} r j (({} : Grp).addAll d.gw ((List.range d.lay.rows).map fun i => mget {} m (64 * i + j)))) []

/-- The outputs of a matrix product's block, through the epilogue (R156): zero-point correction, saddlebag terms, bias,
scale, function, delivery. -/
def matOutputs (v : Env) (b : Block) : List OutElem :=
  let d := v.d
  let w := d.gw
  let a := d.ganchor
  (d.blockPlaces b.front).map fun p =>
    let zp := zpTermsOf v p.2 w a (mget 0 b.sa (p.1 / 64))
    epilogueGrp v p.2 w a (mget {} b.grps p.1) (zp ++ [mget {} b.lane p.1])
      (countInfZero (opPairs v p.2) + laneInfZero v p.2) (startEvents v p.2 w a ++ zpEvents p.2 zp)

/-- The outputs of a block of any other array operation: from its groups where its outputs come from groups, else as the cells
select, convert or draw them (R156, R417, R419); none of an operation whose rows the finishers complete. -/
def passOutputs (v : Env) (o : Op) (b : Block) : List OutElem :=
  let f := b.front
  let p := o.pass f.sub
  let ls := (o.lay f).places.filterMap fun e => (p.at_ f.plc f.tile e.1 e.2).map fun l => (64 * e.1 + e.2, l)
  if v.d.byRows then []
  else if v.d.groupOutputs then ls.map fun e => pairsFrom v e.2 v.d.gw v.d.ganchor (mget {} b.grps e.1) (opPairs v e.2)
  else (runOf v).outs.filter fun x => ls.any fun e => e.2 == x.idx

/-- The outputs of a block. -/
def blockOutputs (v : Env) (o : Op) (b : Block) : List OutElem := if v.d.isMat then matOutputs v b else passOutputs v o b

/-- A checked block waits: for relayed groups, for the lane, or for a free spill (R131, R139, R178). -/
def State.blockWaits (s : State) (o : Op) (b : Block) : Bool :=
  let d := o.d
  let part := d.partOf b.front.tile
  d.isMat &&
  (if part + 1 < d.parts then decide (part ≠ 0) || !s.canSend o b.front
   else (decide (part ≠ 0) && decide (b.relayGot.length < d.relayN)) || (d.hasBags && !b.laneGot))

/-- A checked block goes on: the top of a chain sends its groups down; a block that holds every sum is delivered, once its
saddlebag terms are there. A fused reduction takes the groups and writes nothing (R221). -/
def State.passOn (s : State) (site : Nat) (b : Block) (o : Op) : State :=
  let d := o.d
  let f := b.front
  if s.blockWaits o b then s
  else if d.isMat && decide (d.partOf f.tile + 1 < d.parts) then
    (s.sendDown f f.seq (d.relayKeys.map fun k => (k, mget {} b.grps k, b.saFor k))).blockDone site f f.seq
  else if o.fusedPost || d.byRows then s.blockDone site f f.seq
  else if !(s.opUe o).isEmpty then s.opMeetsUe f.seq (s.opUe o)
  else if !s.runRoom o then s.opLost o 0x21
  else
    let v := s.runEnv o
    let r : RunOut := { outs := blockOutputs v o b }
    let z := ((s.noteMirror o.partner v.t2).ctxBitsAll o.partner (r.writes v)).ledger f.seq (r.outs.flatMap fun e => e.evs)
    (z.setOp f.seq fun o => { o with cnt := o.cnt.plus (r.counts v) }).blockDone site f f.seq

/-- The block's pass forms groups, which the gauges check (R96). -/
def Op.gauged (o : Op) (f : Front) : Bool := o.d.isMat || (o.pass f.sub).grouped

/-- The quench unit makes the checks of a buffered block and sends it on; a block with a SPILL flag is left unchecked (R96). -/
def State.quenchBlock (s : State) (site : Nat) (flips : List Flip) (f : Front) : State :=
  match (s.tile site).buf? (fun b => b.front = f), s.op? f.seq with
  | some b, some o =>
    if b.checked then s.passOn site b o
    else
      let y := o.lay f
      let b := flips.foldl (Block.flip y.w) b
      if o.gauged f ∧ !b.spills ∧ !(s.checkBlock site y b).ok then s.blockFails site f o (s.checkBlock site y b)
      else
        let b2 := { b with checked := true, grps := if o.d.strip then stripSums o.d b.grps else b.grps }
        let cnt : Counts := if o.gauged f then { gaugeRun := (!b.spills).toNat, gaugeSkip := b.spills.toNat } else {}
        let z := (s.setTile site ((s.tile site).putBuf b2)).setOp f.seq fun o => { o with cnt := o.cnt.plus cnt }
        (if cnt.gaugeSkip = 1 then z.addUnchecked 1 else z).passOn site b2 { o with cnt := o.cnt.plus cnt }
  | _, _ => s

/-- The first block that a soft error can still strike: one that is not checked yet. -/
def Tile.struck (t : Tile) (f : Front) (flips : List Flip) : List Flip :=
  if (t.buf? fun b => !b.checked).any fun b => b.front == f then flips else []

/-- QUENCH_BLOCK: the quench unit reads the drain registers and works on its block buffers, oldest first. A tile that waited
for its drain registers to move groups that take no step moves them now. -/
def State.quenchTile (s : State) (site : Nat) (flips : List Flip) : State :=
  let s := s.setTile site (s.tile site).readDrain
  let s := s.drainEmpty site
  (s.tile site).bufs.foldl (fun (t : State) b => t.quenchBlock site ((s.tile site).struck b.front flips) b.front) s

/-- QUENCH_BLOCK. -/
def execQuenchBlock (site : Nat) (flips : List Flip) (s : State) : Outcome := act s fun s => s.quenchTile site flips

/-! ### Rows of the finisher (R82) -/

/-- The finisher row that an output belongs to. -/
def finisherRowOf (v : Env) (l : Nat) : Nat :=
  if v.d.opcode = opReduce then l
  else if v.d.opcode = opAttend then
    let (m, _, b) := outPos v l
    m + v.d.matM * linear (v.t2.psizes.drop 2) b
  else rowOf v l

/-- The finishers can complete rows of an operation: every block of its passes has been quenched, or it can run whole and no
front has entered. -/
def State.rowsReady (s : State) (o : Op) : Bool :=
  if o.entered then
    (o.phase == .selected || o.phase == .gathered || o.phase == .rerun) && o.partner == s.twin.running && s.stream o.dom &&
      o.tileBlocks.all fun b => o.blocks.contains b
  else s.runnable { o with rows := [] }

/-- A row of an operation noted. -/
def State.noteRow (s : State) (seq row : Nat) : State := s.setOp seq fun o => { o with rows := o.rows ++ [row], inArray := true }

/-- The last row ends the operation; the gauge counts of an operation that no front entered are taken now. -/
def State.endRows (s : State) (seq : Nat) : State :=
  match s.op? seq with
  | none => s
  | some o =>
    if o.entered then s.endRun o
    else
      let g := passGauge (s.runEnv o)
      let c : Counts := { gaugeRun := sat32 g.1, gaugeSkip := sat32 g.2 }
      ((s.addUnchecked g.2).setOp seq fun o => { o with cnt := o.cnt.plus c }).endRun { o with cnt := o.cnt.plus c }

/-- A quarter's finisher completes one row of an operation, and its outputs are written; it takes 16 array cycles. The last
row ends the operation. -/
def State.finisherRow (s : State) (q seq row : Nat) : State :=
  match s.op? seq with
  | none => s
  | some o =>
    let v := s.runEnv o
    let n := finisherRows v
    if s.finBusy q ∨ n ≤ row ∨ o.rows.contains row ∨ !s.rowsReady o then s
    else if !(s.opUe o).isEmpty then s.opMeetsUe seq (s.opUe o)
    else if !s.runRoom o then s.opLost o 0x21
    else
      let t := ((s.useFinisher q 1).countRows 1).noteRow seq row
      let t :=
        if o.fusedPost then t
        else
          let mine : RunOut := { outs := (runOf v).outs.filter fun e => finisherRowOf v e.idx == row }
          (((t.noteMirror o.partner v.t2).ctxBitsAll o.partner (mine.writes v)).ledger seq
            (mine.outs.flatMap fun e => e.evs)).setOp seq fun o => { o with cnt := o.cnt.plus (mine.counts v) }
      if o.rows.length + 1 < n then t else t.endRows seq

/-- FINISHER_ROW. -/
def execFinisherRow (q seq row : Nat) (s : State) : Outcome := act s fun s => s.finisherRow q seq row

end Sys2Proof.Machine
end

