-- ==== Sys2Proof/Machine/ArrayCtl.lean ====
section
/-! DEFINITION. ArrayCtl: pre-emption (R140, R303), the hold watchdog and the bellows-fetch timeout (R332, R336), mode
boundaries (R23, R102, R409, R410). -/

namespace Sys2Proof.Machine

/-! ### Pre-emption -/

/-- A K-chunk boundary still lies ahead of an operation: within the block of one of its tiles, or before a block that has
yet to enter one, where one placement ends and the next begins (R140, R303). -/
def State.boundaryAhead (s : State) (o : Op) : Bool :=
  let d := o.d
  let c := max 1 d.chunkSteps
  (s.tiles.any fun e => match e.2.cur with
    | some f => f.seq == o.seq && decide ((e.2.steps / c + 1) * c < d.tileSteps f.tile)
    | none => false) ||
  o.tileBlocks.any fun b => s.blockLeft o b.1 b.2

/-- A MATMUL or MATVEC that can be pre-empted (R303). -/
def Op.preemptible (o : Op) : Bool :=
  let d := o.d
  d.isMat && !d.collective && !d.specConsume && !d.trapNan && o.entered && o.inArray

/-- A room of a strict class above an operation's has been eligible for PREEMPT_WAIT_US, with an array operation at its
head. -/
def State.strictWaits (s : State) (o : Op) : Bool :=
  s.ost.strictSince.any fun e =>
    (s.locked || s.fget Fl.roomAttrQuarter e.1 == o.dom) && decide (s.roomClass o.room < s.roomClass e.1) &&
      s.strictClass (s.roomClass e.1) && isArrayOp (s.headOp o.dom e.1).d.opcode &&
      decide (s.fget Fl.ostCtlPreemptWaitUs 0 * cyclesPerUs ≤ s.now + 1 - e.2)

/-- The save area lies wholly below HBM_TOP (R303, Table 11.8). -/
def State.saveFits (s : State) : Bool := s.fget Fl.ostCtlSaveGb 0 * 2 ^ 30 + 0x4800000 ≤ s.hbmTop

/-- The Ostler's decision to pre-empt the operation in the array (R303): it stops at its next K-chunk boundary. -/
def State.preemptWhere (s : State) (dom : Nat) : State :=
  if !s.fon Fl.ostCtlPreemptEn 0 ∨ !s.saveFits ∨ (s.ops.any fun o => o.preempted || o.stopping) then s
  else
    match s.ops.find? fun o => o.dom == dom && o.preemptible && s.boundaryAhead o && s.strictWaits o with
    | none => s
    | some o => s.setOp o.seq fun o => { o with stopping := true }

/-- PREEMPT_DECISION. -/
def execPreemptDecision (dom : Nat) (s : State) : Outcome := act s fun s => s.preemptWhere dom

/-- The bytes of a save in blocks 32 and up of a site's panel store, word by word (R140, Table 5.3; log entry 43, DESIGN
CHOICE). -/
def State.stageSave (s : State) (site : Nat) (bs : List Byte) : State :=
  let s := { s with ost := { s.ost with proofed := s.ost.proofed.filter (· != site) } }
  (List.range (ceilDiv bs.length 8)).foldl (fun (t : State) n =>
    t.panelPoke (site * 2 ^ 19 + panelPlace (32 + n / 1024) (n / 32 % 32) (n % 32)) ((bs.drop (8 * n)).take 8)) s

/-- One tile's partial groups checked and saved, first to its panel store and then to the save area (R140). A block that has
not issued a step has nothing to save and enters again; a failed check is handled as any other, and a skipped one is not
counted in UNCHECKED (log entry 119, DESIGN CHOICE). -/
def State.saveTile (seq : Nat) (s : State) (site : Nat) : State :=
  let t := s.tile site
  match t.cur, s.op? seq with
  | some f, some o =>
    if f.seq ≠ seq then s
    else
      let t2 := { t.freed with panels := t.panels.filter fun p => p.seq != seq }
      if t.steps = 0 then s.setTile site t2
      else
        let b := t.block f
        let y := o.lay f
        let n := o.saveTile site f.tile
        if !b.spills ∧ !(s.checkBlock site y b).ok then (s.setTile site t2).blockFails site f o (s.checkBlock site y b)
        else
          (((s.setTile site t2).stageSave site (saveBytes y b)).memWrite (s.saveAddr n) (saveBytes y b)).setOp seq fun o =>
            { o with saved := o.saved ++ [{ plc := f.plc, key := f.key, steps := t.steps, slot := n }] }
  | _, _ => s

/-- Every tile of a stopping operation stands at a chunk boundary, and its drained blocks are quenched (R140). -/
def State.readyToSave (s : State) (o : Op) : Bool :=
  s.tiles.all fun e =>
    (match e.2.cur with
      | some f => f.seq != o.seq || e.2.steps % max 1 o.d.chunkSteps == 0
      | none => true) &&
    (e.2.drain.all fun b => b.front.seq != o.seq) && e.2.bufs.all fun b => b.front.seq != o.seq

/-- The save of a pre-empted operation: it is out of the array, stays incomplete and keeps its tongs (R303). -/
def State.preemptSave (s : State) (seq : Nat) : State :=
  match s.op? seq with
  | none => s
  | some o =>
    if !o.stopping ∨ !o.inArray ∨ !s.readyToSave o then s
    else
      let t := (s.tiles.map fun e => e.1).foldl (State.saveTile seq) s
      t.setOp seq fun o => { o with stopping := false, preempted := true, inArray := false }

/-- PREEMPT_SAVE. -/
def execPreemptSave (seq : Nat) (s : State) : Outcome := act s fun s => s.preemptSave seq

/-! ### Timeouts of the array (R332) -/

/-- The hold watchdog of a domain: an unbroken run of hold cycles has reached TO_LIMIT_0. -/
def State.holdWdog (s : State) (dom : Nat) : State :=
  let x := mget {} s.domains dom
  if x.run < s.fget Fl.toLimitLimit 0 ∨ x.last < s.now then s
  else
    let q := (s.domQuarters dom).headD dom
    let bits_ := (x.causes.eraseDups.map fun c => 2 ^ c).sum
    let t := s.logEvent { code := 0x04, cls := .recovered, quarter := q, loc := q, d4 := bits_, d5 := x.run }
    { t with domains := mput {} t.domains dom {} }.abortDomain dom 0x01

/-- HOLD_WATCHDOG_EXPIRE. -/
def execHoldWatchdogExpire (dom : Nat) (s : State) : Outcome := act s fun s => s.holdWdog dom

/-- A fill of a bellows has been outstanding for TO_LIMIT_1: its operation is aborted. -/
def State.fetchTimeout (s : State) (site addr : Nat) : State :=
  match (s.tile site).cur with
  | none => s
  | some f =>
    (s.logEvent { code := 0x05, cls := .recovered, quarter := siteQuarter site, seq := f.seq, loc := site, d4 := addr }).abortOp
      f.seq 0x02

/-- BELLOWS_FETCH_TIMEOUT. -/
def execBellowsFetchTimeout (site addr : Nat) (s : State) : Outcome := act s fun s => s.fetchTimeout site addr

/-! ### Mode boundaries (R23) -/

/-- No operation is in the array of any quarter (R20, R23). -/
def State.arrayEmpty (s : State) : Bool := !s.ops.any fun o => o.inArray

/-- The stream of an operation under the mode in force. -/
def State.rehome (s : State) (o : Op) : Op := { o with dom := if s.locked then 0 else s.fget Fl.roomAttrQuarter o.room }

/-- The boundary: every pending value takes effect together; TILE_MAP and ARR_DEPTH follow (R409, R410), with no value
pending as well (log entry 60, DEDUCED). -/
def State.modeBoundary (s : State) : State :=
  if s.arrayEmpty then
    let t := { s with ost := { s.ost with bLock := none, bTest := none, bArrayQ := none, repairNow := [] } }.remap true
    if s.boundary then { t with ops := t.ops.map t.rehome } else t
  else s

/-- MODE_BOUNDARY. -/
def execModeBoundary (s : State) : Outcome := act s fun s => s.modeBoundary

end Sys2Proof.Machine
end

