-- ==== Sys2Proof/Machine/Proving.lean ====
section
/-! DEFINITION. Proving: BIST of the tile sites, the six proving passes, and the end of a proving run (R115 to R118, R25). What
the silicon does wrong comes with the command; which words and sums it spoils is worked out here. -/

namespace Sys2Proof.Machine

/-! ### BIST (R115) -/

/-- One operation of the march test on a word: a write of a background, or a read that expects it. -/
inductive March where
  | w (ones : Bool)
  | r (ones : Bool)
  deriving DecidableEq, Repr

/-- The ten operations on a word: the rising and the falling march elements of March C- (log entry 129, PRESUMED). -/
def marchTest : List March :=
  [.w false, .r false, .w true, .r true, .w false, .r false, .w true, .r true, .w false, .r false]

/-- A background. -/
def background (ones : Bool) : BitVec 520 := if ones then BitVec.allOnes 520 else 0

/-- A word with bits stuck at one and at zero after a write. -/
def stuckWord (ones zeros v : BitVec 520) : BitVec 520 := (v ||| ones) &&& ~~~zeros

/-- The march test on a word: what it holds, and whether every read so far was as expected. -/
def marchStep (ones zeros : BitVec 520) (x : BitVec 520 × Bool) : March → BitVec 520 × Bool
  | .w b => (stuckWord ones zeros (background b), x.2)
  | .r b => (x.1, x.2 && x.1 == background b)

/-- A word passes: it reads back as written, whatever it held before. -/
def marchPasses (ones zeros : BitVec 520) : Bool := (marchTest.foldl (marchStep ones zeros) (0, true)).2

/-- What a site showed: whether it failed, the physical cells that failed, gauge cells at 33, and whether it failed as a
whole. -/
structure SiteFound where
  fails : Bool := false
  cells : List (Nat × Nat) := []
  whole : Bool := false
  deriving DecidableEq, Repr

/-- Two findings taken together. -/
def SiteFound.and (a b : SiteFound) : SiteFound :=
  { fails := a.fails || b.fails, cells := a.cells ++ b.cells, whole := a.whole || b.whole }

/-- A physical row, or column, of a site that runs a logical one; gauge cells at 33. -/
def State.rowUsed (s : State) (site r : Nat) : Bool := r == 33 || (List.range 32).any fun i => s.physRow site i == r
def State.colUsed (s : State) (site c : Nat) : Bool := c == 33 || (List.range 32).any fun j => s.physCol site j == c

/-- What the failure of a word of storage counts as: a cell of a row alone or of a column alone, or the site as a whole.
Storage of a row or column that runs nothing counts for nothing (log entry 131, DEDUCED). -/
def State.bistAt (s : State) (site : Nat) (l : BistLoc) : SiteFound :=
  match l with
  | .rowBellows r _ => if s.rowUsed site r then { fails := true, cells := [(r, 33)] } else {}
  | .colBellows c _ => if s.colUsed site c then { fails := true, cells := [(33, c)] } else {}
  | .drain r c => if s.rowUsed site r && s.colUsed site c then { fails := true, cells := [(r, 33)] } else {}
  | .panel _ _ _ => { fails := true, whole := true }
  | .table _ _ => { fails := true, whole := true }
  | .buffer _ _ => { fails := true, whole := true }

/-- BIST of a site: the march test of every word, of which only words with a defect can fail. -/
def State.bist (s : State) (site : Nat) (ds : List Defect) : SiteFound :=
  ds.foldl (fun a d => match d with
    | .stuck l ones zeros => if marchPasses ones zeros then a else a.and (s.bistAt site l)
    | .cell _ _ _ _ _ => a) {}

/-! ### The proving passes (R116) -/

/-- A pass of Table 4.9: widths and signedness of A and B, and the class. -/
structure ProvePass where
  wa : Nat
  sa : Bool
  wb : Nat
  sb : Bool
  cls : Nat
  deriving DecidableEq, Repr

/-- Table 4.9. -/
def provePasses : List ProvePass :=
  [⟨4, true, 4, true, 0⟩, ⟨6, false, 6, true, 0⟩, ⟨8, true, 8, false, 1⟩, ⟨12, true, 12, true, 1⟩, ⟨12, false, 12, false, 1⟩,
   ⟨8, true, 8, true, 1⟩]

/-- Pass `p`. -/
def provePass (p : Nat) : ProvePass := provePasses.getD p ⟨4, true, 4, true, 0⟩

/-- K indices of a pass: two in each of its 2,048 steps (R85). -/
def proveK : Nat := 4096

/-- An operand element: the low bits of word x0 of Philox under key 0, step 0 and the pass's stream. -/
def proveElem (p w : Nat) (signed : Bool) (elem : Nat) : Int :=
  let x := ((randWords 0 0 (0xFF00 + p) elem).getD 0 0).toNat % 2 ^ w
  if signed then signedOf w x else x

/-- Row i of A and column j of B, as lists over K; A and B are taken in row-major order, B with 32 columns. -/
def proveRow (p i : Nat) : List Int := (List.range proveK).map fun k => proveElem p (provePass p).wa (provePass p).sa (i * proveK + k)
def proveCol (p j : Nat) : List Int :=
  (List.range proveK).map fun k => proveElem p (provePass p).wb (provePass p).sb (2 ^ 32 + k * 32 + j)

/-- The layout of a pass. -/
def proveLay (p : Nat) : Layout := clsLayout (provePass p).cls

/-- The elements at the K indices that a logical row takes: in C8 all, in C16 those of its parity (Table 4.2). -/
def slotsOf (p r : Nat) (l : List Int) : List Int :=
  if (proveLay p).rowsPer = 1 then l else (l.zipIdx.filter fun x => x.2 % 2 == r % 2).map fun x => x.1

/-- The sums of products that the logical cells of a tile form in a pass, by row. -/
def cellSums (p : Nat) : List (List Int) :=
  let cols := (List.range 32).map (proveCol p)
  (List.range 32).map fun r =>
    let a := slotsOf p r (proveRow p (r / (proveLay p).rowsPer))
    cols.map fun b => (List.zipWith (fun x y => x * y) a (slotsOf p r b)).foldl (fun m x => m + x) 0

/-- What a cell adds in error, by physical row and column. -/
abbrev CellErr := Nat × Nat × Int

/-- The error of a place. -/
def errAt (es : List CellErr) (r c : Nat) : Int := ((es.filter fun e => e.1 == r && e.2.1 == c).map fun e => e.2.2).sum

/-- The errors of a site's cells in a pass, on rows and columns that run logical ones; in pass 4 a fault of the stamps spoils a
group of every site alike. -/
def State.cellErrs (s : State) (site : Nat) (ds : List Defect) (out : List OutsideDefect) (p : Nat) : List CellErr :=
  (ds.filterMap fun d => match d with
    | .cell r c q _ add => if q = p ∧ s.rowUsed site r ∧ s.colUsed site c then some (r, c, add) else none
    | .stuck _ _ _ => none) ++
  (out.filterMap fun d => match d with
    | .stamp add => if p = 4 then some (s.physRow site 0, s.physCol site 0, add) else none
    | .relay _ _ => none)

/-- The groups of a site after a pass: the sums of their cells, `times` over, with the errors of logical cells. -/
def proveGroups (p times : Nat) (err : Nat → Nat → Int) : List (Nat × Grp) :=
  let y := proveLay p
  let sums := cellSums p
  y.places.map fun (i, j) =>
    let v := ((y.cells i j).map fun (r, c) => (times : Int) * ((sums.getD r []).getD c 0) + err r c).sum
    (64 * i + j, { v := wrapS (y.w + 8) v, sHi := decide (v < -2 ^ (y.w - 1)) || decide ((2 : Int) ^ (y.w - 1) ≤ v) })

/-- The block of a site after a pass with errors in its cells: groups, and gauge values of the terms that the cells should have
added (R93). -/
def State.proveBlock (s : State) (site p : Nat) (es : List CellErr) : Block :=
  let sums := cellSums p
  let at_ (r c : Nat) : Int := (sums.getD r []).getD c 0
  let k32 := List.range 32
  { front := { seq := 0, plc := 0, tile := 0 },
    grps := (proveGroups p 1 fun r c => errAt es (s.physRow site r) (s.physCol site c)).foldl (fun m e => mput {} m e.1 e.2) [],
    gRow := k32.foldl (fun m r => mput 0 m (s.physRow site r)
      (res ((k32.map fun c => at_ r c).sum + errAt es (s.physRow site r) 33))) [],
    gCol := k32.foldl (fun m c => mput 0 m (s.physCol site c)
      (res ((k32.map fun r => at_ r c).sum + errAt es 33 (s.physCol site c)))) [],
    gCorner := res ((k32.map fun r => (k32.map fun c => at_ r c).sum).sum + errAt es 33 33) }

/-- The bytes of the groups, unrounded: q128 in C8, q256 in C16, in increasing (group row, group column) order. -/
def provedBytes (p : Nat) (gs : List (Nat × Grp)) : List Byte :=
  gs.flatMap fun g => leBytes ((proveLay p).w / 8) (modPow (proveLay p).w g.2.v)

/-- The physical cells that the failed checks of a block locate, or the site as a whole. -/
def State.foundBy (s : State) (site p : Nat) (c : Checked) : SiteFound :=
  match (proveLay p).faultAt c.located with
  | .cells l => { fails := true, cells := l.map fun x => (s.physRow site x.1, s.physCol site x.2) }
  | .gaugeCol rows => { fails := true, cells := rows.map fun r => (s.physRow site r, 33) }
  | .gaugeRow cols => { fails := true, cells := cols.map fun c => (33, s.physCol site c) }
  | .corner => { fails := true, cells := [(33, 33)] }
  | .whole => { fails := true, whole := true }

/-- The sites of the relay chain of a site's tile column, top first: the home sites of its 32 logical rows. -/
def chainOf (site : Nat) : List Nat := (List.range 32).map fun r => site / 33 * 33 + r

/-- The defects of a site. -/
def defectsAt (defs : List SiteDefects) (site : Nat) : List Defect := (defs.filter fun x => x.site == site).flatMap fun x => x.defects

/-- What the relay of a site's column adds in error to the last group of the chain. -/
def relayErr (out : List OutsideDefect) (site : Nat) : List CellErr :=
  out.filterMap fun d => match d with
    | .relay col add => if col = site % 1056 / 33 then some (0, 0, add) else none
    | .stamp _ => none

/-- The sums of a whole chain, as its last site holds them: every site adds the same, with its own errors (R131). -/
def State.chainGroups (s : State) (defs : List SiteDefects) (out : List OutsideDefect) (site : Nat) : List (Nat × Grp) :=
  proveGroups 5 32 fun r c => errAt (relayErr out site) r c +
    ((chainOf site).map fun x => errAt (s.cellErrs x (defectsAt defs x) out 5) (s.physRow x r) (s.physCol x c)).sum

/-- One pass of one site. Without an error the groups are those of the reference, and the site passes; else the gauges and the
flags decide, and the CRC-64 of the groups against that of the groups as they should be, which is the reference. In pass 5 the
spare site takes no part, and only the last site of a chain compares a CRC. A CRC alone locates no cell. -/
def State.passOf (s : State) (defs : List SiteDefects) (out : List OutsideDefect) (site p : Nat) : SiteFound :=
  let own := s.cellErrs site (defectsAt defs site) out p
  let last := site % 33 == 31
  let chain := p == 5 && last && (!(relayErr out site).isEmpty ||
    (chainOf site).any fun x => !(s.cellErrs x (defectsAt defs x) out 5).isEmpty)
  if (own.isEmpty ∧ !chain) ∨ (p = 5 ∧ site % 33 = 32) then {}
  else
    let b := s.proveBlock site p own
    let c := s.checkBlock site (proveLay p) b
    let right := fun n => crc64 (provedBytes p (proveGroups p n fun _ _ => 0))
    let crcBad := if p = 5 then chain && crc64 (provedBytes p (s.chainGroups defs out site)) != right 32
      else crc64 (provedBytes p b.grps) != right 1
    if b.spills then { fails := true }
    else if !c.ok then s.foundBy site p c
    else { fails := crcBad }

/-- BIST and the six passes of one site, taken together (R117, step 1). -/
def State.proveSite (s : State) (defs : List SiteDefects) (out : List OutsideDefect) (site : Nat) : SiteFound :=
  (List.range 6).foldl (fun a p => a.and (s.passOf defs out site p)) (s.bist site (defectsAt defs site))

/-! ### Failures (R117) -/

/-- The spare row or column that covers a set of physical cells (R117, step 1): a gauge-column cell is a cell of its row
alone, a gauge-row cell of its column alone, and the corner of neither; no cells are covered by nothing. -/
def proofSpare (cells : List (Nat × Nat)) : Option (Option Nat × Option Nat) :=
  let one (l : List Nat) : Option Nat := match l.eraseDups with
    | [x] => some x
    | _ => none
  let col := if cells.all fun c => c.2 < 32 then one (cells.map fun c => c.2) else none
  let row := if cells.all fun c => c.1 < 32 then one (cells.map fun c => c.1) else none
  match row, col with
  | some r, some c => if cells.eraseDups.length = 1 then some (some r, none) else some (none, some c)
  | none, some c => some (none, some c)
  | some r, none => some (some r, none)
  | none, none => none

/-- The repair of one failing site, which takes effect at once (R117). -/
def State.proofRepair (s : State) (site : Nat) (row col : Option Nat) : Option State :=
  let done (t : State) : State :=
    { t with ost := { t.ost with repaired := union t.ost.repaired [site] } }.logEvent
      { code := 0x07, cls := .degraded, quarter := siteQuarter site, loc := site,
        d4 := 2 ^ 16 + t.fget Fl.tileRepairSpareColFor site * 256 + t.fget Fl.tileRepairSpareRowFor site }
  match row, col with
  | some r, _ => if s.fget Fl.tileRepairSpareRowFor site = 63 then some (done (s.fset Fl.tileRepairSpareRowFor site r)) else none
  | none, some c => if s.fget Fl.tileRepairSpareColFor site = 63 then some (done (s.fset Fl.tileRepairSpareColFor site c)) else none
  | none, none => none

/-- Step 1 for one site: the state, and the sites that failed with whether a spare was given. A site that showed no cell gets
no spare and is not yet given up: its second run decides (log entry 131, DEDUCED). -/
def State.proofSite (defs : List SiteDefects) (out : List OutsideDefect) (acc : State × List (Nat × Bool)) (site : Nat) :
    State × List (Nat × Bool) :=
  let x := acc.1.proveSite defs out site
  if !x.fails then acc
  else if !x.whole ∧ x.cells.isEmpty then (acc.1, acc.2 ++ [(site, false)])
  else match (if x.whole then none else (proofSpare x.cells).bind fun p => acc.1.proofRepair site p.1 p.2) with
    | none => (acc.1.retireSite site 0x04, acc.2)
    | some t => (t, acc.2 ++ [(site, true)])

/-- Step 2: every failing site that was not given up runs once more, with every repair made; one that fails again is
RETIRED. -/
def State.proofAgain (defs : List SiteDefects) (out : List OutsideDefect) (s : State) (site : Nat) : State :=
  if (s.proveSite defs out site).fails then s.retireSite site 0x04 else s

/-- The sites of a quarter, spare sites included. -/
def quarterSites (q : Nat) : List Nat := (List.range 1056).map fun k => 1056 * q + k

/-- Step 3: the fault lies outside the sites: a column fails pass 5 although its chain passed passes 0 to 4, or pass 4 fails on
every site alike; judged on the first run, in which every site ran every pass (log entry 131, DEDUCED). -/
def State.faultOutside (s : State) (defs : List SiteDefects) (out : List OutsideDefect) (q : Nat) : Bool :=
  ((List.range 32).any fun col =>
    let ch := chainOf (1056 * q + 33 * col)
    (ch.any fun x => (s.passOf defs out x 5).fails) &&
      ch.all fun x => (List.range 5).all fun p => !(s.passOf defs out x p).fails) ||
  (quarterSites q).all fun x => (s.passOf defs out x 4).fails

/-- The panel stores of a quarter as a run leaves them: cleared by the march tests, with the groups of the last pass written in
blocks 32 and up, where `ost.proofed` stands for those of sites without a defect and of chains without one. -/
def State.leavePanels (s : State) (defs : List SiteDefects) (out : List OutsideDefect) (q : Nat) : State :=
  let spoilt (x : Nat) : Bool := !(defectsAt defs x).isEmpty || !out.isEmpty ||
    (x % 33 == 31 && (chainOf x).any fun y => !(defectsAt defs y).isEmpty)
  let clean := (quarterSites q).filter fun x => !spoilt x
  let t : State := { s with
    panel := s.panel.filter fun e => siteQuarter (e.1 / 2 ^ 19) ≠ q
    ost := { s.ost with proofed := (s.ost.proofed.filter fun x => siteQuarter x ≠ q) ++ clean } }
  ((quarterSites q).filter spoilt).foldl (fun (t : State) x =>
    t.stageSave x (provedBytes 5 (if x % 33 = 31 then s.chainGroups defs out x
      else (s.proveBlock x 4 (s.cellErrs x (defectsAt defs x) out 4)).grps))) t

/-- A run on quarter `q` and its results (R117, R118). -/
def State.proofEnd (s : State) (q : Nat) (out : List OutsideDefect) (defs : List SiteDefects) : State :=
  let before := s.retiredIn q
  let outside := s.faultOutside defs out q
  let r := (quarterSites q).foldl (State.proofSite defs out) (s, [])
  let t := (r.2.map fun x => x.1).foldl (State.proofAgain defs out) r.1
  let t := t.leavePanels defs out q
  let result := if outside then 3 else if 64 ≤ t.retiredIn q then 2 else 1
  let t := (t.fset Fl.arrProveResult 0 result).fset Fl.arrProveRepaired 0 (r.2.filter fun x => x.2).length
  let t := (t.fset Fl.arrProveRetired 0 (t.retiredIn q - before)).remap false
  if outside then
    t.logEvent { code := 0x03, cls := .degraded, quarter := q, loc := q, d4 := 0x04 }
  else t

/-- A proving run ends: one that ARR_PROVE started, or one of the boot (R118, R25). -/
def State.provingEnd (s : State) (q : Nat) (out : List OutsideDefect) (defs : List SiteDefects) : State :=
  if s.ost.proving = some q then
    let t := (s.proofEnd q out defs).fset Fl.arrProveBusy 0 0
    { t with ost := { t.ost with proving := none } }
  else if s.stage = sgInit ∧ !s.boot.proved.contains q then
    let t := s.proofEnd q out defs
    let bad := decide (t.fget Fl.arrProveResult 0 ≠ 1)
    { t with boot := { t.boot with
        proved := t.boot.proved ++ [q], failed := if bad then setBits t.boot.failed q q 1 else t.boot.failed } }
  else s

/-- PROVING_RUN_END. -/
def execProvingRunEnd (q : Nat) (out : List OutsideDefect) (defs : List SiteDefects) (s : State) : Outcome :=
  act s fun s => s.provingEnd q out defs

/-! ### The panel store after a run -/

/-- The image that a defect-free run leaves at a site: pass 5's groups at the last site of a chain, pass 4's elsewhere, whose
groups went down the chain (R116, R131). -/
def provedImage (site : Nat) : List Byte :=
  if site % 33 = 31 then provedBytes 5 (proveGroups 5 32 fun _ _ => 0) else provedBytes 4 (proveGroups 4 1 fun _ _ => 0)

/-- A site whose panel store still holds that image gets it byte by byte, before a write to it. -/
def State.unproof (s : State) (site : Nat) : State :=
  if s.ost.proofed.contains site then s.stageSave site (provedImage site) else s

/-- A byte of a panel store, by its key, with the image of a proving run. -/
def State.panelByteAt (s : State) (key : Nat) : Byte :=
  let site := key / 2 ^ 19
  mget 0 (if s.ost.proofed.contains site then (s.unproof site).panel else s.panel) key

end Sys2Proof.Machine
end

