-- ==== Sys2Proof/Machine/Txn.lean ====
section
/-! DEFINITION. Txn: transactions at their target and responses at their requester: READ, WRITE, WORK_ORDER, MGMT, the ONCE
cache and remote timeouts (R257 to R262, R266, R272, R294, R296). -/

namespace Sys2Proof.Machine

/-! ### Arrival (R258) -/

/-- A port has a transaction for the endpoint: the next one of its channel, or one that arrives on an ACTIVE port with none
of its channel before it (R262). -/
def State.arrives (s : State) (p : Nat) (t : Txn) : Bool :=
  decide (p < 12) && match (s.port p).rxHead t.vc with
    | some e => e.txn == t
    | none => s.portActive p

/-- The transaction leaves the port's buffer, and with it what the buffer gives up by itself. -/
def State.takeRx (s : State) (p : Nat) (t : Txn) : State :=
  if ((s.port p).rxHead t.vc).isSome then
    State.drainRx p t.vc (s.port p).rxq.length (s.setPort p ((s.port p).popRx t.vc))
  else s

/-- The access lists that a transaction is checked against: those that were loaded when it arrived (R296). -/
def State.aclFor (s : State) (p : Nat) (t : Txn) : List AclEntry :=
  (((s.port p).rxHead t.vc).map fun (e : RxTxn) => e.acl).getD s.acl

/-- A transaction of a type takes its effect: one that must be discarded is logged (R258, Table 14.19). A command whose
transaction is of another type, or is not the next of its channel, changes nothing (log entry 1, DESIGN CHOICE). -/
def State.onTxn (s : State) (p ttype : Nat) (t : Txn) (f : State → State) : State :=
  if !s.arrives p t then s
  else match s.screen p t with
    | some why => (s.takeRx p t).protocolEvent p (Txn.word0 t) why
    | none => if t.ttype = ttype then f (s.takeRx p t) else s

/-- The response to a request (R257, Table 10.7): it copies the TAG, and its SRC is the node that was addressed. A MIRROR_ACK
has the arguments of its MIRROR; the words of the other responses are reserved. -/
def replyTo (t : Txn) (ttype vc status : Nat) (data : List Byte) : Txn :=
  let r := { blankTxn ttype vc t.src with src := t.dst, len := data.length, tag := t.tag, status := status, data := data }
  if ttype = ttMirrorAck then { r with arg0 := t.arg0, arg1 := t.arg1 } else r

/-- A response sent. -/
def State.reply (s : State) (r : Txn) : State := s.issueOn r 0 none false

/-! ### ONCE (R260) -/

/-- The response that the cache holds for a source and tag. -/
def State.onceHit (s : State) (src tag : Nat) : Option Txn :=
  (s.once.find? fun e => e.1 == src && e.2.1 == tag).map fun e => e.2.2

/-- A request answered: one whose DST is not served here with NO_ROUTE (R258); a ONCE request from the cache, or with
ROOM_FULL where the cache is full; else as it is executed, and the response of a ONCE request is kept (R260). -/
def State.serve (s : State) (t : Txn) (ttype vc : Nat) (f : State → State × Nat × List Byte) : State :=
  if !s.answersFor t.dst then s.reply (replyTo t ttype vc rsNoRoute [])
  else if !t.once then
    let r := f s
    r.1.reply (replyTo t ttype vc r.2.1 r.2.2)
  else match s.onceHit t.src t.tag with
    | some r => s.reply r
    | none =>
      if 65536 ≤ s.once.length then s.reply (replyTo t ttype vc rsFull [])
      else
        let r := f s
        let x := replyTo t ttype vc r.2.1 r.2.2
        ({ r.1 with once := r.1.once ++ [(t.src, t.tag, x)] } : State).reply x

/-- ONCE_CACHE_EXPIRY: a response has been kept for 40 ms (R260). -/
def execOnceCacheExpiry (src tag : Nat) (s : State) : Outcome := act s fun s =>
  { s with once := s.once.filter fun e => !(e.1 == src && e.2.1 == tag) }

/-! ### READ and WRITE (R259, R266, R296) -/

/-- The register that a peer names under the partner's node ID: the partner's rooms and contexts stand in the upper half of
this module's (Table 14.15). -/
def partnerReg (x : Reg × Nat) : Option (Reg × Nat) :=
  match x.1 with
  | .roomBase | .roomSize | .roomHead | .roomTail | .roomAttr | .roomBell => if x.2 < 2048 then some (x.1, x.2 + 2048) else none
  | .grpCfg | .grpAux | .grpStat | .grpBell => if x.2 < 512 then some (x.1, x.2 + 512) else none
  | _ => none

/-- The offset that a register access of a transaction reaches; none where the partner's node ID has no such register
here. -/
def State.regOffset (s : State) (t : Txn) : Option Nat :=
  let o := t.addr - regBase
  if t.dst = s.node then some o
  else match regAt o with
    | none => some o
    | some x => (partnerReg x).map fun y => y.1.off y.2

/-- The extent that an access of a transaction reaches, in its own context. -/
def State.readable (s : State) (partner : Bool) (a n : Nat) : Bool :=
  if partner then a + n ≤ 0xC000000000 || inCommons a n else s.populated a n

/-- UE lines met by a peer, each counted and logged (R271, R272). -/
def State.peerUe (s : State) (src : Nat) (ls : List Nat) : State :=
  ls.foldl (fun (t : State) l => t.ueNote l src noSeq) s

/-- A READ at its target, under the access lists that it arrived under: state, status and data. -/
def State.peerRead (s : State) (acl : List AclEntry) (port : Nat) (t : Txn) : State × Nat × List Byte :=
  let partner := t.dst != s.node
  if regBase ≤ t.addr then
    if !rightIn acl 0 .regs t.src then (s, rsDenied, [])
    else if t.len ≠ 8 ∨ t.addr % 8 ≠ 0 then (s, rsSize, [])
    else match s.regOffset t with
      | none => (s, rsRange, [])
      | some o => match s.readReg o (16 + port) with
        | (_, none) => (s, rsHole, [])
        | (u, some w) => (u, rsOk, leBytes 8 w.toNat)
  else if !rightIn acl 0 .read t.src then (s, rsDenied, [])
  else if inPanel t.addr ∨ !s.readable partner t.addr t.len then (s, rsRange, [])
  else
    let ue := s.ctxUe partner (t.addr, t.addr + t.len)
    if ue.isEmpty then (s, rsOk, (List.range t.len).map fun i => s.ctxByte partner (t.addr + i))
    else (s.peerUe 1 ue, rsUe, [])

/-- Lines that a write in a context would cover in part and that hold an uncorrectable error (R272). -/
def State.ctxPartial (s : State) (partner : Bool) (a n : Nat) : List Nat :=
  (s.ctxExtents partner (a, a + n)).flatMap fun x => s.uePartial x.1 (x.2 - x.1)

/-- A WRITE at its target: state and status. -/
def State.peerWrite (s : State) (acl : List AclEntry) (port : Nat) (t : Txn) : State × Nat × List Byte :=
  let partner := t.dst != s.node
  let n := t.data.length
  if regBase ≤ t.addr then
    if !rightIn acl 0 .regs t.src then (s, rsDenied, [])
    else if t.len ≠ 8 ∨ t.addr % 8 ≠ 0 then (s, rsSize, [])
    else match s.regOffset t with
      | none => (s, rsRange, [])
      | some o =>
        let r := ({ s with acl := acl } : State).regWrite (.peer t.src port) o 8 (BitVec.ofNat 64 (leNat t.data))
        ({ r.1 with acl := s.acl }, r.2, [])
  else if !rightIn acl 0 .write t.src then (s, rsDenied, [])
  else if inPanel t.addr ∨ !s.readable partner t.addr n then (s, rsRange, [])
  else
    let ue := s.ctxPartial partner t.addr n
    if !ue.isEmpty then (s.peerUe 3 ue, rsUe, [])
    else if !s.ctxRoom partner t.addr n then (s, rsFull, [])
    else (s.ctxWrite partner t.addr t.data, rsOk, [])

/-- A request to a memory that is being wiped waits (R286). -/
def State.mustWait (s : State) (t : Txn) : Bool := decide (t.addr < regBase) && s.shut t.addr

/-- READ. -/
def execRead (port : Nat) (t : Txn) (s : State) : Outcome := act s fun s =>
  if s.mustWait t then s else s.onTxn port ttRead t fun u => u.serve t ttReadRsp 4 fun u => u.peerRead (s.aclFor port t) port t

/-- WRITE. -/
def execWrite (port : Nat) (t : Txn) (s : State) : Outcome := act s fun s =>
  if s.mustWait t then s else s.onTxn port ttWrite t fun u => u.serve t ttWriteAck 4 fun u => u.peerWrite (s.aclFor port t) port t

/-! ### WORK_ORDER (R294) -/

/-- The room that a work order names: of the partner's node ID, the partner's room (Table 14.15). -/
def State.orderRoom (s : State) (t : Txn) : Option Nat :=
  let n := t.arg0.toNat % 4096
  if t.dst = s.node then some n else if n < 2048 then some (2048 + n) else none

/-- A work order at its target, in the order of R294. A spare takes none (R353). -/
def State.peerOrder (s : State) (acl : List AclEntry) (t : Txn) : State × Nat × List Byte :=
  match s.orderRoom t with
  | none => (s, rsDenied, [])
  | some n =>
    if !t.once || !s.fon Fl.roomAttrEnable n || !s.fon Fl.roomAttrSrc n || s.fget Fl.glbNodeRole 0 == 1 ||
        !rightIn acl (s.fget Fl.roomAttrAcl n) .order t.src then (s, rsDenied, [])
    else
      let tail := s.fget Fl.roomTailTail n
      if s.ringSlots n ≤ (tail + 2 ^ 17 - s.fget Fl.roomHeadHead n) % 2 ^ 17 then (s, rsFull, [])
      else
        let p := s.isPartnerRoom n
        let u := s.ctxWrite p (s.ringBase n + 256 * (tail % s.ringSlots n)) t.data
        ((u.logEnqueue n t.src t.data).fset Fl.roomTailTail n ((tail + 1) % 2 ^ 17), rsOk, [])

/-- WORK_ORDER. -/
def execWorkOrder (port : Nat) (t : Txn) (s : State) : Outcome := act s fun s =>
  s.onTxn port ttWorkOrder t fun u => u.serve t ttWorkAck 5 fun u => u.peerOrder (s.aclFor port t) t

/-! ### Responses (R258, R260) -/

/-- A request of a type that a response answers. -/
def Req.answers (q : Req) (ttype : Nat) (t : Txn) : Bool := q.txn.ttype == ttype && q.txn.tag == t.tag && q.txn.dst == t.src

/-- A response completes its request; transactions that waited for it go on (R262). One that no request waits for is
discarded. -/
def State.complete (s : State) (ttype : Nat) (t : Txn) : State :=
  match s.reqs.find? fun q => q.answers ttype t with
  | none => s
  | some q => ((({ s with reqs := s.reqs.eraseP fun q => q.answers ttype t } : State).restTag q.txn)).retryWaiting

/-- READ_RSP. -/
def execReadRsp (port : Nat) (t : Txn) (s : State) : Outcome := act s fun s =>
  s.onTxn port ttReadRsp t fun s => s.complete ttRead t

/-- WRITE_ACK. -/
def execWriteAck (port : Nat) (t : Txn) (s : State) : Outcome := act s fun s =>
  s.onTxn port ttWriteAck t fun s => s.complete ttWrite t

/-- WORK_ACK. -/
def execWorkAck (port : Nat) (t : Txn) (s : State) : Outcome := act s fun s =>
  s.onTxn port ttWorkAck t fun s => s.complete ttWorkOrder t

/-! ### MGMT (R262) -/

/-- A MGMT transaction with a message number. -/
def State.onMgmt (s : State) (p msg : Nat) (t : Txn) (f : State → State) : State :=
  if t.arg0.toNat % 256 = msg ∨ (s.screen p t).isSome then s.onTxn p ttMgmt t f else s

/-- UNREACH (R262, R235). -/
def execUnreach (port : Nat) (t : Txn) (s : State) : Outcome := act s fun s =>
  s.onMgmt port 0x01 t fun s => s.nodeLost (wbits t.arg1 17 0)

/-- REACH: a node that was suspect answers again (R262, R236). -/
def execReach (port : Nat) (t : Txn) (s : State) : Outcome := act s fun s =>
  s.onMgmt port 0x02 t fun s => s.nodeBack (wbits t.arg1 17 0)

/-- RACK_UPDATE: a rack's port mask in the rack table, where the table lies in the commons (R261, R262). -/
def execRackUpdate (port : Nat) (t : Txn) (s : State) : Outcome := act s fun s =>
  s.onMgmt port 0x03 t fun s =>
    let a := s.fget Fl.routeCtlRackTbl 0 + 2 * wbits t.arg1 11 0
    if inCommons a 2 then (s.memWrite a (leBytes 2 (wbits t.arg1 27 16))).retryWaiting else s

end Sys2Proof.Machine
end

