-- ==== Sys2Proof/Machine/HartMem.lean ====
section
/-! DEFINITION. HartMem: what a hart reaches by the map of Table 12.1 (R4, R266, R272, R285 to R288), one instruction of a
hart, and the HBM requests of harts and peers (R270, R272, R279). -/

namespace Sys2Proof.Machine

/-! ### The physical map (Table 12.1) -/

/-- The range lies in the control SRAM of a hart's quarter. -/
def inCtrl (a n : Nat) : Bool := 0x10000000000 ≤ a && a + n ≤ 0x10000400000

/-- The byte of control SRAM at an address, by quarter. -/
def ctrlKey (q a : Nat) : Nat := 2 ^ 22 * q + (a - 0x10000000000)

/-- A range of the panel-store window within one slot, whose quarter's ARRAY_Q bit is clear (R285); a clear bit that waits
for a mode boundary is not yet clear (log entry 128, DEDUCED). -/
def State.panelOpen (s : State) (a n : Nat) : Bool :=
  let o := a - 0xFC00000000
  inPanel a && o / 2 ^ 19 == (o + n - 1) / 2 ^ 19 && bitsOf s.arrayQ (o / 2 ^ 29) (o / 2 ^ 29) == 0

/-- A range of the local address space below the registers that a control core reaches (R266). -/
def State.coreReach (s : State) (a n : Nat) : Bool := s.panelOpen a n || s.populated a n

/-- A read by a hart at a physical address: the state, and the bytes where it is no access fault (R4, R266, R272). -/
def State.hartRead (s : State) (h a n : Nat) : State × Option (List Byte) :=
  if inCtrl a n then (s, some ((List.range n).map fun i => mget 0 s.ctrl (ctrlKey (h / 4) (a + i))))
  else if regBase ≤ a then
    if 2 ^ 40 ≤ a ∨ n ≠ 8 ∨ a % 8 ≠ 0 then (s, none)
    else match s.readReg (a - regBase) h with
      | (_, none) => (s, none)
      | (t, some w) => (t, some (leBytes 8 w.toNat))
  else if !s.coreReach a n then (s, none)
  else if inPanel a then (s, some ((List.range n).map fun i => s.panelByteAt (s.panelKey (a + i))))
  else if (s.ueIn a n).isEmpty then (s, some (s.peek a n))
  else (s.peerUe 1 (s.ueIn a n), none)

/-- A write by a hart at a physical address: the state, and whether it was made. -/
def State.hartWrite (s : State) (h a : Nat) (bs : List Byte) : State × Bool :=
  let n := bs.length
  if inCtrl a n then
    ({ s with ctrl := bs.zipIdx.foldl (fun m b => mput 0 m (ctrlKey (h / 4) (a + b.2)) b.1) s.ctrl }, true)
  else if regBase ≤ a then
    if 2 ^ 40 ≤ a then (s, false)
    else
      let r := s.regWrite (.hart h) (a - regBase) n (BitVec.ofNat 64 (leNat bs))
      (r.1, r.2 == rsOk)
  else if !s.coreReach a n then (s, false)
  else if inPanel a then ((s.unproof (s.panelKey a / 2 ^ 19)).poke a bs, true)
  else if (s.uePartial a n).isEmpty then (s.memWrite a bs, true)
  else (s.peerUe 3 (s.uePartial a n), false)

/-! ### One instruction -/

/-- An entry of a hart's page table, read as the PMP lets supervisor mode read it. -/
def State.hartEntry (s : State) (h a : Nat) : Option Nat :=
  if !(s.hart h).pmpOk .supervisor .load a 8 then none
  else if inCtrl a 8 then some (leNat ((List.range 8).map fun i => mget 0 s.ctrl (ctrlKey (h / 4) (a + i))))
  else if s.populated a 8 ∧ (s.ueIn a 8).isEmpty ∧ !s.shut a then some (s.peekNat a 8)
  else none

/-- The physical address of an access of `n` bytes, or the cause of its fault. -/
def State.hartMap (s : State) (h : Nat) (acc : Access) (va n : Nat) : Except Nat Nat :=
  let x := s.hart h
  match x.translate acc va (s.hartEntry h) with
  | .error c => .error c
  | .ok a => if x.pmpOk (x.accessMode acc) acc a n then .ok a else .error acc.accessFault

/-- A halfword fetched: from the control SRAM of the hart's quarter, and on hart 0 from the boot ROM until boot lock, whose
place and contents the spec does not give (R287; log entry 130, DESIGN CHOICE). -/
def State.fetchHalf (s : State) (h va : Nat) : Except Nat Nat :=
  if h = 0 ∧ !s.bootLocked then .ok (s.free.toNat % 2 ^ 16)
  else match s.hartMap h .fetch va 2 with
    | .error c => .error c
    | .ok a =>
      if inCtrl a 2 then .ok (leNat ((List.range 2).map fun i => mget 0 s.ctrl (ctrlKey (h / 4) (a + i))))
      else .error exFetchAccess

/-- The length of the instruction at a hart's pc, all of it fetched; or the fault's cause and address. -/
def State.fetchLen (s : State) (h : Nat) : Except (Nat × Nat) Nat :=
  let pc := (s.hart h).pc.toNat
  match s.fetchHalf h pc with
  | .error c => .error (c, pc)
  | .ok w =>
    if w % 4 ≠ 3 then .ok 2
    else match s.fetchHalf h (pc + 2) with
      | .error c => .error (c, pc + 2)
      | .ok _ => .ok 4

/-- A value loaded, as the register takes it: sign-extended or not, and a single in a box of ones. -/
def loadValue (fp signed : Bool) (bs : List Byte) : Word64 :=
  let w := 8 * bs.length
  let v := leNat bs
  if (fp ∧ w = 32) ∨ (!fp ∧ signed ∧ 0 < w ∧ bitsOf v (w - 1) (w - 1) = 1) then BitVec.ofNat 64 (2 ^ 64 - 2 ^ w + v)
  else BitVec.ofNat 64 v

/-- The exception of an access that crosses a page. -/
def Access.misaligned (acc : Access) : Nat := if acc = .store then 6 else 4

/-- A load or a store at a virtual address: faults trap, an access to a memory that is being wiped waits (R286), and one that
crosses a page is misaligned. -/
def State.hartAccess (s : State) (h : Nat) (acc : Access) (va n : Nat) (f : Nat → State) : State :=
  if 4096 < va % 4096 + n then s.hartFault h acc.misaligned va
  else match s.hartMap h acc va n with
    | .error c => s.hartFault h c va
    | .ok a => if a < regBase ∧ s.shut a then s else f a

/-- The access of an AMO or a store-conditional, which must be naturally aligned. -/
def State.hartAtomic (s : State) (h va n : Nat) (f : Nat → State) : State :=
  if va % n ≠ 0 then s.hartFault h Access.store.misaligned va else s.hartAccess h .store va n f

/-- The instruction of `len` bytes at a hart's pc takes its effect. -/
def State.hartDo (s : State) (h len : Nat) (i : HartInstr) : State :=
  let x := s.hart h
  let next := x.pc + BitVec.ofNat 64 len
  let go (t : State) (y : Hart) : State := t.setHart h { y with pc := next }
  let illegal : State := s.setHart h (x.trap false exIllegal 0)
  match i with
  | .compute rd v => go s (x.setX rd v)
  | .computeF rd v => go s (x.setF rd v)
  | .jump rd target => s.setHart h { x.setX rd next with pc := target &&& ~~~1 }
  | .load rd fp signed n base off =>
    let va := (x.getX base + off).toNat
    s.hartAccess h .load va n fun a => match s.hartRead h a n with
      | (t, none) => t.hartFault h exLoadAccess va
      | (t, some bs) => go t (if fp then (t.hart h).setF rd (loadValue fp signed bs) else (t.hart h).setX rd (loadValue fp signed bs))
  | .store src fp n base off =>
    let va := (x.getX base + off).toNat
    let v := if fp then x.getF src else x.getX src
    s.hartAccess h .store va n fun a => match s.hartWrite h a (leBytes n v.toNat) with
      | (t, false) => t.hartFault h exStoreAccess va
      | (t, true) => go t (t.hart h)
  | .amo rd n base v =>
    let va := (x.getX base).toNat
    s.hartAtomic h va n fun a => match s.hartRead h a n with
      | (t, none) => t.hartFault h exStoreAccess va
      | (t, some bs) => match t.hartWrite h a (leBytes n v.toNat) with
        | (u, false) => u.hartFault h exStoreAccess va
        | (u, true) => go u ((u.hart h).setX rd (loadValue false true bs))
  | .storeCond rd src n base ok =>
    let va := (x.getX base).toNat
    s.hartAtomic h va n fun a =>
      if !ok then go s (x.setX rd 1)
      else match s.hartWrite h a (leBytes n (x.getX src).toNat) with
        | (t, false) => t.hartFault h exStoreAccess va
        | (t, true) => go t ((t.hart h).setX rd 0)
  | .csr n rd v =>
    if x.priv.code < bitsOf n 9 8 ∨ (v.isSome ∧ bitsOf n 11 10 = 3) then illegal
    else
      let old := s.csrRead h n
      let y := match v with
        | some w => x.csrWrite n w
        | none => x
      go s (y.setX rd old)
  | .setTimeCmp v => go s { x with mtimecmp := v }
  | .ecall => s.setHart h (x.trap false (exCall + x.priv.code) 0)
  | .ebreak => s.setHart h (x.trap false exBreak x.pc)
  | .mret => if x.priv = .machine then s.setHart h x.mret else illegal
  | .sret => if x.priv = .user then illegal else s.setHart h x.sret

/-- One step of a hart: a pending interrupt that is enabled is taken, else the instruction at its pc is fetched and takes its
effect. -/
def State.hartStep (s : State) (h : Nat) (i : HartInstr) : State :=
  match s.hartIrq h with
  | some k =>
    let x := (s.hart h).trap true k 0
    s.setHart h (if k = 11 then { x with irqPrincipal := false } else x)
  | none =>
    let t := if h = 0 ∧ !s.bootLocked then s.freeNext else s
    match s.fetchLen h with
    | .error (c, a) => t.hartFault h c a
    | .ok len => t.hartDo h len i

/-- A hart that executes: in service, out of reset, and with firmware, or hart 0 in the ROM. -/
def State.hartUp (s : State) (h : Nat) : Bool :=
  s.live && decide (h < 16) && !(s.hart h).held && !s.complexReset && s.complexUp (h / 4) && (s.bootLocked || h == 0)

/-- A register of a hart as a debug access reads it. -/
def State.hartReg (s : State) (h : Nat) (r : HartReg) : Word64 :=
  let x := s.hart h
  match r with
  | .pc => x.pc
  | .mode => BitVec.ofNat 64 x.priv.code
  | .x n => x.getX n
  | .f n => x.getF n
  | .csr n => s.csrRead h n
  | .mtime => s.hartTime h
  | .mtimecmp => x.mtimecmp

/-! ### HBM requests and who made them (R272, R279) -/

/-- Who waits for an HBM request (log entry 127, DESIGN CHOICE): with source 1 a hart, by its number, or a peer, by 16 + port;
with source 0 an operation, by its SEQ; with source 3 an operation, or a peer as with source 1. -/
inductive Asker where
  | hart (h : Nat)
  | port (p : Nat)
  | op (seq : Nat)
  | nobody
  deriving DecidableEq, Repr

/-- The asker of a request. -/
def State.asker (s : State) (src seq : Nat) : Asker :=
  if src = 0 ∨ (src = 3 ∧ (s.op? seq).isSome) then .op seq
  else if src = 1 ∧ seq < 16 then .hart seq
  else if (src = 1 ∨ src = 3) ∧ 16 ≤ seq ∧ seq < 28 then .port (seq - 16)
  else .nobody

/-- The transaction of a port that waits for a byte of HBM: the oldest READ or WRITE of its channel that covers it. -/
def State.waitingAt (s : State) (p addr : Nat) : Option Txn :=
  ((s.port p).rxq.find? fun e =>
    let t := e.txn
    (t.ttype == ttRead || t.ttype == ttWrite) && (s.port p).rxHead t.vc == some e &&
      decide (t.addr ≤ addr) && decide (addr < t.addr + (if t.ttype = ttRead then t.len else t.data.length))).map fun e => e.txn

/-- What a UE does to the one who asked (R272): an operation is aborted, a core receives an access fault, and a peer's request
is answered with MEM_UE. -/
def State.ueAnswer (s : State) (addr src seq : Nat) : State :=
  match s.asker src seq with
  | .op q => s.abortOp q 0x03
  | .hart h => s.hartFault h exLoadAccess addr
  | .port p =>
    match s.waitingAt p addr with
    | some t => (s.takeRx p t).serve t (if t.ttype = ttRead then ttReadRsp else ttWriteAck) 4 fun u => (u, rsUe, [])
    | none => s
  | .nobody => s

/-- HBM_LINE_READ of an address below HBM_TOP, once HBM is wiped (R286). A completed request ends the count of its timeouts
(R279). -/
def execHbmLineRead (addr src seq : Nat) (err : List SymErr) (s : State) : Outcome :=
  act s fun s =>
    if addr < s.hbmTop ∧ !s.shut addr then
      let pc := (s.granuleOf addr).1
      (s.completed pc addr).lineRead (addr / 64) src seq err fun t => t.ueAnswer addr src seq
    else s

/-- HBM_TRANSACTION_TIMEOUT (R279): the request is issued once more; its second timeout is a channel fault, and the
request is answered as a UE: counted, logged, and given to the one who asked. -/
def execHbmTransactionTimeout (pc addr src seq : Nat) (s : State) : Outcome :=
  act s fun s =>
    if s.retiredPcs.contains pc then s
    else if (pc, addr) ∈ s.hbm.pcLate then
      (((s.completed pc addr).ueNote (addr / 64) src seq).retirePc pc 0x01).ueAnswer addr src seq
    else { s with hbm := { s.hbm with pcLate := s.hbm.pcLate ++ [(pc, addr)] } }

end Sys2Proof.Machine
end

