-- ==== Sys2Proof/Machine/HoldUnits.lean ====
section
/-! DEFINITION. HoldUnits: what each unit that can be short knows at a bell, and its decision to ask for a hold (R107,
R110, R268, R387, Table 4.8). -/

namespace Sys2Proof.Machine

/-- The operation of a tile's front. -/
def State.frontOp (s : State) (t : Tile) : Option Op := t.cur.bind fun f => s.op? f.seq

/-- The bells among the next four in which a tile's front issues steps: none while its front waits for tongs, which holds the
tile alone (R112). -/
def State.goes (s : State) (t : Tile) : Nat :=
  match t.cur with
  | none => 0
  | some f => if f.wait then 0 else s.stepsToGo t

/-- The address that a bellows awaits from HBM: its next fill's first word that has not arrived (R267). -/
def State.awaited (s : State) (site : Nat) (row : Bool) (idx : Nat) : Option Nat :=
  let t := s.tile site
  match t.cur, s.frontOp t, logicalOf (if row then s.spareRow site else s.spareCol site) idx with
  | some f, some o, some r =>
    let d := o.d
    let v := s.runEnv o
    let x := d.fillOf (d.partKs (d.partOf f.tile)) row r (mget {} (if row then t.rowB else t.colB) idx).pos f.sub
    let late := (x.picks.filterMap fun p => p).filter fun p =>
      !t.hasWord f (!row) p.chunk (wordNo (d.panelPos (!row) p.line p.x))
    late.head?.bind fun p => (d.lineIdx f (!row) p.line p.k).bind fun i => match (d.side (!row)).place v.rd i with
      | .at b _ => some (b / 8)
      | _ => none
  | _, _, _ => none

/-- The awaited fill is queued at a hot pseudo-channel: the queue, of 64 entries, holds at least HOT_LIM (R268; log entry
88, DESIGN CHOICE, for what fills the queue). -/
def State.awaitsHot (s : State) (site : Nat) (row : Bool) (idx queued : Nat) : Bool :=
  match s.awaited site row idx with
  | none => false
  | some a => decide (a < 0xC000000000) && decide (s.fget Fl.memCtlHotLim (pcStack (s.granuleOf a).1) ≤ min queued 64)

/-- A bellows in use is short for the bell four ahead, `due` being the entries of fills already issued that land by then
(R107). A bellows whose front issues its last step before that bell has nothing to release. -/
def State.bellowsShort (s : State) (dom site : Nat) (row : Bool) (idx due : Nat) : Bool :=
  let t := s.tile site
  match t.cur, s.frontOp t with
  | some f, some o =>
    let per := o.d.entriesPerStep row
    let have_ := ((mget {} (if row then t.rowB else t.colB) idx).q.length + due) / per
    let need := s.needed dom
    o.d.isMat && (s.usedBellows site o.d f row).contains idx && decide (need < s.goes t) && decide (have_ < need + 1)
  | _, _ => false

/-- The tile's drain registers are full although its front moves its groups at or before the bell four ahead (R86). -/
def State.drainShort (s : State) (dom site : Nat) : Bool :=
  let t := s.tile site
  t.drain.isSome && decide (0 < s.goes t) && decide (s.goes t ≤ s.needed dom + 1)

/-- A product table that the bell four ahead needs is not built (R181). -/
def State.tableShort (s : State) (dom site : Nat) : Bool :=
  let t := s.tile site
  match s.frontOp t with
  | none => false
  | some o => o.d.prodTables && decide (s.needed dom < s.goes t) && decide (t.ptabStep < t.steps + s.needed dom + 1)

/-- A buffered block waits for relay inputs (R131, R139). -/
def State.relayShort (s : State) (site : Nat) : Bool :=
  (s.tile site).bufs.any fun b => match s.op? b.front.seq with
    | none => false
    | some o => o.d.isMat && decide (0 < o.d.partOf b.front.tile) && decide (b.relayGot.length < o.d.relayN)

/-- Blocks of a quarter in their tiles' buffers. -/
def State.buffered (s : State) (q : Nat) : List Block :=
  (s.tiles.filter fun e => siteQuarter e.1 == q).flatMap fun e => e.2.bufs

/-- Commons space for an operation of a quarter is exhausted: a chunk of its collective waits for staging space (R225), or a
block for a spill (R139). -/
def State.commonsShort (s : State) (q : Nat) : Bool :=
  (s.insts.any fun i => s.stagingShort i && (s.op? i.op).any fun o => o.dom == s.domOf q) ||
    (s.buffered q).any fun b => match s.op? b.front.seq with
      | none => false
      | some o => o.d.isMat && b.checked && decide (o.d.partOf b.front.tile + 1 < o.d.parts) && !s.canSend o b.front

/-- A collective is under way for an operation of a domain. -/
def State.collectiveOn (s : State) (dom : Nat) : Bool :=
  s.insts.any fun i => i.started && (s.op? i.op).any fun o => o.dom == dom && o.inArray

/-- A row waits for a finisher that is not free at the bell four ahead (R82). -/
def State.finisherShort (s : State) (dom q : Nat) : Bool :=
  decide (s.now + 4 < mget 0 s.ost.finFree q) && s.ops.any fun o => o.dom == dom && o.d.byRows && s.rowsReady o

/-- The quarter of a unit; throttle and load shed concern every domain. -/
def unitQuarter : HoldUnit → Option Nat
  | .bellows site _ _ _ _ => some (siteQuarter site)
  | .quench site _ => some (siteQuarter site)
  | .finisher q => some q
  | .saddlebag q _ => some q
  | .commons q => some q
  | .tableBuild site => some (siteQuarter site)
  | .collective q _ => some q
  | .relay site => some (siteQuarter site)
  | .throttle => none
  | .loadShed => none

/-- The cause that a unit asks for a hold with, if it cannot serve the bell four ahead (Table 4.8). -/
def State.unitShort (s : State) (dom : Nat) (u : HoldUnit) : Option Nat :=
  let when_ (c : Bool) (n : Nat) : Option Nat := if c then some n else none
  match u with
  | .bellows site row idx queued due =>
    when_ (s.bellowsShort dom site row idx due) (if s.awaitsHot site row idx queued then 2 else 1)
  | .quench site full => when_ ((full && !(s.tile site).bufs.isEmpty) || s.drainShort dom site) 3
  | .finisher q => when_ (s.finisherShort dom q) 4
  | .saddlebag q late => when_ (late && (s.buffered q).any s.wantsLane) 5
  | .commons q => when_ (s.commonsShort q) 6
  | .tableBuild site => when_ (s.tableShort dom site) 7
  | .collective _ busy => when_ (busy && s.collectiveOn dom) 8
  | .relay site => when_ (s.relayShort site) 9
  | .throttle => when_ (levelHolds (s.fget Fl.arrThrottleEffN 0) (s.now + 4)) 10
  | .loadShed => when_ (levelHolds (s.fget Fl.arrThrottleShedNNow 0) (s.now + 4)) 11

/-- One unit's decision for one domain. -/
def State.decide1 (u : HoldUnit) (s : State) (dom : Nat) : State :=
  match s.unitShort dom u with
  | some c => s.requestHold dom c
  | none => s

/-- The lockstep domains, by the lowest number of each (R22, R110). -/
def State.doms (s : State) : List Nat := (List.range 4).filter fun d => !(s.domQuarters d).isEmpty

/-- HOLD_DECISION. -/
def execHoldDecision (u : HoldUnit) (s : State) : Outcome :=
  act s fun s =>
    let t := s.pruneHolds
    match unitQuarter u with
    | some q => if s.quarterRuns q then t.decide1 u (t.domOf q) else t
    | none => t.doms.foldl (State.decide1 u) t

end Sys2Proof.Machine
end

