-- ==== Sys2Proof/Machine/Watchdog.lean ====
section
/-! DEFINITION. Watchdog: the watchdogs of the harts and of the module, and the reset of the control complex (R290, R333,
R334). -/

namespace Sys2Proof.Machine

/-- Array cycles in a second and in an hour. -/
def cyclesPerS : Nat := 800000000
def cyclesPerHour : Nat := 3600 * cyclesPerS

/-- A hart's watchdog is due: firmware runs on it, and its last kick lies TO_LIMIT_8 back (Table 14.8). -/
def State.hartDue (s : State) (h : Nat) : Bool :=
  s.bootLocked && decide (h < 16) && !(s.hart h).held && !s.complexReset &&
    decide ((s.hart h).kick + cyclesPerUs * s.fget Fl.toLimitLimit 8 ≤ s.now)

/-- A hart's watchdog has expired before, within the last second. -/
def State.twice (s : State) (h : Nat) : Bool :=
  match (s.hart h).expired with
  | some b => decide (s.now ≤ b + cyclesPerS)
  | none => false

/-- HART_WDOG_EXPIRE (R333): the hart restarts; a second expiry of the principal hart within 1 s passes the role (R290). -/
def execHartWdogExpire (h : Nat) (s : State) : Outcome := act s fun s =>
  if !s.hartDue h then s
  else
    let second := s.twice h
    let t := s.logEvent { code := 0x16, cls := .recovered, quarter := h / 4, loc := h, d4 := second.toNat }
    let t := t.restartHart h
    let t := t.setHart h { t.hart h with expired := some s.now }
    if second && h == s.principalHart then t.handover 0x01 else t

/-- The control complex resets itself: every hart in service, and all control SRAM (R334, Table 16.7). -/
def State.complexDown (s : State) : State :=
  let t := (List.range 16).foldl (fun (t : State) h =>
    if (t.hart h).held then t
    else t.setHart h { t.hart h with halted := false, restarts := (t.hart h).restarts + 1, expired := none }) s
  { t with ctrl := [], complexReset := true, moduleKick := t.now }

/-- MODULE_WDOG_EXPIRE (R334): a third expiry within an hour of the first is a module failure. -/
def execModuleWdogExpire (s : State) : Outcome := act s fun s =>
  if !s.bootLocked || s.complexReset || decide (s.now < s.moduleKick + cyclesPerUs * s.fget Fl.toLimitLimit 9) then s
  else
    let ex := (s.moduleExpired.filter fun b => s.now ≤ b + cyclesPerHour) ++ [s.now]
    if 3 ≤ ex.length then s.moduleFail
    else
      let t := { s with moduleExpired := ex }.logEvent
        { code := 0x18, cls := .recovered, quarter := s.fget Fl.glbQmaskPrincipal 0, loc := s.fget Fl.glbQmaskPrincipal 0,
          d4 := ex.length }
      t.complexDown

/-- The firmware slot that boots, verified again (R334): its image as it lies in the flash now. -/
def State.slotAgain (s : State) : List Byte := s.slotImage (s.fget Fl.secBootStatSlot 0)

/-- CONTROL_COMPLEX_RESTART (R334): the slot is verified again, its sections for control SRAM are placed, and firmware
starts at its entry point; a complex that cannot be restarted passes the role on (R290). -/
def execControlComplexRestart (ok : Bool) (s : State) : Outcome := act s fun s =>
  if !s.complexReset then s
  else
    let img := s.slotAgain
    if s.imageOk img ok then
      let t := ((imageSections img).filter fun x => x.dest == 0).foldl (State.placeSection img) s
      { t with complexReset := false, boot := { t.boot with entry := imgNat img 48 8, restart := imgNat img 56 8 } }.hartsStart
        (imgNat img 48 8)
    else s.handover 0x02

end Sys2Proof.Machine
end

