-- ==== Sys2Proof/Machine/Mgmt.lean ====
section
/-! DEFINITION. Mgmt: the I3C target: MCTP control messages, PLDM, the vendor commands, the flash and attestation (R359,
R360, R373 to R378). -/

namespace Sys2Proof.Machine

/-- A message for the management controller. -/
def State.tell (s : State) (m : List Byte) : State := { s with mgmt := { s.mgmt with out := s.mgmt.out ++ [m] } }

/-- ENTDAA: the target takes a dynamic address when it has none (R376). -/
def execEntdaa (da : BitVec 8) (s : State) : Outcome :=
  done s (if s.powered && s.fget Fl.mgtI3cDa 0 == 0 then s.fset Fl.mgtI3cDa 0 da.toNat else s)

/-! ### MCTP control (R376; formats of DSP0236, log entry 46, PRESUMED) -/

/-- An MCTP control response: message type 0, response bits, command, completion code and data. -/
def State.mctp (s : State) (cmd cc : Byte) (data : List Byte) : State := s.tell ([0x00, 0x00, cmd, cc] ++ data)

/-- SET_ENDPOINT_ID: 0x00 and 0xFF name no endpoint. -/
def execSetEndpointId (eid : BitVec 8) (s : State) : Outcome :=
  done s (
    if !s.powered then s
    else if eid = 0 ∨ eid = 0xFF then s.mctp 0x01 0x02 []
    else ({ s with mgmt := { s.mgmt with eid := eid } } : State).mctp 0x01 0x00 [0x00, eid, 0x00])

/-- GET_ENDPOINT_ID. -/
def execGetEndpointId (s : State) : Outcome :=
  done s (if s.powered then s.mctp 0x02 0x00 [s.mgmt.eid, 0x00, 0x00] else s)

/-- The message types that the module carries: control, PLDM, vendor-defined by IANA number, and the base protocol. -/
def mctpTypes : List Byte := [0x00, 0x01, 0x7F, 0xFF]

/-- GET_MCTP_VERSION_SUPPORT. -/
def execGetMctpVersionSupport (msgType : BitVec 8) (s : State) : Outcome :=
  done s (
    if !s.powered then s
    else if mctpTypes.contains msgType then
      s.mctp 0x04 0x00 (0x01 :: leBytes 4 (Config.mctpVersion msgType.toNat).toNat)
    else s.mctp 0x04 0x80 [])

/-- GET_MESSAGE_TYPE_SUPPORT: PLDM and vendor-defined messages. -/
def execGetMessageTypeSupport (s : State) : Outcome :=
  done s (if s.powered then s.mctp 0x05 0x00 [0x02, 0x01, 0x7F] else s)

/-- GET_VENDOR_DEFINED_MSG_SUPPORT: one set, by the enterprise number of MGT_CTL.IANA. -/
def execGetVendorDefinedMsgSupport (s : State) : Outcome :=
  done s (
    if s.powered then
      s.mctp 0x06 0x00 ([0xFF, 0x01] ++ beBytes 4 (s.fget Fl.mgtCtlIana 0) ++ beBytes 2 Config.vendorSet.toNat)
    else s)

/-! ### PLDM (R376, Table 15.15; formats of DSP0240 and DSP0248, log entry 46, PRESUMED) -/

/-- A PLDM response: message type 1, response bits, PLDM type, command, completion code and data. -/
def State.pldm (s : State) (ty cmd cc : Byte) (data : List Byte) : State := s.tell ([0x01, 0x00, ty, cmd, cc] ++ data)

/-- PLDM_BASE_COMMAND: GetPLDMTypes names types 0 and 2; another command than SetTID to GetPLDMCommands is not supported. -/
def execPldmBaseCommand (cmd : BitVec 8) (s : State) : Outcome :=
  done s (
    if !s.powered then s
    else if cmd = 0x04 then s.pldm 0x00 cmd 0x00 ([0x05] ++ List.replicate 7 0)
    else if 1 ≤ cmd.toNat ∧ cmd.toNat ≤ 5 then s.pldm 0x00 cmd 0x00 (Config.pldmBase cmd.toNat)
    else s.pldm 0x00 cmd 0x05 [])

/-- The sensors of Table 15.15, in order. -/
def sensorIds : List Nat :=
  [0x0001, 0x0002, 0x0003, 0x0010, 0x0011, 0x0012, 0x0013, 0x0020, 0x0021, 0x0022, 0x0023, 0x0024, 0x0025, 0x0026,
   0x0027, 0x0040, 0x0100, 0x0101, 0x0102]

/-- GET_PDR: one record for each sensor; handle 0 asks for the first. -/
def execGetPdr (handle : Nat) (s : State) : Outcome :=
  done s (
    if !s.powered then s
    else if handle ≤ sensorIds.length then
      let h := max 1 handle
      let r := Config.pdr h
      s.pldm 0x02 0x51 0x00 (leBytes 4 (if h < sensorIds.length then h + 1 else 0) ++ leBytes 4 0 ++ [0x05] ++
        leBytes 2 r.length ++ r)
    else s.pldm 0x02 0x51 0x82 [])

/-- A temperature reading in whole °C. -/
def State.celsius (s : State) (n : Nat) : Int := signedOf 16 (s.fget Fl.thermTemp n) / 16

/-- A numeric sensor: volts, amperes, watts, °C; throttle holds over the last second are a free value of 0 to 100
(log entry 46, PRESUMED). -/
def State.sensor (s : State) (id : Nat) : Option Int :=
  if id = 0x0001 then some (s.fget Fl.pwrInVMv 0 / 1000)
  else if id = 0x0002 then some (s.fget Fl.pwrInIMa 0 / 1000)
  else if id = 0x0003 then some (s.fget Fl.pwrInIMw 0 / 1000)
  else if 0x0010 ≤ id ∧ id < 0x0014 then some (s.celsius (id - 0x0010))
  else if 0x0020 ≤ id ∧ id < 0x0028 then some (s.celsius (id - 0x0020 + 4))
  else if id = 0x0040 then some ((s.free.toNat % 101 : Nat) : Int)
  else none

/-- Present state of a sensor: junctions warn at 95 °C and are fatal at 110 °C (Table 15.15). -/
def sensorState (id : Nat) (x : Int) : Byte :=
  if 0x0010 ≤ id ∧ id < 0x0014 then (if 110 ≤ x then 0x0A else if 95 ≤ x then 0x08 else 0x01) else 0x01

/-- GET_SENSOR_READING: a signed 32-bit reading. -/
def execGetSensorReading (id : Nat) (s : State) : Outcome :=
  done s (
    if !s.powered then s
    else match s.sensor id with
      | some x =>
        let st := sensorState id x
        (if id = 0x0040 then s.freeNext else s).pldm 0x02 0x11 0x00
          ([0x05, 0x00, 0x00, st, st, st] ++ leBytes 4 (modPow 32 x))
      | none => s.pldm 0x02 0x11 0x80 [])

/-- A state sensor: lifecycle, boot stage, twin state. -/
def State.stateSensor (s : State) (id : Nat) : Option Nat :=
  if id = 0x0100 then some (s.fget Fl.glbLifeState 0)
  else if id = 0x0101 then some s.stage
  else if id = 0x0102 then some s.twinSelf
  else none

/-- GET_STATE_SENSOR_READINGS. -/
def execGetStateSensorReadings (id : Nat) (s : State) : Outcome :=
  done s (
    if !s.powered then s
    else match s.stateSensor id with
      | some x => s.pldm 0x02 0x21 0x00 [0x01, 0x00, BitVec.ofNat 8 x, BitVec.ofNat 8 x, BitVec.ofNat 8 x]
      | none => s.pldm 0x02 0x21 0x80 [])

/-! ### Vendor commands (R377, Table 15.16) -/

/-- Response STATUS. -/
def vsOk : Byte := 0x00
def vsBusy : Byte := 0x02
def vsDenied : Byte := 0x03
def vsArg : Byte := 0x04
def vsFlash : Byte := 0x05

/-- A vendor response (R377). -/
def State.vendor (s : State) (cmd : Byte) (sq : BitVec 16) (status : Byte) (data : List Byte) : State :=
  s.tell ([0x7F] ++ leBytes 4 (s.fget Fl.mgtCtlIana 0) ++ [cmd, 0x01] ++ leBytes 2 sq.toNat ++ [status] ++ data)

/-- Firmware answers: it runs, on the principal hart. -/
def State.fwServes (s : State) : Bool :=
  s.live && (s.stage == sgFirmware || s.stage == sgStandalone) && !s.complexReset && !(s.hart s.principalHart).halted &&
    !(s.hart s.principalHart).held

/-- The ROM answers in RECOVERY. -/
def State.romServes (s : State) : Bool := s.live && s.stage == sgRecovery

/-- A command with a handler, or BUSY where none serves it (R377). -/
def State.handled (s : State) (serves : Bool) (cmd : Byte) (sq : BitVec 16) (f : State) : State :=
  if !s.powered then s else if serves then f else s.vendor cmd sq vsBusy []

/-- GET_STATUS. -/
def execGetStatus (sq : BitVec 16) (s : State) : Outcome :=
  done s (s.handled true 0x01 sq (s.vendor 0x01 sq vsOk
    (wordsBytes ([s.rd .secBootStat 0, s.rd .glbLife 0, s.rd .errEvt 0, s.rd .twnState 0].map BitVec.toNat))))

/-- READ_REG: a refused access carries the code of Table 10.8 (R4; log entry 46, PRESUMED). -/
def execReadReg (sq : BitVec 16) (off : Nat) (s : State) : Outcome :=
  done s (s.handled true 0x02 sq (
    if off % 8 ≠ 0 then s.vendor 0x02 sq vsArg [BitVec.ofNat 8 rsSize]
    else match s.readReg off 28 with
      | (_, none) => s.vendor 0x02 sq vsArg [BitVec.ofNat 8 rsHole]
      | (t, some w) => t.vendor 0x02 sq vsOk (leBytes 8 w.toNat)))

/-- CLEAR_ALERT. -/
def execClearAlert (sq : BitVec 16) (s : State) : Outcome :=
  done s (s.handled true 0x03 sq ((s.hwset Fl.mgtCtlAlert 0 0).vendor 0x03 sq vsOk []))

/-- RESET: a module reset, as RESET_N makes it (R397). -/
def execReset (sq : BitVec 16) (s : State) : Outcome := done s (s.handled true 0x04 sq s.moduleReset)

/-! ### Flash (R359, Table 15.3) -/

/-- Bytes of the flash. -/
def flashSize : Nat := 0x8000000

/-- A byte that FLASH_WRITE and FLASH_ERASE may change: not the current configuration slot, nor the slot that booted. -/
def State.flashOpen (s : State) (a : Nat) : Bool :=
  let booted := fun (k : Nat) => s.boot.verified && s.fget Fl.secBootStatSlot 0 == k
  if a < 0x30000 then false
  else if a < 0x40000 then true
  else if a < 0x80000 then s.header.cfg != 0
  else if a < 0xC0000 then s.header.cfg != 1
  else if a < 0x1000000 then true
  else if a < 0x3000000 then !booted 0
  else if a < 0x5000000 then !booted 1
  else false

/-- FLASH_READ: up to 1,024 bytes. -/
def execFlashRead (sq : BitVec 16) (off len : Nat) (s : State) : Outcome :=
  done s (s.handled (s.fwServes || s.romServes) 0x10 sq (
    if 1024 < len ∨ flashSize < off + len then s.vendor 0x10 sq vsArg []
    else s.vendor 0x10 sq vsOk (s.flashPeek off len)))

/-- FLASH_ERASE: the 64 KiB sector that holds the offset. -/
def execFlashErase (sq : BitVec 16) (off : Nat) (s : State) : Outcome :=
  done s (s.handled (s.fwServes || s.romServes) 0x11 sq (
    if flashSize ≤ off then s.vendor 0x11 sq vsArg []
    else if !s.flashOpen off then s.vendor 0x11 sq vsDenied []
    else ({ s with flash := s.flash.filter fun c => c.1 / 65536 ≠ off / 65536 } : State).vendor 0x11 sq vsOk []))

/-- FLASH_WRITE: up to 1,024 bytes, into erased bytes. -/
def execFlashWrite (sq : BitVec 16) (off : Nat) (data : List Byte) (s : State) : Outcome :=
  done s (s.handled (s.fwServes || s.romServes) 0x12 sq (
    let n := data.length
    if 1024 < n ∨ flashSize < off + n then s.vendor 0x12 sq vsArg []
    else if !((List.range n).all fun i => s.flashOpen (off + i)) then s.vendor 0x12 sq vsDenied []
    else if (s.flashPeek off n).any fun b => b != 0xFF then s.vendor 0x12 sq vsFlash []
    else (s.flashPut off data).vendor 0x12 sq vsOk []))

/-- BOOT_SELECT: a new boot header (R360). -/
def execBootSelect (sq : BitVec 16) (pref trial tries cfgNext : Byte) (s : State) : Outcome :=
  done s (s.handled (s.fwServes || s.romServes) 0x13 sq (
    if 1 < pref.toNat ∨ 1 < trial.toNat ∨ tries.toNat < 1 ∨ 3 < tries.toNat ∨ (1 < cfgNext.toNat ∧ cfgNext ≠ 0xFF) then
      s.vendor 0x13 sq vsArg []
    else (s.writeHeader fun h => { h with
      pref := pref.toNat, trial := trial.toNat, tries := tries.toNat, cfgNext := cfgNext.toNat }).vendor 0x13 sq vsOk []))

/-- COMMIT: TRIAL clears, and the COMMIT bit of the booted slot is set (R360). -/
def execCommit (sq : BitVec 16) (s : State) : Outcome :=
  done s (s.handled s.fwServes 0x14 sq (
    (s.writeHeader fun h => { h with trial := 0, commit := withBit h.commit (s.fget Fl.secBootStatSlot 0) }).vendor 0x14 sq
      vsOk []))

/-- GET_CERT: the identity certificate (Table 15.13). -/
def execGetCert (sq : BitVec 16) (s : State) : Outcome :=
  done s (s.handled s.fwServes 0x20 sq (s.vendor 0x20 sq vsOk (s.flashPeek 0x20000 7944)))

/-! ### Attestation (R375) -/

/-- ATTEST: one report is signed at a time; the answer comes with the report. -/
def execAttest (sq : BitVec 16) (nonce : List Byte) (s : State) : Outcome :=
  done s (s.handled s.fwServes 0x21 sq (
    if nonce.length ≠ 32 then s.vendor 0x21 sq vsArg []
    else if s.mgmt.nonce.isSome then s.vendor 0x21 sq vsBusy []
    else { s with mgmt := { s.mgmt with nonce := some (sq.toNat, nonce) } }))

/-- The signed part of a report (Table 15.14). -/
def State.reportBody (s : State) (nonce : List Byte) : List Byte :=
  leBytes 4 0x5241594C ++ leBytes 2 1 ++ leBytes 2 0 ++ leBytes 4 17360 ++ leBytes 4 0 ++ nonce ++
    wordsBytes ([(s.rd .glbId 0).toNat, (s.rd .glbNode 0).toNat, (s.rd .secRollback 0).toNat, s.now] ++
      (List.range 24).map fun n => (s.rd .secMeas n).toNat)

/-- ATTEST_REPORT_READY: the report, with its signature (log entry 10, DESIGN CHOICE). -/
def execAttestReportReady (s : State) : Outcome := act s fun s =>
  match s.mgmt.nonce with
  | none => s
  | some (sq, nonce) =>
    let body := s.reportBody nonce
    let report := body ++ (List.range 17088).map fun i => Config.reportSignature body i
    ({ s with mgmt := { s.mgmt with nonce := none } } : State).vendor 0x21 (BitVec.ofNat 16 sq) vsOk report

end Sys2Proof.Machine
end

