-- ==== Sys2Proof/Machine/Jtag.lean ====
section
/-! DEFINITION. Jtag: the TAP's instructions (R379, Tables 15.10 and 15.17). -/

namespace Sys2Proof.Machine

/-- GLB_LIFE allows boundary scan: in BLANK, PROVISIONED, RETURNED and RETIRED (Table 15.10). -/
def State.scanAllowed (s : State) : Bool := [0x0, 0x1, 0x7, 0xF].contains (s.fget Fl.glbLifeState 0)

/-- GLB_LIFE allows debug: in BLANK and RETURNED. -/
def State.debugAllowed (s : State) : Bool := [0x0, 0x7].contains (s.fget Fl.glbLifeState 0)

/-- An instruction loaded, and what its data register captures. -/
def State.loadIr (s : State) (ir : Byte) (dr : Word64) : State := { s with jtag := { ir := ir, dr := dr } }

/-- An instruction that GLB_LIFE does not allow loads as BYPASS, whose register captures 0. -/
def State.jtagLoad (s : State) (allowed : Bool) (f : State) : State :=
  if s.power.phase ≠ .on then s else if allowed then f else s.loadIr 0xFF 0

/-- The IDCODE of R379. -/
def idcode : Word64 := BitVec.ofNat 64 (0x2 * 2 ^ 28 + 0x4096 * 2 ^ 12 + Config.manufacturerId.toNat * 2 + 1)

/-- BYPASS. -/
def execBypass (s : State) : Outcome := done s (s.jtagLoad true (s.loadIr 0xFF 0))

/-- IDCODE. -/
def execIdcode (s : State) : Outcome := done s (s.jtagLoad true (s.loadIr 0x01 idcode))

/-- SAMPLE_PRELOAD: the pins as they are; the spec does not lay out the boundary register (log entry 47, DESIGN CHOICE). -/
def execSamplePreload (s : State) : Outcome :=
  done s (s.jtagLoad s.scanAllowed (s.freeNext.loadIr 0x02 s.free))

/-- A boundary-scan instruction that takes the pins over: it halts the module (R331). -/
def State.scanHalt (s : State) (ir : Byte) (dr : Word64) : State := s.halt.loadIr ir dr

/-- EXTEST. -/
def execExtest (s : State) : Outcome := done s (s.jtagLoad s.scanAllowed (s.freeNext.scanHalt 0x03 s.free))

/-- CLAMP: the bypass register is selected. -/
def execClamp (s : State) : Outcome := done s (s.jtagLoad s.scanAllowed (s.scanHalt 0x04 0))

/-- HIGHZ: the bypass register is selected. -/
def execHighz (s : State) : Outcome := done s (s.jtagLoad s.scanAllowed (s.scanHalt 0x05 0))

/-- EXTEST_PULSE. -/
def execExtestPulse (s : State) : Outcome := done s (s.jtagLoad s.scanAllowed (s.freeNext.scanHalt 0x06 s.free))

/-- EXTEST_TRAIN. -/
def execExtestTrain (s : State) : Outcome := done s (s.jtagLoad s.scanAllowed (s.freeNext.scanHalt 0x07 s.free))

/-- A hart halted, let go, stepped, or inspected (R287): a halted hart that executes makes one step (log entry 47, DESIGN
CHOICE). -/
def State.debugHart (s : State) (h : Nat) (op : DbgOp) : State :=
  match op with
  | .halt => (s.setHart h { s.hart h with halted := true }).loadIr 0x10 s.jtag.dr
  | .resume => (s.setHart h { s.hart h with halted := false }).loadIr 0x10 s.jtag.dr
  | .step i => (if (s.hart h).halted ∧ s.hartUp h then s.hartStep h i else s).loadIr 0x10 s.jtag.dr
  | .inspect r => s.loadIr 0x10 (s.hartReg h r)

/-- DBG_HART. -/
def execDbgHart (h : Nat) (op : DbgOp) (s : State) : Outcome :=
  done s (s.jtagLoad s.debugAllowed (if h < 16 then s.debugHart h op else s.loadIr 0x10 s.jtag.dr))

/-- DBG_REG: a 64-bit register read, or a write as the principal hart makes it (log entry 47, DESIGN CHOICE). -/
def execDbgReg (off : Nat) (wr : Option Word64) (s : State) : Outcome :=
  done s (s.jtagLoad s.debugAllowed (match wr with
    | some v => (if s.live then (s.regWrite (.hart s.principalHart) off 8 v).1 else s).loadIr 0x11 v
    | none => match s.readReg off 29 with
      | (t, some w) => if off % 8 = 0 then t.loadIr 0x11 w else s.loadIr 0x11 s.jtag.dr
      | (_, none) => s.loadIr 0x11 s.jtag.dr))

end Sys2Proof.Machine
end

