-- ==== Sys2Proof/Machine/PanelFill.lean ====
section
/-! DEFINITION. PanelFill: the words of an operand on their way to the panel stores of its tiles (R90, R123 to R126). A store
that still holds the image of a proving run gets it byte by byte first. -/

namespace Sys2Proof.Machine

/-- A word of an operand is read once and arrives at the panel store of every tile of the placement that wants it (R123); it
waits while one of them cannot take it (R124). -/
def State.fillPanel (s : State) (seq plc chunk : Nat) (isB : Bool) (block i j : Nat) : State :=
  match s.op? seq with
  | none => s
  | some o =>
    let p : Cellpos := { block := block, i := i, j := j, slot := 0 }
    if !o.d.isMat ∨ !o.notOut ∨ o.stopping ∨ o.preempted ∨ !s.gatherReady o ∨
        !s.fillFree o plc chunk isB (wordNo p) ∨ 8 ≤ block ∨ 32 ≤ i ∨ 32 ≤ j then s
    else if !(s.readUe o).isEmpty then s.opMeetsUe seq ((s.readUe o).map fun l => (l, 0))
    else
      let v := s.runEnv o
      (s.fillTiles o plc isB chunk (wordNo p)).foldl (fun (t : State) x =>
        let w := panelWord v (frontOf o plc x.2) isB chunk block i j
        ((t.unproof x.1).panelPoke (panelByte x.1 isB o.d.nbuf chunk p) (leBytes 8 w)).setTile x.1
          ((t.livePanels (t.tile x.1)).noteWord isB seq plc x.2 chunk (wordNo p))) s

/-- PANEL_FILL. -/
def execPanelFill (seq plc chunk : Nat) (isB : Bool) (block line word : Nat) (s : State) : Outcome :=
  act s fun s => s.fillPanel seq plc chunk isB block line word

end Sys2Proof.Machine
end

