-- ==== Sys2Proof/Machine/Twin.lean ====
section
/-! DEFINITION. Twin: mirroring, seals, heartbeats, takeover, the partner context, adoption and hand-back (R344 to R353),
and the remote timeout (R260). -/

namespace Sys2Proof.Machine

/-! ### The primary side (R346, R347) -/

/-- Sixteen GRANULE transactions of one granule. -/
def State.sendGranule (s : State) (dst step g : Nat) (img : List Byte) : State :=
  (List.range 16).foldl (fun (t : State) k =>
    t.sendKept dst 0x01 (65536 * g + 4096 * k) step ((img.drop (4096 * k)).take 4096)) s

/-- MIRROR_SEND: a dirty granule goes to the partner, or one of the partner context to its new twin (R352), and its bit
clears. -/
def execMirrorSend (granule : Nat) (s : State) : Outcome := act s fun s =>
  let img := fun (p : Bool) => (List.range 65536).map fun i => s.ctxByte p (65536 * granule + i)
  if s.mirroring && s.twin.dirty.contains granule then
    let t := { s with twin := { s.twin with
      dirty := s.twin.dirty.filter (· ≠ granule), freshImg := mput [] s.twin.freshImg granule (img false) } }
    t.sendGranule s.twinNode (s.ctxStep false) granule (img false)
  else match s.twin.newTwin with
    | some n =>
      if s.twin.pDirty.contains granule then
        let t := { s with twin := { s.twin with pDirty := s.twin.pDirty.filter (· ≠ granule) } }
        t.sendGranule n (s.ctxStep true) granule (img true)
      else s
    | none => s

/-- The WAYMARK of a context that has been logged and waits for its seal. -/
def State.waitingWaymark (s : State) (p : Bool) : Option Op :=
  s.ops.find? fun o => o.d.opcode == opWaymark && o.partner == p && o.phase == .computed

/-- A waiting WAYMARK completes (R347). -/
def State.waymarkGo (s : State) (p : Bool) : State :=
  match s.waitingWaymark p with
  | some o => ({ s with twin := { s.twin with sealWait := none } } : State).waymarkDone o
  | none => s

/-- SEAL goes out for a WAYMARK that waits, once every earlier MIRROR transaction has been acknowledged (R347). -/
def State.sealPump (s : State) : State :=
  [false, true].foldl (fun (t : State) p => match t.waitingWaymark p, t.sealAt p with
    | some o, some node => t.sendSealTx o node
    | _, _ => t) s

/-- A request is the mirror engine's. -/
def Req.isMirror (q : Req) : Bool :=
  match q.who with
  | .mirror => true
  | _ => false

/-- Mirroring of this module's own state stops (R346, R347): what is on its way is forgotten, and a WAYMARK completes. -/
def State.stopMirror (s : State) : State :=
  ({ s with
    reqs := s.reqs.filter fun q => !q.isMirror,
    twin := { s.twin with stopped := true, dirty := [], unacked := [] } } : State).waymarkGo false

/-- A SEAL is acknowledged (R347): SEALED is set, a first one ends PAIRING, and the WAYMARK completes. A partner waymark
sealed at the new twin allows the hand-back (R352). -/
def State.sealAcked (s : State) (step : Nat) : State :=
  match s.twin.sealWait.bind s.op? with
  | none => { s with twin := { s.twin with sealWait := none } }
  | some o =>
    if o.partner then ({ s with twin := { s.twin with newSealed := true } } : State).waymarkGo true
    else
      let t := s.fset Fl.twnStateSealed 0 step
      let t := { t with twin := { t.twin with
        sealedImg := t.twin.freshImg.foldl (fun (m : SMap (List Byte)) (e : Nat × List Byte) => mput [] m e.1 e.2) t.twin.sealedImg, freshImg := [] } }
      (if t.twinSelf = twPairing then t.twinTo twMirroring else t).waymarkGo false

/-- An acknowledgement of one of the mirror engine's transactions. What was not stored is sent again. -/
def State.ownAck (s : State) (x : Txn) (status : Nat) : State :=
  let kind := wbits x.arg1 7 0
  let t := { s with twin := { s.twin with unacked := s.twin.unacked.filter fun u => u.1.tag ≠ x.tag } }
  let t :=
    if status = rsFull then
      if t.twin.serves.isSome then { t with twin := { t.twin with newTwin := none, unacked := [] } } else t.unshadowFrom.stopMirror
    else if status ≠ rsOk then
      if kind = 1 then t.redirty (x.addr / 65536)
      else if kind = 2 then t.sendKept x.dst 0x02 x.addr x.arg0.toNat x.data
      else if kind = 3 then { t with twin := { t.twin with sealWait := none } }
      else t
    else if kind = 3 then t.sealAcked (wbits x.arg0 47 0)
    else t
  t.sealPump

/-! ### The partner's voice (R348) -/

/-- A MIRROR transaction of the partner, or its answer to the plane heartbeat: a suspicion is over. -/
def State.heard (s : State) : State :=
  let t := { s with twin := { s.twin with lastHeard := s.now, probing := false } }
  if t.twinSelf = twSuspect then t.twinTo t.twin.before else t

/-- A MIRROR transaction comes from the partner; a spare shadows nothing (R353). -/
def State.fromTwin (s : State) (t : Txn) : Bool :=
  s.fon Fl.twnCtlEnable 0 && s.fget Fl.glbNodeRole 0 == 0 && t.src == s.twinNode

/-- A MIRROR transaction of a kind of Table 14.14, answered by MIRROR_ACK; one that does not come from the partner is
DENIED. -/
def State.onMirror (s : State) (p kind : Nat) (t : Txn) (f : State → State × Nat × List Byte) : State :=
  if wbits t.arg1 7 0 ≠ kind ∧ (s.screen p t).isNone then s
  else s.onTxn p ttMirror t fun u => u.serve t ttMirrorAck 6 fun u => if u.fromTwin t then f u.heard else (u, rsDenied, [])

/-- HB_MS milliseconds have passed since the last heartbeat. -/
def State.beatDue (s : State) : Bool := s.elapsed s.twin.beatAt (1000 * cyclesPerUs * s.fget Fl.twnCtlHbMs 0)

/-- HEARTBEAT_SEND: every HB_MS milliseconds, except while this module is taking its partner over. -/
def execHeartbeatSend (s : State) : Outcome := act s fun s =>
  if s.fon Fl.twnCtlEnable 0 && s.twinSelf != twFencing && s.twinSelf != twReplaying && s.beatDue then
    ({ s with twin := { s.twin with beatAt := s.now } } : State).sendOwnMirror 0x04 0 (s.ctxStep false)
      (leBytes 8 (s.rd .twnState 0).toNat)
  else s

/-- The registers of the partner context sent to its new twin. -/
def State.sendPartnerRegs (s : State) (n : Nat) : State :=
  s.twin.sealedCfg.foldl (fun (t : State) e => t.sendKept n 0x02 e.1 (t.ctxStep true) (leBytes 8 e.2.toNat)) s

/-- The survivor begins to mirror the partner context to its new twin: all of it counts as dirty (R352, R345). -/
def State.newTwinUp (s : State) (n : Nat) : State :=
  ({ s with twin := { s.twin with
      newTwin := some n, newSealed := false, pDirty := s.twin.sealedDir.map fun e => e.1 } } : State).sendPartnerRegs n

/-- A module that finds its partner SERVING_BOTH for its node ID enters EXCLUDED, with every port but its TWIN port
DISABLED (R352). -/
def State.excluded (s : State) : State :=
  let t := { s with twin := { s.twin with dirty := [] } }.twinTo twExcluded
  (List.range 12).foldl (fun (t : State) p => t.portFollow p) t

/-- HEARTBEAT (R348): the partner's state is recorded. -/
def execHeartbeat (port : Nat) (t : Txn) (s : State) : Outcome := act s fun s =>
  s.onMirror port 0x04 t fun s =>
    let self := bitsOf (leNat (t.data.take 8)) 63 60
    let u := s.fset Fl.twnStatePartner 0 self
    let u := if self = twServingBoth ∧ (u.twinSelf = twOff ∨ u.twinSelf = twPairing) then u.excluded else u
    let u := if self = twExcluded ∧ u.twinSelf = twServingBoth ∧ u.twin.newTwin.isNone then u.newTwinUp t.src else u
    (u, rsOk, [])

/-- PARTNER_SILENCE (R348): no MIRROR transaction for TO_LIMIT_10; a heartbeat goes through the planes. -/
def execPartnerSilence (s : State) : Outcome := act s fun s =>
  let st := s.twinSelf
  let watches := st == twPairing || st == twMirroring || (st == twUnshadowed && !s.twin.failed)
  if s.fon Fl.twnCtlEnable 0 && watches && s.elapsed s.twin.lastHeard (s.limitUs 10) then
    let t := { s with twin := { s.twin with probing := true, before := st, since := s.now } }.twinTo twSuspect
    let hb : Txn := { blankTxn ttMirror 6 t.twinNode with
      src := t.node, tag := t.newTag, len := 8, arg0 := BitVec.ofNat 64 (t.ctxStep false), arg1 := 4,
      data := leBytes 8 (t.rd .twnState 0).toNat }
    t.tagNext.issueOn hb 0 (some .planeHeartbeat) true
  else s

/-! ### Fencing (R349) -/

/-- The tray peers of this module but for one node. -/
def State.trayPeers (s : State) (but : Nat) : List Nat :=
  ((List.range 4).map fun k => 4 * trayOf s.node + k).filter fun n => n ≠ s.node && n ≠ but

/-- TAKEOVER on every PLANE port: the node and the one that answers for it. -/
def State.takeover (s : State) (node dest : Nat) : State :=
  s.planes.foldl (fun (t : State) p => t.place p
    { blankTxn ttMgmt 0 node with src := s.node, arg0 := 0x10, arg1 := BitVec.ofNat 64 (dest * 2 ^ 18 + node) }) s

/-- An alias entry for a node written into each tray peer; 0 removes it. The entry is that of the node's slot. -/
def State.tellAlias (s : State) (node value : Nat) : State :=
  (s.trayPeers node).foldl (fun (t : State) n =>
    t.sendWrite n (regBase + Reg.off .routeAlias (slotOf node)) (leBytes 8 value) .alias_) s

/-- The TWIN port is disabled. -/
def State.twinPortOff (s : State) : State :=
  ((List.range 12).filter fun p => s.fon Fl.portCtlTwin p).foldl (fun (t : State) p =>
    (t.fset Fl.portCtlEnable p 0).portFollow p) s

/-- The partner is declared failed: its plane heartbeat is forgotten, and no WAYMARK waits for it (R347). -/
def State.partnerLost (s : State) : State :=
  let t := { s with
    reqs := s.reqs.filter fun q => match q.who with
      | .planeHeartbeat => false
      | _ => true,
    twin := { s.twin with failed := true, probing := false, since := s.now } }
  t.stopMirror

/-- Fencing begins (R349): TAKEOVER, the aliases of the tray, the TWIN port, and the node ID. -/
def State.fence (s : State) : State :=
  let p := s.twinNode
  let t := (s.twinTo twFencing).fincSat Fl.twnStateTakeovers 0
  let t := ((t.takeover p t.node).tellAlias p (2 ^ 63 + t.node * 2 ^ 18 + p)).twinPortOff
  { t with twin := { t.twin with serves := some p } }

/-- Array cycles that the plane heartbeat waits for its acknowledgement, and that fencing takes from the detection on (R348,
R349): 20 ms and 300 ms. -/
def heartbeatCycles : Nat := 20000 * cyclesPerUs
def fencingCycles : Nat := 300000 * cyclesPerUs

/-- PARTNER_FAILED (R348): the plane heartbeat has brought no acknowledgement within 20 ms. The survivor takes over, or, without a
whole sealed step of its partner, is UNSHADOWED with class LOST. -/
def execPartnerFailed (s : State) : Outcome := act s fun s =>
  if s.twinSelf = twSuspect ∧ s.twin.probing ∧ s.twin.since + heartbeatCycles ≤ s.now then
    let whole := s.twin.hasSealed && !s.twin.shadowStopped
    (if whole then s.fence else s.twinEnter twUnshadowed .lost).partnerLost
  else s

/-- The partner's log as its mirrored header gives it (Table 13.3). -/
def State.partnerLog (s : State) : Log :=
  let w := fun (k : Nat) => rdNat (s.ctxRd true) (s.logBase true + 8 * k) 8
  { writePos := w 0, sealPos := w 1, retainPos := w 2, sealStep := w 3, sealed := true, whole := w 2 }

/-- The partner context at its sealed waymark (Table 14.15, R351): replayed by R321 where its log serves. -/
def State.partnerContext (s : State) : State :=
  let t := s.setOther fun _ => { step := (s.twin.sealedStep + 1) % 2 ^ 48 }
  let t := { t with twin := { t.twin with running := false, deficits := [(0, 4096)] } }
  if t.logOn true ∧ t.wayFld true Fl.waymarkCtlBroken = 0 then
    (t.setLog true fun _ => t.partnerLog).replay true
  else t

/-- FENCING_END (R349, R351), 300 ms after the detection: the survivor replays the partner context, and its own collectives go on (R236). -/
def execFencingEnd (s : State) : Outcome := act s fun s =>
  if s.twinSelf = twFencing ∧ s.twin.since + fencingCycles ≤ s.now then ((s.twinTo twReplaying).partnerContext).nodeBack s.twinNode else s

/-- The partner's replay has reached the end of the logged input: every descriptor that was logged before the failure has been
selected, but for those in closed rooms (R351). -/
def State.replayedAll (s : State) : Bool :=
  let l := s.ctxLog true
  l.enq.all fun e => decide (l.replayEnd ≤ e.2.2) || decide (e.2.1 < mget 0 l.headNo e.1) ||
    !s.fon Fl.roomAttrEnable (ctxRoomNo true e.1)

/-- PARTNER_REPLAY_END (R351). -/
def execPartnerReplayEnd (s : State) : Outcome := act s fun s =>
  if s.twinSelf = twReplaying ∧ s.replayedAll then
    (s.twinTo twServingBoth).setLog true fun l => { l with replaying := false }
  else s

/-! ### Two contexts (R350) -/

/-- The running context has a descriptor that its deficit allows, in some stream. -/
def State.ctxGoesOn (s : State) : Bool :=
  (List.range 4).any fun dom => match s.pick dom (s.eligible dom) with
    | some r => s.ctxAllows (s.headOp dom r.1).cost
    | none => false

/-- CONTEXT_SWITCH (R350): the round robin turns to the other context when none of the running context's operations is in
the array; it is given its quantum. A context with nothing to select keeps no deficit. Its tables are reloaded: each context
has its own image. -/
def execContextSwitch (s : State) : Outcome := act s fun s =>
  let run := s.twin.running
  if s.twin.serves.isSome && !(s.ops.any fun o => o.inArray && o.partner == run) && !s.ctxGoesOn then
    let empty := (List.range 4).all fun dom => (s.eligible dom).isEmpty
    let d := if empty then mput 0 s.twin.deficits run.toNat 0 else s.twin.deficits
    let k := (!run).toNat
    { s with twin := { s.twin with running := !run, deficits := mput 0 d k (mget 0 d k + 4096) } }
  else s

/-! ### The shadow side (R346, R347) -/

/-- A granule given a place for what arrives of it: free reserve space, never the sealed copy. -/
def State.mapFresh (s : State) (g : Nat) : State :=
  match mget 0 s.twin.freshDir g, s.resFree with
  | 0, some k => { s with twin := { s.twin with freshDir := mput 0 s.twin.freshDir g (k + 1) } }
  | _, _ => s

/-- Bytes of the partner's address stored in the fresh copies of their granules. -/
def State.pokeFresh (s : State) (a : Nat) (bs : List Byte) : State :=
  (unitsOf 65536 a bs.length).foldl (fun (t : State) g =>
    let lo := max a (65536 * g)
    let hi := min (a + bs.length) (65536 * (g + 1))
    match mget 0 t.twin.freshDir g with
    | 0 => t
    | k + 1 => t.memWrite (t.resBase + k * 65536 + lo % 65536) ((bs.drop (lo - a)).take (hi - lo))) s

/-- The reserve is full: this module stops storing for its partner (R346). -/
def State.shadowFull (s : State) : State :=
  ({ s with twin := { s.twin with shadowStopped := true } } : State).unshadowFrom

/-- Whether a granule finds a place. -/
def State.freshRoom (s : State) (a n : Nat) : Bool :=
  (unitsOf 65536 a n).all fun g => mget 0 (s.mapFresh g).twin.freshDir g != 0

/-- MIRROR_GRANULE (R346). -/
def execMirrorGranule (port : Nat) (t : Txn) (s : State) : Outcome := act s fun s =>
  s.onMirror port 0x01 t fun s =>
    if s.twin.shadowStopped then (s, rsFull, [])
    else
      let u := (unitsOf 65536 t.addr t.data.length).foldl State.mapFresh s
      if u.freshRoom t.addr t.data.length then (u.pokeFresh t.addr t.data, rsOk, []) else (s.shadowFull, rsFull, [])

/-- MIRROR_CONFIG (R346): the register's new value. -/
def execMirrorConfig (port : Nat) (t : Txn) (s : State) : Outcome := act s fun s =>
  s.onMirror port 0x02 t fun s =>
    ({ s with twin := { s.twin with
        freshCfg := mput none s.twin.freshCfg t.addr (some (BitVec.ofNat 64 (leNat (t.data.take 8)))) } }, rsOk, [])

/-- What has come since the last seal becomes the sealed copy, in one step; the copies it replaces are freed (R347). -/
def State.sealHere (s : State) (step : Nat) : State :=
  let w := s.twin
  let dir := w.freshDir.foldl (fun (m : SMap Nat) e => mput 0 m e.1 e.2) w.sealedDir
  let cfg := w.freshCfg.foldl (fun (m : SMap Word64) e => match regAt e.1, e.2 with
    | some (r, i), some v => mput (r.resetVal i) m e.1 v
    | _, _ => m) w.sealedCfg
  { s with twin := { w with
      sealedDir := dir, freshDir := [], sealedCfg := cfg, freshCfg := [], sealedStep := step, hasSealed := true } }

/-- The sealed bytes of a granule. -/
def State.sealedBytes (s : State) (g : Nat) : List Byte := (List.range 65536).map fun i => s.ctxByte true (65536 * g + i)

/-- A sealed register value taken over as this module's own; a group context gets its members. -/
def State.takeReg (s : State) (e : Nat × Word64) : State :=
  match regAt e.1 with
  | none => s
  | some (r, i) =>
    let t := s.wrWhole r i e.2
    if r == .grpCfg && e.2.getLsbD 63 then
      let ms := t.readMembers false (t.fget Fl.grpCfgListAddr i) (t.fget Fl.grpCfgCount i)
      let u := (t.fset Fl.grpStatSelf i (ms.idxOf t.node)).fset Fl.grpStatFlat i (!regular ms).toNat
      { u with ctxs := mput {} u.ctxs i { members := ms } }
    else t

/-- Step 4 of the hand-back at the new twin (R352): the sealed copies of durable state go to their local addresses, and the
module resumes from the waymark by R321. Both modules then mirror each other. -/
def State.resumeHere (s : State) : State :=
  let imgs := s.twin.sealedDir.map fun e => (e.1, s.sealedBytes e.1)
  let t := imgs.foldl (fun (t : State) e => t.memWrite (65536 * e.1) e.2) s
  let t := s.twin.sealedCfg.foldl State.takeReg t
  let w := fun (k : Nat) => t.peekNat (t.logRange.1 + 8 * k) 8
  let t := { t with
    log := { t.log with
      writePos := w 0, sealPos := w 1, retainPos := w 2, sealStep := w 3, sealed := true, whole := w 2 },
    twin := { t.twin with
      sealedDir := [], sealedCfg := [], freshDir := [], freshCfg := [], hasSealed := false, dirty := [], written := [],
      sealedImg := imgs.foldl (fun (m : SMap (List Byte)) (e : Nat × List Byte) => mput [] m e.1 e.2) [], stopped := false,
      shadowStopped := false, failed := false } }
  let t := t.twinTo twMirroring
  let t := (List.range 12).foldl (fun (t : State) p => t.portFollow p) t
  if t.logOn false then t.replay false else t

/-- MIRROR_SEAL (R347). At an EXCLUDED module the first seal is the waymark from which it resumes (R352). -/
def execMirrorSeal (port : Nat) (t : Txn) (s : State) : Outcome := act s fun s =>
  s.onMirror port 0x03 t fun s =>
    if s.twin.shadowStopped then (s, rsFull, [])
    else
      let u := s.sealHere (wbits t.arg0 47 0)
      (if u.twinSelf = twExcluded then u.resumeHere else u, rsOk, [])

/-! ### Adoption (R353) -/

/-- The reserve that the record describes meets R345. -/
def State.reserveFits (s : State) : Bool :=
  let r := (s.resBase, s.resBase + s.resGranules * 65536)
  s.resGranules != 0 && decide (r.2 ≤ s.hbmTop) && !s.twin.mirrors.any (meets r)

/-- A spare accepts: it takes the partner's node ID, whatever the state of boot lock, and enters EXCLUDED. -/
def State.adopted (s : State) (partner survivor : Nat) : State :=
  let t := (s.fset Fl.glbNodeNode 0 partner).fset Fl.glbNodeRole 0 0
  let t := (t.fset Fl.twnPartnerNode 0 survivor).fset Fl.twnCtlEnable 0 1
  { t with twin := { t.twin with adopted := true, lastHeard := t.now } }.twinTo twExcluded

/-- ADOPT: accepted or DENIED (R353). -/
def execAdopt (port : Nat) (t : Txn) (s : State) : Outcome := act s fun s =>
  if wbits t.arg1 7 0 ≠ 0x05 ∧ (s.screen port t).isNone then s
  else s.onTxn port ttMirror t fun u => u.serve t ttMirrorAck 6 fun u =>
      let survivor := wbits t.arg0 35 18
      if u.fget Fl.glbNodeRole 0 = 1 && u.reserveFits && rightIn (s.aclFor port t) 0 .regs survivor then
        (u.adopted (wbits t.arg0 17 0) survivor, rsOk, [])
      else (u, rsDenied, [])

/-- A request is the adoption's. -/
def Req.isAdopt (q : Req) : Bool :=
  match q.who with
  | .adopt => true
  | _ => false

/-- The adoption has failed: GO clears and REFUSED is logged (R353). -/
def State.adoptRefused (s : State) : State :=
  (({ s with reqs := s.reqs.filter fun q => !q.isAdopt } : State).retryWaiting).unrouted (blankTxn ttMirror 6 s.twinNode) (some .adopt)

/-- ADOPT_TIMEOUT: no acknowledgement within the remote-completion timeout for the system (R353). -/
def execAdoptTimeout (s : State) : Outcome := act s fun s =>
  if s.fon Fl.twnAdoptGo 0 ∧ s.elapsed s.twin.adoptAt (s.limitUs 6) then s.adoptRefused else s

/-- A MIRROR_ACK at the unit that sent the transaction. -/
def State.mirrorAcked (s : State) (t : Txn) : State :=
  match s.reqs.find? fun q => q.answers ttMirror t with
  | none => s
  | some q =>
    let u := s.complete ttMirror t
    match q.who with
    | .adopt =>
      if t.status = rsOk then (u.hwset Fl.twnAdoptGo 0 0).newTwinUp u.twinNode else u.adoptRefused
    | .planeHeartbeat => u.heard
    | _ => u.ownAck q.txn t.status

/-- MIRROR_ACK (R347, R353). -/
def execMirrorAck (port : Nat) (t : Txn) (s : State) : Outcome := act s fun s =>
  s.onTxn port ttMirrorAck t fun s => s.mirrorAcked t

/-! ### Hand-back (R352) -/

/-- The survivor stops serving the partner context: its operations, instances, rooms and group contexts go. -/
def State.dropPartner (s : State) : State :=
  let mine := s.ops.filter fun o => o.partner
  let t := mine.foldl (fun (t : State) o => (((t.dropFronts o.seq).dropInsts o.seq).dropOp o.seq)) s
  let t := (t.enabledRooms.filter fun n => 2048 ≤ n).foldl (fun (t : State) n => t.fset Fl.roomAttrEnable n 0) t
  let t := (t.validCtxs.filter fun c => 512 ≤ c).foldl (fun (t : State) c =>
    { t.fset Fl.grpCfgValid c 0 with ctxs := merase t.ctxs c }) t
  { t with
    insts := t.insts.filter fun i => i.ctx < 512,
    twin := { t.twin with
      serves := none, running := false, other := {}, deficits := [], newTwin := none, newSealed := false,
      pDirty := [], pWritten := [], pMirrors := [] } }

/-- HAND_BACK, after the first partner waymark sealed at the new twin: aliases go, TAKEOVER names the new module, and both
modules mirror each other. -/
def execHandBack (newTwin : Nat) (s : State) : Outcome := act s fun s =>
  if s.twinSelf = twServingBoth ∧ s.twin.newTwin.isSome ∧ s.twin.newSealed then
    let p := s.twinNode
    let t := ((s.dropPartner.tellAlias p 0).takeover p newTwin)
    let t := { t with twin := { t.twin with
      stopped := false, shadowStopped := false, failed := false, lastHeard := t.now, dirty := t.allDurable } }
    t.twinTo twMirroring
  else s

/-! ### Timeouts (R260) -/

/-- A request sent again on a different port if one reaches its DST (R260); with none it completes with NO_ROUTE (R261). -/
def State.reissue (s : State) (q : Req) : State :=
  let planesOnly := match q.who with
    | .planeHeartbeat => true
    | _ => false
  let ps := s.routes (s.aliased q.txn.dst) q.stream q.txn.vc planesOnly
  match (ps.find? fun p => p ≠ q.via).or ps.head? with
  | none => (({ s with reqs := s.reqs.erase q } : State).retryWaiting).unrouted q.txn (some q.who)
  | some p => { s with reqs := s.reqs.map fun r => if r = q then { r with via := p, again := true, since := s.now } else r }.place p q.txn

/-- A second timeout reported to the unit that issued the transaction. The mirror engine sends again what it holds no
acknowledgement for. -/
def State.timedOut (s : State) (q : Req) : State :=
  let t := ({ s with reqs := s.reqs.erase q } : State).retryWaiting
  match q.who with
  | .adopt => t.adoptRefused
  | .mirror => t.ownAck q.txn 0x08
  | _ => t

/-- The remote-completion timeout of a request, in array cycles: that of the tray, or that of the system (R260, Table
14.8). -/
def State.remoteLimit (s : State) (q : Req) : Nat := s.limitUs (if trayOf q.txn.dst = trayOf s.node then 5 else 6)

/-- A request has waited for its response as long as it may. -/
def State.overdue (s : State) (q : Req) : Bool := s.elapsed q.since (s.remoteLimit q)

/-- REMOTE_TIMEOUT of the request with a tag: collective engines resend by themselves (R227, R234). -/
def execRemoteTimeout (tag : Nat) (s : State) : Outcome := act s fun s =>
  match s.reqs.find? fun q => q.txn.tag == tag && s.overdue q with
  | none => s
  | some q => match q.who with
    | .coll =>
      let t := ({ s with reqs := s.reqs.erase q } : State).retryWaiting
      if q.txn.ttype = ttChunk then t.resendChunk q.txn.dst q.txn.arg0 q.txn.arg1 else t
    | _ => if q.again then s.timedOut q else s.reissue q

end Sys2Proof.Machine
end

