-- ==== Sys2Proof/Machine/Dispatch.lean ====
section
/-! DEFINITION. Dispatch: the meaning of each command, one arm per constructor of Instr. -/

namespace Sys2Proof.Machine

def exec (i : Instr) (s : State) : Host.Outcome State Fault Refusal :=
  match i with
  | .pwrEnAssert => Sys2Proof.Machine.execPwrEnAssert s
  | .pwrGood miss => Sys2Proof.Machine.execPwrGood miss s
  | .pwrEnDeassert => Sys2Proof.Machine.execPwrEnDeassert s
  | .powerDownWaitEnd => Sys2Proof.Machine.execPowerDownWaitEnd s
  | .inputUndervoltage mv => Sys2Proof.Machine.execInputUndervoltage mv s
  | .inputRecovered mv => Sys2Proof.Machine.execInputRecovered mv s
  | .inputBrownout mv => Sys2Proof.Machine.execInputBrownout mv s
  | .inputOvervoltageWarn mv => Sys2Proof.Machine.execInputOvervoltageWarn mv s
  | .inputOvervoltageTrip mv => Sys2Proof.Machine.execInputOvervoltageTrip mv s
  | .railShort rail => Sys2Proof.Machine.execRailShort rail s
  | .remoteSenseOpen => Sys2Proof.Machine.execRemoteSenseOpen s
  | .phaseLost => Sys2Proof.Machine.execPhaseLost s
  | .referenceLost is156 => Sys2Proof.Machine.execReferenceLost is156 s
  | .pllLost pll => Sys2Proof.Machine.execPllLost pll s
  | .thermalTrip src temp => Sys2Proof.Machine.execThermalTrip src temp s
  | .thermalControlTick temps => Sys2Proof.Machine.execThermalControlTick temps s
  | .capControlTick mv ma mw => Sys2Proof.Machine.execCapControlTick mv ma mw s
  | .loadShedFall => Sys2Proof.Machine.execLoadShedFall s
  | .loadShedRise => Sys2Proof.Machine.execLoadShedRise s
  | .shedStepDown => Sys2Proof.Machine.execShedStepDown s
  | .resetNAssert => Sys2Proof.Machine.execResetNAssert s
  | .wipeDone m ok => Sys2Proof.Machine.execWipeDone m ok s
  | .firmwareVerified v => Sys2Proof.Machine.execFirmwareVerified v s
  | .hbmTrainingDone lost => Sys2Proof.Machine.execHbmTrainingDone lost s
  | .bootLock => Sys2Proof.Machine.execBootLock s
  | .bellCheckSend q => Sys2Proof.Machine.execBellCheckSend q s
  | .bellCheckArrive src dst value => Sys2Proof.Machine.execBellCheckArrive src dst value s
  | .bellCheckMissing src dst => Sys2Proof.Machine.execBellCheckMissing src dst s
  | .holdDecision u => Sys2Proof.Machine.execHoldDecision u s
  | .holdCycle dom => Sys2Proof.Machine.execHoldCycle dom s
  | .stepIssue site => Sys2Proof.Machine.execStepIssue site s
  | .bellowsFill site row idx => Sys2Proof.Machine.execBellowsFill site row idx s
  | .panelFill seq plc chunk isB block line word => Sys2Proof.Machine.execPanelFill seq plc chunk isB block line word s
  | .frontEnter seq tile plc => Sys2Proof.Machine.execFrontEnter seq tile plc s
  | .tongWaitEnd tile => Sys2Proof.Machine.execTongWaitEnd tile s
  | .quenchBlock site flips => Sys2Proof.Machine.execQuenchBlock site flips s
  | .relayArrive site grp => Sys2Proof.Machine.execRelayArrive site grp s
  | .finisherRow q seq row => Sys2Proof.Machine.execFinisherRow q seq row s
  | .saddlebagLaneTerms site => Sys2Proof.Machine.execSaddlebagLaneTerms site s
  | .productTableBuild site => Sys2Proof.Machine.execProductTableBuild site s
  | .preemptDecision dom => Sys2Proof.Machine.execPreemptDecision dom s
  | .preemptSave seq => Sys2Proof.Machine.execPreemptSave seq s
  | .holdWatchdogExpire dom => Sys2Proof.Machine.execHoldWatchdogExpire dom s
  | .bellowsFetchTimeout site addr => Sys2Proof.Machine.execBellowsFetchTimeout site addr s
  | .modeBoundary => Sys2Proof.Machine.execModeBoundary s
  | .arrProveStart req v => Sys2Proof.Machine.execArrProveStart req v s
  | .provingRunEnd q outside sites => Sys2Proof.Machine.execProvingRunEnd q outside sites s
  | .arrModeWrite req v => Sys2Proof.Machine.execArrModeWrite req v s
  | .glbQmaskWrite req v => Sys2Proof.Machine.execGlbQmaskWrite req v s
  | .tileRepairWrite req site v => Sys2Proof.Machine.execTileRepairWrite req site v s
  | .tileStateWrite req site v => Sys2Proof.Machine.execTileStateWrite req site v s
  | .arrThrottleWrite req v => Sys2Proof.Machine.execArrThrottleWrite req v s
  | .ostlerSelect dom => Sys2Proof.Machine.execOstlerSelect dom s
  | .completionRecord seq => Sys2Proof.Machine.execCompletionRecord seq s
  | .budgetExpire seq => Sys2Proof.Machine.execBudgetExpire seq s
  | .matmul seq => Sys2Proof.Machine.execMatmul seq s
  | .matvec seq => Sys2Proof.Machine.execMatvec seq s
  | .elemwiseUnary seq => Sys2Proof.Machine.execElemwiseUnary seq s
  | .elemwiseAdd seq => Sys2Proof.Machine.execElemwiseAdd seq s
  | .elemwiseSub seq => Sys2Proof.Machine.execElemwiseSub seq s
  | .elemwiseMul seq => Sys2Proof.Machine.execElemwiseMul seq s
  | .elemwiseFma seq => Sys2Proof.Machine.execElemwiseFma seq s
  | .elemwiseMax seq => Sys2Proof.Machine.execElemwiseMax seq s
  | .elemwiseMin seq => Sys2Proof.Machine.execElemwiseMin seq s
  | .dropout seq => Sys2Proof.Machine.execDropout seq s
  | .reduceSum seq => Sys2Proof.Machine.execReduceSum seq s
  | .reduceSumsq seq => Sys2Proof.Machine.execReduceSumsq seq s
  | .reduceMax seq => Sys2Proof.Machine.execReduceMax seq s
  | .reduceMin seq => Sys2Proof.Machine.execReduceMin seq s
  | .reduceVar seq => Sys2Proof.Machine.execReduceVar seq s
  | .normLayer seq => Sys2Proof.Machine.execNormLayer seq s
  | .normRms seq => Sys2Proof.Machine.execNormRms seq s
  | .softmax seq => Sys2Proof.Machine.execSoftmax seq s
  | .attend seq => Sys2Proof.Machine.execAttend seq s
  | .quant seq => Sys2Proof.Machine.execQuant seq s
  | .fold seq => Sys2Proof.Machine.execFold seq s
  | .cbBuild seq => Sys2Proof.Machine.execCbBuild seq s
  | .sbBuild seq => Sys2Proof.Machine.execSbBuild seq s
  | .gather seq => Sys2Proof.Machine.execGather seq s
  | .scatterAcc seq => Sys2Proof.Machine.execScatterAcc seq s
  | .rngUniform seq => Sys2Proof.Machine.execRngUniform seq s
  | .rngNormal seq => Sys2Proof.Machine.execRngNormal seq s
  | .rngBernoulli seq => Sys2Proof.Machine.execRngBernoulli seq s
  | .copy seq => Sys2Proof.Machine.execCopy seq s
  | .collective seq => Sys2Proof.Machine.execCollective seq s
  | .fusedGather seq => Sys2Proof.Machine.execFusedGather seq s
  | .fusedAllGather seq => Sys2Proof.Machine.execFusedAllGather seq s
  | .fusedReduce seq => Sys2Proof.Machine.execFusedReduce seq s
  | .fusedAllReduce seq => Sys2Proof.Machine.execFusedAllReduce seq s
  | .fusedReduceScatter seq => Sys2Proof.Machine.execFusedReduceScatter seq s
  | .barrier seq => Sys2Proof.Machine.execBarrier seq s
  | .departure dom => Sys2Proof.Machine.execDeparture dom s
  | .scalarReduceSum seq => Sys2Proof.Machine.execScalarReduceSum seq s
  | .scalarReduceMax seq => Sys2Proof.Machine.execScalarReduceMax seq s
  | .scalarReduceMin seq => Sys2Proof.Machine.execScalarReduceMin seq s
  | .tableLoad seq => Sys2Proof.Machine.execTableLoad seq s
  | .tableSwap seq => Sys2Proof.Machine.execTableSwap seq s
  | .waymark seq => Sys2Proof.Machine.execWaymark seq s
  | .fence seq => Sys2Proof.Machine.execFence seq s
  | .nop seq => Sys2Proof.Machine.execNop seq s
  | .roomDoorbell req room v => Sys2Proof.Machine.execRoomDoorbell req room v s
  | .roomConfigWrite req room size v => Sys2Proof.Machine.execRoomConfigWrite req room size v s
  | .roomEnableWrite req room v => Sys2Proof.Machine.execRoomEnableWrite req room v s
  | .trapClr req => Sys2Proof.Machine.execTrapClr req s
  | .aclLoad req => Sys2Proof.Machine.execAclLoad req s
  | .looseSwap req => Sys2Proof.Machine.execLooseSwap req s
  | .errLogBaseWrite req v => Sys2Proof.Machine.execErrLogBaseWrite req v s
  | .eventAck req off v => Sys2Proof.Machine.execEventAck req off v s
  | .hartKick h bits => Sys2Proof.Machine.execHartKick h bits s
  | .moduleKick req => Sys2Proof.Machine.execModuleKick req s
  | .detWrite req off v => Sys2Proof.Machine.execDetWrite req off v s
  | .waymarkCtlWrite req v => Sys2Proof.Machine.execWaymarkCtlWrite req v s
  | .grpCfgWrite req ctx v => Sys2Proof.Machine.execGrpCfgWrite req ctx v s
  | .portEnableWrite req p enable => Sys2Proof.Machine.execPortEnableWrite req p enable s
  | .portRetrain req p => Sys2Proof.Machine.execPortRetrain req p s
  | .pwrCapWrite req v => Sys2Proof.Machine.execPwrCapWrite req v s
  | .twnAdopt req v => Sys2Proof.Machine.execTwnAdopt req v s
  | .lifeReqGo req => Sys2Proof.Machine.execLifeReqGo req s
  | .registerWrite req off width v => Sys2Proof.Machine.execRegisterWrite req off width v s
  | .chunk dst tag0 tag1 data => Sys2Proof.Machine.execChunk dst tag0 tag1 data s
  | .chunkAck src tag0 tag1 => Sys2Proof.Machine.execChunkAck src tag0 tag1 s
  | .stageAdd ctx inst chunk flip => Sys2Proof.Machine.execStageAdd ctx inst chunk flip s
  | .sealReportSend ctx inst seg => Sys2Proof.Machine.execSealReportSend ctx inst seg s
  | .sealReport dst tag0 tag1 data => Sys2Proof.Machine.execSealReport dst tag0 tag1 data s
  | .sealMsg dst tag0 tag1 data => Sys2Proof.Machine.execSealMsg dst tag0 tag1 data s
  | .barrierArrival dst tag0 tag1 data => Sys2Proof.Machine.execBarrierArrival dst tag0 tag1 data s
  | .barrierRelease dst port tag0 tag1 data => Sys2Proof.Machine.execBarrierRelease dst port tag0 tag1 data s
  | .scalarContribution dst tag0 tag1 data => Sys2Proof.Machine.execScalarContribution dst tag0 tag1 data s
  | .scalarResult dst tag0 tag1 data => Sys2Proof.Machine.execScalarResult dst tag0 tag1 data s
  | .collMsgAck src tag0 tag1 => Sys2Proof.Machine.execCollMsgAck src tag0 tag1 s
  | .collMsgResend idx => Sys2Proof.Machine.execCollMsgResend idx s
  | .memberSuspect ctx member => Sys2Proof.Machine.execMemberSuspect ctx member s
  | .twinWaitExpire ctx => Sys2Proof.Machine.execTwinWaitExpire ctx s
  | .portDetect p => Sys2Proof.Machine.execPortDetect p s
  | .equaliseDone p failed => Sys2Proof.Machine.execEqualiseDone p failed s
  | .alignDone p far => Sys2Proof.Machine.execAlignDone p far s
  | .alignTimeout p => Sys2Proof.Machine.execAlignTimeout p s
  | .configFlit p payload => Sys2Proof.Machine.execConfigFlit p payload s
  | .resumeFlit p payload => Sys2Proof.Machine.execResumeFlit p payload s
  | .probeSend p => Sys2Proof.Machine.execProbeSend p s
  | .probeFlit p payload => Sys2Proof.Machine.execProbeFlit p payload s
  | .probeReplyFlit p payload => Sys2Proof.Machine.execProbeReplyFlit p payload s
  | .flitReceive p flit fecBad => Sys2Proof.Machine.execFlitReceive p flit fecBad s
  | .nakReceive p ack cause => Sys2Proof.Machine.execNakReceive p ack cause s
  | .ackTimeout p => Sys2Proof.Machine.execAckTimeout p s
  | .retrainTimeout p => Sys2Proof.Machine.execRetrainTimeout p s
  | .fecUncorrectable p => Sys2Proof.Machine.execFecUncorrectable p s
  | .laneWeak p errors => Sys2Proof.Machine.execLaneWeak p errors s
  | .read port t => Sys2Proof.Machine.execRead port t s
  | .readRsp port t => Sys2Proof.Machine.execReadRsp port t s
  | .write port t => Sys2Proof.Machine.execWrite port t s
  | .writeAck port t => Sys2Proof.Machine.execWriteAck port t s
  | .workOrder port t => Sys2Proof.Machine.execWorkOrder port t s
  | .workAck port t => Sys2Proof.Machine.execWorkAck port t s
  | .mirrorGranule port t => Sys2Proof.Machine.execMirrorGranule port t s
  | .mirrorConfig port t => Sys2Proof.Machine.execMirrorConfig port t s
  | .mirrorSeal port t => Sys2Proof.Machine.execMirrorSeal port t s
  | .heartbeat port t => Sys2Proof.Machine.execHeartbeat port t s
  | .adopt port t => Sys2Proof.Machine.execAdopt port t s
  | .mirrorAck port t => Sys2Proof.Machine.execMirrorAck port t s
  | .unreach port t => Sys2Proof.Machine.execUnreach port t s
  | .reach port t => Sys2Proof.Machine.execReach port t s
  | .rackUpdate port t => Sys2Proof.Machine.execRackUpdate port t s
  | .remoteTimeout tag => Sys2Proof.Machine.execRemoteTimeout tag s
  | .hbmLineRead addr src seq err => Sys2Proof.Machine.execHbmLineRead addr src seq err s
  | .patrolScrub stack errs => Sys2Proof.Machine.execPatrolScrub stack errs s
  | .rowRepair pc row refused => Sys2Proof.Machine.execRowRepair pc row refused s
  | .refresh stack => Sys2Proof.Machine.execRefresh stack s
  | .hbmTransactionTimeout pc addr src seq => Sys2Proof.Machine.execHbmTransactionTimeout pc addr src seq s
  | .retirementDone => Sys2Proof.Machine.execRetirementDone s
  | .exactAdd seq elem => Sys2Proof.Machine.execExactAdd seq elem s
  | .sramScrub loc dbl use => Sys2Proof.Machine.execSramScrub loc dbl use s
  | .hartWdogExpire h => Sys2Proof.Machine.execHartWdogExpire h s
  | .moduleWdogExpire => Sys2Proof.Machine.execModuleWdogExpire s
  | .heartbeatSend => Sys2Proof.Machine.execHeartbeatSend s
  | .partnerSilence => Sys2Proof.Machine.execPartnerSilence s
  | .partnerFailed => Sys2Proof.Machine.execPartnerFailed s
  | .fencingEnd => Sys2Proof.Machine.execFencingEnd s
  | .partnerReplayEnd => Sys2Proof.Machine.execPartnerReplayEnd s
  | .contextSwitch => Sys2Proof.Machine.execContextSwitch s
  | .mirrorSend granule => Sys2Proof.Machine.execMirrorSend granule s
  | .adoptTimeout => Sys2Proof.Machine.execAdoptTimeout s
  | .handBack newTwin => Sys2Proof.Machine.execHandBack newTwin s
  | .entdaa da => Sys2Proof.Machine.execEntdaa da s
  | .setEndpointId eid => Sys2Proof.Machine.execSetEndpointId eid s
  | .getEndpointId => Sys2Proof.Machine.execGetEndpointId s
  | .getMctpVersionSupport msgType => Sys2Proof.Machine.execGetMctpVersionSupport msgType s
  | .getMessageTypeSupport => Sys2Proof.Machine.execGetMessageTypeSupport s
  | .getVendorDefinedMsgSupport => Sys2Proof.Machine.execGetVendorDefinedMsgSupport s
  | .pldmBaseCommand cmd => Sys2Proof.Machine.execPldmBaseCommand cmd s
  | .getPdr handle => Sys2Proof.Machine.execGetPdr handle s
  | .getSensorReading id => Sys2Proof.Machine.execGetSensorReading id s
  | .getStateSensorReadings id => Sys2Proof.Machine.execGetStateSensorReadings id s
  | .getStatus sq => Sys2Proof.Machine.execGetStatus sq s
  | .readReg sq off => Sys2Proof.Machine.execReadReg sq off s
  | .clearAlert sq => Sys2Proof.Machine.execClearAlert sq s
  | .reset sq => Sys2Proof.Machine.execReset sq s
  | .flashRead sq off len => Sys2Proof.Machine.execFlashRead sq off len s
  | .flashErase sq off => Sys2Proof.Machine.execFlashErase sq off s
  | .flashWrite sq off data => Sys2Proof.Machine.execFlashWrite sq off data s
  | .bootSelect sq pref trial tries cfgNext => Sys2Proof.Machine.execBootSelect sq pref trial tries cfgNext s
  | .commit sq => Sys2Proof.Machine.execCommit sq s
  | .getCert sq => Sys2Proof.Machine.execGetCert sq s
  | .attest sq nonce => Sys2Proof.Machine.execAttest sq nonce s
  | .attestReportReady => Sys2Proof.Machine.execAttestReportReady s
  | .bypass => Sys2Proof.Machine.execBypass s
  | .idcode => Sys2Proof.Machine.execIdcode s
  | .samplePreload => Sys2Proof.Machine.execSamplePreload s
  | .extest => Sys2Proof.Machine.execExtest s
  | .clamp => Sys2Proof.Machine.execClamp s
  | .highz => Sys2Proof.Machine.execHighz s
  | .extestPulse => Sys2Proof.Machine.execExtestPulse s
  | .extestTrain => Sys2Proof.Machine.execExtestTrain s
  | .dbgHart h op => Sys2Proof.Machine.execDbgHart h op s
  | .dbgReg off wr => Sys2Proof.Machine.execDbgReg off wr s
  | .flitSend p => Sys2Proof.Machine.execFlitSend p s
  | .inputInRange mv => Sys2Proof.Machine.execInputInRange mv s
  | .resetNDeassert straps => Sys2Proof.Machine.execResetNDeassert straps s
  | .onceCacheExpiry src tag => Sys2Proof.Machine.execOnceCacheExpiry src tag s
  | .controlComplexRestart ok => Sys2Proof.Machine.execControlComplexRestart ok s

end Sys2Proof.Machine
end

