-- ==== Sys2Proof/Safety.lean ====
section
/-! DEFINITION. Safety: what counts as a sound state and a safe step, in the words the claims use. -/

namespace Sys2Proof.Safety

open Sys2Proof.Machine

/-- Every sparse map of the module's memories and registers is in canonical form. -/
structure MemoryWf (s : State) : Prop where
  mem : Memory.wf s.mem
  panel : Memory.wf s.panel
  flash : Canonical 0xFF s.flash
  ctrl : Memory.wf s.ctrl
  bank0 : Memory.wf s.tables.bank0
  bank1 : Memory.wf s.tables.bank1

/-- What R331 says of a halted module: no operation, no collective, nothing in the array, every port DISABLED. -/
def HaltQuiet (s : State) : Prop :=
  s.halted = true →
    s.ops = [] ∧ s.insts = [] ∧ s.tiles = [] ∧ s.holds = [] ∧ s.reqs = [] ∧ s.msgs = [] ∧ s.early = [] ∧
      ∀ p < 12, s.fget Fl.portStatState p = 0

/-- A module powered down (R385). -/
def Down (t : State) : Prop :=
  t.power.phase = .down ∧ t.power.pwrGood = false ∧ t.halted = true ∧ t.mem = [] ∧ t.panel = [] ∧ t.ctrl = [] ∧
    t.tables = {} ∧ ∀ p < 12, t.fget Fl.portStatState p = 0

/-- Byte `a` is one of those that hold the bits of a bit write. -/
def touches (w : BitWrite) (a : Nat) : Prop := w.1 / 8 ≤ a ∧ a < w.1 / 8 + ceilDiv (w.1 % 8 + w.2.1) 8

/-- Operation `o` of state `s` has ended in state `t` with its record at CPL_ADDR, and no other byte of memory has
changed (R162). -/
def Recorded (s t : State) (o : Op) (trap : Bool) : Prop :=
  t.op? o.seq = none ∧ t.ost.trapped = (s.ost.trapped || trap) ∧
    t.peek o.d.cplAddr 8 = wordsBytes [recordHead o trap 0] ∧
    t.peek (o.d.cplAddr + 8) 120 = wordsBytes (recordRest o s.now) ∧
    (∀ a, a < o.d.cplAddr ∨ o.d.cplAddr + 128 ≤ a → t.byteAt a = s.byteAt a) ∧
    (∀ n, n ≠ o.seq → t.op? n = s.op? n) ∧ t.tiles = s.tiles

/-- No replay is under way in either context, and no chunk or message waits for an instance to start (R321, R236). -/
def NoReplay (s : State) : Prop :=
  s.early = [] ∧ ∀ p, (s.ctxLog p).replaying = false ∧ (s.ctxLog p).detours = []

/-- Commands of the units that R331 stops and that a reset or a missing supply leaves without a subject: all but those of
the power stage, the reset pin, the sideband and the TAP. -/
def needsLive : Instr → Bool
  | .pwrEnAssert | .pwrGood _ | .pwrEnDeassert | .powerDownWaitEnd | .inputUndervoltage _ | .inputRecovered _
  | .inputBrownout _ | .inputOvervoltageWarn _ | .inputOvervoltageTrip _ | .inputInRange _ | .railShort _
  | .remoteSenseOpen | .phaseLost | .referenceLost _ | .pllLost _ | .thermalTrip _ _ | .loadShedFall | .loadShedRise
  | .shedStepDown | .resetNAssert | .resetNDeassert _ => false
  | .entdaa _ | .setEndpointId _ | .getEndpointId | .getMctpVersionSupport _ | .getMessageTypeSupport
  | .getVendorDefinedMsgSupport | .pldmBaseCommand _ | .getPdr _ | .getSensorReading _ | .getStateSensorReadings _
  | .getStatus _ | .readReg _ _ | .clearAlert _ | .reset _ | .flashRead _ _ _ | .flashErase _ _ | .flashWrite _ _ _
  | .bootSelect _ _ _ _ _ | .commit _ | .getCert _ | .attest _ _ => false
  | .bypass | .idcode | .samplePreload | .extest | .clamp | .highz | .extestPulse | .extestTrain | .dbgHart _ _
  | .dbgReg _ _ => false
  | _ => true

end Sys2Proof.Safety
end

