-- ==== Sys2Proof/WellFormed.lean ====
section
/-! DEFINITION. WellFormed: the operands a command can carry: numbers of quarters, sites, ports, rooms and so on in the
range the spec gives them, and messages of the length it gives them. -/

namespace Sys2Proof

/-- A requester names a hart, or a node ID and a port (R2, R287). -/
def Requester.wf : Requester → Bool
  | .hart h => h < 16
  | .rom => true
  | .peer node port => node < 2 ^ 18 && port < 12

/-- A transaction's fields fit the header of Table 10.6 and its data are at most 4,096 bytes. -/
def Txn.wf (t : Txn) : Bool :=
  t.ttype < 256 && t.vc < 8 && t.dst < 2 ^ 18 && t.src < 2 ^ 18 && t.len < 2 ^ 13 && t.tag < 2 ^ 16 && t.status < 256 &&
    t.addr < 2 ^ 40 && t.data.length ≤ 2 ^ 13

/-- A quarter's PLL names a quarter. -/
def Pll.wf : Pll → Bool
  | .array => true
  | .fabric q | .memory q | .control q | .serdes q => q < 4

/-- A unit that asks for holds lies on the module. -/
def HoldUnit.wf : HoldUnit → Bool
  | .bellows site _ idx queued due => site < 4224 && idx < 64 && queued ≤ 64 && due ≤ 64
  | .quench site _ | .tableBuild site | .relay site => site < 4224
  | .finisher q | .saddlebag q _ | .commons q | .collective q _ => q < 4
  | .throttle | .loadShed => true

/-- A SECDED word lies in its memory. -/
def SramLoc.wf : SramLoc → Bool
  | .commons addr _ => addr < 2 ^ 40
  | .panel site addr => site < 4224 && addr < 2 ^ 19
  | .table site _ off => site < 4224 && off < 2 ^ 14

/-- A defect lies in a site: rows and columns are physical, with the gauge cells at 33 (R83, R91, R115), and the passes are six
of 2,048 steps (R116). -/
def BistLoc.wf : BistLoc → Bool
  | .panel b i j => b < 64 && i < 32 && j < 32
  | .table _ w => w < 2048
  | .rowBellows r _ => r < 33
  | .colBellows c _ => c < 33
  | .drain r c => r < 33 && c < 33
  | .buffer k g => k < 2 && g < 1024
def Defect.wf : Defect → Bool
  | .stuck l _ _ => l.wf
  | .cell r c p k _ => r < 34 && c < 34 && p < 6 && k < 2048
def OutsideDefect.wf : OutsideDefect → Bool
  | .relay col _ => col < 32
  | .stamp _ => true

/-- A register of a hart exists, and an access of an instruction has a width of the architecture (R287). -/
def HartReg.wf : HartReg → Bool
  | .x n | .f n => n < 32
  | .csr n => n < 4096
  | _ => true
def HartInstr.wf : HartInstr → Bool
  | .compute rd _ | .computeF rd _ | .jump rd _ => rd < 32
  | .load rd _ _ n base _ | .store rd _ n base _ => rd < 32 && base < 32 && [1, 2, 4, 8].contains n
  | .amo rd n base _ => rd < 32 && base < 32 && [4, 8].contains n
  | .storeCond rd src n base _ => rd < 32 && src < 32 && base < 32 && [4, 8].contains n
  | .csr n rd _ => n < 4096 && rd < 32
  | _ => true
def DbgOp.wf : DbgOp → Bool
  | .step i => i.wf
  | .inspect r => r.wf
  | _ => true

/-- The command's operands are in range. -/
def Instr.wf : Instr → Bool
  | .pwrEnAssert => true
  | .pwrGood miss => miss.all (· < 16)
  | .pwrEnDeassert => true
  | .powerDownWaitEnd => true
  | .inputUndervoltage _ => true
  | .inputRecovered _ => true
  | .inputBrownout _ => true
  | .inputOvervoltageWarn _ => true
  | .inputOvervoltageTrip _ => true
  | .railShort rail => rail < 16
  | .remoteSenseOpen => true
  | .phaseLost => true
  | .referenceLost _ => true
  | .pllLost pll => pll.wf
  | .thermalTrip src _ => src < 16
  | .thermalControlTick _ => true
  | .capControlTick _ _ _ => true
  | .loadShedFall => true
  | .loadShedRise => true
  | .shedStepDown => true
  | .resetNAssert => true
  | .wipeDone _ _ => true
  | .firmwareVerified _ => true
  | .hbmTrainingDone _ => true
  | .bootLock => true
  | .bellCheckSend q => q < 4
  | .bellCheckArrive src dst _ => src < 4 && dst < 4
  | .bellCheckMissing src dst => src < 4 && dst < 4
  | .holdDecision u => u.wf
  | .holdCycle dom => dom < 4
  | .stepIssue site => site < 4224
  | .bellowsFill site _ idx => site < 4224 && idx < 64
  | .panelFill seq _ _ _ _ _ _ => seq < 2 ^ 48
  | .frontEnter seq tile _ => seq < 2 ^ 48 && tile < 4096
  | .tongWaitEnd tile => tile < 4096
  | .quenchBlock site _ => site < 4224
  | .relayArrive site grp => site < 4224 && grp < 4096
  | .finisherRow q seq _ => q < 4 && seq < 2 ^ 48
  | .saddlebagLaneTerms site => site < 4224
  | .productTableBuild site => site < 4224
  | .preemptDecision dom => dom < 4
  | .preemptSave seq => seq < 2 ^ 48
  | .holdWatchdogExpire dom => dom < 4
  | .bellowsFetchTimeout site addr => site < 4224 && addr < 2 ^ 40
  | .modeBoundary => true
  | .arrProveStart req _ => req.wf
  | .provingRunEnd q out sites => q < 4 && out.all OutsideDefect.wf && sites.all fun x => x.site < 4224 && x.defects.all Defect.wf
  | .arrModeWrite req _ => req.wf
  | .glbQmaskWrite req _ => req.wf
  | .tileRepairWrite req site _ => req.wf && site < 4224
  | .tileStateWrite req site _ => req.wf && site < 4224
  | .arrThrottleWrite req _ => req.wf
  | .ostlerSelect dom => dom < 4
  | .completionRecord seq => seq < 2 ^ 48
  | .budgetExpire seq => seq < 2 ^ 48
  | .matmul seq => seq < 2 ^ 48
  | .matvec seq => seq < 2 ^ 48
  | .elemwiseUnary seq => seq < 2 ^ 48
  | .elemwiseAdd seq => seq < 2 ^ 48
  | .elemwiseSub seq => seq < 2 ^ 48
  | .elemwiseMul seq => seq < 2 ^ 48
  | .elemwiseFma seq => seq < 2 ^ 48
  | .elemwiseMax seq => seq < 2 ^ 48
  | .elemwiseMin seq => seq < 2 ^ 48
  | .dropout seq => seq < 2 ^ 48
  | .reduceSum seq => seq < 2 ^ 48
  | .reduceSumsq seq => seq < 2 ^ 48
  | .reduceMax seq => seq < 2 ^ 48
  | .reduceMin seq => seq < 2 ^ 48
  | .reduceVar seq => seq < 2 ^ 48
  | .normLayer seq => seq < 2 ^ 48
  | .normRms seq => seq < 2 ^ 48
  | .softmax seq => seq < 2 ^ 48
  | .attend seq => seq < 2 ^ 48
  | .quant seq => seq < 2 ^ 48
  | .fold seq => seq < 2 ^ 48
  | .cbBuild seq => seq < 2 ^ 48
  | .sbBuild seq => seq < 2 ^ 48
  | .gather seq => seq < 2 ^ 48
  | .scatterAcc seq => seq < 2 ^ 48
  | .rngUniform seq => seq < 2 ^ 48
  | .rngNormal seq => seq < 2 ^ 48
  | .rngBernoulli seq => seq < 2 ^ 48
  | .copy seq => seq < 2 ^ 48
  | .collective seq => seq < 2 ^ 48
  | .fusedGather seq => seq < 2 ^ 48
  | .fusedAllGather seq => seq < 2 ^ 48
  | .fusedReduce seq => seq < 2 ^ 48
  | .fusedAllReduce seq => seq < 2 ^ 48
  | .fusedReduceScatter seq => seq < 2 ^ 48
  | .barrier seq => seq < 2 ^ 48
  | .departure dom => dom < 4
  | .scalarReduceSum seq => seq < 2 ^ 48
  | .scalarReduceMax seq => seq < 2 ^ 48
  | .scalarReduceMin seq => seq < 2 ^ 48
  | .tableLoad seq => seq < 2 ^ 48
  | .tableSwap seq => seq < 2 ^ 48
  | .waymark seq => seq < 2 ^ 48
  | .fence seq => seq < 2 ^ 48
  | .nop seq => seq < 2 ^ 48
  | .roomDoorbell req room _ => req.wf && room < 4096
  | .roomConfigWrite req room _ _ => req.wf && room < 4096
  | .roomEnableWrite req room _ => req.wf && room < 4096
  | .trapClr req => req.wf
  | .aclLoad req => req.wf
  | .looseSwap req => req.wf
  | .errLogBaseWrite req _ => req.wf
  | .eventAck req off _ => req.wf && off < 2 ^ 32
  | .hartKick h _ => h < 16
  | .moduleKick req => req.wf
  | .detWrite req off _ => req.wf && off < 2 ^ 32
  | .waymarkCtlWrite req _ => req.wf
  | .grpCfgWrite req ctx _ => req.wf && ctx < 1024
  | .portEnableWrite req p _ => req.wf && p < 12
  | .portRetrain req p => req.wf && p < 12
  | .pwrCapWrite req _ => req.wf
  | .twnAdopt req _ => req.wf
  | .lifeReqGo req => req.wf
  | .registerWrite req off width _ => req.wf && off < 2 ^ 32 && (width = 1 || width = 2 || width = 4 || width = 8)
  | .chunk dst _ _ data => dst < 2 ^ 18 && data.length ≤ 2 ^ 18
  | .chunkAck dst _ _ => dst < 2 ^ 18
  | .stageAdd ctx inst ch _ => ctx < 1024 && inst < 2 ^ 32 && ch < 2 ^ 20
  | .sealReportSend ctx inst seg => ctx < 1024 && inst < 2 ^ 32 && seg < 2 ^ 16
  | .sealReport dst _ _ data => dst < 2 ^ 18 && data.length ≤ 4096
  | .sealMsg dst _ _ data => dst < 2 ^ 18 && data.length ≤ 4096
  | .barrierArrival dst _ _ data => dst < 2 ^ 18 && data.length ≤ 4096
  | .barrierRelease dst port _ _ data => dst < 2 ^ 18 && port < 12 && data.length ≤ 4096
  | .scalarContribution dst _ _ data => dst < 2 ^ 18 && data.length ≤ 4096
  | .scalarResult dst _ _ data => dst < 2 ^ 18 && data.length ≤ 4096
  | .collMsgAck dst _ _ => dst < 2 ^ 18
  | .collMsgResend _ => true
  | .memberSuspect ctx member => ctx < 1024 && member < 2 ^ 18
  | .twinWaitExpire ctx => ctx < 1024
  | .portDetect p => p < 12
  | .equaliseDone p _ => p < 12
  | .alignDone p _ => p < 12
  | .alignTimeout p => p < 12
  | .configFlit p payload => p < 12 && payload.length ≤ 240
  | .resumeFlit p payload => p < 12 && payload.length ≤ 240
  | .probeSend p => p < 12
  | .probeFlit p payload => p < 12 && payload.length ≤ 240
  | .probeReplyFlit p payload => p < 12 && payload.length ≤ 240
  | .flitReceive p flit _ => p < 12 && flit.length = 256
  | .nakReceive p ack _ => p < 12 && ack < 4096
  | .ackTimeout p => p < 12
  | .retrainTimeout p => p < 12
  | .fecUncorrectable p => p < 12
  | .laneWeak p e => p < 12 && e.lane < 8 && 0 < e.codewords && e.symbols ≤ 15
  | .read port t => port < 12 && t.wf
  | .readRsp port t => port < 12 && t.wf
  | .write port t => port < 12 && t.wf
  | .writeAck port t => port < 12 && t.wf
  | .workOrder port t => port < 12 && t.wf
  | .workAck port t => port < 12 && t.wf
  | .mirrorGranule port t => port < 12 && t.wf
  | .mirrorConfig port t => port < 12 && t.wf
  | .mirrorSeal port t => port < 12 && t.wf
  | .heartbeat port t => port < 12 && t.wf
  | .adopt port t => port < 12 && t.wf
  | .mirrorAck port t => port < 12 && t.wf
  | .unreach port t => port < 12 && t.wf
  | .reach port t => port < 12 && t.wf
  | .rackUpdate port t => port < 12 && t.wf
  | .remoteTimeout tag => tag < 2 ^ 16
  | .hbmLineRead addr src seq _ => addr < 2 ^ 40 && src < 4 && seq < 2 ^ 48
  | .patrolScrub stack _ => stack < 8
  | .rowRepair pc _ _ => pc < 512
  | .refresh stack => stack < 8
  | .hbmTransactionTimeout pc addr src seq => pc < 512 && addr < 2 ^ 40 && src < 4 && seq < 2 ^ 48
  | .retirementDone => true
  | .exactAdd seq _ => seq < 2 ^ 48
  | .sramScrub loc _ _ => loc.wf
  | .hartWdogExpire h => h < 16
  | .moduleWdogExpire => true
  | .heartbeatSend => true
  | .partnerSilence => true
  | .partnerFailed => true
  | .fencingEnd => true
  | .partnerReplayEnd => true
  | .contextSwitch => true
  | .mirrorSend granule => granule < 2 ^ 24
  | .adoptTimeout => true
  | .handBack newTwin => newTwin < 2 ^ 18
  | .entdaa _ => true
  | .setEndpointId _ => true
  | .getEndpointId => true
  | .getMctpVersionSupport _ => true
  | .getMessageTypeSupport => true
  | .getVendorDefinedMsgSupport => true
  | .pldmBaseCommand _ => true
  | .getPdr _ => true
  | .getSensorReading id => id < 2 ^ 16
  | .getStateSensorReadings id => id < 2 ^ 16
  | .getStatus _ => true
  | .readReg _ off => off < 2 ^ 32
  | .clearAlert _ => true
  | .reset _ => true
  | .flashRead _ off len => off < 2 ^ 32 && len ≤ 1024
  | .flashErase _ off => off < 2 ^ 32
  | .flashWrite _ off data => off < 2 ^ 32 && data.length ≤ 1024
  | .bootSelect _ _ _ _ _ => true
  | .commit _ => true
  | .getCert _ => true
  | .attest _ nonce => nonce.length = 32
  | .attestReportReady => true
  | .bypass => true
  | .idcode => true
  | .samplePreload => true
  | .extest => true
  | .clamp => true
  | .highz => true
  | .extestPulse => true
  | .extestTrain => true
  | .dbgHart h op => h < 16 && op.wf
  | .dbgReg off _ => off < 2 ^ 32
  | .flitSend p => p < 12
  | .inputInRange _ => true
  | .resetNDeassert _ => true
  | .onceCacheExpiry src tag => src < 2 ^ 18 && tag < 2 ^ 16
  | .controlComplexRestart _ => true

end Sys2Proof
end

