-- ==== Sys2Proof/Certificates/Slice0/Obligations.lean ====
section
/-! DEFINITION. Obligations: the statements for the provers. Every statement about a command says in which states it has
the effect that the spec gives it, and what the next state then holds. -/

open Sys2Proof Sys2Proof.Machine

/-! ### The machine as a whole -/

/-- A step takes the command at the front of the queue and runs it on the state with the queue's rest. -/
def Obligations.StepRunsFront : Prop :=
  ∀ (s : State) (c : Instr) (rest : List Instr),
    step { s with pending := c :: rest } = exec c { s with pending := rest }

/-- On an empty queue a step is one array cycle of a powered module that is out of reset: every replica of the bell
counts it (R16; that a step without a command is one array cycle is the model's choice, log entry 2). -/
def Obligations.IdleStepCounts : Prop :=
  ∀ s : State, s.pending = [] → s.powered = true →
    ∃ t, step s = .next t ∧ (∀ q < 4, t.replica q = (s.replica q + 1) % 2 ^ 64) ∧
      (∀ a, t.byteAt a = s.byteAt a) ∧ t.ops = s.ops ∧ t.tiles = s.tiles ∧ t.flash = s.flash

/-- Every command of the table ends in a next state, and none touches the queue. -/
def Obligations.CommandsAnswer : Prop :=
  ∀ (c : Instr) (s : State), ∃ t, exec c s = .next t ∧ t.pending = s.pending

/-- The rule of R331 as an invariant: a halted module has no operation, no collective, nothing in its array, and every
port DISABLED. Every step keeps it. -/
def Obligations.HaltInvariantKept : Prop :=
  ∀ s t : State, Safety.HaltQuiet s → step s = .next t → Safety.HaltQuiet t

/-- The invariant of R331 holds at reset. -/
def Obligations.HaltInvariantAtReset : Prop :=
 Safety.HaltQuiet State.reset

/-- R331: a halted module leaves the halt only through a module reset, after which the bell stands at 0 and every
memory is to be wiped. -/
def Obligations.HaltLeftOnlyByReset : Prop :=
  ∀ (c : Instr) (s t : State), s.halted = true → exec c s = .next t →
    t.halted = true ∨
      (t.bell = [] ∧ t.mem = [] ∧ t.panel = [] ∧ t.ctrl = [] ∧ t.boot.wiping = [.hbm, .panel, .commons, .table] ∧
        t.ops = [] ∧ t.fget Fl.secBootStatLock 0 = 0)

/-- A module that is unpowered, held in reset or halted takes no command of its own units: only the power stage, the
reset pin, the sideband and the TAP act then (the model's choice for commands without a subject, log entry 1). -/
def Obligations.DeadModuleIgnores : Prop :=
  ∀ (c : Instr) (s : State), s.live = false → Safety.needsLive c = true → exec c s = .next s

/-- R407: at reset every register instance reads its Reset column but for SEC_BOOT_STAT, whose STAGE is ROM (R369),
and CLK_STAT, which shows the clocks that PWR_GOOD stands for (R396; log entry 4). -/
def Obligations.ResetRegisters : Prop :=
  (∀ (r : Reg) (i : Nat), i < r.place.2.1 → r ≠ .secBootStat → r ≠ .clkStat → State.reset.rd r i = r.resetVal i) ∧
  State.reset.fget Fl.secBootStatStage 0 = sgRom ∧ State.reset.fget Fl.secBootStatLock 0 = 0 ∧
  State.reset.rd .glbId 0 = 0x409620 ∧ State.reset.fget Fl.glbQmaskArrayQ 0 = 0 ∧
  (∀ q < 4, State.reset.replica q = 0) ∧ (∀ a, State.reset.byteAt a = 0) ∧ State.reset.acl = [] ∧
  State.reset.pending = [] ∧ Safety.MemoryWf State.reset

/-! ### Power stage and pins -/

/-- R384, R385: PWR_EN starts the rails with the input in range, and waits without; a wait ends when the input comes
into range; after a power-down the sequencer acts on a PWR_EN asserted meanwhile once the wait is over. R384, R397: at
PWR_GOOD everything leaves reset, with the bell at 0 and the memories empty; flash and fuses stand. A rail that misses
its window powers the module down without PWR_GOOD. -/
def Obligations.PowerUp : Prop :=
  ((∀ s : State, s.power.pwrEn = false → s.power.phase = .off →
     ∃ t, exec .pwrEnAssert s = .next t ∧ t.power.pwrEn = true ∧
       t.power.phase = (if inRange s.power.mv then .sequencing else .waiting)) ∧
   (∀ s : State, s.power.pwrEn = false → s.power.phase = .down →
     ∃ t, exec .pwrEnAssert s = .next t ∧ t.power.phase = .down ∧ t.power.again = true) ∧
   (∀ (s : State) (mv : Nat), 46000 ≤ mv → mv ≤ 60000 → s.power.phase = .waiting →
     ∃ t, exec (.inputInRange mv) s = .next t ∧ t.power.phase = .sequencing ∧ t.power.mv = mv) ∧
   (∀ s : State, s.power.phase = .down →
     ∃ t, exec .powerDownWaitEnd s = .next t ∧
       t.power.phase = (if s.power.again then (if inRange s.power.mv then .sequencing else .waiting) else .off))) ∧
  ((∀ s : State, s.power.phase = .sequencing →
     ∃ t, exec (.pwrGood none) s = .next t ∧ t.power.phase = .on ∧ t.power.pwrGood = true ∧ t.halted = false ∧
       (∀ q < 4, t.replica q = 0) ∧ t.mem = [] ∧ t.panel = [] ∧ t.ctrl = [] ∧ t.flash = s.flash ∧ t.fuses = s.fuses ∧
       t.fget Fl.secBootStatStage 0 = sgRom ∧ t.fget Fl.errEvtCount 0 = 0) ∧
   (∀ (s : State) (rail : Nat), s.power.phase = .sequencing →
     ∃ t, exec (.pwrGood (some rail)) s = .next t ∧ t.power.phase = .down ∧ t.power.pwrGood = false))

/-- R385, R386, R390, R392, Table 16.2: what powers a running module down: PWR_GOOD falls, the module halts with every
port DISABLED, and every memory loses its contents. -/
def Obligations.PowerDowns : Prop :=
  ∀ s : State, s.power.phase = .on →
    (∃ t, exec .pwrEnDeassert s = .next t ∧ Safety.Down t ∧ t.power.thermTripN = true) ∧
    (∀ mv < 44000, ∃ t, exec (.inputBrownout mv) s = .next t ∧ Safety.Down t) ∧
    (∀ mv, 64000 < mv → ∃ t, exec (.inputOvervoltageTrip mv) s = .next t ∧ Safety.Down t) ∧
    (∀ rail < 16, rail < 8 ∨ 12 ≤ rail → ∃ t, exec (.railShort rail) s = .next t ∧ Safety.Down t) ∧
    (∀ (src : Nat) (temp : BitVec 16) (lim trip : Int), thermLimits src = some (lim, trip) → trip ≤ temp.toInt →
      ∃ t, exec (.thermalTrip src temp) s = .next t ∧ Safety.Down t ∧ t.power.thermTripN = false) ∧
    (s.power.phases ≤ 4 → ∃ t, exec .phaseLost s = .next t ∧ Safety.Down t)

/-- Table 16.2, R383, R394: the warnings of the input and of the converter in a powered module. R394, R396, Table
16.5: the loss of the 100 MHz reference or of the ARRAY PLL shows in CLK_STAT and halts the module. -/
def Obligations.WarningsAndClocks : Prop :=
  (∀ s : State, s.powered = true →
     (∀ mv < 46000, ∃ t, exec (.inputUndervoltage mv) s = .next t ∧ t.fget Fl.pwrStatUvWarn 0 = 1 ∧
       t.fget Fl.pwrStatLoadShed 0 = 1 ∧ t.power.uvShed = true) ∧
     (∀ mv, 46500 < mv → ∃ t, exec (.inputRecovered mv) s = .next t ∧ t.fget Fl.pwrStatUvWarn 0 = 0 ∧
       t.power.uvShed = false) ∧
     (∀ mv, 60000 < mv → ∃ t, exec (.inputOvervoltageWarn mv) s = .next t ∧ t.fget Fl.pwrStatOvWarn 0 = 1) ∧
     (∃ t, exec .remoteSenseOpen s = .next t ∧ t.fget Fl.pwrStatSenseLocal 0 = 1) ∧
     (5 ≤ s.power.phases → s.power.phases ≤ 8 → ∃ t, exec .phaseLost s = .next t ∧ t.power.phase = .on ∧
       t.fget Fl.pwrCapPhases 0 = s.power.phases - 1 ∧ t.fget Fl.pwrStatPhaseLost 0 = 1)) ∧
  (∀ s : State, s.powered = true →
     (∃ t, exec (.referenceLost false) s = .next t ∧ t.fget Fl.clkStatRef100 0 = 0 ∧ t.halted = true) ∧
     (∃ t, exec (.pllLost .array) s = .next t ∧ t.fget Fl.clkStatArray 0 = 0 ∧ t.halted = true))

/-- R390: the cap controller's comparison, CAP_N between 0 and 63, and the writes of LIMIT_W that it takes. R391: a
source at or above its throttle threshold raises THERM_N by 4, up to 63. R389: load shed begins with SHED_N stamped
for a bell at most 88 array cycles ahead, ends with a step-down, and steps down by 8, at the bell kept for its next step. -/
def Obligations.PowerLevels : Prop :=
  ((∀ (s : State) (mv ma mw : Nat), s.live = true →
     let l := min (s.fget Fl.pwrCapLimitW 0) (500 * s.fget Fl.pwrCapPhases 0)
     let n := s.fget Fl.arrThrottleCapN 0
     ∃ t, exec (.capControlTick mv ma mw) s = .next t ∧
       (l * 1000 < mw → t.fget Fl.arrThrottleCapN 0 = min 63 (n + 2)) ∧
       (mw + 100000 < l * 1000 → t.fget Fl.arrThrottleCapN 0 = n - 1) ∧
       (mw ≤ l * 1000 → l * 1000 ≤ mw + 100000 → t.fget Fl.arrThrottleCapN 0 = n)) ∧
   (∀ (s : State) (h : Nat) (v : Word64), s.live = true → s.present (.hart h) = true →
     ∃ t, exec (.pwrCapWrite (.hart h) v) s = .next t ∧
       t.fget Fl.pwrCapLimitW 0 =
         (if 1200 ≤ bitsOf v.toNat 63 48 ∧ bitsOf v.toNat 63 48 ≤ 4000 then bitsOf v.toNat 63 48
           else s.fget Fl.pwrCapLimitW 0))) ∧
  (∀ (s : State) (temps : List (BitVec 16)) (n : Nat) (x : BitVec 16) (lim trip : Int),
     s.live = true → n < 15 → temps[n]? = some x → thermLimits n = some (lim, trip) → lim ≤ x.toInt →
     ∃ t, exec (.thermalControlTick temps) s = .next t ∧
       t.fget Fl.arrThrottleThermN 0 = min 63 (s.fget Fl.arrThrottleThermN 0 + 4) ∧
       (∀ p < 12, t.fget Fl.portStatState p = s.fget Fl.portStatState p) ∧ t.ops = s.ops ∧ t.tiles = s.tiles) ∧
  (∀ s : State, s.powered = true →
     (s.fget Fl.pwrStatLoadShed 0 = 0 → s.fget Fl.pwrStatShedRamp 0 = 0 →
       ∃ t d, exec .loadShedFall s = .next t ∧ t.fget Fl.pwrStatLoadShed 0 = 1 ∧ t.power.loadShedN = false ∧ d ≤ 88 ∧
         t.power.due = s.power.due ++ [(s.now + d, true, s.fget Fl.pwrCapShedN 0)]) ∧
     (s.fget Fl.pwrStatLoadShed 0 = 1 → s.power.uvShed = false →
       ∃ t d, exec .loadShedRise s = .next t ∧ t.fget Fl.pwrStatLoadShed 0 = 0 ∧ t.fget Fl.pwrStatShedRamp 0 = 1 ∧
         d ≤ 88 ∧ t.power.due = s.power.due ++ [(s.now + d, true, s.shedTarget - 8)]) ∧
     (s.fget Fl.pwrStatShedRamp 0 = 1 → s.shedTarget ≠ 0 → s.power.rampNext ≤ s.now + 88 →
       ∃ t, exec .shedStepDown s = .next t ∧
         t.power.due = s.power.due ++ [(max s.now s.power.rampNext, true, s.shedTarget - 8)]))

/-- R397, R398: RESET_N holds a powered module in reset with its rails up; at its end the straps are sampled and the
module starts anew. -/
def Obligations.ResetPin : Prop :=
  (∀ s : State, s.power.phase = .on →
    ∃ t, exec .resetNAssert s = .next t ∧ t.power.resetN = false ∧ t.power.phase = .on ∧
      t.power.pwrGood = s.power.pwrGood ∧ t.halted = false ∧ t.bell = [] ∧ t.mem = [] ∧ t.ops = [] ∧
      t.flash = s.flash ∧ t.fuses = s.fuses) ∧
  (∀ (s : State) (straps : BitVec 6), s.power.phase = .on → s.power.resetN = false →
    ∃ t, exec (.resetNDeassert straps) s = .next t ∧ t.power.resetN = true ∧ t.power.straps = straps ∧
      t.live = true ∧ t.bell = [] ∧ t.mem = [] ∧ t.boot.wiping = [.hbm, .panel, .commons, .table] ∧
      t.fget Fl.mgtI3cPid 0 % 64 = straps.toNat)

/-! ### Boot -/

/-- R286, Table 11.7, Table 15.9: the wipe of HBM (once trained), of the panel stores, of the commons and of the table RAM
leaves zeros, sets its MEM_WIPE bit and the bell of its end; a wipe that fails fails the boot. R276, Table 15.2: once HBM is
trained its stacks serve, each ACTIVE, or DEGRADED where the record retires a pseudo-channel of it; a stack that is lost is
FAILED, fails the boot and halts the module. -/
def Obligations.MemoriesReady : Prop :=
  (∀ (s : State) (m : WipeMem), s.live = true → m ∈ s.boot.wiping → (m = .hbm → s.boot.trained = true) →
     (∃ t, exec (.wipeDone m true) s = .next t ∧ t.fget (wipeFld m) 0 = 1 ∧
       t.fget Fl.memWipeEndBell 0 = s.now % 2 ^ 48 ∧ m ∉ t.boot.wiping ∧
       (m = .hbm → ∀ a < 0xC000000000, t.byteAt a = 0) ∧ (m = .panel → ∀ a, inPanel a = true → t.byteAt a = 0) ∧
       (m = .commons → ∀ a, inPanel a = false → 0xC000000000 ≤ a → t.byteAt a = 0) ∧
       (m = .table → t.tables.bank0 = [] ∧ t.tables.bank1 = [])) ∧
     (∃ t, exec (.wipeDone m false) s = .next t ∧ t.fget Fl.secBootStatStage 0 = sgFailed ∧
       t.fget Fl.secBootStatErr 0 = 0x07)) ∧
  (∀ s : State, s.live = true → s.stage = sgInit → s.boot.trained = false →
     (∃ t, exec (.hbmTrainingDone []) s = .next t ∧ t.boot.trained = true ∧
       (∀ k < 8, t.fget Fl.memCtlState k = 1 ∨ t.fget Fl.memCtlState k = 2) ∧
       (s.boot.record = [] → ∀ k < 8, t.fget Fl.memCtlState k = 1)) ∧
     (∀ lost : List Nat, lost ≠ [] → (∀ k ∈ lost, k < 8) →
       ∃ t, exec (.hbmTrainingDone lost) s = .next t ∧ t.halted = true ∧ t.stage = sgFailed ∧
         t.fget Fl.secBootStatErr 0 = 0x08 ∧ ∀ k ∈ lost, t.fget Fl.memCtlState k = 3))

/-- R361, R369, Table 15.9: with no slot that verifies the boot ends in RECOVERY with FW_INVALID; with one, INIT
begins with the array under test. R357, R358, R369: boot lock sets LOCK, empties the staging area, and STAGE reads
FIRMWARE, or STANDALONE without a record. -/
def Obligations.BootStages : Prop :=
  (∀ (s : State) (v : Verdicts), s.live = true → s.boot.started = true → s.boot.verified = false →
     s.stage = sgRom → (s.lifecycle v).fuses.life ≠ 0xF →
     ((∀ k ∈ s.boot.slots, (s.lifecycle v).slotOk v k = false) →
       ∃ t, exec (.firmwareVerified v) s = .next t ∧ t.stage = sgRecovery ∧ t.fget Fl.secBootStatErr 0 = 0x02) ∧
     ((∃ k ∈ s.boot.slots, (s.lifecycle v).slotOk v k = true) →
       ∃ t, exec (.firmwareVerified v) s = .next t ∧ t.stage = sgInit ∧ t.fget Fl.arrModeTest 0 = 0xF ∧
         t.fget Fl.arrModeLock 0 = 0)) ∧
  (∀ s : State, s.live = true → s.bootReady = true →
     ∃ t, exec .bootLock s = .next t ∧ t.fget Fl.secBootStatLock 0 = 1 ∧ t.boot.staged = [] ∧
       t.stage = (if s.boot.record = [] then sgStandalone else sgFirmware))

/-! ### Register writes -/

/-- R4, R404: a write of another width than 64 bits, at an unaligned offset or at a hole changes no register; the control
core that makes it takes an access fault (that of the privileged architecture for stores, in machine mode; log entry 8,
PRESUMED). R5, R358, R405: an RWL field that a record's ROM may write keeps its value once boot lock is set, whoever writes; a register of
plain RW fields takes a hart's write in every field that takes the value, and changes no other register. -/
def Obligations.RegisterWrites : Prop :=
  (∀ (s : State) (req : Requester) (off width : Nat) (v : Word64), s.live = true →
     width ≠ 8 ∨ off % 8 ≠ 0 ∨ regAt off = none →
     ((∀ h, req = .hart h → s.present req = false) → exec (.registerWrite req off width v) s = .next s) ∧
     (∀ h, req = .hart h → s.present req = true → (s.hart h).priv = .machine →
       ∃ t, exec (.registerWrite req off width v) s = .next t ∧ (t.hart h).cs csMcause = 7 ∧
         (t.hart h).cs csMepc = (s.hart h).pc ∧ (t.hart h).cs csMtval = BitVec.ofNat 64 (regBase + off) ∧
         (t.hart h).pc = trapPc ((s.hart h).cs csMtvec) false 7 ∧ (∀ g, g ≠ h → t.hart g = s.hart g) ∧
         t = { s with harts := t.harts })) ∧
  ((∀ (s : State) (h i : Nat) (v : Word64), s.live = true → s.present (.hart h) = true → i < 8 →
     ∃ t, exec (.registerWrite (.hart h) (Reg.off .ostClassWt i) 8 v) s = .next t ∧
       t.fget Fl.ostClassWtStrict i = bitsOf v.toNat 63 63 ∧
       t.fget Fl.ostClassWtWt i =
         (if bitsOf v.toNat Fl.ostClassWtWt.hi 0 = 0 then s.fget Fl.ostClassWtWt i
           else bitsOf v.toNat Fl.ostClassWtWt.hi 0) ∧
       (∀ (r : Reg) (j : Nat), j < r.place.2.1 → (r ≠ .ostClassWt ∨ j ≠ i) → t.rd r j = s.rd r j) ∧
       t = { s with regs := t.regs, swFields := t.swFields }) ∧
   (∀ (s : State) (req : Requester) (i : Nat) (v : Word64), s.live = true → s.bootLocked = true → i < 11 →
     exec (.registerWrite req (Reg.off .toLimit i) 8 v) s = .next s))

/-- R292: ROOM_BASE_n and ROOM_SIZE_n take a write only while ENABLE is 0, and then HEAD and TAIL start at 0. R292:
ENABLE is set only where the whole ring lies in memory that is there, and cleared by any write of 0. R293: a doorbell
write is taken when the increase fits the free slots of a FIRMWARE room; TAIL then reads the value written, modulo
2^17. Any other one leaves TAIL and is logged. -/
def Obligations.Rooms : Prop :=
  (∀ (s : State) (h n : Nat) (v : Word64), s.live = true → s.present (.hart h) = true → n < 4096 →
     (s.fget Fl.roomAttrEnable n = 0 →
       (∃ t, exec (.roomConfigWrite (.hart h) n false v) s = .next t ∧
         t.fget Fl.roomBaseBase n = bitsOf v.toNat Fl.roomBaseBase.hi Fl.roomBaseBase.lo ∧
         t.fget Fl.roomHeadHead n = 0 ∧ t.fget Fl.roomTailTail n = 0) ∧
       (4 ≤ v.toNat % 32 → v.toNat % 32 ≤ 16 →
         ∃ t, exec (.roomConfigWrite (.hart h) n true v) s = .next t ∧ t.fget Fl.roomSizeLog2 n = v.toNat % 32 ∧
           t.fget Fl.roomHeadHead n = 0 ∧ t.fget Fl.roomTailTail n = 0)) ∧
     (s.fget Fl.roomAttrEnable n = 1 → ∀ size, exec (.roomConfigWrite (.hart h) n size v) s = .next s)) ∧
  (∀ (s : State) (h n : Nat) (v : Word64), s.live = true → s.present (.hart h) = true → n < 4096 →
     (v.getLsbD 63 = false →
       ∃ t, exec (.roomEnableWrite (.hart h) n v) s = .next t ∧ t.fget Fl.roomAttrEnable n = 0) ∧
     (v.getLsbD 63 = true → s.populated (s.ringBase n) (256 * s.ringSlots n) = true →
       s.fget Fl.twnCtlEnable 0 = 0 → s.fget Fl.glbNodeRole 0 = 0 →
       ∃ t, exec (.roomEnableWrite (.hart h) n v) s = .next t ∧ t.fget Fl.roomAttrEnable n = 1) ∧
     (v.getLsbD 63 = true → s.populated (s.ringBase n) (256 * s.ringSlots n) = false →
       ∃ t, exec (.roomEnableWrite (.hart h) n v) s = .next t ∧
         t.fget Fl.roomAttrEnable n = s.fget Fl.roomAttrEnable n ∧
         t.fget Fl.errEvtCount 0 = (s.fget Fl.errEvtCount 0 + 1) % 2 ^ 32 ∧ t.fget Fl.errEvtCode 0 = 0x14)) ∧
  (∀ (s : State) (req : Requester) (n : Nat) (v : Word64),
     s.live = true → s.mayWrite req .hartG = true → n < 4096 →
     let head := s.fget Fl.roomHeadHead n
     let tail := s.fget Fl.roomTailTail n
     let add := (v.toNat % 2 ^ 17 + 2 ^ 17 - tail) % 2 ^ 17
     let count := (tail + 2 ^ 17 - head) % 2 ^ 17
     (s.fget Fl.roomAttrSrc n = 0 → count ≤ s.ringSlots n → add ≤ s.ringSlots n - count →
       ∃ t, exec (.roomDoorbell req n v) s = .next t ∧ t.fget Fl.roomTailTail n = v.toNat % 2 ^ 17) ∧
     (s.fget Fl.roomAttrSrc n = 1 ∨ s.ringSlots n - count < add →
       ∃ t, exec (.roomDoorbell req n v) s = .next t ∧ t.fget Fl.roomTailTail n = tail ∧
         t.fget Fl.errEvtCount 0 = (s.fget Fl.errEvtCount 0 + 1) % 2 ^ 32 ∧ t.fget Fl.errEvtCode 0 = 0x14))

/-- R167, R289: only the principal hart releases the trap; nothing else changes. R200: a write of LOOSE_SWAP
sets it and swaps nothing yet; under DET_STRICT it is refused and logged. R329: ERR_LOG_BASE takes an address whose ring lies in
memory that is there, and 0; it ignores one whose ring does not. R295, R296: an ACL_LOAD takes all 16 lists of 256
entries from the commons: afterwards a node holds a right under a list exactly when a valid entry of the table in
memory gives it. -/
def Obligations.ControlWrites : Prop :=
  ((∀ (s : State) (req : Requester), s.live = true →
      (s.isPrincipal req = true →
        exec (.trapClr req) s = .next { s with ost := { s.ost with trapped := false } }) ∧
      (s.isPrincipal req = false → exec (.trapClr req) s = .next s)) ∧
   (∀ (s : State) (h : Nat), s.live = true → s.present (.hart h) = true →
      (s.fget Fl.detStrictStrict 0 = 0 →
        ∃ t, exec (.looseSwap (.hart h)) s = .next t ∧ t.fget Fl.tblGenLooseSwap 0 = 1 ∧ t.tables = s.tables ∧
          (∀ (r : Reg) (j : Nat), j < r.place.2.1 → r ≠ .tblGen → t.rd r j = s.rd r j)) ∧
      (s.fget Fl.detStrictStrict 0 = 1 →
        ∃ t, exec (.looseSwap (.hart h)) s = .next t ∧ t.fget Fl.tblGenLooseSwap 0 = 0 ∧ t.tables = s.tables ∧
          t.fget Fl.errEvtCode 0 = 0x14)) ∧
   (∀ (s : State) (h : Nat) (v : Word64), s.live = true → s.present (.hart h) = true →
      let a := bitsOf v.toNat 39 0
      let n := 64 * 2 ^ (10 + bitsOf v.toNat 58 56)
      (a = 0 ∨ (a % 64 = 0 ∧ s.populated a n = true) →
        ∃ t, exec (.errLogBaseWrite (.hart h) v) s = .next t ∧ t.fget Fl.errLogBaseAddr 0 = a ∧
          t.fget Fl.errLogBaseSize 0 = bitsOf v.toNat 58 56 ∧ t = { s with regs := t.regs, swFields := t.swFields }) ∧
      (a ≠ 0 → s.populated a n = false → exec (.errLogBaseWrite (.hart h) v) s = .next s))) ∧
  (∀ (s : State) (h : Nat), s.live = true → s.present (.hart h) = true →
     inCommons (s.fget Fl.ostCtlAcl64k 0 * 65536) 32768 = true →
     ∃ t, exec (.aclLoad (.hart h)) s = .next t ∧
       ∀ (l : Nat) (r : Right) (node : Nat), l < 16 →
         (t.hasRight l r node = true ↔
           ∃ k < 256,
             let w := s.peekNat (s.fget Fl.ostCtlAcl64k 0 * 65536 + 8 * (256 * l + k)) 8
             bitsOf w 63 63 = 1 ∧ bitsOf w r.bit r.bit = 1 ∧ bitsOf w 17 0 ≤ node ∧ node ≤ bitsOf w 35 18))

/-- R326: an acknowledgement by the principal stores the count, and clears PEND only when it equals COUNT; one from
any other requester changes nothing. Said for ERR_ACK and for the ports' acknowledge registers. R333, R334: a kick
restarts the watchdog of the hart whose own bit is set, and that of the module from the principal only; nothing else
changes. -/
def Obligations.AcksAndKicks : Prop :=
  ((∀ (s : State) (req : Requester) (v : Word64), s.live = true → s.isPrincipal req = true →
     ∃ t, exec (.eventAck req (Reg.off .errAck 0) v) s = .next t ∧
       t.fget Fl.errAckCount 0 = bitsOf v.toNat 63 32 ∧ t.fget Fl.errEvtCount 0 = s.fget Fl.errEvtCount 0 ∧
       t.fget Fl.errEvtPend 0 =
         (if bitsOf v.toNat 63 32 = s.fget Fl.errEvtCount 0 then 0 else s.fget Fl.errEvtPend 0) ∧
       t = { s with regs := t.regs }) ∧
   (∀ (s : State) (req : Requester) (p : Nat) (v : Word64), s.live = true → s.isPrincipal req = true → p < 12 →
     ∃ t, exec (.eventAck req (Reg.off .portRetryAck p) v) s = .next t ∧
       t.fget Fl.portRetryAckCount p = bitsOf v.toNat 63 32 ∧
       t.fget Fl.portRetryEvtPend p =
         (if bitsOf v.toNat 63 32 = s.fget Fl.portRetryEvtCount p then 0 else s.fget Fl.portRetryEvtPend p)) ∧
   (∀ (s : State) (req : Requester) (off : Nat) (v : Word64), s.live = true → s.isPrincipal req = false →
     exec (.eventAck req off v) s = .next s)) ∧
  (∀ s : State, s.live = true →
     (∀ (h : Nat) (bits : BitVec 16), s.present (.hart h) = true →
       (bits.getLsbD h = true →
         exec (.hartKick h bits) s = .next { s with harts := mput {} s.harts h { s.hart h with kick := s.now } }) ∧
       (bits.getLsbD h = false → exec (.hartKick h bits) s = .next s)) ∧
     (∀ req : Requester,
       (s.isPrincipal req = true → exec (.moduleKick req) s = .next { s with moduleKick := s.now }) ∧
       (s.isPrincipal req = false → exec (.moduleKick req) s = .next s)))

/-- R312: DET_STEP and the seeds take a write of a hart only while the module is stopped and idle; else the write is
refused and logged. R312, R316: LOG_EN is set by a write in a stopped and idle module whose log area lies in memory
that is there, and the log then starts at position 0; a write at any other time is refused. -/
def Obligations.DeterminismWrites : Prop :=
  (∀ (s : State) (h : Nat) (v : Word64), s.live = true → s.present (.hart h) = true →
     (s.idle = true →
       (∃ t, exec (.detWrite (.hart h) (Reg.off .detStep 0) v) s = .next t ∧
         t.fget Fl.detStepStep 0 = bitsOf v.toNat Fl.detStepStep.hi Fl.detStepStep.lo) ∧
       (∀ i < 16, ∃ t, exec (.detWrite (.hart h) (Reg.off .detSeed i) v) s = .next t ∧ t.rd .detSeed i = v)) ∧
     (s.idle = false →
       (∃ t, exec (.detWrite (.hart h) (Reg.off .detStep 0) v) s = .next t ∧ t.rd .detStep 0 = s.rd .detStep 0 ∧
         t.fget Fl.errEvtCode 0 = 0x14) ∧
       (∀ i < 16, ∃ t, exec (.detWrite (.hart h) (Reg.off .detSeed i) v) s = .next t ∧ t.rd .detSeed i = s.rd .detSeed i ∧
         t.fget Fl.errEvtCode 0 = 0x14))) ∧
  (∀ (s : State) (h : Nat) (v : Word64), s.live = true → s.present (.hart h) = true →
     (s.idle = true → v.getLsbD 63 = false →
       ∃ t, exec (.waymarkCtlWrite (.hart h) v) s = .next t ∧ t.fget Fl.waymarkCtlLogEn 0 = 0) ∧
     (s.idle = true → v.getLsbD 63 = true → s.fget Fl.waymarkCtlLogEn 0 = 0 → bitsOf v.toNat 35 28 ≠ 0 →
       s.populated (bitsOf v.toNat 55 36 * 2 ^ 20) (bitsOf v.toNat 35 28 * 2 ^ 20) = true →
       ∃ t, exec (.waymarkCtlWrite (.hart h) v) s = .next t ∧ t.fget Fl.waymarkCtlLogEn 0 = 1 ∧
         t.log.writePos = 0 ∧ t.log.sealPos = 0) ∧
     (s.idle = false →
       ∃ t, exec (.waymarkCtlWrite (.hart h) v) s = .next t ∧ t.rd .waymarkCtl 0 = s.rd .waymarkCtl 0 ∧
         t.fget Fl.errEvtCode 0 = 0x14))

/-- R213: a context takes a configuration while no collective of it runs; with VALID it needs a list of distinct
members that lies in the commons and names this node. -/
def Obligations.GroupConfig : Prop :=
  ∀ (s : State) (h n : Nat) (v : Word64), s.live = true → s.present (.hart h) = true → n < 1024 →
    ((s.fget Fl.grpStatState n = 1 ∨ s.fget Fl.grpStatState n = 2) →
      exec (.grpCfgWrite (.hart h) n v) s = .next s) ∧
    (s.fget Fl.grpStatState n ≠ 1 → s.fget Fl.grpStatState n ≠ 2 → v.getLsbD 63 = false →
      ∃ t, exec (.grpCfgWrite (.hart h) n v) s = .next t ∧ t.fget Fl.grpCfgValid n = 0) ∧
    (s.fget Fl.grpStatState n ≠ 1 → s.fget Fl.grpStatState n ≠ 2 → v.getLsbD 63 = true →
      (n < 512 ∨ s.fget Fl.twnCtlEnable 0 = 0) →
      let a := bitsOf v.toNat 39 0
      let c := bitsOf v.toNat 60 42
      let ms := s.readMembers false a c
      let good := 1 ≤ c ∧ c ≤ 262144 ∧ a % 8 = 0 ∧ inCommons a (4 * c) = true ∧ ms.Nodup ∧ s.node ∈ ms
      (good →
        ∃ t, exec (.grpCfgWrite (.hart h) n v) s = .next t ∧ t.fget Fl.grpCfgValid n = 1 ∧
          t.fget Fl.grpStatSelf n = ms.idxOf s.node % 2 ^ 18 ∧ t.fget Fl.grpStatSeq n = 0 ∧
          t.fget Fl.grpStatState n = 0) ∧
      (¬ good → ∃ t, exec (.grpCfgWrite (.hart h) n v) s = .next t ∧ t.fget Fl.grpCfgValid n = 0))

/-- R240, Table 10.2: a port with a role leaves DISABLED for DETECT when ENABLE is set and enters it when ENABLE is
cleared; RETRAIN takes an ACTIVE port to RETRAIN and a DOWN port to DETECT. R240 to R243, R246, R253, R254, Table
10.2: the training of a port. -/
def Obligations.PortStates : Prop :=
  (∀ (s : State) (h p : Nat), s.live = true → s.present (.hart h) = true → p < 12 →
     (s.fget Fl.portStatState p = 0 → s.portRole p ≠ 0 → s.twinSelf ≠ twExcluded →
       ∃ t, exec (.portEnableWrite (.hart h) p true) s = .next t ∧ t.fget Fl.portStatState p = 1) ∧
     (∃ t, exec (.portEnableWrite (.hart h) p false) s = .next t ∧ t.fget Fl.portStatState p = 0) ∧
     (s.fget Fl.portStatState p = 5 →
       ∃ t, exec (.portRetrain (.hart h) p) s = .next t ∧ t.fget Fl.portStatState p = 6 ∧
         (∀ q < 12, q ≠ p → t.fget Fl.portStatState q = s.fget Fl.portStatState q)) ∧
     (s.fget Fl.portStatState p = 7 →
       ∃ t, exec (.portRetrain (.hart h) p) s = .next t ∧ t.fget Fl.portStatState p = 1)) ∧
  (∀ (s : State) (p : Nat), s.live = true → p < 12 →
     (s.fget Fl.portStatState p = 1 →
       ∃ t, exec (.portDetect p) s = .next t ∧ t.fget Fl.portStatState p = 2 ∧
         (∀ q < 12, q ≠ p → t.fget Fl.portStatState q = s.fget Fl.portStatState q ∧ t.port q = s.port q) ∧
         (t.port p).seq = 0 ∧ (t.port p).expect = 0 ∧ (t.port p).replay = [] ∧ (t.port p).trained = false ∧
         t = { s with regs := t.regs, ports := t.ports }) ∧
     (∀ failed : BitVec 8, s.trainPhase p = 2 →
       let bad := failed.toNat - failed.toNat.land (s.fget Fl.portLanesDisable p)
       let pass := (List.range 8).filter fun l => bitsOf bad l l = 0 && bitsOf (s.fget Fl.portLanesWeak p) l l = 0 &&
         bitsOf (s.fget Fl.portLanesDisable p) l l = 0
       ∃ t, exec (.equaliseDone p failed) s = .next t ∧ t.fget Fl.portLanesFailed p = bad ∧
         (lanesOfWidth (s.fget Fl.portCtlMinWidth p) ≤ pass.length → t.trainPhase p = 3 ∧
           (t.port p).align = alignSequence (t.lanesTrained p) (laneBits (t.passedLanes p)) 0 false) ∧
         (pass.length < lanesOfWidth (s.fget Fl.portCtlMinWidth p) →
           t.fget Fl.portStatState p = 7 ∧ t.fget Fl.portStatDownCause p = 2)) ∧
     (∀ far prop : BitVec 8, s.trainPhase p = 3 →
       let c := chooseLanes (s.passedLanes p) ((List.range 8).filter fun l => far.getLsbD l)
       (∀ w ls, c = some (w, ls) → w ≤ s.fget Fl.portCtlMinWidth p →
         (prop.toNat = laneBits ls →
           ∃ t, exec (.alignDone p ⟨far, prop⟩) s = .next t ∧ t.trainPhase p = 4 ∧ t.fget Fl.portStatWidth p = w ∧
             (t.port p).lanes = BitVec.ofNat 8 (laneBits ls) ∧ (t.port p).ctrl.head? = some (s.configPayload p)) ∧
         (prop.toNat ≠ laneBits ls →
           ∃ t, exec (.alignDone p ⟨far, prop⟩) s = .next t ∧
             ((s.port p).alignFails < 2 → t.trainPhase p = 2 ∧ (t.port p).alignFails = (s.port p).alignFails + 1) ∧
             (2 ≤ (s.port p).alignFails → t.fget Fl.portStatState p = 7 ∧ t.fget Fl.portStatDownCause p = 5))) ∧
       ((∀ w ls, c = some (w, ls) → s.fget Fl.portCtlMinWidth p < w) →
         ∃ t, exec (.alignDone p ⟨far, prop⟩) s = .next t ∧ t.fget Fl.portStatState p = 7 ∧
           t.fget Fl.portStatDownCause p = 2)) ∧
     (s.trainPhase p = 3 → s.elapsed (s.port p).alignAt 8000 = true →
       ∃ t, exec (.alignTimeout p) s = .next t ∧
         ((s.port p).alignFails < 2 → t.trainPhase p = 2 ∧ (t.port p).alignFails = (s.port p).alignFails + 1) ∧
         (2 ≤ (s.port p).alignFails → t.fget Fl.portStatState p = 7 ∧ t.fget Fl.portStatDownCause p = 5)) ∧
     (s.fget Fl.portStatState p = 6 → s.elapsed (s.port p).retrainAt (s.limitUs 4) = true →
       ∃ t, exec (.retrainTimeout p) s = .next t ∧ t.fget Fl.portStatState p = 7 ∧ t.fget Fl.portStatDownCause p = 1 ∧
         (t.port p).replay = []) ∧
     (∀ payload : List Byte, s.trainPhase p = 4 → payload.head? = some 1 →
       let node := bitsOf (leNat ((payload.drop 4).take 4)) 17 0
       (s.peerFault p payload = none → (s.port p).probe = none ∨ s.fget Fl.portStatState p ≠ 6 →
         ∃ t, exec (.configFlit p payload) s = .next t ∧ t.fget Fl.portStatState p = 5 ∧ (t.port p).peer = some node ∧
           t.fget Fl.portStatPeerNode p = node ∧
           ((s.port p).trained = false →
             ∀ v < 8, mget 0 (t.port p).credit v = leNat ((payload.drop (8 + 2 * v)).take 2))) ∧
       (∀ cause, s.peerFault p payload = some cause →
         ∃ t, exec (.configFlit p payload) s = .next t ∧ t.fget Fl.portStatState p = 7 ∧
           t.fget Fl.portStatDownCause p = cause)) ∧
     (∀ lane codewords symbols : Nat, lane < 8 → s.fget Fl.portStatState p = 5 →
       bitsOf (s.fget Fl.portLanesActive p) lane lane = 1 →
       let n := ((s.port p).countCw codewords).laneErrors lane + symbols
       ∃ t, exec (.laneWeak p ⟨lane, codewords, symbols⟩) s = .next t ∧ (t.port p).laneErrors lane = n ∧
         (s.fget Fl.portLanesSerMax p < n → bitsOf (t.fget Fl.portLanesWeak p) lane lane = 1) ∧
         (n ≤ s.fget Fl.portLanesSerMax p → t.regs = s.regs) ∧
         (∀ l < 8, l ≠ lane → bitsOf (t.fget Fl.portLanesWeak p) l l = bitsOf (s.fget Fl.portLanesWeak p) l l) ∧
         t = { s with regs := t.regs, ports := t.ports }))

/-- R353: the principal's TWN_ADOPT names the spare; GO stays set only while an ADOPT is on its way; outside
SERVING_BOTH the adoption is refused (the refusal is the model's reading, log entry 30). R372, R397: GO from the
principal hart resets the module; from any other requester it does nothing. -/
def Obligations.AdoptAndLife : Prop :=
  (∀ (s : State) (req : Requester) (v : Word64), s.live = true → s.isPrincipal req = true → v.getLsbD 63 = true →
     s.fget Fl.twnAdoptGo 0 = 0 →
     ∃ t, exec (.twnAdopt req v) s = .next t ∧
       t.fget Fl.twnAdoptNode 0 = bitsOf v.toNat Fl.twnAdoptNode.hi Fl.twnAdoptNode.lo ∧
       (s.twinSelf ≠ twServingBoth → t.fget Fl.twnAdoptGo 0 = 0 ∧ t.fget Fl.errEvtCode 0 = 0x14) ∧
       (t.fget Fl.twnAdoptGo 0 = 1 →
         (∃ r ∈ t.reqs, r.who = .adopt) ∨ ∃ w ∈ t.waitTxns, w.2.2 = some .adopt)) ∧
  (∀ (s : State) (req : Requester), s.live = true →
     (s.isPrincipal req = true →
       ∃ t, exec (.lifeReqGo req) s = .next t ∧ t.bell = [] ∧ t.mem = [] ∧ t.ops = [] ∧ t.flash = s.flash ∧
         t.fuses = s.fuses ∧ t.fget Fl.secBootStatLock 0 = 0 ∧ t.stage = sgRom) ∧
     (s.isPrincipal req = false → exec (.lifeReqGo req) s = .next s))

/-- R24: a write of ARR_MODE that would leave LOCK set together with a TEST bit changes neither; else LOCK is stored,
and each TEST bit but one that the write sets while its ARRAY_Q bit reads set, or in the lifecycle state RETIRED. A write of GLB_QMASK sets no bit of a
quarter under test. R23: from a write that changes LOCK, TEST or ARRAY_Q until the mode boundary the array runs under
the previous values; at the boundary all pending values take effect together. -/
def Obligations.ArrayModes : Prop :=
  (∀ (s : State) (req : Requester) (v : Word64), s.live = true → s.isPrincipal req = true →
     (v.getLsbD 0 = true → bitsOf v.toNat 7 4 ≠ 0 →
       ∃ t, exec (.arrModeWrite req v) s = .next t ∧ t.fget Fl.arrModeLock 0 = s.fget Fl.arrModeLock 0 ∧
         t.fget Fl.arrModeTest 0 = s.fget Fl.arrModeTest 0) ∧
     (v.getLsbD 0 = false ∨ bitsOf v.toNat 7 4 = 0 →
       ∃ t, exec (.arrModeWrite req v) s = .next t ∧ t.fget Fl.arrModeLock 0 = v.toNat % 2 ∧
         ∀ q < 4, bitsOf (t.fget Fl.arrModeTest 0) q q =
           (if bitsOf (s.fget Fl.arrModeTest 0) q q = 0 ∧
              (bitsOf (s.fget Fl.glbQmaskArrayQ 0) q q = 1 ∨ s.fget Fl.glbLifeState 0 = 0xF) then 0
             else bitsOf v.toNat (4 + q) (4 + q))) ∧
     (∃ t, exec (.glbQmaskWrite req v) s = .next t ∧
       ∀ q < 4, bitsOf (t.fget Fl.glbQmaskArrayQ 0) q q =
         (if bitsOf (s.fget Fl.glbQmaskArrayQ 0) q q = 0 ∧ bitsOf (s.fget Fl.arrModeTest 0) q q = 1 then 0
           else bitsOf v.toNat q q))) ∧
  ((∀ (s : State) (req : Requester) (v : Word64), s.live = true → s.isPrincipal req = true →
     (∃ t, exec (.arrModeWrite req v) s = .next t ∧ t.locked = s.locked ∧ t.testQ = s.testQ ∧ t.arrayQ = s.arrayQ) ∧
     (∃ t, exec (.glbQmaskWrite req v) s = .next t ∧ t.locked = s.locked ∧ t.testQ = s.testQ ∧ t.arrayQ = s.arrayQ)) ∧
   (∀ (s : State), s.live = true → s.arrayEmpty = true →
     ∃ t, exec .modeBoundary s = .next t ∧ t.boundary = false ∧
       t.locked = decide (s.fget Fl.arrModeLock 0 = 1) ∧ t.testQ = s.fget Fl.arrModeTest 0 ∧
       t.arrayQ = s.fget Fl.glbQmaskArrayQ 0) ∧
   (∀ (s : State), s.live = true → s.arrayEmpty = false → exec .modeBoundary s = .next s))

/-- R101, Table 14.10: the principal's writes of TILE_REPAIR_i, where nothing is fused, and of TILE_STATE_i, which
makes a SUSPECT site ACTIVE. -/
def Obligations.TileRegisters : Prop :=
  ∀ (s : State) (req : Requester) (i : Nat) (v : Word64), s.live = true → s.isPrincipal req = true → i < 4224 →
    (s.fusedRepair i = (63, 63) →
      ∃ t, exec (.tileRepairWrite req i v) s = .next t ∧
        t.fget Fl.tileRepairSpareRowFor i =
          (if repairOk (bitsOf v.toNat 5 0) then bitsOf v.toNat 5 0 else s.fget Fl.tileRepairSpareRowFor i) ∧
        t.fget Fl.tileRepairSpareColFor i =
          (if repairOk (bitsOf v.toNat 13 8) then bitsOf v.toNat 13 8 else s.fget Fl.tileRepairSpareColFor i) ∧
        t.spareRow i = s.spareRow i ∧ t.spareCol i = s.spareCol i) ∧
    (v.toNat % 4 = stActive → s.siteState i = stSuspect →
      ∃ t, exec (.tileStateWrite req i v) s = .next t ∧ t.siteState i = stActive ∧
        (∀ j < 4224, j ≠ i → t.siteState j = s.siteState j) ∧ t = { s with regs := t.regs }) ∧
    (v.toNat % 4 = stSpare → exec (.tileStateWrite req i v) s = .next s)

/-- R388: a hart's FW_N is stored, and EFF_N follows the greatest of the three levels at the next bell that is a
multiple of 64. R387: of every 64 bells from a multiple of 64 on, a level n puts a hold on exactly n, and never on the
first. -/
def Obligations.Throttle : Prop :=
  (∀ (s : State) (h : Nat) (v : Word64), s.live = true → s.present (.hart h) = true →
     let n := max (v.toNat % 64) (max (s.fget Fl.arrThrottleCapN 0) (s.fget Fl.arrThrottleThermN 0))
     ∃ t, exec (.arrThrottleWrite (.hart h) v) s = .next t ∧ t.fget Fl.arrThrottleFwN 0 = v.toNat % 64 ∧
       (s.power.due = [] → n ≠ s.fget Fl.arrThrottleEffN 0 →
         t.power.due = [((s.now / 64 + 1) * 64, false, n)])) ∧
  (∀ n < 64, ∀ k : Nat,
     ((List.range 64).filter fun i => levelHolds n (64 * k + i)).length = n ∧ levelHolds n (64 * k) = false)

/-- R118: START by the principal hart begins a run on a quarter whose TEST bit is in force while none is in progress; any
other START is refused. R115: a word passes the march test exactly if none of its bits is stuck (which march test it is, is
the model's choice, log entry 129). R116, R117: a run in which nothing is at fault clears BUSY and reports that every site
passed; no site is RETIRED by it. -/
def Obligations.Proving : Prop :=
  (∀ (s : State) (req : Requester) (v : Word64), s.live = true → s.isPrincipal req = true → v.getLsbD 63 = true →
    let q := bitsOf v.toNat 61 60
    (bitsOf s.testQ q q = 1 → s.ost.proving = none →
      ∃ t, exec (.arrProveStart req v) s = .next t ∧ t.fget Fl.arrProveBusy 0 = 1 ∧
        t.fget Fl.arrProveQuarter 0 = q ∧ t.ost.proving = some q) ∧
    (bitsOf s.testQ q q = 0 ∨ s.ost.proving.isSome = true →
      ∃ t, exec (.arrProveStart req v) s = .next t ∧ t.fget Fl.arrProveBusy 0 = s.fget Fl.arrProveBusy 0 ∧
        t.ost.proving = s.ost.proving ∧ t.fget Fl.errEvtCode 0 = 0x14)) ∧
  (∀ (s : State) (h : Nat) (v : Word64), s.live = true → s.present (.hart h) = true → h ≠ s.principalHart →
    v.getLsbD 63 = true →
    ∃ t, exec (.arrProveStart (.hart h) v) s = .next t ∧ t.rd .arrProve 0 = s.rd .arrProve 0 ∧
      t.ost.proving = s.ost.proving ∧ t.fget Fl.errEvtCode 0 = 0x14) ∧
  (∀ ones zeros : BitVec 520, marchPasses ones zeros = true ↔ ones = 0 ∧ zeros = 0) ∧
  (∀ (s : State) (q : Nat) (sites : List SiteDefects), s.live = true → s.ost.proving = some q →
    (∀ x ∈ sites, x.defects = []) →
    ∃ t, exec (.provingRunEnd q [] sites) s = .next t ∧ t.fget Fl.arrProveBusy 0 = 0 ∧ t.ost.proving = none ∧
      t.fget Fl.arrProveResult 0 = (if 64 ≤ s.retiredIn q then 2 else 1) ∧ t.fget Fl.arrProveRepaired 0 = 0 ∧
      t.fget Fl.arrProveRetired 0 = 0 ∧ (∀ i < 4224, t.siteState i = stRetired ↔ s.siteState i = stRetired))

/-! ### Bell and holds -/

/-- R17: the replicas send bits [63:16] of their value when their low bits are 0; a value that differs, or comes at
another time than three cycles later, or not at all, is a fatal clock error. R106, R107, R387: a unit that cannot
serve the bell four ahead has a hold stamped for it in its domain; throttle asks every domain. R106, R108: a hold
cycle advances the total and every cause that asked for it, once each. -/
def Obligations.BellAndHolds : Prop :=
  (∀ (s : State), s.live = true →
     (∀ q < 4, s.replica q % 2 ^ 16 = 0 →
       ∃ t, exec (.bellCheckSend q) s = .next t ∧
         (∀ d < 4, d ≠ q → mget 0 t.bellMail (4 * q + d) = bitsOf (s.replica q) 63 16 + 1) ∧
         t = { s with bellMail := t.bellMail }) ∧
     (∀ (src dst : Nat) (value : BitVec 48), src < 4 → dst < 4 → src ≠ dst →
       (value.toNat = bitsOf (s.replica dst) 63 16 → s.replica dst % 2 ^ 16 = 3 →
         ∃ t, exec (.bellCheckArrive src dst value) s = .next t ∧ t.halted = false ∧
           t = { s with bellMail := t.bellMail, bellSeen := t.bellSeen }) ∧
       (value.toNat ≠ bitsOf (s.replica dst) 63 16 ∨ s.replica dst % 2 ^ 16 ≠ 3 →
         ∃ t, exec (.bellCheckArrive src dst value) s = .next t ∧ t.halted = true ∧
           t.fget Fl.errEvtCode 0 = 0x01 ∧ t.fget Fl.errEvtClass 0 = 6)) ∧
     (∀ src dst : Nat, src < 4 → dst < 4 → src ≠ dst → s.replica dst % 2 ^ 16 = 4 →
       (mget 0 s.bellMail (4 * src + dst) ≠ 0 ∨
           mget 0 s.bellSeen (4 * src + dst) ≠ bitsOf (s.replica dst) 63 16 + 1 →
         ∃ t, exec (.bellCheckMissing src dst) s = .next t ∧ t.halted = true ∧ t.fget Fl.errEvtCode 0 = 0x01 ∧
           t.fget Fl.errEvtClass 0 = 6) ∧
       (mget 0 s.bellMail (4 * src + dst) = 0 → mget 0 s.bellSeen (4 * src + dst) = bitsOf (s.replica dst) 63 16 + 1 →
         exec (.bellCheckMissing src dst) s = .next s))) ∧
  ((∀ (s : State), s.live = true →
      (∀ (u : HoldUnit) (q c : Nat), q < 4 → unitQuarter u = some q → s.quarterRuns q = true →
        s.pruneHolds.unitShort (s.domOf q) u = some c →
        ∃ t, exec (.holdDecision u) s = .next t ∧ t = { s with holds := t.holds } ∧
          ∃ h ∈ t.holds, h.dom = s.domOf q ∧ h.bell = s.now + 4 ∧ c ∈ h.causes) ∧
      (∀ q < 4, s.quarterRuns q = true → s.commonsShort q = true →
        ∃ t, exec (.holdDecision (.commons q)) s = .next t ∧ t.holdAt (s.domOf q) (s.now + 4) = true ∧
          t = { s with holds := t.holds }) ∧
      (levelHolds (s.fget Fl.arrThrottleEffN 0) (s.now + 4) = true →
        ∃ t, exec (.holdDecision .throttle) s = .next t ∧
          (∀ d < 4, s.domQuarters d ≠ [] → t.holdAt d (s.now + 4) = true) ∧ t = { s with holds := t.holds }) ∧
      (∀ q < 4, s.commonsShort q = false → ∃ t, exec (.holdDecision (.commons q)) s = .next t ∧
        ∀ d, t.holdAt d (s.now + 4) = s.holdAt d (s.now + 4))) ∧
   (∀ (s : State) (dom : Nat) (h : Hold), s.live = true →
      s.holds.find? (fun k => k.dom == dom && k.bell == s.now) = some h →
      h.causes.Nodup → (∀ c ∈ h.causes, 1 ≤ c ∧ c < 12) →
      ∃ t, exec (.holdCycle dom) s = .next t ∧
        (∀ c < 16, t.fget Fl.arrHoldCauseCycles c =
          (s.fget Fl.arrHoldCauseCycles c + if c = 0 ∨ c ∈ h.causes then 1 else 0) % 2 ^ 64) ∧
        t.frozen dom = true ∧ (∀ a, t.byteAt a = s.byteAt a) ∧ t.tiles = s.tiles))

/-! ### Pre-emption and array timeouts -/

/-- R303: with PREEMPT_EN, the operation that the Ostler finds to pre-empt is marked to stop at its next boundary;
without it nothing is. R140, R303: the save takes the stopping operation out of the array; it stays incomplete. R332,
R336: at the hold watchdog's limit and at a fetch timeout an idempotent operation with an attempt left is run again
from its descriptor, with the same SEQ, and its groups are discarded. -/
def Obligations.Interrupted : Prop :=
  ((∀ (s : State) (dom : Nat) (o : Op), s.live = true → (s.ops.map (·.seq)).Nodup →
      (∀ x ∈ s.ops, x.preempted = false ∧ x.stopping = false) →
      s.ops.find? (fun o => o.dom == dom && o.preemptible && s.boundaryAhead o && s.strictWaits o) = some o →
      (s.fget Fl.ostCtlPreemptEn 0 = 1 → s.saveFits = true →
        ∃ t, exec (.preemptDecision dom) s = .next t ∧ t.op? o.seq = some { o with stopping := true } ∧
          (∀ n, n ≠ o.seq → t.op? n = s.op? n) ∧ t = { s with ops := t.ops }) ∧
      (s.fget Fl.ostCtlPreemptEn 0 = 0 ∨ s.saveFits = false → exec (.preemptDecision dom) s = .next s)) ∧
   (∀ (s : State) (seq : Nat) (o : Op), s.live = true → s.op? seq = some o → o.stopping = true →
      o.inArray = true → s.readyToSave o = true →
      Canonical {} s.tiles →
      (∀ e ∈ s.tiles, ∀ f, e.2.cur = some f → f.seq = seq →
        e.2.steps = 0 ∨ (e.2.block f).spills = true ∨ (s.checkBlock e.1 (o.lay f) (e.2.block f)).ok = true) →
      ∃ t o', exec (.preemptSave seq) s = .next t ∧ t.op? seq = some o' ∧ o'.stopping = false ∧ o'.preempted = true ∧
        o'.inArray = false ∧ o'.phase = o.phase ∧ (∀ n, n ≠ seq → t.op? n = s.op? n) ∧
        ∀ site f, (t.tile site).cur = some f → f.seq ≠ seq)) ∧
  ((∀ (s : State) (dom : Nat), s.live = true → (s.ops.map (·.seq)).Nodup →
     s.fget Fl.toLimitLimit 0 ≤ (mget {} s.domains dom).run → s.now ≤ (mget {} s.domains dom).last →
     (∀ o ∈ s.ops, o.inArray = true → o.dom = dom → o.again = true) →
     ∃ t, exec (.holdWatchdogExpire dom) s = .next t ∧ mget {} t.domains dom = {} ∧
       (∀ o ∈ s.ops, o.inArray = true → o.dom = dom → t.op? o.seq = some o.fresh) ∧
       (Canonical {} s.tiles → ∀ site f, (t.tile site).cur = some f → ∀ o ∈ s.ops, o.inArray = true → o.dom = dom →
         f.seq ≠ o.seq)) ∧
   (∀ (s : State) (site addr : Nat) (f : Front) (o : Op), s.live = true → Canonical {} s.tiles →
     (s.tile site).cur = some f →
     s.op? f.seq = some o → o.again = true →
     ∃ t, exec (.bellowsFetchTimeout site addr) s = .next t ∧ t.op? f.seq = some o.fresh ∧
       (t.tile site).cur = none ∧ (t.tile site).grps = [] ∧ t.fget Fl.errEvtCode 0 = 0x11))

/-! ### Tiles -/

/-- R133, R20, R111: a front that may enter its tile is taken up with its binding and TONG_WAIT mark, and its
operation is in the array. A TONG_WAIT mark whose blocks have been written is removed. R84 to R86: a tile that can
issue a step issues it; after the last one its groups stand in the drain registers and the cells are clear. -/
def Obligations.TileFronts : Prop :=
  (∀ (s : State) (seq tile plc u : Nat) (o : Op), s.live = true → s.op? seq = some o → tile < 4096 →
    s.nextSub o plc tile = some u → s.mayFront o = true → s.earlierLeft o plc (blockKey tile u) = false →
    (∀ p ∈ s.before o, s.stepsLeftAt p (o.runSite plc (blockKey tile u)) = false) →
    (s.tile (o.runSite plc (blockKey tile u))).cur = none → o.frontSteps (frontOf o plc (blockKey tile u)) ≠ 0 →
    let site := o.runSite plc (blockKey tile u)
    ∃ t o', exec (.frontEnter seq tile plc) s = .next t ∧
      (t.tile site).cur = some { frontOf o plc (blockKey tile u) with wait := o.tongWait.contains tile } ∧
      (o.saved = [] → (t.tile site).steps = 0) ∧ t.op? seq = some o' ∧ o'.entered = true ∧ o'.inArray = true ∧
      (∀ j, j ≠ site → t.tile j = s.tile j) ∧ ∀ a, t.byteAt a = s.byteAt a) ∧
  (∀ (s : State) (tile : Nat) (o : Op), s.live = true → Canonical {} s.tiles →
    s.ops.find? (fun o => o.tongWait.contains tile && s.tongDone o tile) = some o → s.op? o.seq = some o →
    ∃ t o', exec (.tongWaitEnd tile) s = .next t ∧ t.op? o.seq = some o' ∧ tile ∉ o'.tongWait ∧
      (∀ (site : Nat) (f : Front), (s.tile site).cur = some f → f.seq = o.seq → f.tile = tile → o.frontSteps f ≠ 0 →
        (t.tile site).cur = some { f with wait := false }) ∧
      ∀ a, t.byteAt a = s.byteAt a) ∧
  (∀ (s : State) (site : Nat) (f : Front) (o : Op), s.live = true → (s.tile site).cur = some f →
    s.op? f.seq = some o → s.canStep site o f (s.tile site) = true →
    ∃ t, exec (.stepIssue site) s = .next t ∧
      ((s.tile site).steps + 1 < o.frontSteps f →
        (t.tile site).cur = some f ∧ (t.tile site).steps = (s.tile site).steps + 1) ∧
      ((s.tile site).steps + 1 = o.frontSteps f →
        (t.tile site).drain = some ((if o.d.isMat then (s.stepMat site (s.runEnv o) f (s.tile site)).1
          else s.stepPass site (s.runEnv o) o f (s.tile site)).block f) ∧
        (t.tile site).cur = s.nextFront o f ∧ (t.tile site).grps = []) ∧
      (∀ j, j ≠ site → t.tile j = s.tile j) ∧ (o.d.ledgerEn = false → ∀ a, t.byteAt a = s.byteAt a))

/-- R90, R123 to R126, R182: a bellows fills from the words of its panel store; a word of an operand arrives in the
panel store of every tile that needs it; the table builder forms the products of a row's activation. -/
def Obligations.TileFills : Prop :=
  (∀ (s : State) (site : Nat) (row : Bool) (idx r : Nat) (f : Front) (o : Op), s.live = true →
    (s.tile site).cur = some f → s.op? f.seq = some o → o.d.isMat = true →
    logicalOf (if row then s.spareRow site else s.spareCol site) idx = some r →
    (if row then o.d.usesRow f r else o.d.usesCol f r) = true →
    let d := o.d
    let b := mget {} (if row then (s.tile site).rowB else (s.tile site).colB) idx
    let x := d.fillOf (d.partKs (d.partOf f.tile)) row r b.pos f.sub
    (∀ p, some p ∈ x.picks →
      (s.tile site).hasWord f (!row) p.chunk (wordNo (d.panelPos (!row) p.line p.x)) = true) →
    (if d.strip then b.pos else if d.cls ≤ 1 then b.pos / 2 else b.pos * d.perTerm) <
      d.tileSteps f.tile * d.entriesPerStep row →
    b.q.length + x.entries.length ≤ 64 →
    ∃ t, exec (.bellowsFill site row idx) s = .next t ∧
      mget {} (if row then (t.tile site).rowB else (t.tile site).colB) idx =
        { q := b.q ++ x.entries.map (s.makeEntry site (s.runEnv o) f row r), pos := b.pos + x.adv } ∧
      (t.tile site).cur = some f ∧ (t.tile site).grps = (s.tile site).grps ∧
      (∀ j, j ≠ site → t.tile j = s.tile j) ∧ t.ops = s.ops ∧ t.mem = s.mem ∧ t.panel = s.panel) ∧
  (∀ (s : State) (seq plc chunk : Nat) (isB : Bool) (block i j : Nat) (o : Op), s.live = true →
    s.op? seq = some o → o.d.isMat = true → o.notOut = true → o.stopping = false → o.preempted = false →
    s.gatherReady o = true → s.readUe o = [] → block < 8 → i < 32 → j < 32 →
    let p : Cellpos := { block := block, i := i, j := j, slot := 0 }
    let tiles := s.fillTiles o plc isB chunk (wordNo p)
    s.fillFree o plc chunk isB (wordNo p) = true →
    ∃ t, exec (.panelFill seq plc chunk isB block i j) s = .next t ∧ t.ops = s.ops ∧ t.mem = s.mem ∧
      (∀ x ∈ tiles, (t.tile x.1).hasWord (frontOf o plc x.2) isB chunk (block * 1024 + i * 32 + j) = true) ∧
      ((tiles.map Prod.fst).Nodup → ∀ x ∈ tiles,
        leNat ((List.range 8).map fun k => mget 0 t.panel (panelByte x.1 isB o.d.nbuf chunk p + k)) =
          panelWord (s.runEnv o) (frontOf o plc x.2) isB chunk block i j % 2 ^ 64)) ∧
  (∀ (s : State) (site : Nat) (f : Front) (o : Op), s.live = true → (s.tile site).cur = some f →
    s.op? f.seq = some o → o.d.prodTables = true → (s.tile site).ptabStep < o.d.tileSteps f.tile →
    (s.tile site).ptabStep - (s.tile site).steps < 4 →
    let n := (s.tile site).ptabStep - (s.tile site).steps
    let entry (r : Nat) := (mget {} (s.tile site).rowB (s.physRow site r)).q[n]?
    (∀ r < 32, (entry r).isSome = true) →
    ∃ t, exec (.productTableBuild site) s = .next t ∧ (t.tile site).ptabStep = (s.tile site).ptabStep + 1 ∧
      (∀ r < 32, ∀ (k : Nat) (en : Entry) (x : Elem),
        o.d.stepK (o.d.partKs (o.d.partOf f.tile)) r (s.tile site).ptabStep 0 = some k → entry r = some en →
        rowElem (s.runEnv o) f r k en 0 = some x →
        mget [] (t.tile site).ptab (64 * ((s.tile site).ptabStep % 4) + s.physRow site r) = prodTable x.val) ∧
      (t.tile site).grps = (s.tile site).grps ∧ t.ops = s.ops ∧ t.mem = s.mem)

/-- R131, R75: a relayed group is added exactly to the waiting block's group of the same place, and goes on down
except at the last tile. R178: the lane forms the saddlebag terms of every group of a drained block. R94, R96, R156: a
block of one tile whose checks match, or are skipped for a SPILL flag, writes its outputs and nothing else. R95 to
R97, R335, R340, R341: a block of class C8 whose checks fail in one cell is not written; the failure is counted, the
block waits to be run again, and its site, not repaired before and with its spare row free, is SUSPECT. -/
def Obligations.TileDrains : Prop :=
  ((∀ (s : State) (site k : Nat) (b : Block) (o : Op) (g : Grp × Int), s.live = true →
     (s.tile site).buf? (s.takesRelay k) = some b → s.op? b.front.seq = some o → o.inbound b.front k = some g →
     let f := b.front
     let sum := (mget {} b.grps k).add o.d.gw g.1
     (o.d.partOf f.tile + 1 = o.d.parts →
       ∃ t o' b', exec (.relayArrive site k) s = .next t ∧ b' ∈ (t.tile site).bufs ∧ b'.front = f ∧
         mget {} b'.grps k = sum ∧ b'.relayGot = b.relayGot ++ [k] ∧ t.op? f.seq = some o' ∧ o'.inbound f k = none ∧
         (∀ l, l ≠ k → mget {} b'.grps l = mget {} b.grps l) ∧ (∀ j, j ≠ site → t.tile j = s.tile j) ∧ t.mem = s.mem) ∧
     (o.d.partOf f.tile + 1 ≠ o.d.parts → b.relayGot.length + 1 ≠ o.d.relayN →
       ∃ t o', exec (.relayArrive site k) s = .next t ∧ t.op? f.seq = some o' ∧ t.mem = s.mem ∧
         ∃ r ∈ o'.sends, r.plc = f.plc ∧ r.key = f.key ∧ ∃ sa, (k, sum, sa) ∈ r.grps)) ∧
   (∀ (s : State) (site : Nat) (b : Block) (o : Op), s.live = true →
     (s.tile site).readDrain.buf? s.wantsLane = some b → s.op? b.front.seq = some o →
     ∃ t b', exec (.saddlebagLaneTerms site) s = .next t ∧ b' ∈ (t.tile site).bufs ∧
       b' = { b with lane := b'.lane, laneGot := true } ∧ (t.tile site).cur = (s.tile site).cur ∧
       (∀ p ∈ o.d.blockPlaces b.front, mget {} b'.lane p.1 =
         ({} : Grp).addAll o.d.gw (laneTerms (s.runEnv o) p.2 o.d.gw o.d.ganchor)) ∧
       (o.d.ledgerEn = false → t.mem = s.mem)) ∧
   (∀ (s : State) (site : Nat) (b : Block) (o : Op), s.live = true → (s.tile site).cur = none →
     (s.tile site).readDrain.bufs = [b] → s.op? b.front.seq = some o → b.checked = false → o.d.isMat = true →
     o.d.parts = 1 → o.d.hasBags = false → o.fusedPost = false → o.d.retemper = 0 → o.partner = false →
     o.d.ledgerEn = false → s.readsOpen o = [] → s.opUe o = [] → s.runRoom o = true →
     let f := b.front
     b.spills = true ∨ (s.checkBlock site (o.lay f) b).ok = true →
     let b0 : Block := { b with checked := true, grps := if o.d.strip then stripSums o.d b.grps else b.grps }
     let r : RunOut := { outs := blockOutputs (s.envOf o) o b0 }
     ∃ t o', exec (.quenchBlock site []) s = .next t ∧ t.op? f.seq = some o' ∧
       o'.blocks = o.blocks ++ [(f.plc, f.key)] ∧ (t.tile site).drain = none ∧ (t.tile site).bufs = [] ∧
       t.fget Fl.arrGaugeEvtUnchecked 0 = (s.fget Fl.arrGaugeEvtUnchecked 0 + b.spills.toNat) % 2 ^ 24 ∧
       t.fget Fl.arrGaugeEvtCount 0 = s.fget Fl.arrGaugeEvtCount 0 ∧
       (∀ a, (∀ w ∈ r.writes (s.envOf o), ¬ Safety.touches w a) → t.byteAt a = s.byteAt a) ∧
       (∀ l m c n x, r.writes (s.envOf o) = l ++ (c, n, x) :: m →
         (∀ w ∈ m, ∀ i < n, ¬ Safety.touches w ((c + i) / 8)) → rdBits (t.ctxRd false) c n = x % 2 ^ n))) ∧
  (∀ (s : State) (site : Nat) (b : Block) (o : Op), s.live = true → site < 4224 → (s.tile site).cur = none →
     (s.tile site).readDrain.bufs = [b] → s.op? b.front.seq = some o → b.checked = false →
     let f := b.front
     let y := o.lay f
     o.gauged f = true → y.w = 128 → o.reruns = [] → o.blocks = [] → b.spills = false →
     (s.checkBlock site y b).ok = false → (s.checkBlock site y b).located.1 = 0 →
     s.siteState site ≠ stRetired → s.ost.repaired.contains site = false →
     s.fget Fl.tileRepairSpareRowFor site = 63 →
     ∃ t o' r, exec (.quenchBlock site []) s = .next t ∧ t.op? f.seq = some o' ∧ o'.blocks = [] ∧
       r ∈ o'.reruns ∧ r.plc = f.plc ∧ r.key = f.key ∧ r.fails = 1 ∧ o'.gaugeFail = o.gaugeFail + 1 ∧
       t.fget Fl.arrGaugeEvtCount 0 = (s.fget Fl.arrGaugeEvtCount 0 + 1) % 2 ^ 32 ∧
       t.fget Fl.arrGaugeEvtPend 0 = 1 ∧ t.siteState site = stSuspect)

/-- R82, R281: a row that a finisher completes and an element that the exact-add unit adds are taken into the
operation, which is written with its last one; an exact add changes only its destination element. -/
def Obligations.RowsAndTerms : Prop :=
  (∀ (s : State) (q seq row : Nat) (o : Op), s.live = true → q < 4 → s.op? seq = some o →
    let n := finisherRows (s.runEnv o)
    bitsOf (s.fget Fl.qchFinBusy 0) q q = 0 → row < n → row ∉ o.rows → s.rowsReady o = true → s.opUe o = [] →
    s.runRoom o = true → o.fusedPost = false → o.rows.length + 1 < n ∨ o.d.retemper = 0 →
    ∃ t o', exec (.finisherRow q seq row) s = .next t ∧ t.op? seq = some o' ∧ row ∈ o'.rows ∧
      bitsOf (t.fget Fl.qchFinBusy 0) q q = 1 ∧
      t.fget Fl.qchFinRows 0 = (s.fget Fl.qchFinRows 0 + 1) % 2 ^ 48 ∧
      (n ≤ o.rows.length + 1 → o'.phase = .written)) ∧
  (∀ (s : State) (seq elem b : Nat) (idx : List Nat) (o : Op), s.live = true → s.op? seq = some o →
    o.d.opcode = opScatter → elem < o.d.t0.count → (elem, 0) ∉ o.blocks →
    s.runnable { o with blocks := [] } = true → s.opUe o = [] → s.runRoom o = true → o.partner = false →
    o.d.ledgerEn = false → s.readsOpen o = [] →
    let v := s.envOf o
    let w := v.t2.w
    v.t2.place v.rd (unlinear v.t2.psizes elem) = .at b idx →
    ∃ t o', exec (.exactAdd seq elem) s = .next t ∧ t.op? seq = some o' ∧ (elem, 0) ∈ o'.blocks ∧
      rdBits (t.ctxRd false) b w =
        exactAddElem w (scatterTerm v w (v.d.t0.elemAt v.rd elem)) (rdBits v.rd b w) % 2 ^ w ∧
      (∀ a, ¬ Safety.touches (b, w, 0) a → t.byteAt a = s.byteAt a) ∧
      (o.blocks.length + 1 = o.d.t0.count → o'.phase = .written))

/-! ### The Ostler and operations -/

/-- R297, R300, R163: with selection stopped nothing is selected; the only eligible room of a stream gives up the
descriptor at its HEAD, which becomes an operation or is rejected, and SEQ advances. -/
def Obligations.Selection : Prop :=
  (∀ (s : State) (dom : Nat), s.live = true → s.fget Fl.ostCtlRun 0 = 0 → exec (.ostlerSelect dom) s = .next s) ∧
  (∀ (s : State) (dom n : Nat), s.live = true → n < 4096 → s.boot.wiping = [] → s.hbm.ueLines = [] →
    s.eligible dom = [n] → s.preempted dom = none →
    s.twin.serves = none → s.fget Fl.roomAttrQuantum n ≠ 0 → s.fget Fl.ostClassWtWt (s.roomClass n) ≠ 0 →
    (∀ o ∈ s.ops, o.seq ≠ s.ost.seq) →
    ∃ t, exec (.ostlerSelect dom) s = .next t ∧
      t.fget Fl.roomHeadHead n = (s.fget Fl.roomHeadHead n + 1) % 2 ^ 17 ∧
      t.ost.seq = (s.ost.seq + 1) % 2 ^ 48 ∧
      (t.ops = s.ops ∨ ∃ o', t.ops = s.ops ++ [o'] ∧ o'.seq = s.ost.seq ∧ o'.room = n ∧
        o'.words = (s.headOp dom n).words ∧ o'.phase = .selected) ∧
      t.tiles = s.tiles)

/-- R155, R158, R162, R167: the end of an operation of this module's own context without NOTIFY: its record stands at
CPL_ADDR and nowhere else, the operation is gone, and the trap is set where TRAP_NAN calls for it. Said for
COMPLETION_RECORD, FENCE and NOP. -/
def Obligations.Records : Prop :=
  ∀ (s : State) (seq : Nat) (o : Op), s.live = true → s.op? seq = some o → o.partner = false → o.d.notify = 0 →
    ((o.phase = .written ∨ s.partSent o = true) → ¬ (o.specUsed = true ∧ s.readsOpen o ≠ []) → o.status ≠ 0x22 →
      ∃ t, exec (.completionRecord seq) s = .next t ∧ Safety.Recorded s t o o.nanTrap) ∧
    (o.d.opcode = opNop → ∃ t, exec (.nop seq) s = .next t ∧ Safety.Recorded s t o false) ∧
    (o.d.opcode = opFence → s.fenceMet o = true →
      ∃ t, exec (.fence seq) s = .next t ∧ Safety.Recorded s t o false ∧ t.ost.fence ≠ some seq) ∧
    (o.d.opcode = opFence → s.fenceMet o = false → exec (.fence seq) s = .next s)

/-- R166: the budget of an operation is BUDGET_MS milliseconds, or the value in OST_TO_OP when BUDGET_MS is 0, counted
as 800,000 array cycles per millisecond from START_BELL, which a replay does not change; an operation whose budget has
run out is aborted with status BUDGET, and before that nothing happens. -/
def Obligations.BudgetEnds : Prop :=
  (∀ (s : State) (seq : Nat) (o : Op), s.live = true → s.op? seq = some o →
    let ms := if o.d.budgetMs = 0 then s.fget Fl.ostToOpDefaultMs 0 else o.d.budgetMs
    (s.now < o.startBell + 800000 * ms → exec (.budgetExpire seq) s = .next s) ∧
    (o.startBell + 800000 * ms ≤ s.now →
      ∃ t, exec (.budgetExpire seq) s = .next t ∧ t.op? seq = none ∧ t.ost.trapped = true ∧
        t.fget Fl.errEvtCode 0 = 0x12 ∧ t.fget Fl.errEvtClass 0 = 5 ∧
        t.fget Fl.errEvtCount 0 = (s.fget Fl.errEvtCount 0 + 1) % 2 ^ 32 ∧
        (∀ site f, (t.tile site).cur = some f → Canonical {} s.tiles → f.seq ≠ seq) ∧
        (o.partner = false → o.d.notify = 0 → t.byteAt o.d.cplAddr = 0x20))) ∧
  (∀ o : Op, o.fresh.startBell = o.startBell)

/-- R120, R162, R165: the rows of array and data operations. An operation that can run, of this module's own context
and without a ledger, has its outputs in memory afterwards: every write that no other one touches stands as the run
formed it, no other byte changes, and the operation waits for its record with the counts of the run. -/
def Obligations.OperationsRun : Prop :=
  ∀ r ∈ ([(.matmul, opMatmul, 0), (.matvec, opMatvec, 0), (.elemwiseUnary, opElemwise, 0), (.elemwiseAdd, opElemwise, 1),
      (.elemwiseSub, opElemwise, 2), (.elemwiseMul, opElemwise, 3), (.elemwiseFma, opElemwise, 4),
      (.elemwiseMax, opElemwise, 5), (.elemwiseMin, opElemwise, 6), (.dropout, opElemwise, 7), (.reduceSum, opReduce, 0),
      (.reduceSumsq, opReduce, 1), (.reduceMax, opReduce, 2), (.reduceMin, opReduce, 3), (.reduceVar, opReduce, 4),
      (.normLayer, opNorm, 0), (.normRms, opNorm, 1), (.softmax, opSoftmax, 0), (.attend, opAttend, 0),
      (.quant, opConvert, 0), (.fold, opConvert, 1), (.cbBuild, opConvert, 2), (.sbBuild, opConvert, 3),
      (.gather, opGather, 0), (.scatterAcc, opScatter, 0), (.rngUniform, opRng, 0), (.rngNormal, opRng, 1),
      (.rngBernoulli, opRng, 2), (.copy, opCopy, 0)] : List ((Nat → Instr) × Nat × Nat)),
    ∀ (s : State) (seq : Nat) (o : Op), s.live = true → s.op? seq = some o → o.d.opcode = r.2.1 →
      o.d.subop = r.2.2 → s.runnable o = true → s.finishersFree o = true → s.opUe o = [] → s.runRoom o = true →
      s.readsOpen o = [] →
      let v := s.envOf o
      let out := (runWithRetemper v).1
      (o.fusedPost = false → o.partner = false → o.d.ledgerEn = false → (runWithRetemper v).2 = none →
        ∃ t o', exec (r.1 seq) s = .next t ∧ t.op? seq = some o' ∧ o'.phase = .written ∧ o'.inArray = false ∧
          o'.cnt = out.counts v ∧ (∀ n, n ≠ seq → t.op? n = s.op? n) ∧
          (∀ a, (∀ w ∈ out.writes v, ¬ Safety.touches w a) → t.byteAt a = s.byteAt a) ∧
          (∀ l m b n x, out.writes v = l ++ (b, n, x) :: m →
            (∀ w ∈ m, ∀ i < n, ¬ Safety.touches w ((b + i) / 8)) → rdBits (t.ctxRd false) b n = x % 2 ^ n)) ∧
      (o.fusedPost = true → ((s.instsOf seq).any fun i => i.isReduce) = true →
        ∃ t o', exec (r.1 seq) s = .next t ∧ t.op? seq = some o' ∧ o'.phase = .computed ∧ o'.contrib = contribOf v ∧
          (o.d.ledgerEn = false → t.mem = s.mem))

/-- R197, R199, R233, R313: TABLE_LOAD leaves the bank that is not current STAGED and the current one as it is;
TABLE_SWAP makes the other bank current; a WAYMARK with no collective under way and no twin to seal at advances
DET_STEP and ends; a departure lets selection go on. -/
def Obligations.TableAndStepOps : Prop :=
  (∀ (s : State) (seq : Nat) (o : Op), s.live = true → s.op? seq = some o → o.d.opcode = opTload →
    s.runnable o = true → s.readUe o = [] →
    ∃ t o', exec (.tableLoad seq) s = .next t ∧ t.op? seq = some o' ∧ o'.phase = .written ∧
      t.bankState o.partner (1 - s.tblCur o.partner) = bkStaged ∧ t.tblCur o.partner = s.tblCur o.partner ∧
      (t.ctxTables o.partner).bankOf (s.tblCur o.partner) = (s.ctxTables o.partner).bankOf (s.tblCur o.partner) ∧
      t.mem = s.mem) ∧
  (∀ (s : State) (seq : Nat) (o : Op), s.live = true → s.op? seq = some o → o.d.opcode = opTswap →
    o.phase = .selected →
    ∃ t o', exec (.tableSwap seq) s = .next t ∧ t.op? seq = some o' ∧ o'.phase = .written ∧
      t.tblCur o.partner = 1 - s.tblCur o.partner ∧ t.bankState o.partner (s.tblCur o.partner) = bkStale ∧
      t.bankState o.partner (1 - s.tblCur o.partner) = bkCurrent ∧ t.ctxTables o.partner = s.ctxTables o.partner ∧
      t.mem = s.mem) ∧
  (∀ (s : State) (seq : Nat) (o : Op), s.live = true → s.op? seq = some o → o.d.opcode = opWaymark →
    s.insts = [] → o.partner = false → s.mirroring = false → (Reg.off .detStep 0, Fl.detStepStep.lo) ∉ s.swFields →
    ∃ t, exec (.waymark seq) s = .next t ∧ t.op? seq = none ∧ t.fget Fl.detStepStep 0 = (o.step + 1) % 2 ^ 48 ∧
      t.fget Fl.detCauseStep 0 = 0 ∧ t.log.replays = 0 ∧ t.twin.written = []) ∧
  (∀ (s : State) (dom b : Nat), s.live = true → s.ost.depart = some b → s.stream dom = true →
    (b ≤ s.now → exec (.departure dom) s = .next { s with ost := { s.ost with depart := none } }) ∧
    (s.now < b → exec (.departure dom) s = .next s))

/-! ### Collectives -/

/-- R157, R221, R222, R231: a collective, a fused gather and a fused reduction start their instance; a barrier and a
scalar reduction start theirs, or have it done at once where nothing is missing. Outside a replay, with nothing come
early. -/
def Obligations.CollectiveStarts : Prop :=
  (∀ (s : State) (seq : Nat) (o : Op) (i : Inst), s.live = true → Safety.NoReplay s → s.op? seq = some o →
    s.inst? i.ctx i.no = some i → i.started = false → i.isMsg = false →
    (∀ r ∈ ([(.fusedGather, kdGather), (.fusedAllGather, kdAllGather)] : List ((Nat → Instr) × Nat)),
      (s.instsOf seq).find? (fun i => i.kind == r.2) = some i → o.d.opcode ≠ opColl → o.partner = s.twin.running →
      s.turnOf o = true → (∀ j ∈ s.readsOpen o, j.op = seq) → s.readUe o = [] →
      ∃ t i' o', exec (r.1 seq) s = .next t ∧ t.inst? i.ctx i.no = some i' ∧ i'.started = true ∧ i'.op = i.op ∧
        t.op? seq = some o' ∧ (r.2 = kdGather → s.selfName i ≠ i.d.root → o'.phase = .computed)) ∧
    (∀ r ∈ ([(.fusedReduce, kdReduce), (.fusedAllReduce, kdAllReduce),
        (.fusedReduceScatter, kdReduceScatter)] : List ((Nat → Instr) × Nat)),
      (s.instsOf seq).find? (fun i => i.kind == r.2) = some i → o.d.opcode ≠ opColl → o.phase = .computed →
      ∃ t i', exec (r.1 seq) s = .next t ∧ t.inst? i.ctx i.no = some i' ∧ i'.started = true ∧ i'.op = i.op ∧
        (i.chunks ≤ 2 ^ 20 → i.isGather = false → ∀ c ∈ i.live, mget none i'.held c = some (i.ownSum o c))) ∧
    ((s.instsOf seq).head? = some i → o.d.opcode = opColl → o.partner = s.twin.running → s.turnOf o = true →
      s.stream o.dom = true → o.phase ≠ .written → (∀ j ∈ s.readsOpen o, j.op = seq) → s.opUe o = [] →
      s.runRoom o = true →
      ∃ t i' o', exec (.collective seq) s = .next t ∧ t.inst? i.ctx i.no = some i' ∧ i'.started = true ∧
        i'.op = i.op ∧ t.op? seq = some o' ∧ o'.phase = .computed)) ∧
  (∀ (s : State) (seq : Nat) (o : Op) (i : Inst), s.live = true → Safety.NoReplay s → s.op? seq = some o →
    s.inst? i.ctx i.no = some i → i.started = false → i.isMsg = true → (s.instsOf seq).head? = some i →
    o.partner = s.twin.running →
    (∀ r ∈ ([(.barrier, opBarrier, 0), (.scalarReduceSum, opScalar, 0), (.scalarReduceMax, opScalar, 2),
        (.scalarReduceMin, opScalar, 3)] : List ((Nat → Instr) × Nat × Nat)),
      o.d.opcode = r.2.1 → (o.d.opcode = opScalar → o.d.subop = r.2.2 ∧ s.turnOf o = true ∧ s.readsOpen o = [] ∧
        s.opUe o = [] ∧ s.runRoom o = true) →
      ∃ t o', exec (r.1 seq) s = .next t ∧ t.op? seq = some o' ∧
        ((∃ i', t.inst? i.ctx i.no = some i' ∧ i'.started = true ∧ o'.phase = .computed) ∨
          (t.inst? i.ctx i.no = none ∧ o'.phase = .written))))

/-- R225 to R227: a chunk that holds is kept, and as a result of a reduction taken; an acknowledgement marks the
retained chunk; the adder of a chunk that has all its inputs adds once, and a sum that fails its check is a chunk
fault. -/
def Obligations.CollChunks : Prop :=
  (∀ (s : State) (dst c : Nat) (tag0 tag1 : Word64) (data : List Byte) (i : Inst), s.live = true →
    s.ctxAt dst tag0 = some c → s.senderNode c tag1 ∉ (mget {} s.ctxs c).suspects →
    s.inst? c (tgSeq tag0) = some i → tgEpoch tag1 = i.epoch → tgKind tag1 = i.kind → tgFmt tag1 = i.fmtCode →
    tgChunk tag1 < i.chunks → i.started = true → i.hasChunk tag1 = false → i.chunkBad tag0 tag1 data = none →
    (s.chunkArrives dst tag0 tag1 data).isSome = true →
    ∃ t i', exec (.chunk dst tag0 tag1 data) s = .next t ∧ t.inst? c (tgSeq tag0) = some i' ∧ i'.hasChunk tag1 = true ∧
      t.ops = s.ops ∧
      (tgOut tag1 = false → t.mem = s.mem ∧ ∀ k, mget none i'.held k = mget none i.held k) ∧
      (tgOut tag1 = true → i.isGather = false → i.takesChunk (s.selfName i) (tgChunk tag1) = true →
        mget none i.result (tgChunk tag1) = none →
        (∃ y ∈ s.stages i, y.code = tgStage tag1) →
        mget none i'.result (tgChunk tag1) = some data)) ∧
  (∀ (s : State) (src : Nat) (tag0 tag1 : Word64) (i : Inst) (x : Sent), s.live = true →
    s.inst? i.ctx i.no = some i → x ∈ i.sent → x.dst = src → x.tag0 = tag0 → tgPlain x.tag1 = tgPlain tag1 →
    ∀ u, s.collArrives (isCollAck ttChunkAck src tag0 tag1) = some u → u = { s with ports := u.ports } →
    ∃ t i', exec (.chunkAck src tag0 tag1) s = .next t ∧ t.inst? i.ctx i.no = some i' ∧
      (∃ y ∈ i'.sent, y.dst = src ∧ y.tag0 = tag0 ∧ y.tag1 = x.tag1 ∧ y.acked = true) ∧ t.ops = s.ops ∧
      (s.waitTxns = [] → t.mem = s.mem ∧ t.regs = s.regs)) ∧
  (∀ (s : State) (c no chunk k : Nat) (x : Stg) (ins : List (List Byte)) (i : Inst), s.live = true →
    s.inst? c no = some i → i.isMsg = false → i.started = true → s.addable i chunk = some (k, x, ins) → chunk < 2 ^ 20 →
    let gss := ins.map fun b => (i.decode (i.chunkElems chunk).2 b).getD []
    (sumResidue (addGroups i.addW (i.chunkElems chunk).2 gss) = ((gss.map sumResidue).foldl (· + ·) 0) % 65535 →
      ∃ t i', exec (.stageAdd c no chunk none) s = .next t ∧ t.inst? c no = some i' ∧ t.ops = s.ops ∧
        2 ^ 20 * k + chunk ∈ i'.added) ∧
    (∀ flip : Nat × Nat,
      sumResidue (flipSum i.addW (some flip) (addGroups i.addW (i.chunkElems chunk).2 gss)) ≠
        ((gss.map sumResidue).foldl (· + ·) 0) % 65535 →
      let key := faultKey 0x02 (s.instTag1 i x.code false false chunk)
      mget 0 i.faults key < s.fget Fl.colModeResendMax 0 →
      ∃ t i', exec (.stageAdd c no chunk (some flip)) s = .next t ∧ t.inst? c no = some i' ∧ i'.added = i.added ∧
        mget 0 i'.faults key = mget 0 i.faults key + 1 ∧ t.fget Fl.colFaultEvtCause 0 = 2 ∧
        t.fget Fl.colFaultEvtCount 0 = (s.fget Fl.colFaultEvtCount 0 + 1) % 2 ^ 32 ∧ t.ops = s.ops))

/-- R228, R234, Table 9.18: a member other than the root that holds a whole segment and has no children reports it to
its parent; a child's report is noted; a good seal marks the segment, and the last one ends the instance. -/
def Obligations.CollSeals : Prop :=
  (∀ (s : State) (c no g : Nat) (i : Inst), s.live = true → s.inst? c no = some i → i.started = true →
    i.isMsg = false → i.firstK = 0 → g < i.segs → g ∉ i.reported → s.segDelivered i g = true → s.selfIdx c ≠ 0 →
    s.sealKids c = [] → i.ctx = c → i.no = no →
    ∃ t i' x, exec (.sealReportSend c no g) s = .next t ∧ t.inst? c no = some i' ∧ i'.reported = i.reported ++ [g] ∧
      t.msgs = s.msgs ++ [x] ∧ x.dst = (s.members c).getD (treeParent (s.selfIdx c)) 0 ∧
      x.data = reportBytes g ((i.segTaken g (s.selfName i)).length, false, crc64 (s.segBytes i g)) ∧
      t.ops = s.ops ∧ t.mem = s.mem) ∧
  (∀ (s : State) (dst c g n digest : Nat) (fault : Bool) (tag0 tag1 : Word64) (i : Inst), s.live = true →
    s.ctxAt dst tag0 = some c → s.senderNode c tag1 ∉ (mget {} s.ctxs c).suspects →
    s.inst? c (tgSeq tag0) = some i → tgEpoch tag1 = i.epoch → tgKind tag1 = kdSeal → tgOut tag1 = false →
    i.started = true → i.isMsg = false → g < i.segs → n < 2 ^ 32 → digest < 2 ^ 64 → i.segs ≤ 2 ^ 20 → s.selfIdx c ≠ 0 →
    let data := reportBytes g (n, fault, digest)
    (tag0, tgPlain tag1, g) ∉ s.seen →
    ∀ u, s.collArrives (isCollMsg dst tag0 tag1 data) = some u → u = { s with ports := u.ports } →
    ∃ t i', exec (.sealReport dst tag0 tag1 data) s = .next t ∧ t.inst? c (tgSeq tag0) = some i' ∧
      mget none i'.reports (2 ^ 20 * tgSrc tag1 + g) = some (n, fault, digest) ∧
      (tag0, tgPlain tag1, g) ∈ t.seen ∧ t.ops = s.ops ∧ t.mem = s.mem) ∧
  (∀ (s : State) (dst c g digest : Nat) (tag0 tag1 : Word64) (i : Inst), s.live = true →
    s.ctxAt dst tag0 = some c → s.senderNode c tag1 ∉ (mget {} s.ctxs c).suspects →
    s.inst? c (tgSeq tag0) = some i → tgEpoch tag1 = i.epoch → tgKind tag1 = kdSeal → tgOut tag1 = true →
    i.started = true → i.isMsg = false → g < i.segs → i.segs ≤ 2 ^ 20 → g ∉ i.sealedSegs →
    (tag0, tgPlain tag1, g) ∉ s.seen →
    ∀ u, s.collArrives (isCollMsg dst tag0 tag1 (sealBytes g true digest)) = some u → u = { s with ports := u.ports } →
    ∃ t, exec (.sealMsg dst tag0 tag1 (sealBytes g true digest)) s = .next t ∧
      ((∃ k < i.segs, k ≠ g ∧ k ∉ i.sealedSegs) →
        ∃ i', t.inst? c (tgSeq tag0) = some i' ∧ i'.sealedSegs = i.sealedSegs ++ [g]) ∧
      ((∀ k < i.segs, k ≠ g → k ∈ i.sealedSegs) → t.inst? c (tgSeq tag0) = none))

/-- R231 to R234: the messages of barriers and scalar reductions. An arrival or contribution is kept with its instance
until that is done; a release sets OFFSET by the port's delay and ends the instance, as a scalar result does; an
acknowledgement takes the kept message away, and a resend marks its copy. -/
def Obligations.CollMessages : Prop :=
  (∀ (s : State) (dst c : Nat) (tag0 tag1 : Word64) (data : List Byte) (i : Inst), s.live = true →
    s.ctxAt dst tag0 = some c → s.senderNode c tag1 ∉ (mget {} s.ctxs c).suspects →
    s.inst? c (tgSeq tag0) = some i → tgEpoch tag1 = i.epoch → i.started = true →
    (tag0, tgPlain tag1, 0) ∉ s.seen → i.msgOk tag1 data = true →
    ∀ u, s.collArrives (isCollMsg dst tag0 tag1 data) = some u → u = { s with ports := u.ports } →
    (∀ r ∈ ([(.barrierArrival, kdBarrier), (.scalarContribution, kdScalar)] :
        List ((Nat → Word64 → Word64 → List Byte → Instr) × Nat)),
      tgKind tag1 = r.2 → tgOut tag1 = false →
      ∃ t, exec (r.1 dst tag0 tag1 data) s = .next t ∧ (tag0, tgPlain tag1, 0) ∈ t.seen ∧
        (t.inst? c (tgSeq tag0) = none ∨
          ∃ i' g, t.inst? c (tgSeq tag0) = some i' ∧ g ∈ i'.got ∧ g.src = tgSrc tag1 ∧ g.data = data)) ∧
    (∀ port < 12, tgKind tag1 = kdBarrier → tgOut tag1 = true → c < 1024 →
      ∃ t, exec (.barrierRelease dst port tag0 tag1 data) s = .next t ∧ t.inst? c (tgSeq tag0) = none ∧
        t.fget Fl.grpBellOffset c =
          ((leNat (data.take 8) + s.fget Fl.portStatDelay port) % 2 ^ 64 + 2 ^ 64 - s.now) % 2 ^ 64) ∧
    (tgKind tag1 = kdScalar → tgOut tag1 = true →
      ∃ t, exec (.scalarResult dst tag0 tag1 data) s = .next t ∧ t.inst? c (tgSeq tag0) = none)) ∧
  (∀ (s : State) (src : Nat) (tag0 tag1 : Word64), s.live = true →
    ∀ u, s.collArrives (fun t => isCollAck ttCollMsg src tag0 tag1 t && wbits t.arg0 0 0 == 1) = some u →
    u = { s with ports := u.ports } →
    ∃ t, exec (.collMsgAck src tag0 tag1) s = .next t ∧
      t.msgs = s.msgs.eraseP (fun x => x.dst == src && x.tag0 == BitVec.ofNat 64 (setBits tag0.toNat 0 0 0) &&
        tgPlain x.tag1 == tgPlain tag1) ∧ t.ops = s.ops ∧
      (s.waitTxns = [] → t.insts = s.insts ∧ t.mem = s.mem ∧ t.regs = s.regs)) ∧
  (∀ (s : State) (n : Nat) (x : Sent), s.live = true → s.msgs[n]? = some x →
    s.elapsed x.since 16000 = true → (∀ e ∈ s.ctxs, x.dst ∉ e.2.suspects) →
    ∃ t y, exec (.collMsgResend n) s = .next t ∧ t.msgs = s.msgs.set n y ∧ y.resends = x.resends + 1 ∧
      tgResend y.tag1 = true ∧ tgPlain y.tag1 = tgPlain x.tag1 ∧ y.dst = x.dst ∧ y.data = x.data ∧
      (s.waitTxns = [] → t.insts = s.insts ∧ t.mem = s.mem ∧ t.regs = s.regs))

/-- R235 to R237, R262: a member that is lost is suspect, and the context waits or fails by ON_LOSS; UNREACH makes the
node suspect in every context that has it as a member, and REACH ends the suspicion; a wait that expires fails the
context, or where ON_LOSS says so and detours are not denied, re-forms it. -/
def Obligations.MemberLoss : Prop :=
  (∀ (s : State) (c m : Nat), s.live = true → c < 1024 → s.fget Fl.grpCfgValid c = 1 →
    s.fget Fl.grpStatState c ≠ gsFailed → m < (s.members c).length → m ≠ s.selfIdx c →
    (s.members c).getD m 0 ∉ (mget {} s.ctxs c).suspects → s.stageOver c ((s.members c).getD m 0) = true →
    ∃ t, exec (.memberSuspect c m) s = .next t ∧ (s.members c).getD m 0 ∈ (mget {} t.ctxs c).suspects ∧
      t.fget Fl.colFaultEvtCause 0 = 7 ∧
      t.fget Fl.grpStatState c = (if s.fget Fl.grpCfgOnLoss c = 2 then gsFailed else gsSuspect)) ∧
  (∀ (s : State) (c : Nat), s.live = true → c < 1024 → s.fget Fl.grpStatState c = gsSuspect →
    s.elapsed (mget {} s.ctxs c).suspectAt (s.limitUs 6) = true →
    (s.fget Fl.grpCfgOnLoss c ≠ 1 ∨ s.ctxStrict (decide (512 ≤ c) && s.twin.serves.isSome) = true →
      ∃ t, exec (.twinWaitExpire c) s = .next t ∧ t.fget Fl.grpStatState c = gsFailed) ∧
    (s.fget Fl.grpCfgOnLoss c = 1 → s.ctxStrict (decide (512 ≤ c) && s.twin.serves.isSome) = false → s.insts = [] →
      (s.members c).Nodup →
      ∃ t, exec (.twinWaitExpire c) s = .next t ∧
        t.members c = (s.members c).filter fun n => !(mget {} s.ctxs c).suspects.contains n)) ∧
  (∀ (s : State) (p : Nat) (x : Txn), s.live = true → s.arrives p x = true → s.screen p x = none → x.ttype = ttMgmt →
    (x.arg0.toNat % 256 = 1 →
      ∃ t, exec (.unreach p x) s = .next t ∧
        ∀ c < 1024, wbits x.arg1 17 0 ∈ s.members c → (s.members c).idxOf (wbits x.arg1 17 0) ≠ s.selfIdx c →
          s.fget Fl.grpCfgValid c = 1 → s.fget Fl.grpStatState c ≠ gsFailed →
          wbits x.arg1 17 0 ∈ (mget {} t.ctxs c).suspects) ∧
    (x.arg0.toNat % 256 = 2 →
      ∃ t, exec (.reach p x) s = .next t ∧ ∀ c, wbits x.arg1 17 0 ∉ (mget {} t.ctxs c).suspects))

/-! ### Ports -/

/-- R252, R263: the RESUME of the far end starts the rest of the replay; PROBE is answered; a PROBE_REPLY without a
replay in between gives DELAY. -/
def Obligations.PortControlFlits : Prop :=
  ∀ (s : State) (p : Nat) (payload : List Byte), s.live = true → p < 12 → s.fget Fl.portStatState p = 5 →
    (payload.head? = some 2 → (s.port p).resumeDue = true →
      let e := bitsOf (leNat ((payload.drop 4).take 2)) 11 0
      ∃ t, exec (.resumeFlit p payload) s = .next t ∧ (t.port p).resumeDue = false ∧
        (t.port p).resend = (t.port p).replay ∧
        (t.port p).replay = ((s.port p).ackTo ((e + 4095) % 4096)).replay ∧
        t = { s with ports := t.ports }) ∧
    ((s.port p).probeAt + 2 ^ 20 ≤ s.now →
      ∃ t, exec (.probeSend p) s = .next t ∧ (t.port p).probe = some (((s.port p).probeNo + 1) % 256, s.now) ∧
      (∃ c, (t.port p).ctrl = (s.port p).ctrl ++ [c] ∧ c.head? = some 3 ∧ c.length = 16) ∧
      t = { s with ports := t.ports }) ∧
    (s.now < (s.port p).probeAt + 2 ^ 20 → exec (.probeSend p) s = .next s) ∧
    (payload.head? = some 3 → payload.length = 16 →
      ∃ t c, exec (.probeFlit p payload) s = .next t ∧ (t.port p).ctrl = (s.port p).ctrl ++ [c] ∧ c.head? = some 4 ∧
        (c.drop 1).take 1 = (payload.drop 1).take 1 ∧ (c.drop 8).take 8 = payload.drop 8 ∧
        leNat ((c.drop 16).take 8) = s.now % 2 ^ 64 ∧ t = { s with ports := t.ports }) ∧
    (∀ no sent : Nat, payload.head? = some 4 → leNat ((payload.drop 1).take 1) = no → (s.port p).probe = some (no, sent) →
      (s.port p).spoiled = false → (s.port p).nakOut = false →
      ∃ t, exec (.probeReplyFlit p payload) s = .next t ∧ (t.port p).probe = none ∧
        t.fget Fl.portStatDelay p =
          oneWay sent s.now (leNat ((payload.drop 16).take 8)) (leNat ((payload.drop 24).take 8)) % 2 ^ 16)

/-- R246, R250, R255, R258: on a port that is ACTIVE or in CONFIG a bad flit is discarded and asks for one NAK; a good DATA
flit with the expected SEQ gives its bytes to the stream of its channel and takes a place in the receive buffer, and every
transaction that is then whole waits in order, with the access lists of its arrival (R296), on a channel other than those of
the collectives; one to be discarded is logged. -/
def Obligations.FlitsReceived : Prop :=
  ∀ (s : State) (p : Nat) (flit : List Byte) (fecBad : Bool), s.live = true → p < 12 → s.linkUp p = true →
    let x := s.port p
    let good := fecBad = false ∧ flit.length = 256 ∧ crc64 (flit.take 248) = leNat (flit.drop 248)
    let h := leNat (flit.take 8)
    (¬ good →
      ∃ t, exec (.flitReceive p flit fecBad) s = .next t ∧ (t.port p).nakOut = true ∧
        (x.nakOut = false → (t.port p).nakDue = true) ∧ (t.port p).expect = x.expect ∧ (t.port p).rxq = x.rxq ∧
        t = { s with ports := t.ports }) ∧
    (good → bitsOf h 36 33 = 1 → bitsOf h 63 52 ≠ x.expect → bitsOf h 32 32 = 0 →
      ∃ t, exec (.flitReceive p flit fecBad) s = .next t ∧ (t.port p).nakOut = true ∧ (t.port p).expect = x.expect ∧
        (t.port p).rxq = x.rxq ∧ t = { s with ports := t.ports }) ∧
    (good → bitsOf h 36 33 = 1 → bitsOf h 63 52 = x.expect → bitsOf h 32 32 = 0 →
      let v := bitsOf h 39 37
      let all := mget [] x.rxb v ++ ((flit.drop 8).take 240).take (bitsOf h 19 12)
      let r := frames v all.length all
      ∃ t, exec (.flitReceive p flit fecBad) s = .next t ∧ (t.port p).expect = (x.expect + 1) % 4096 ∧
        (t.port p).nakOut = false ∧ mget [] (t.port p).rxb v = r.2 ∧
        (∀ u, u ≠ v → mget [] (t.port p).rxb u = mget [] x.rxb u) ∧
        (r.1 = [] → (∀ e ∈ x.rxq, e.txn.vc ≠ v) → (t.port p).owed = x.owed ∧
          mget [] (t.port p).rxFlits v = mget [] x.rxFlits v ++ [(((flit.drop 8).take 240).take (bitsOf h 19 12)).length]) ∧
        (v ≠ 1 → v ≠ 2 → (∀ e ∈ x.rxq, e.txn.vc = v → s.screen p e.txn = none) → (∀ y ∈ r.1, s.screen p y = none) →
          (t.port p).rxq = x.rxq ++ r.1.map fun y => { txn := y, acl := s.acl }) ∧
        (∀ y why, r.1 = [y] → (∀ e ∈ x.rxq, e.txn.vc ≠ v) → s.screen p y = some why →
          (t.port p).rxq = x.rxq ∧ t.fget Fl.errEvtCode 0 = 0x0F))

/-- R247, R248, R251, R252, R256, R263: what a port sends that is ACTIVE or in CONFIG. A replay goes first; a CTRL flit and a
DATA flit take the next SEQ and a place in the replay buffer, and a CTRL payload has the bells and the expected SEQ of this
moment; with nothing to send, or a full buffer, an IDLE repeats the last SEQ. Every flit is 256 bytes with its CRC. -/
def Obligations.FlitsSent : Prop :=
  ∀ (s : State) (p : Nat), s.live = true → p < 12 → s.linkUp p = true →
    let x := s.port p
    let sound (t : State) : Prop := (t.port p).wire.length = 256 ∧
      leNat ((t.port p).wire.drop 248) = crc64 ((t.port p).wire.take 248)
    (∀ f r, x.resend = f :: r → (x.ctrl.headD []).head? ≠ some 2 → f.seq < 4096 → f.vc < 8 → f.ftype < 3 →
      f.used = f.payload.length → f.used ≤ 240 →
      ∃ t, exec (.flitSend p) s = .next t ∧ (t.port p).resend = r ∧ (t.port p).replay = x.replay ∧ sound t ∧
        (let h := leNat ((t.port p).wire.take 8)
         bitsOf h 63 52 = f.seq ∧ bitsOf h 51 40 = (x.expect + 4095) % 4096 ∧ bitsOf h 39 37 = f.vc ∧
          bitsOf h 36 33 = f.ftype ∧ bitsOf h 19 12 = f.used ∧ bitsOf h 32 32 = x.nakDue.toNat) ∧
        ((t.port p).wire.drop 8).take f.used = f.payload ∧ t = { s with ports := t.ports }) ∧
    (x.resend = [] → x.replay.length < 2048 → ∀ c r, x.ctrl = c :: r →
      ∃ t, exec (.flitSend p) s = .next t ∧ (t.port p).ctrl = r ∧ (t.port p).seq = (x.seq + 1) % 4096 ∧
        (∃ f, (t.port p).replay = x.replay ++ [f] ∧ f.seq = x.seq ∧ f.ftype = 2 ∧ f.payload = s.stamp p c) ∧
        ((s.stamp p c).length ≤ 240 → sound t) ∧ t = { s with ports := t.ports }) ∧
    (s.portActive p = true → x.resend = [] → x.replay.length < 2048 → x.ctrl = [] → x.resumeDue = false → ∀ v fresh, s.nextVc p = some (v, fresh) →
      ∃ t, exec (.flitSend p) s = .next t ∧ (t.port p).seq = (x.seq + 1) % 4096 ∧
        mget 0 (t.port p).credit v = mget 0 x.credit v - 1 ∧
        (∃ f, (t.port p).replay = x.replay ++ [f] ∧ f.seq = x.seq ∧ f.ftype = 1 ∧ f.vc = v ∧ f.payload.length ≤ 240) ∧
        sound t ∧ t = { s with ports := t.ports }) ∧
    (x.resend = [] → 2048 ≤ x.replay.length ∨ (x.ctrl = [] ∧
        (s.portActive p = false ∨ x.resumeDue = true ∨ s.nextVc p = none)) →
      ∃ t, exec (.flitSend p) s = .next t ∧ (t.port p).seq = x.seq ∧ (t.port p).replay = x.replay ∧
        (let h := leNat ((t.port p).wire.take 8)
         bitsOf h 63 52 = (x.seq + 4095) % 4096 ∧ bitsOf h 36 33 = 0 ∧ bitsOf h 19 12 = 0) ∧
        (t.port p).credit = x.credit ∧ sound t ∧ t = { s with ports := t.ports })

/-- R244, R245: the bits of every flit sent join the message stream across codeword boundaries; the fourth codeword of
a group puts it on the lanes, symbol j of codeword w in slot 4 floor(j / N) + w of lane j mod N; alignment begins the
stream anew. -/
def Obligations.LaneStream : Prop :=
  (∀ (n w j : Nat) (group : List (List Nat)), n = 2 ∨ n = 4 ∨ n = 8 → w < 4 → j < 544 →
    ((interleave n group).getD (j % n) []).getD (4 * (j / n) + w) 0 = (group.getD w []).getD j 0) ∧
  (∀ (s : State) (p : Nat), s.live = true → p < 12 → s.linkUp p = true →
    ∃ t, exec (.flitSend p) s = .next t ∧ (t.port p).fec =
      (s.port p).fec.flit (lanesOfWidth (s.fget Fl.portStatWidth p)) (t.port p).wire) ∧
  (∀ (s : State) (p : Nat) (far : BitVec 8), s.live = true → p < 12 → s.trainPhase p = 3 → ∀ w ls,
    chooseLanes (s.passedLanes p) ((List.range 8).filter fun l => far.getLsbD l) = some (w, ls) →
    w ≤ s.fget Fl.portCtlMinWidth p →
    ∃ t, exec (.alignDone p ⟨far, BitVec.ofNat 8 (laneBits ls)⟩) s = .next t ∧ (t.port p).fec = {} ∧
      (t.port p).align.map Prod.fst = s.lanesTrained p) ∧
  (∀ (x : FecTx) (bytes : List Byte) (n : Nat), bytes.length = 256 → x.bits < 5140 → x.msg < 2 ^ x.bits →
    x.group.length < 4 → x.count < 512 →
    let y := x.flit n bytes
    y.bits < 5140 ∧ y.msg < 2 ^ y.bits ∧ y.group.length < 4 ∧ y.count < 512 ∧
    (x.bits + 2048 < 5140 → y = { x with bits := x.bits + 2048, msg := x.msg + leNat bytes * 2 ^ x.bits }) ∧
    (5140 ≤ x.bits + 2048 → y.bits + 5140 = x.bits + 2048 ∧ y.count = (x.count + 1) % 512 ∧
      ∃ cw : List Nat, cw.length = 544 ∧
        (∀ j, j < 514 → cw.getD j 0 = (x.msg + leNat bytes * 2 ^ x.bits) / 2 ^ (10 * j) % 1024) ∧
        (x.group.length < 3 → y.group = x.group ++ [cw] ∧ y.sent = x.sent) ∧
        (x.group.length = 3 → y.group = [] ∧ y.sent = interleave n (x.group ++ [cw]))))

/-- R245, R251: a NAK and an acknowledgement timeout replay every flit that is not acknowledged; the sixteenth replay
without progress, and the fourth uncorrectable codeword in a row, retrain the port. -/
def Obligations.Replays : Prop :=
  ∀ (s : State) (p : Nat), s.live = true → p < 12 → s.fget Fl.portStatState p = 5 →
    let x := s.port p
    (∀ (ack : Nat) (cause : BitVec 8), x.resend = [] → (x.ackTo (ack % 4096)).replay ≠ [] → x.stalls < 15 →
      ∃ t, exec (.nakReceive p ack cause) s = .next t ∧ (t.port p).replay = (x.ackTo (ack % 4096)).replay ∧
        (t.port p).resend = (t.port p).replay ∧ t.fget Fl.portRetryEvtCause p = cause.toNat ∧
        t.fget Fl.portRetryEvtCount p = (s.fget Fl.portRetryEvtCount p + 1) % 2 ^ 32 ∧
        t.fget Fl.portRetryEvtPend p = 1 ∧ t.fget Fl.portStatState p = 5) ∧
    (x.resend = [] → s.ackLate p = true →
      ∃ t, exec (.ackTimeout p) s = .next t ∧ (t.port p).replay = x.replay ∧ (t.port p).resend = x.replay ∧
        t.fget Fl.portRetryEvtCause p = 3 ∧ t.fget Fl.portStatState p = (if 15 ≤ x.stalls then 6 else 5)) ∧
    (∃ t, exec (.fecUncorrectable p) s = .next t ∧ (t.port p).nakOut = true ∧
      t.fget Fl.portStatState p = (if 3 ≤ x.badCw then 6 else 5) ∧ (t.port p).rxq = x.rxq)

/-- R258, Table 10.6: transactions go over a channel as bytes and come out as they went in, whatever follows them and
wherever the stream is cut into flits. -/
def Obligations.FrameRoundTrip : Prop :=
  (∀ (x : Txn) (rest : List Byte), x.wf = true → x.len = x.data.length →
    nextTxn x.vc (txnBytes x ++ rest) = some (x, rest)) ∧
  (∀ (v : Nat) (xs : List Txn), (∀ x ∈ xs, x.wf = true ∧ x.len = x.data.length ∧ x.vc = v) →
    frames v (xs.flatMap txnBytes).length (xs.flatMap txnBytes) = (xs, [])) ∧
  (∀ (v : Nat) (a b : List Byte),
    let r := frames v a.length a
    let q := frames v (r.2 ++ b).length (r.2 ++ b)
    frames v (a ++ b).length (a ++ b) = (r.1 ++ q.1, q.2))

/-! ### Transactions -/

/-- R258 to R260, R264, R272, R294 to R296: what a peer's READ, WRITE and WORK_ORDER do at this module, and the ONCE
cache. -/
def Obligations.PeerAccess : Prop :=
  (∀ (s : State) (p : Nat) (x : Txn), s.live = true → s.arrives p x = true → s.screen p x = none → x.dst = s.node →
    x.once = false → x.addr < 0xFF00000000 → s.shut x.addr = false →
    (x.ttype = ttRead →
      (rightIn (s.aclFor p x) 0 .read x.src = false →
        exec (.read p x) s = .next ((s.takeRx p x).reply (replyTo x ttReadRsp 4 rsDenied []))) ∧
      (rightIn (s.aclFor p x) 0 .read x.src = true → inPanel x.addr = false → s.populated x.addr x.len = true → s.hbm.ueLines = [] →
        exec (.read p x) s = .next ((s.takeRx p x).reply (replyTo x ttReadRsp 4 rsOk
          ((List.range x.len).map fun i => (s.takeRx p x).byteAt (x.addr + i)))))) ∧
    (x.ttype = ttWrite →
      (rightIn (s.aclFor p x) 0 .write x.src = false →
        exec (.write p x) s = .next ((s.takeRx p x).reply (replyTo x ttWriteAck 4 rsDenied []))) ∧
      (rightIn (s.aclFor p x) 0 .write x.src = true → inPanel x.addr = false → s.populated x.addr x.data.length = true →
        s.hbm.ueLines = [] → s.takeRx p x = { s with ports := (s.takeRx p x).ports } →
        ∃ t, exec (.write p x) s = .next t ∧ t.regs = s.regs ∧ t.ops = s.ops ∧
          (∀ i < x.data.length, t.byteAt (x.addr + i) = x.data.getD i 0) ∧
          (∀ a, a < x.addr ∨ x.addr + x.data.length ≤ a → t.byteAt a = s.byteAt a)))) ∧
  (∀ (s : State) (p : Nat) (x : Txn), s.live = true → s.arrives p x = true → s.screen p x = none →
    s.answersFor x.dst = true → x.once = true → s.mustWait x = false →
    ∀ c ∈ ([(.read, ttRead), (.write, ttWrite), (.workOrder, ttWorkOrder)] : List ((Nat → Txn → Instr) × Nat)),
      x.ttype = c.2 → ∀ r, s.onceHit x.src x.tag = some r →
        exec (c.1 p x) s = .next ((s.takeRx p x).reply r)) ∧
  (∀ (s : State) (p : Nat) (x : Txn), s.live = true → s.arrives p x = true → s.screen p x = none → x.dst = s.node →
    x.ttype = ttWorkOrder → x.once = true → s.onceHit x.src x.tag = none → s.once.length < 65536 →
    s.twin.serves = none → x.data.length = 256 → s.takeRx p x = { s with ports := (s.takeRx p x).ports } →
    let n := x.arg0.toNat % 4096
    (s.fget Fl.roomAttrEnable n = 0 →
      ∃ t, exec (.workOrder p x) s = .next t ∧ t.regs = s.regs ∧ t.mem = s.mem ∧
        t.once = s.once ++ [(x.src, x.tag, replyTo x ttWorkAck 5 rsDenied [])]) ∧
    (s.fget Fl.roomAttrEnable n = 1 → s.fget Fl.roomAttrSrc n = 1 → s.fget Fl.glbNodeRole 0 ≠ 1 →
      rightIn (s.aclFor p x) (s.fget Fl.roomAttrAcl n) .order x.src = true →
      let tail := s.fget Fl.roomTailTail n
      let a := s.ringBase n + 256 * (tail % s.ringSlots n)
      ((tail + 2 ^ 17 - s.fget Fl.roomHeadHead n) % 2 ^ 17 < s.ringSlots n →
        ∃ t, exec (.workOrder p x) s = .next t ∧ t.fget Fl.roomTailTail n = (tail + 1) % 2 ^ 17 ∧
          t.once = s.once ++ [(x.src, x.tag, replyTo x ttWorkAck 5 rsOk [])] ∧
          (s.fget Fl.waymarkCtlLogEn 0 = 0 → s.populated a 256 = true →
            (∀ i < 256, t.byteAt (a + i) = x.data.getD i 0) ∧
            (∀ b, b < a ∨ a + 256 ≤ b → t.byteAt b = s.byteAt b))) ∧
      (s.ringSlots n ≤ (tail + 2 ^ 17 - s.fget Fl.roomHeadHead n) % 2 ^ 17 →
        ∃ t, exec (.workOrder p x) s = .next t ∧ t.regs = s.regs ∧ t.mem = s.mem ∧
          t.once = s.once ++ [(x.src, x.tag, replyTo x ttWorkAck 5 rsFull [])]))) ∧
  (∀ (s : State) (src tag : Nat), s.live = true →
    ∃ t, exec (.onceCacheExpiry src tag) s = .next t ∧ t.onceHit src tag = none ∧
      (∀ a b, a ≠ src ∨ b ≠ tag → t.onceHit a b = s.onceHit a b) ∧ t = { s with once := t.once })

/-- R258, R260 to R262: a response ends the request that it answers and nothing else; a request without a response is
sent once more, on another port where there is one, and then given up; RACK_UPDATE sets a rack's mask. -/
def Obligations.Responses : Prop :=
  (∀ (s : State) (p : Nat) (x : Txn), s.live = true → s.arrives p x = true → s.screen p x = none → s.waitTxns = [] →
    s.takeRx p x = { s with ports := (s.takeRx p x).ports } →
    ∀ c ∈ ([(.readRsp, ttReadRsp, ttRead), (.writeAck, ttWriteAck, ttWrite),
        (.workAck, ttWorkAck, ttWorkOrder)] : List ((Nat → Txn → Instr) × Nat × Nat)), x.ttype = c.2.1 →
      ∃ t, exec (c.1 p x) s = .next t ∧
        t.reqs = s.reqs.eraseP (fun q => q.txn.ttype == c.2.2 && q.txn.tag == x.tag && q.txn.dst == x.src) ∧
        (∀ q, s.reqs.find? (fun q => q.txn.ttype == c.2.2 && q.txn.tag == x.tag && q.txn.dst == x.src) = some q →
          q.txn.once = true → (q.txn.tag, s.now) ∈ t.onceTags) ∧
        t = { s with reqs := t.reqs, ports := t.ports, onceTags := t.onceTags }) ∧
  (∀ (s : State) (tag : Nat) (q : Req), s.live = true → s.reqs.find? (fun r => r.txn.tag == tag && s.overdue r) = some q →
    (q.who = .order ∨ q.who = .alias_ ∨ ∃ n, q.who = .op n) →
    (q.again = false → ∀ r ps, s.routes (s.aliased q.txn.dst) q.stream q.txn.vc false = r :: ps →
      ∃ t q', exec (.remoteTimeout tag) s = .next t ∧ q' ∈ t.reqs ∧ q'.txn = q.txn ∧ q'.again = true ∧
        ((∃ b ∈ r :: ps, b ≠ q.via) → q'.via ≠ q.via) ∧
        mget [] (t.port q'.via).txq q.txn.vc = mget [] (s.port q'.via).txq q.txn.vc ++ [q.txn] ∧ t.mem = s.mem) ∧
    (q.again = true → s.waitTxns = [] →
      ∃ t, exec (.remoteTimeout tag) s = .next t ∧ t = { s with reqs := s.reqs.erase q })) ∧
  (∀ (s : State) (p : Nat) (x : Txn), s.live = true → s.arrives p x = true → s.screen p x = none → x.ttype = ttMgmt →
    x.arg0.toNat % 256 = 3 → s.waitTxns = [] → s.takeRx p x = { s with ports := (s.takeRx p x).ports } →
    let a := s.fget Fl.routeCtlRackTbl 0 + 2 * wbits x.arg1 11 0
    inCommons a 2 = true →
    ∃ t, exec (.rackUpdate p x) s = .next t ∧ t.peekNat a 2 = wbits x.arg1 27 16 ∧
      (∀ b, b < a ∨ a + 2 ≤ b → t.byteAt b = s.byteAt b) ∧ t.regs = s.regs)

/-! ### Memory -/

/-- R269, R270: a line read back with no symbol or with one symbol in error, in the data or in the check bytes. -/
def Obligations.LineCode : Prop :=
  ∀ data : List Byte, data.length = 64 →
    rsDecode (rsSyndromes (data ++ rsCheck data)) = some [] ∧
    ∀ (p : Nat) (d : Byte), p < 72 → d ≠ 0 →
      rsDecode (rsSyndromes ((data ++ rsCheck data).set p ((data ++ rsCheck data).getD p 0 ^^^ d))) = some [(p, d.toNat)]

/-- R271 to R275, R284: corrected errors are counted and change no data; uncorrectable ones are counted with their
source, and abort the operation that met them; scrub, refresh and row repair. -/
def Obligations.MemoryErrors : Prop :=
  (∀ (s : State) (addr src seq : Nat) (err : List SymErr), s.live = true → addr < s.hbmTop → s.shut addr = false →
    src < 4 →
    let k := pcStack (s.granuleOf addr).1
    let d := rsDecode (rsSyndromes (s.lineWord (addr / 64) (symErrs err)))
    (addr / 64 ∉ s.hbm.ueLines → err = [] → d = some [] →
      ∃ t, exec (.hbmLineRead addr src seq err) s = .next t ∧ t.regs = s.regs ∧ (∀ a, t.byteAt a = s.byteAt a)) ∧
    (∀ c, addr / 64 ∉ s.hbm.ueLines → d = some c → c ≠ [] → c.length < 4 → s.hbm.refused = [] →
      ∃ t, exec (.hbmLineRead addr src seq err) s = .next t ∧
        t.fget Fl.memCeEvtCount k = (s.fget Fl.memCeEvtCount k + 1) % 2 ^ 32 ∧ t.fget Fl.memCeEvtPend k = 1 ∧
        t.fget Fl.memCeEvtSyms k = c.length ∧ t.ops = s.ops ∧
        (s.fget Fl.errLogBaseAddr 0 = 0 → c = symErrs err → ∀ a, t.byteAt a = s.byteAt a)) ∧
    (addr / 64 ∈ s.hbm.ueLines ∨ d = none → mget 0 s.hbm.pcUe (s.granuleOf addr).1 + 1 ≠ s.fget Fl.memCtlUeRetire k →
      (src = 0 ∨ src = 3 → ∀ o, s.op? seq = some o → o.again = true) →
      ∃ t, exec (.hbmLineRead addr src seq err) s = .next t ∧
        t.fget Fl.memUeEvtCount k = (s.fget Fl.memUeEvtCount k + 1) % 2 ^ 32 ∧ t.fget Fl.memUeEvtPend k = 1 ∧
        t.fget Fl.memUeEvtSrc k = src ∧ (src = 1 ∨ src = 2 → t.ops = s.ops ∧ addr / 64 ∈ t.hbm.ueLines) ∧
        (src = 0 ∨ src = 3 → ∀ o, s.op? seq = some o → t.op? seq = some o.fresh))) ∧
  (∀ (s : State) (stack : Nat), s.live = true → stack < 8 →
    (∀ errs, s.fget Fl.memScrubEnable stack = 1 → s.shut 0 = false →
      ∃ t, exec (.patrolScrub stack errs) s = .next t ∧
        t.fget Fl.memScrubPos stack =
          (if s.fget Fl.memScrubPos stack + 1 < 0x1800000 then s.fget Fl.memScrubPos stack + 1 else 0)) ∧
    (∀ errs, s.fget Fl.memScrubEnable stack = 0 ∨ s.shut 0 = true → exec (.patrolScrub stack errs) s = .next s) ∧
    exec (.refresh stack) s = .next s) ∧
  (∀ (s : State) (pc row : Nat), s.live = true → pc < 512 → (pc, row) ∈ s.hbm.wanted →
    (∃ t, exec (.rowRepair pc row false) s = .next t ∧ (pc, row) ∉ t.hbm.wanted ∧ (pc, row) ∈ t.hbm.repaired ∧
      t.fget Fl.memPprDone (pcStack pc) = min (s.fget Fl.memPprDone (pcStack pc) + 1) 255 ∧
      t.fget Fl.memPprFailed (pcStack pc) = s.fget Fl.memPprFailed (pcStack pc)) ∧
    (∃ t, exec (.rowRepair pc row true) s = .next t ∧ (pc, row) ∉ t.hbm.wanted ∧ (pc, row) ∈ t.hbm.refused ∧
      t.fget Fl.memPprFailed (pcStack pc) = min (s.fget Fl.memPprFailed (pcStack pc) + 1) 255 ∧
      t.fget Fl.memPprDone (pcStack pc) = s.fget Fl.memPprDone (pcStack pc))) ∧
  (∀ (s : State) (loc : SramLoc) (use : SramUse), s.live = true →
    (∃ t, exec (.sramScrub loc false use) s = .next t ∧ t.fget Fl.errEvtCode 0 = 0x0C ∧ t.fget Fl.errEvtClass 0 = 0 ∧
      t.ops = s.ops ∧ t.tables = s.tables ∧ (s.fget Fl.errLogBaseAddr 0 = 0 → ∀ a, t.byteAt a = s.byteAt a)) ∧
    (∃ t, exec (.sramScrub loc true .scrub) s = .next t ∧ t.fget Fl.errEvtCode 0 = 0x0D ∧ t.fget Fl.errEvtClass 0 = 2 ∧
      t.ops = s.ops) ∧
    (∀ seq o, (match loc with | .commons _ _ => False | _ => True) → s.op? seq = some o → o.again = true →
      ∃ t, exec (.sramScrub loc true (.operation seq)) s = .next t ∧ t.op? seq = some o.fresh))

/-- R276, R277, R279: a request that times out is issued again; when it times out once more it is counted as an
uncorrectable error, and its pseudo-channel is retired: selection stops, HBM_TOP falls by 1.5 GiB, and every byte below the
new top keeps its value. Step 3 lets selection go on. -/
def Obligations.Retirement : Prop :=
  (∀ (s : State) (pc addr src seq : Nat), s.live = true → pc < 512 → pc ∉ s.retiredPcs →
    let at_ := s.rowOf (addr / 64)
    let k := pcStack at_.1
    ((pc, addr) ∉ s.hbm.pcLate →
      ∃ t, exec (.hbmTransactionTimeout pc addr src seq) s = .next t ∧ (pc, addr) ∈ t.hbm.pcLate ∧
        t = { s with hbm := { s.hbm with pcLate := t.hbm.pcLate } }) ∧
    ((pc, addr) ∈ s.hbm.pcLate → src = 2 → s.fget Fl.memRetireN 0 < 4 → (∀ o ∈ s.ops, o.inArray = false) →
      mget 0 s.hbm.pcUe at_.1 + 1 ≠ s.fget Fl.memCtlUeRetire k →
      ∃ t, exec (.hbmTransactionTimeout pc addr src seq) s = .next t ∧ pc ∈ t.retiredPcs ∧
        t.fget Fl.memUeEvtCount k = (s.fget Fl.memUeEvtCount k + 1) % 2 ^ 32 ∧
        t.fget Fl.memRetireN 0 = s.fget Fl.memRetireN 0 + 1 ∧ t.hbmTop = s.hbmTop - 0x60000000 ∧
        t.ost.retiring = true ∧ (pc, addr) ∉ t.hbm.pcLate ∧
        (s.fget Fl.errLogBaseAddr 0 = 0 →
          (∀ a < t.hbmTop, t.byteAt a = s.byteAt a) ∧ ∀ a, t.hbmTop ≤ a → a < 0xC000000000 → t.byteAt a = 0))) ∧
  (∀ s : State, s.live = true →
    exec .retirementDone s = .next { s with ost := { s.ost with retiring := false } })

/-! ### Watchdogs -/

/-- R290, R333, R334: a hart's watchdog restarts the hart, and a second expiry of the principal hart's within 1 s
passes the role on; the module watchdog resets the control complex, which firmware's slot, verified again, restarts.
-/
def Obligations.Watchdogs : Prop :=
  (∀ (s : State) (h : Nat), s.live = true → s.hartDue h = true →
    (s.twice h = false ∨ h ≠ s.principalHart →
      ∃ t, exec (.hartWdogExpire h) s = .next t ∧ (t.hart h).restarts = (s.hart h).restarts + 1 ∧
        (t.hart h).entry = s.boot.restart ∧ (t.hart h).kick = s.now ∧ (t.hart h).held = false ∧
        t.fget Fl.errEvtCode 0 = 0x16 ∧ t.fget Fl.errEvtClass 0 = 1 ∧ t.ctrl = s.ctrl ∧ t.ops = s.ops ∧
        (∀ g, g ≠ h → t.hart g = s.hart g)) ∧
    (∀ q < 4, s.twice h = true → h = s.principalHart →
      (List.range 4).find? (fun q => s.fget Fl.glbQmaskPrincipal 0 < q && s.complexUp q) = some q →
      ∃ t, exec (.hartWdogExpire h) s = .next t ∧ t.fget Fl.glbQmaskPrincipal 0 = q ∧
        (∀ i < 4, (t.hart (4 * s.fget Fl.glbQmaskPrincipal 0 + i)).held = true) ∧ (t.hart (4 * q)).irqPrincipal = true ∧
        t.moduleKick = s.now ∧ t.fget Fl.errEvtCode 0 = 0x17 ∧ t.ops = s.ops)) ∧
  (∀ s : State, s.live = true → s.bootLocked = true → s.complexReset = false →
    s.moduleKick + 800 * s.fget Fl.toLimitLimit 9 ≤ s.now →
    let recent := s.moduleExpired.filter fun b => s.now ≤ b + 3600 * 800000000
    (recent.length < 2 →
      ∃ t, exec .moduleWdogExpire s = .next t ∧ t.complexReset = true ∧ t.ctrl = [] ∧ t.moduleKick = s.now ∧
        t.moduleExpired = recent ++ [s.now] ∧ t.fget Fl.errEvtCode 0 = 0x18 ∧ t.ops = s.ops ∧ t.tiles = s.tiles ∧
        (∀ h < 16, (s.hart h).held = false → (t.hart h).restarts = (s.hart h).restarts + 1)) ∧
    (2 ≤ recent.length →
      ∃ t, exec .moduleWdogExpire s = .next t ∧ t.ops = [] ∧ t.mem = [] ∧ t.bell = [] ∧ t.flash = s.flash ∧
        t.fget Fl.secBootStatLock 0 = 0)) ∧
  (∀ (s : State) (ok : Bool), s.live = true → s.complexReset = true →
    let img := s.slotImage (s.fget Fl.secBootStatSlot 0)
    (s.imageOk img ok = true →
      ∃ t, exec (.controlComplexRestart ok) s = .next t ∧ t.complexReset = false ∧ t.boot.entry = imgNat img 48 8 ∧
        t.boot.restart = imgNat img 56 8 ∧ t.ops = s.ops ∧ t.regs = s.regs) ∧
    (s.imageOk img ok = false → ∀ q,
      (List.range 4).find? (fun q => s.fget Fl.glbQmaskPrincipal 0 < q && s.complexUp q) = some q →
      ∃ t, exec (.controlComplexRestart ok) s = .next t ∧ t.fget Fl.glbQmaskPrincipal 0 = q ∧
        t.fget Fl.errEvtCode 0 = 0x17 ∧ t.ops = s.ops))

/-! ### Twins -/

/-- R345 to R348, R353, Table 14.14: a heartbeat and the 16 transactions of a dirty granule go to the twin where a port reaches
it. Of what the twin sends, a granule is stored in its place of the reserve unless storing has stopped, a register value waits
beside the sealed copy, a SEAL makes what has come the sealed copy, and a heartbeat records the partner's state. An
acknowledged SEAL sets SEALED and ends PAIRING. Only a spare accepts ADOPT; ADOPT_TIMEOUT clears GO. -/
def Obligations.TwinTraffic : Prop :=
  (∀ s : State, s.live = true → s.fget Fl.twnCtlEnable 0 = 1 → s.twinSelf ≠ twFencing → s.twinSelf ≠ twReplaying →
    s.beatDue = true → s.routes (s.aliased s.twinNode) 0 6 false ≠ [] →
    ∃ t x, exec .heartbeatSend s = .next t ∧ t.twin.unacked = s.twin.unacked ++ [(x, s.now)] ∧ x.dst = s.twinNode ∧
      x.arg1 = 4 ∧ x.data = leBytes 8 (s.rd .twnState 0).toNat ∧ x.tag = s.newTag ∧
      t.nextTag = (s.newTag + 1) % 65536 ∧ t.mem = s.mem ∧ t.regs = s.regs) ∧
  (∀ (s : State) (g : Nat), s.live = true → s.mirroring = true → g ∈ s.twin.dirty →
    s.routes (s.aliased s.twinNode) 0 6 false ≠ [] →
    ∃ t, exec (.mirrorSend g) s = .next t ∧ t.twin.dirty = s.twin.dirty.filter (· ≠ g) ∧
      t.twin.unacked.length = s.twin.unacked.length + 16 ∧
      mget [] t.twin.freshImg g = ((List.range 65536).map fun i => s.byteAt (65536 * g + i)) ∧
      t.mem = s.mem ∧ t.regs = s.regs) ∧
  (∀ (s : State) (p : Nat) (x : Txn), s.live = true → s.arrives p x = true → s.screen p x = none → x.ttype = ttMirror →
    s.answersFor x.dst = true → x.once = false → s.fromTwin x = true → s.twinSelf ≠ twSuspect →
    s.takeRx p x = { s with ports := (s.takeRx p x).ports } →
    (∀ k, wbits x.arg1 7 0 = 1 → s.twin.shadowStopped = false → x.data ≠ [] → x.addr % 65536 + x.data.length ≤ 65536 →
      mget 0 s.twin.freshDir (x.addr / 65536) = k + 1 → s.resBase + (k + 1) * 65536 ≤ 0xC000000000 →
      ∃ t, exec (.mirrorGranule p x) s = .next t ∧ t.twin.lastHeard = s.now ∧ t.twin.freshDir = s.twin.freshDir ∧
        t.twin.sealedDir = s.twin.sealedDir ∧
        (∀ i < x.data.length, t.byteAt (s.resBase + k * 65536 + x.addr % 65536 + i) = x.data.getD i 0) ∧
        (∀ a, a < s.resBase + k * 65536 + x.addr % 65536 ∨
          s.resBase + k * 65536 + x.addr % 65536 + x.data.length ≤ a → t.byteAt a = s.byteAt a)) ∧
    (wbits x.arg1 7 0 = 1 → s.twin.shadowStopped = true →
      ∃ t, exec (.mirrorGranule p x) s = .next t ∧ t.mem = s.mem ∧ t.twin.freshDir = s.twin.freshDir) ∧
    (wbits x.arg1 7 0 = 2 →
      ∃ t, exec (.mirrorConfig p x) s = .next t ∧
        mget none t.twin.freshCfg x.addr = some (BitVec.ofNat 64 (leNat (x.data.take 8))) ∧
        t.twin.sealedCfg = s.twin.sealedCfg ∧ t.regs = s.regs) ∧
    (wbits x.arg1 7 0 = 3 → s.twin.shadowStopped = false → s.twinSelf ≠ twExcluded →
      ∃ t, exec (.mirrorSeal p x) s = .next t ∧ t.twin.sealedStep = wbits x.arg0 47 0 ∧ t.twin.hasSealed = true ∧
        t.twin.freshDir = [] ∧ t.twin.freshCfg = [] ∧
        (∀ g, mget 0 s.twin.freshDir g = 0 → (∀ e ∈ s.twin.freshDir, e.1 ≠ g) →
          mget 0 t.twin.sealedDir g = mget 0 s.twin.sealedDir g) ∧
        (∀ g k, (s.twin.freshDir.map Prod.fst).Nodup → mget 0 s.twin.freshDir g = k + 1 →
          mget 0 t.twin.sealedDir g = k + 1) ∧ t.mem = s.mem ∧ t.regs = s.regs) ∧
    (wbits x.arg1 7 0 = 4 →
      ∃ t, exec (.heartbeat p x) s = .next t ∧ t.twin.lastHeard = s.now ∧
        t.fget Fl.twnStatePartner 0 = bitsOf (leNat (x.data.take 8)) 63 60)) ∧
  (∀ (s : State) (p : Nat) (x : Txn) (q : Req) (o : Op), s.live = true → s.arrives p x = true → s.screen p x = none →
    x.ttype = ttMirrorAck → s.reqs.find? (fun r => r.answers ttMirror x) = some q → q.who = .mirror →
    wbits q.txn.arg1 7 0 = 3 → x.status = rsOk → s.twin.sealWait.bind s.op? = some o → o.partner = false → s.waitTxns = [] →
    ∃ t, exec (.mirrorAck p x) s = .next t ∧ t.fget Fl.twnStateSealed 0 = wbits q.txn.arg0 47 0 ∧
      (s.twinSelf = twPairing → t.twinSelf = twMirroring)) ∧
  (∀ (s : State) (p : Nat) (x : Txn), s.live = true → s.arrives p x = true → s.screen p x = none → x.ttype = ttMirror →
    s.answersFor x.dst = true → x.once = false → wbits x.arg1 7 0 = 5 →
    (s.fget Fl.glbNodeRole 0 = 1 → s.reserveFits = true →
      rightIn (s.aclFor p x) 0 .regs (wbits x.arg0 35 18) = true →
      ∃ t, exec (.adopt p x) s = .next t ∧ t.fget Fl.glbNodeNode 0 = wbits x.arg0 17 0 ∧ t.fget Fl.glbNodeRole 0 = 0 ∧
        t.fget Fl.twnPartnerNode 0 = wbits x.arg0 35 18 ∧ t.fget Fl.twnCtlEnable 0 = 1 ∧ t.twinSelf = twExcluded) ∧
    (s.fget Fl.glbNodeRole 0 ≠ 1 → s.takeRx p x = { s with ports := (s.takeRx p x).ports } →
      ∃ t, exec (.adopt p x) s = .next t ∧ t.regs = s.regs ∧ t.twin = s.twin ∧ t.mem = s.mem)) ∧
  (∀ s : State, s.live = true → s.waitTxns = [] →
    (s.fget Fl.twnAdoptGo 0 = 1 → s.elapsed s.twin.adoptAt (s.limitUs 6) = true →
      ∃ t, exec .adoptTimeout s = .next t ∧ t.fget Fl.twnAdoptGo 0 = 0 ∧ t.fget Fl.errEvtCode 0 = 0x14 ∧
        ∀ r ∈ t.reqs, r.who ≠ .adopt) ∧
    (s.fget Fl.twnAdoptGo 0 = 0 → exec .adoptTimeout s = .next s))

/-- R348 to R352: a silent partner is suspected, and without an answer through the planes taken over, where a whole
sealed step of it is here; the contexts take turns; the hand-back returns the partner's work. -/
def Obligations.Takeover : Prop :=
  (∀ s : State, s.live = true → s.fget Fl.twnCtlEnable 0 = 1 →
    s.twinSelf = twPairing ∨ s.twinSelf = twMirroring ∨ (s.twinSelf = twUnshadowed ∧ s.twin.failed = false) →
    (s.twin.lastHeard + 800 * s.fget Fl.toLimitLimit 10 ≤ s.now →
      ∃ t, exec .partnerSilence s = .next t ∧ t.twinSelf = twSuspect ∧ t.twin.probing = true ∧
        t.twin.before = s.twinSelf ∧ t.ops = s.ops) ∧
    (s.now < s.twin.lastHeard + 800 * s.fget Fl.toLimitLimit 10 → exec .partnerSilence s = .next s)) ∧
  (∀ s : State, s.live = true → s.twinSelf = twSuspect → s.twin.probing = true →
    (s.now < s.twin.since + 16000000 → exec .partnerFailed s = .next s) ∧
    (s.twin.since + 16000000 ≤ s.now → ∃ t, exec .partnerFailed s = .next t ∧ t.twin.failed = true ∧ t.twin.probing = false ∧ t.twin.stopped = true ∧
      (s.twin.hasSealed = true → s.twin.shadowStopped = false →
        t.twinSelf = twFencing ∧ t.twin.serves = some s.twinNode ∧
        (∀ p < 12, s.fget Fl.portCtlTwin p = 1 → t.fget Fl.portCtlEnable p = 0)) ∧
      (s.twin.hasSealed = false ∨ s.twin.shadowStopped = true → t.twinSelf = twUnshadowed))) ∧
  (∀ s : State, s.live = true →
    (s.twinSelf = twFencing → s.twin.since + 240000000 ≤ s.now →
      ∃ t, exec .fencingEnd s = .next t ∧ t.twinSelf = twReplaying ∧ t.twin.running = false) ∧
    (s.twinSelf = twReplaying → s.replayedAll = true →
      ∃ t, exec .partnerReplayEnd s = .next t ∧ t.twinSelf = twServingBoth ∧ (t.ctxLog true).replaying = false ∧
        t.ops = s.ops ∧ t.insts = s.insts) ∧
    (s.twin.serves.isSome = true → (∀ o ∈ s.ops, o.inArray = true → o.partner ≠ s.twin.running) →
      s.ctxGoesOn = false →
      ∃ t, exec .contextSwitch s = .next t ∧ t.twin.running = !s.twin.running ∧
        mget 0 t.twin.deficits (!s.twin.running).toNat = mget 0 s.twin.deficits (!s.twin.running).toNat + 4096 ∧
        t = { s with twin := t.twin }) ∧
    (∀ n, s.twinSelf = twServingBoth → s.twin.newTwin.isSome = true → s.twin.newSealed = true →
      ∃ t, exec (.handBack n) s = .next t ∧ t.twinSelf = twMirroring ∧ t.twin.serves = none ∧ t.twin.newTwin = none ∧
        ∀ o ∈ t.ops, o.partner = false))

/-! ### The sideband and the TAP -/

/-- R359, R360, R375 to R377, Tables 15.3, 15.15 and 15.16: every command of the sideband is answered by one message,
and has its effect. -/
def Obligations.Management : Prop :=
  ∀ s : State, s.powered = true →
    let said (c : Instr) (m : List Byte) : Prop := ∃ t, exec c s = .next t ∧ t.mgmt.out = s.mgmt.out ++ [m]
    let vs (cmd st : Byte) (sq : BitVec 16) (data : List Byte) : List Byte :=
      [0x7F] ++ leBytes 4 (s.fget Fl.mgtCtlIana 0) ++ [cmd, 0x01] ++ leBytes 2 sq.toNat ++ [st] ++ data
    (∀ da : BitVec 8, s.fget Fl.mgtI3cDa 0 = 0 →
      ∃ t, exec (.entdaa da) s = .next t ∧ t.fget Fl.mgtI3cDa 0 = da.toNat ∧ t.mgmt = s.mgmt) ∧
    (∀ eid : BitVec 8, eid ≠ 0 → eid ≠ 0xFF →
      ∃ t, exec (.setEndpointId eid) s = .next t ∧ t.mgmt.eid = eid ∧
        t.mgmt.out = s.mgmt.out ++ [[0x00, 0x00, 0x01, 0x00, 0x00, eid, 0x00]]) ∧
    said .getEndpointId [0x00, 0x00, 0x02, 0x00, s.mgmt.eid, 0x00, 0x00] ∧
    (∀ m : BitVec 8, (m ∈ mctpTypes → ∃ v, v.length = 4 ∧
      said (.getMctpVersionSupport m) ([0x00, 0x00, 0x04, 0x00, 0x01] ++ v)) ∧
      (m ∉ mctpTypes → said (.getMctpVersionSupport m) [0x00, 0x00, 0x04, 0x80])) ∧
    said .getMessageTypeSupport [0x00, 0x00, 0x05, 0x00, 0x02, 0x01, 0x7F] ∧
    (∃ v, v.length = 2 ∧ said .getVendorDefinedMsgSupport
      ([0x00, 0x00, 0x06, 0x00, 0xFF, 0x01] ++ beBytes 4 (s.fget Fl.mgtCtlIana 0) ++ v)) ∧
    said (.pldmBaseCommand 0x04) ([0x01, 0x00, 0x00, 0x04, 0x00, 0x05] ++ List.replicate 7 0) ∧
    (∀ cmd : BitVec 8, cmd = 0 ∨ 5 < cmd.toNat → said (.pldmBaseCommand cmd) [0x01, 0x00, 0x00, cmd, 0x05]) ∧
    (∀ cmd : BitVec 8, 1 ≤ cmd.toNat → cmd.toNat ≤ 5 → ∃ v, said (.pldmBaseCommand cmd) ([0x01, 0x00, 0x00, cmd, 0x00] ++ v)) ∧
    (∀ h ≤ 19, ∃ v, said (.getPdr h) ([0x01, 0x00, 0x02, 0x51, 0x00] ++
      leBytes 4 (if max 1 h < 19 then max 1 h + 1 else 0) ++ v)) ∧
    (∀ h > 19, said (.getPdr h) [0x01, 0x00, 0x02, 0x51, 0x82]) ∧
    said (.getSensorReading 0x0001) ([0x01, 0x00, 0x02, 0x11, 0x00, 0x05, 0x00, 0x00, 0x01, 0x01, 0x01] ++
      leBytes 4 (s.fget Fl.pwrInVMv 0 / 1000)) ∧
    (∀ id ∉ sensorIds, said (.getSensorReading id) [0x01, 0x00, 0x02, 0x11, 0x80] ∧
      said (.getStateSensorReadings id) [0x01, 0x00, 0x02, 0x21, 0x80]) ∧
    (let x := BitVec.ofNat 8 s.stage
     said (.getStateSensorReadings 0x0101) [0x01, 0x00, 0x02, 0x21, 0x00, 0x01, 0x00, x, x, x]) ∧
    ∀ sq : BitVec 16,
      said (.getStatus sq) (vs 0x01 0x00 sq (wordsBytes
        ([s.rd .secBootStat 0, s.rd .glbLife 0, s.rd .errEvt 0, s.rd .twnState 0].map BitVec.toNat))) ∧
      (∀ (r : Reg) (i : Nat), i < r.place.2.1 → r ≠ .glbBell →
        said (.readReg sq (r.off i)) (vs 0x02 0x00 sq (leBytes 8 (s.regRead r i).toNat))) ∧
      (∀ off, off % 8 = 0 → regAt off = none → said (.readReg sq off) (vs 0x02 0x04 sq [BitVec.ofNat 8 rsHole])) ∧
      (∃ t, exec (.clearAlert sq) s = .next t ∧ t.fget Fl.mgtCtlAlert 0 = 0 ∧
        t.mgmt.out = s.mgmt.out ++ [vs 0x03 0x00 sq []]) ∧
      (∃ t, exec (.reset sq) s = .next t ∧ t.bell = [] ∧ t.mem = [] ∧ t.ops = [] ∧ t.halted = false ∧
        t.fget Fl.secBootStatLock 0 = 0 ∧ t.flash = s.flash ∧ t.fuses = s.fuses) ∧
      (s.fwServes = false → s.romServes = false → ∀ off len data p tr n cf,
        said (.flashRead sq off len) (vs 0x10 0x02 sq []) ∧ said (.flashErase sq off) (vs 0x11 0x02 sq []) ∧
        said (.flashWrite sq off data) (vs 0x12 0x02 sq []) ∧ said (.bootSelect sq p tr n cf) (vs 0x13 0x02 sq [])) ∧
      (s.fwServes = false → said (.commit sq) (vs 0x14 0x02 sq []) ∧ said (.getCert sq) (vs 0x20 0x02 sq []) ∧
        ∀ nonce, said (.attest sq nonce) (vs 0x21 0x02 sq [])) ∧
      (s.fwServes = true ∨ s.romServes = true →
        (∀ off len, len ≤ 1024 → off + len ≤ 0x8000000 →
          said (.flashRead sq off len) (vs 0x10 0x00 sq (s.flashPeek off len))) ∧
        (∀ off, off < 0x8000000 → s.flashOpen off = true →
          ∃ t, exec (.flashErase sq off) s = .next t ∧ t.mgmt.out = s.mgmt.out ++ [vs 0x11 0x00 sq []] ∧
            ∀ a, t.flashByte a = if a / 65536 = off / 65536 then 0xFF else s.flashByte a) ∧
        (∀ off, off < 0x8000000 → s.flashOpen off = false →
          ∃ t, exec (.flashErase sq off) s = .next t ∧ t.mgmt.out = s.mgmt.out ++ [vs 0x11 0x03 sq []] ∧
            t.flash = s.flash) ∧
        (∀ off data, data.length ≤ 1024 → off + data.length ≤ 0x8000000 →
          (∀ i < data.length, s.flashOpen (off + i) = true ∧ s.flashByte (off + i) = 0xFF) →
          ∃ t, exec (.flashWrite sq off data) s = .next t ∧ t.mgmt.out = s.mgmt.out ++ [vs 0x12 0x00 sq []] ∧
            (∀ i < data.length, t.flashByte (off + i) = data.getD i 0) ∧
            (∀ a, a < off ∨ off + data.length ≤ a → t.flashByte a = s.flashByte a)) ∧
        (∀ p tr n cf : Byte, p.toNat ≤ 1 → tr.toNat ≤ 1 → 1 ≤ n.toNat → n.toNat ≤ 3 → cf.toNat ≤ 1 ∨ cf = 0xFF →
          s.header.gen + 1 < 2 ^ 32 →
          ∃ t, exec (.bootSelect sq p tr n cf) s = .next t ∧ t.mgmt.out = s.mgmt.out ++ [vs 0x13 0x00 sq []] ∧
            t.header.pref = p.toNat ∧ t.header.trial = tr.toNat ∧ t.header.tries = n.toNat ∧
            t.header.cfgNext = cf.toNat ∧ t.header.gen = s.header.gen + 1 ∧ t.header.commit = s.header.commit ∧
            t.header.cfg = s.header.cfg)) ∧
      (s.fwServes = true →
        (s.header.gen + 1 < 2 ^ 32 →
          ∃ t, exec (.commit sq) s = .next t ∧ t.header.trial = 0 ∧
            bitsOf t.header.commit (s.fget Fl.secBootStatSlot 0) (s.fget Fl.secBootStatSlot 0) = 1) ∧
        said (.getCert sq) (vs 0x20 0x00 sq (s.flashPeek 0x20000 7944)) ∧
        (∀ nonce : List Byte, nonce.length = 32 → s.mgmt.nonce = none →
          ∃ t, exec (.attest sq nonce) s = .next t ∧ t.mgmt.nonce = some (sq.toNat, nonce) ∧
            t.mgmt.out = s.mgmt.out) ∧
        (∀ nonce : List Byte, nonce.length = 32 → s.mgmt.nonce.isSome = true →
          said (.attest sq nonce) (vs 0x21 0x02 sq []))) ∧
      (s.live = true → ∀ nonce, s.mgmt.nonce = some (sq.toNat, nonce) →
        ∃ t sig, exec .attestReportReady s = .next t ∧ t.mgmt.nonce = none ∧ sig.length = 17088 ∧
          t.mgmt.out = s.mgmt.out ++ [vs 0x21 0x00 sq (s.reportBody nonce ++ sig)])

/-- R379, Tables 15.10 and 15.17: the TAP. An instruction that GLB_LIFE does not allow loads as BYPASS; boundary scan
that takes the pins over halts the module; debug halts a hart, lets it go and shows a register of it. R287: a halted hart
makes one step, an instruction or the trap of an ECALL (the instruction comes with the command, and the traps are those of
the privileged architecture; log entries 8, 47 and 130). -/
def Obligations.TapAccess : Prop :=
  ∀ s : State, s.power.phase = .on →
    (∃ t, exec .bypass s = .next t ∧ t.jtag.ir = 0xFF ∧ t.jtag.dr = 0) ∧
    (∃ t, exec .idcode s = .next t ∧ t.jtag.ir = 0x01 ∧ t.jtag.dr.getLsbD 0 = true ∧
      t.jtag.dr.extractLsb' 12 16 = 0x4096 ∧ t.jtag.dr.extractLsb' 28 4 = 2 ∧
      t.jtag.dr.extractLsb' 1 11 = Config.manufacturerId) ∧
    (s.scanAllowed = true → (∃ t, exec .samplePreload s = .next t ∧ t.jtag.ir = 0x02 ∧ t.halted = s.halted) ∧
      ∀ c ∈ ([(.extest, 0x03), (.clamp, 0x04), (.highz, 0x05), (.extestPulse, 0x06),
          (.extestTrain, 0x07)] : List (Instr × Byte)),
        ∃ t, exec c.1 s = .next t ∧ t.jtag.ir = c.2 ∧ t.halted = true ∧ t.ops = [] ∧ t.tiles = [] ∧ t.mem = s.mem) ∧
    (s.scanAllowed = false → ∀ c ∈ ([.samplePreload, .extest, .clamp, .highz, .extestPulse, .extestTrain] : List Instr),
      ∃ t, exec c s = .next t ∧ t.jtag.ir = 0xFF ∧ t.jtag.dr = 0 ∧ t.halted = s.halted ∧ t.mem = s.mem) ∧
    (s.debugAllowed = true → ∀ h < 16,
      (∃ t, exec (.dbgHart h .halt) s = .next t ∧ (t.hart h).halted = true ∧ t.jtag.ir = 0x10) ∧
      (∃ t, exec (.dbgHart h .resume) s = .next t ∧ (t.hart h).halted = false ∧ t.jtag.ir = 0x10) ∧
      (∀ r, ∃ t, exec (.dbgHart h (.inspect r)) s = .next t ∧ t.jtag.dr = s.hartReg h r ∧ t.harts = s.harts) ∧
      (∀ len, (s.hart h).halted = true → s.hartUp h = true → s.hartIrq h = none → s.fetchLen h = .ok len →
        (∀ rd v, ∃ t, exec (.dbgHart h (.step (.compute rd v))) s = .next t ∧
          (t.hart h).pc = (s.hart h).pc + BitVec.ofNat 64 len ∧
          (∀ n < 32, (t.hart h).getX n = if n = rd ∧ n ≠ 0 then v else (s.hart h).getX n) ∧
          ∀ g, g ≠ h → t.hart g = s.hart g) ∧
        ((s.hart h).priv = .machine →
          ∃ t, exec (.dbgHart h (.step .ecall)) s = .next t ∧ (t.hart h).cs csMcause = 11 ∧
            (t.hart h).cs csMepc = (s.hart h).pc ∧ (t.hart h).pc = trapPc ((s.hart h).cs csMtvec) false 11))) ∧
    (s.debugAllowed = true →
      (∀ (r : Reg) (i : Nat), i < r.place.2.1 → r ≠ .glbBell →
        ∃ t, exec (.dbgReg (r.off i) none) s = .next t ∧ t.jtag.ir = 0x11 ∧ t.jtag.dr = s.regRead r i) ∧
      (∀ (i : Nat) (v : Word64), i < 8 → s.live = true → s.present (.hart s.principalHart) = true →
        ∃ t, exec (.dbgReg (Reg.off .ostClassWt i) (some v)) s = .next t ∧
          t.fget Fl.ostClassWtStrict i = bitsOf v.toNat 63 63)) ∧
    (s.debugAllowed = false → ∀ h off op wr,
      (∃ t, exec (.dbgHart h op) s = .next t ∧ t.jtag.ir = 0xFF ∧ t.harts = s.harts ∧ t.mem = s.mem) ∧
      (∃ t, exec (.dbgReg off wr) s = .next t ∧ t.jtag.ir = 0xFF ∧ t.jtag.dr = 0 ∧ t.mem = s.mem))

/-- R358: boot lock is set as the ROM hands control to firmware, and SEC_BOOT_STAT.LOCK then reads 1; from then until
the next reset every RWL field is read only. -/
def Obligations.BootLockHolds : Prop :=
  (∀ s : State, s.live = true → s.bootReady = true →
    ∃ t, exec .bootLock s = .next t ∧ t.fget Fl.secBootStatLock 0 = 1 ∧
      ∀ h < 16, s.complexUp (h / 4) = true → (t.hart h).entry = s.boot.entry) ∧
  (∀ (s : State) (c : Instr) (req : Requester) (off width : Nat) (v : Word64) (on : Bool) (f : Fld) (i : Nat),
    s.live = true → s.fget Fl.secBootStatLock 0 = 1 → f ∈ f.reg.fields → f.acc = .rwl → i < f.reg.place.2.1 →
    c = .registerWrite req off width v ∨ c = .portEnableWrite req off on ∨ c = .dbgReg off (some v) →
    ∃ t, exec c s = .next t ∧
      ((t.fget Fl.secBootStatLock 0 = 1 ∧ t.fget f i = s.fget f i) ∨
        (t.fget Fl.secBootStatLock 0 = 0 ∧ t.bell = [] ∧ t.mem = [] ∧ t.ops = [])))
end

