-- ==== Sys2Proof/Laws/Maps.lean ====
section
/-! SUPPORT. Maps: what reading a sparse map after a change gives, and that every change keeps the canonical form. -/

namespace Sys2Proof.Machine

variable {α : Type}

@[simp] theorem mget_nil (d : α) (k : Nat) : mget d [] k = d := rfl

/-- Keys without a listed value read as the default. -/
theorem mget_eq_default {d : α} {m : SMap α} {k : Nat} (h : ∀ e ∈ m, e.1 ≠ k) : mget d m k = d := by
  induction m with
  | nil => rfl
  | cons e r ih =>
    have h1 : e.1 ≠ k := h e (by simp)
    simp only [mget, h1, if_false]
    exact ih fun x hx => h x (by simp [hx])

theorem mget_merase_same (d : α) (m : SMap α) (k : Nat) : mget d (merase m k) k = d :=
  mget_eq_default fun e he => by simpa [merase] using (List.mem_filter.mp he).2

theorem mget_merase_ne (d : α) (m : SMap α) {k j : Nat} (h : j ≠ k) : mget d (merase m k) j = mget d m j := by
  induction m with
  | nil => rfl
  | cons e r ih =>
    by_cases he : e.1 = k
    · have : merase (e :: r) k = merase r k := by simp [merase, he]
      rw [this, ih]
      simp [mget, he, Ne.symm h]
    · have : merase (e :: r) k = e :: merase r k := by simp [merase, he]
      rw [this]
      simp only [mget, ih]

theorem mget_minsert_same (d : α) (m : SMap α) (k : Nat) (v : α) (h : ∀ e ∈ m, e.1 ≠ k) :
    mget d (minsert m k v) k = v := by
  induction m with
  | nil => simp [minsert, mget]
  | cons e r ih =>
    obtain ⟨j, w⟩ := e
    simp only [minsert]
    split
    · simp [mget]
    · have h1 : j ≠ k := h (j, w) (by simp)
      simp only [mget, h1, if_false]
      exact ih fun x hx => h x (by simp [hx])

theorem mget_minsert_ne (d : α) (m : SMap α) {k j : Nat} (v : α) (h : j ≠ k) :
    mget d (minsert m k v) j = mget d m j := by
  induction m with
  | nil => simp [minsert, mget, Ne.symm h]
  | cons e r ih =>
    obtain ⟨i, w⟩ := e
    simp only [minsert]
    split
    · simp [mget, Ne.symm h]
    · simp only [mget, ih]

theorem merase_keys (m : SMap α) (k : Nat) : ∀ e ∈ merase m k, e.1 ≠ k :=
  fun e he => by simpa [merase] using (List.mem_filter.mp he).2

/-- Reading the key just written. -/
@[simp] theorem mget_mput_same [DecidableEq α] (d : α) (m : SMap α) (k : Nat) (v : α) : mget d (mput d m k v) k = v := by
  unfold mput
  split
  · rename_i h; rw [mget_merase_same, h]
  · exact mget_minsert_same d _ k v (merase_keys m k)

/-- Reading another key; the two keys may have different defaults. -/
theorem mget_mput_ne [DecidableEq α] {d : α} (d' : α) (m : SMap α) {k j : Nat} (v : α) (h : j ≠ k) :
    mget d (mput d' m k v) j = mget d m j := by
  unfold mput
  split
  · exact mget_merase_ne d m h
  · rw [mget_minsert_ne d _ v h, mget_merase_ne d m h]

/-- Reading any key after a write. -/
theorem mget_mput [DecidableEq α] (d : α) (m : SMap α) (k j : Nat) (v : α) :
    mget d (mput d m k v) j = if j = k then v else mget d m j := by
  split
  · rename_i h; rw [h, mget_mput_same]
  · rename_i h; exact mget_mput_ne d m v h

theorem mem_minsert {m : SMap α} {k : Nat} {v : α} {e : Nat × α} (h : e ∈ minsert m k v) : e = (k, v) ∨ e ∈ m := by
  induction m with
  | nil => left; simpa [minsert] using h
  | cons f r ih =>
    obtain ⟨j, w⟩ := f
    simp only [minsert] at h
    split at h
    · rcases List.mem_cons.mp h with h | h
      · exact .inl h
      · exact .inr h
    · rcases List.mem_cons.mp h with h | h
      · exact .inr (by simp [h])
      · rcases ih h with h | h
        · exact .inl h
        · exact .inr (by simp [h])

theorem canonical_nil [DecidableEq α] (d : α) : Canonical d ([] : SMap α) := by simp [Canonical]

/-- A filter keeps the canonical form. -/
theorem Canonical.filter [DecidableEq α] {d : α} {m : SMap α} (h : Canonical d m) (p : Nat × α → Bool) :
    Canonical d (m.filter p) :=
  ⟨h.1.filter _, fun e he => h.2 e (List.mem_filter.mp he).1⟩

theorem Canonical.merase [DecidableEq α] {d : α} {m : SMap α} (h : Canonical d m) (k : Nat) : Canonical d (merase m k) :=
  h.filter _

theorem Canonical.minsert [DecidableEq α] {d : α} {m : SMap α} (h : Canonical d m) {k : Nat} {v : α} (hv : v ≠ d)
    (hk : ∀ e ∈ m, e.1 ≠ k) : Canonical d (minsert m k v) := by
  induction m with
  | nil => simp [Canonical, Sys2Proof.Machine.minsert, hv]
  | cons f r ih =>
    obtain ⟨j, w⟩ := f
    have hp := List.pairwise_cons.mp h.1
    have hr : Canonical d r := ⟨hp.2, fun e he => h.2 e (by simp [he])⟩
    have hj : j ≠ k := hk (j, w) (by simp)
    simp only [Sys2Proof.Machine.minsert]
    split
    · rename_i hlt
      refine ⟨List.pairwise_cons.mpr ⟨?_, h.1⟩, ?_⟩
      · intro e he
        rcases List.mem_cons.mp he with he | he
        · simp [he, hlt]
        · exact Nat.lt_trans hlt (hp.1 e he)
      · intro e he
        rcases List.mem_cons.mp he with he | he
        · simp [he, hv]
        · exact h.2 e he
    · rename_i hge
      have ih' := ih hr fun e he => hk e (by simp [he])
      refine ⟨List.pairwise_cons.mpr ⟨?_, ih'.1⟩, ?_⟩
      · intro e he
        rcases mem_minsert he with he | he
        · simp only [he]; omega
        · exact hp.1 e he
      · intro e he
        rcases List.mem_cons.mp he with he | he
        · exact h.2 e (by simp [he])
        · exact ih'.2 e he

/-- A write keeps the canonical form. -/
theorem Canonical.mput [DecidableEq α] {d : α} {m : SMap α} (h : Canonical d m) (k : Nat) (v : α) :
    Canonical d (mput d m k v) := by
  unfold Sys2Proof.Machine.mput
  split
  · exact h.merase k
  · rename_i hv; exact (h.merase k).minsert hv (merase_keys m k)

end Sys2Proof.Machine
end

