-- ==== Sys2Proof/Laws/Fields.lean ====
section
/-! SUPPORT. Fields: what reading a bit field, a register or a register field gives after a write of the same or of another
one. -/

namespace Sys2Proof.Machine

/-! ### Bit fields of numbers -/

theorem bitsOf_lt (v hi lo : Nat) : bitsOf v hi lo < 2 ^ (hi + 1 - lo) := Nat.mod_lt _ (by positivity)

/-- A number split at the edges of a field. -/
theorem split_at_field (v hi lo : Nat) :
    v = v / 2 ^ (lo + (hi + 1 - lo)) * 2 ^ (lo + (hi + 1 - lo)) + bitsOf v hi lo * 2 ^ lo + v % 2 ^ lo := by
  have h1 := Nat.div_add_mod v (2 ^ lo)
  have h2 := Nat.div_add_mod (v / 2 ^ lo) (2 ^ (hi + 1 - lo))
  rw [Nat.div_div_eq_div_mul, ← pow_add] at h2
  unfold bitsOf
  conv_lhs => rw [← h1, ← h2]
  rw [pow_add]; ring

/-- A field replaced, as the number above it, the field and the number below it. -/
theorem setBits_eq (v hi lo x : Nat) :
    setBits v hi lo x = v / 2 ^ (lo + (hi + 1 - lo)) * 2 ^ (lo + (hi + 1 - lo)) +
      x % 2 ^ (hi + 1 - lo) * 2 ^ lo + v % 2 ^ lo := by
  have h := split_at_field v hi lo
  unfold setBits
  omega

theorem setBits_testBit (v hi lo x i : Nat) :
    (setBits v hi lo x).testBit i = if lo ≤ i ∧ i < lo + (hi + 1 - lo) then x.testBit (i - lo) else v.testBit i := by
  generalize hw : hi + 1 - lo = w
  have h1 : setBits v hi lo x = 2 ^ lo * (2 ^ w * (v / 2 ^ (lo + w)) + x % 2 ^ w) + v % 2 ^ lo := by
    rw [setBits_eq, hw, pow_add]; ring
  rw [h1, Nat.testBit_two_pow_mul_add _ (Nat.mod_lt _ (by positivity))]
  split
  · rename_i h
    have : ¬ (lo ≤ i ∧ i < lo + w) := by omega
    rw [if_neg this, Nat.testBit_mod_two_pow]
    simp [h]
  · rename_i h
    rw [Nat.testBit_two_pow_mul_add _ (Nat.mod_lt _ (by positivity))]
    split
    · rename_i h2
      rw [if_pos (by omega), Nat.testBit_mod_two_pow]
      simp [h2]
    · rename_i h2
      rw [if_neg (by omega), Nat.testBit_div_two_pow]
      congr 1; omega

theorem bitsOf_testBit (v hi lo i : Nat) :
    (bitsOf v hi lo).testBit i = (decide (i < hi + 1 - lo) && v.testBit (lo + i)) := by
  unfold bitsOf
  rw [Nat.testBit_mod_two_pow, Nat.testBit_div_two_pow, Nat.add_comm i lo]

/-- The field just written holds the value, modulo its width. -/
theorem bitsOf_setBits_same (v hi lo x : Nat) : bitsOf (setBits v hi lo x) hi lo = x % 2 ^ (hi + 1 - lo) := by
  apply Nat.eq_of_testBit_eq
  intro i
  rw [bitsOf_testBit, Nat.testBit_mod_two_pow]
  by_cases h : i < hi + 1 - lo
  · rw [setBits_testBit, if_pos (by omega)]; simp [h]
  · simp [h]

/-- A field that does not meet the one written is unchanged. -/
theorem bitsOf_setBits_disjoint (v x : Nat) {hi lo hi' lo' : Nat} (h : hi < lo' ∨ hi' < lo) :
    bitsOf (setBits v hi lo x) hi' lo' = bitsOf v hi' lo' := by
  apply Nat.eq_of_testBit_eq
  intro i
  rw [bitsOf_testBit, bitsOf_testBit]
  by_cases hi' : i < hi' + 1 - lo'
  · rw [setBits_testBit, if_neg (by omega)]
  · simp [hi']

theorem setBits_lt {v hi lo : Nat} (x : Nat) (hv : v < 2 ^ 64) (hh : hi < 64) (hl : lo ≤ hi) : setBits v hi lo x < 2 ^ 64 := by
  apply Nat.lt_pow_two_of_testBit
  intro i hi2
  rw [setBits_testBit, if_neg (by omega)]
  exact Nat.testBit_lt_two_pow (Nat.lt_of_lt_of_le hv (Nat.pow_le_pow_right (by omega) hi2))

/-! ### Registers -/

/-- First offset, instances and stride of two registers keep their instances apart. -/
def placesApart (a b : Nat × Nat × Nat) : Bool :=
  decide (a.1 + a.2.2 * a.2.1 ≤ b.1) || decide (b.1 + b.2.2 * b.2.1 ≤ a.1) ||
    (a.2.2 == b.2.2 && a.1 % a.2.2 != b.1 % b.2.2)

theorem places_apart_offset {a b : Nat × Nat × Nat} (h : placesApart a b = true) {i j : Nat} (ha : 0 < a.2.2)
    (hb : 0 < b.2.2) (hi : i < a.2.1) (hj : j < b.2.1) : a.1 + a.2.2 * i ≠ b.1 + b.2.2 * j := by
  obtain ⟨o, n, st⟩ := a
  obtain ⟨o', n', st'⟩ := b
  simp only [placesApart, Bool.or_eq_true, decide_eq_true_eq, Bool.and_eq_true, beq_iff_eq, bne_iff_ne, ne_eq] at h
  intro he
  rcases h with (h | h) | ⟨h1, h2⟩
  · have : st * i + st ≤ st * n := by rw [← Nat.mul_succ]; exact Nat.mul_le_mul_left _ hi
    simp only at he ha h; omega
  · have : st' * j + st' ≤ st' * n' := by rw [← Nat.mul_succ]; exact Nat.mul_le_mul_left _ hj
    simp only at he hb h; omega
  · simp only at h1 h2 he
    subst h1
    apply h2
    have := congrArg (· % st) he
    simpa using this

/-- Every two registers of the map lie apart (R403). -/
theorem all_places_apart : (Reg.all.all fun r => Reg.all.all fun r' => r == r' || placesApart r.place r'.place) = true := by
  decide +kernel

theorem Reg.mem_all (r : Reg) : r ∈ Reg.all := by cases r <;> decide

theorem strides_pos (r : Reg) : 0 < r.place.2.2 := by cases r <;> decide

/-- Two instances of registers have one offset only if they are the same instance of the same register. -/
theorem Reg.off_ne {r r' : Reg} {i j : Nat} (hi : i < r.place.2.1) (hj : j < r'.place.2.1) (h : r ≠ r' ∨ i ≠ j) :
    r.off i ≠ r'.off j := by
  by_cases hr : r = r'
  · subst hr
    have hs := strides_pos r
    have hij : i ≠ j := by simpa using h
    unfold Reg.off
    intro he
    exact hij (Nat.eq_of_mul_eq_mul_left hs (by omega))
  · have h1 := List.all_eq_true.mp all_places_apart r (Reg.mem_all r)
    have h2 := List.all_eq_true.mp h1 r' (Reg.mem_all r')
    simp only [Bool.or_eq_true, beq_iff_eq, hr, false_or] at h2
    exact places_apart_offset h2 (strides_pos r) (strides_pos r') hi hj

@[simp] theorem State.rd_wr_same (s : State) (r : Reg) (i : Nat) (v : Word64) : (s.wr r i v).rd r i = v := by
  simp [State.rd, State.wr]

/-- A write leaves every other register instance alone. -/
theorem State.rd_wr_ne (s : State) {r r' : Reg} {i j : Nat} (v : Word64) (hi : i < r.place.2.1) (hj : j < r'.place.2.1)
    (h : r' ≠ r ∨ j ≠ i) : (s.wr r i v).rd r' j = s.rd r' j := by
  simp only [State.rd, State.wr]
  exact mget_mput_ne _ s.regs v (Reg.off_ne hj hi h)

/-- The bits of a field lie in a word. -/
abbrev Fld.inWord (f : Fld) : Prop := f.lo ≤ f.hi ∧ f.hi < 64

/-- The word after a field has been written. -/
theorem State.rd_fset_same (s : State) (f : Fld) (i v : Nat) :
    (s.fset f i v).rd f.reg i = BitVec.ofNat 64 (setBits (s.rd f.reg i).toNat f.hi f.lo v) := by
  simp [State.fset]

/-- A field write leaves every other register instance alone. -/
theorem State.rd_fset_ne (s : State) (f : Fld) {r : Reg} {i j : Nat} (v : Nat) (hi : i < f.reg.place.2.1)
    (hj : j < r.place.2.1) (h : r ≠ f.reg ∨ j ≠ i) : (s.fset f i v).rd r j = s.rd r j :=
  State.rd_wr_ne s _ hi hj h

/-- The field just written. -/
theorem State.fget_fset_same (s : State) (f : Fld) (i v : Nat) (hw : f.inWord) :
    (s.fset f i v).fget f i = v % 2 ^ (f.hi + 1 - f.lo) := by
  unfold State.fget
  rw [State.rd_fset_same, BitVec.toNat_ofNat, Nat.mod_eq_of_lt (setBits_lt v (BitVec.isLt _) hw.2 hw.1),
    bitsOf_setBits_same]

/-- Another field of the same register instance. -/
theorem State.fget_fset_field (s : State) {f g : Fld} (i v : Nat) (hw : f.inWord) (hr : g.reg = f.reg)
    (h : f.hi < g.lo ∨ g.hi < f.lo) : (s.fset f i v).fget g i = s.fget g i := by
  unfold State.fget
  rw [hr, State.rd_fset_same, BitVec.toNat_ofNat, Nat.mod_eq_of_lt (setBits_lt v (BitVec.isLt _) hw.2 hw.1),
    bitsOf_setBits_disjoint _ _ h]

/-- A field of another register instance. -/
theorem State.fget_fset_ne (s : State) {f g : Fld} {i j : Nat} (v : Nat) (hi : i < f.reg.place.2.1)
    (hj : j < g.reg.place.2.1) (h : g.reg ≠ f.reg ∨ j ≠ i) : (s.fset f i v).fget g j = s.fget g j := by
  unfold State.fget
  rw [State.rd_fset_ne s f v hi hj h]

end Sys2Proof.Machine
end

