-- ==== Sys2Proof/Laws/State.lean ====
section
/-! SUPPORT. State: what each named update leaves in each field of the state, one lemma per field per update. -/

namespace Sys2Proof.Machine

variable (s : State)

/-! ### wr -/

@[simp] theorem State.wr_pending (r : Reg) (i : Nat) (v : Word64) : (s.wr r i v).pending = s.pending := rfl
@[simp] theorem State.wr_swFields (r : Reg) (i : Nat) (v : Word64) : (s.wr r i v).swFields = s.swFields := rfl
@[simp] theorem State.wr_mem (r : Reg) (i : Nat) (v : Word64) : (s.wr r i v).mem = s.mem := rfl
@[simp] theorem State.wr_panel (r : Reg) (i : Nat) (v : Word64) : (s.wr r i v).panel = s.panel := rfl
@[simp] theorem State.wr_flash (r : Reg) (i : Nat) (v : Word64) : (s.wr r i v).flash = s.flash := rfl
@[simp] theorem State.wr_ctrl (r : Reg) (i : Nat) (v : Word64) : (s.wr r i v).ctrl = s.ctrl := rfl
@[simp] theorem State.wr_bell (r : Reg) (i : Nat) (v : Word64) : (s.wr r i v).bell = s.bell := rfl
@[simp] theorem State.wr_bellMail (r : Reg) (i : Nat) (v : Word64) : (s.wr r i v).bellMail = s.bellMail := rfl
@[simp] theorem State.wr_bellSeen (r : Reg) (i : Nat) (v : Word64) : (s.wr r i v).bellSeen = s.bellSeen := rfl
@[simp] theorem State.wr_bellRead (r : Reg) (i : Nat) (v : Word64) : (s.wr r i v).bellRead = s.bellRead := rfl
@[simp] theorem State.wr_halted (r : Reg) (i : Nat) (v : Word64) : (s.wr r i v).halted = s.halted := rfl
@[simp] theorem State.wr_acl (r : Reg) (i : Nat) (v : Word64) : (s.wr r i v).acl = s.acl := rfl
@[simp] theorem State.wr_ops (r : Reg) (i : Nat) (v : Word64) : (s.wr r i v).ops = s.ops := rfl
@[simp] theorem State.wr_ost (r : Reg) (i : Nat) (v : Word64) : (s.wr r i v).ost = s.ost := rfl
@[simp] theorem State.wr_tiles (r : Reg) (i : Nat) (v : Word64) : (s.wr r i v).tiles = s.tiles := rfl
@[simp] theorem State.wr_tables (r : Reg) (i : Nat) (v : Word64) : (s.wr r i v).tables = s.tables := rfl
@[simp] theorem State.wr_holds (r : Reg) (i : Nat) (v : Word64) : (s.wr r i v).holds = s.holds := rfl
@[simp] theorem State.wr_domains (r : Reg) (i : Nat) (v : Word64) : (s.wr r i v).domains = s.domains := rfl
@[simp] theorem State.wr_harts (r : Reg) (i : Nat) (v : Word64) : (s.wr r i v).harts = s.harts := rfl
@[simp] theorem State.wr_moduleKick (r : Reg) (i : Nat) (v : Word64) : (s.wr r i v).moduleKick = s.moduleKick := rfl
@[simp] theorem State.wr_moduleExpired (r : Reg) (i : Nat) (v : Word64) : (s.wr r i v).moduleExpired = s.moduleExpired := rfl
@[simp] theorem State.wr_complexReset (r : Reg) (i : Nat) (v : Word64) : (s.wr r i v).complexReset = s.complexReset := rfl
@[simp] theorem State.wr_ports (r : Reg) (i : Nat) (v : Word64) : (s.wr r i v).ports = s.ports := rfl
@[simp] theorem State.wr_reqs (r : Reg) (i : Nat) (v : Word64) : (s.wr r i v).reqs = s.reqs := rfl
@[simp] theorem State.wr_waitTxns (r : Reg) (i : Nat) (v : Word64) : (s.wr r i v).waitTxns = s.waitTxns := rfl
@[simp] theorem State.wr_nextTag (r : Reg) (i : Nat) (v : Word64) : (s.wr r i v).nextTag = s.nextTag := rfl
@[simp] theorem State.wr_onceTags (r : Reg) (i : Nat) (v : Word64) : (s.wr r i v).onceTags = s.onceTags := rfl
@[simp] theorem State.wr_once (r : Reg) (i : Nat) (v : Word64) : (s.wr r i v).once = s.once := rfl
@[simp] theorem State.wr_insts (r : Reg) (i : Nat) (v : Word64) : (s.wr r i v).insts = s.insts := rfl
@[simp] theorem State.wr_ctxs (r : Reg) (i : Nat) (v : Word64) : (s.wr r i v).ctxs = s.ctxs := rfl
@[simp] theorem State.wr_early (r : Reg) (i : Nat) (v : Word64) : (s.wr r i v).early = s.early := rfl
@[simp] theorem State.wr_staging (r : Reg) (i : Nat) (v : Word64) : (s.wr r i v).staging = s.staging := rfl
@[simp] theorem State.wr_stagingCap (r : Reg) (i : Nat) (v : Word64) : (s.wr r i v).stagingCap = s.stagingCap := rfl
@[simp] theorem State.wr_msgs (r : Reg) (i : Nat) (v : Word64) : (s.wr r i v).msgs = s.msgs := rfl
@[simp] theorem State.wr_seen (r : Reg) (i : Nat) (v : Word64) : (s.wr r i v).seen = s.seen := rfl
@[simp] theorem State.wr_log (r : Reg) (i : Nat) (v : Word64) : (s.wr r i v).log = s.log := rfl
@[simp] theorem State.wr_twin (r : Reg) (i : Nat) (v : Word64) : (s.wr r i v).twin = s.twin := rfl
@[simp] theorem State.wr_hbm (r : Reg) (i : Nat) (v : Word64) : (s.wr r i v).hbm = s.hbm := rfl
@[simp] theorem State.wr_power (r : Reg) (i : Nat) (v : Word64) : (s.wr r i v).power = s.power := rfl
@[simp] theorem State.wr_fuses (r : Reg) (i : Nat) (v : Word64) : (s.wr r i v).fuses = s.fuses := rfl
@[simp] theorem State.wr_boot (r : Reg) (i : Nat) (v : Word64) : (s.wr r i v).boot = s.boot := rfl
@[simp] theorem State.wr_mgmt (r : Reg) (i : Nat) (v : Word64) : (s.wr r i v).mgmt = s.mgmt := rfl
@[simp] theorem State.wr_jtag (r : Reg) (i : Nat) (v : Word64) : (s.wr r i v).jtag = s.jtag := rfl
@[simp] theorem State.wr_freeCtr (r : Reg) (i : Nat) (v : Word64) : (s.wr r i v).freeCtr = s.freeCtr := rfl

/-! ### fset -/

@[simp] theorem State.fset_pending (f : Fld) (i v : Nat) : (s.fset f i v).pending = s.pending := rfl
@[simp] theorem State.fset_swFields (f : Fld) (i v : Nat) : (s.fset f i v).swFields = s.swFields := rfl
@[simp] theorem State.fset_mem (f : Fld) (i v : Nat) : (s.fset f i v).mem = s.mem := rfl
@[simp] theorem State.fset_panel (f : Fld) (i v : Nat) : (s.fset f i v).panel = s.panel := rfl
@[simp] theorem State.fset_flash (f : Fld) (i v : Nat) : (s.fset f i v).flash = s.flash := rfl
@[simp] theorem State.fset_ctrl (f : Fld) (i v : Nat) : (s.fset f i v).ctrl = s.ctrl := rfl
@[simp] theorem State.fset_bell (f : Fld) (i v : Nat) : (s.fset f i v).bell = s.bell := rfl
@[simp] theorem State.fset_bellMail (f : Fld) (i v : Nat) : (s.fset f i v).bellMail = s.bellMail := rfl
@[simp] theorem State.fset_bellSeen (f : Fld) (i v : Nat) : (s.fset f i v).bellSeen = s.bellSeen := rfl
@[simp] theorem State.fset_bellRead (f : Fld) (i v : Nat) : (s.fset f i v).bellRead = s.bellRead := rfl
@[simp] theorem State.fset_halted (f : Fld) (i v : Nat) : (s.fset f i v).halted = s.halted := rfl
@[simp] theorem State.fset_acl (f : Fld) (i v : Nat) : (s.fset f i v).acl = s.acl := rfl
@[simp] theorem State.fset_ops (f : Fld) (i v : Nat) : (s.fset f i v).ops = s.ops := rfl
@[simp] theorem State.fset_ost (f : Fld) (i v : Nat) : (s.fset f i v).ost = s.ost := rfl
@[simp] theorem State.fset_tiles (f : Fld) (i v : Nat) : (s.fset f i v).tiles = s.tiles := rfl
@[simp] theorem State.fset_tables (f : Fld) (i v : Nat) : (s.fset f i v).tables = s.tables := rfl
@[simp] theorem State.fset_holds (f : Fld) (i v : Nat) : (s.fset f i v).holds = s.holds := rfl
@[simp] theorem State.fset_domains (f : Fld) (i v : Nat) : (s.fset f i v).domains = s.domains := rfl
@[simp] theorem State.fset_harts (f : Fld) (i v : Nat) : (s.fset f i v).harts = s.harts := rfl
@[simp] theorem State.fset_moduleKick (f : Fld) (i v : Nat) : (s.fset f i v).moduleKick = s.moduleKick := rfl
@[simp] theorem State.fset_moduleExpired (f : Fld) (i v : Nat) : (s.fset f i v).moduleExpired = s.moduleExpired := rfl
@[simp] theorem State.fset_complexReset (f : Fld) (i v : Nat) : (s.fset f i v).complexReset = s.complexReset := rfl
@[simp] theorem State.fset_ports (f : Fld) (i v : Nat) : (s.fset f i v).ports = s.ports := rfl
@[simp] theorem State.fset_reqs (f : Fld) (i v : Nat) : (s.fset f i v).reqs = s.reqs := rfl
@[simp] theorem State.fset_waitTxns (f : Fld) (i v : Nat) : (s.fset f i v).waitTxns = s.waitTxns := rfl
@[simp] theorem State.fset_nextTag (f : Fld) (i v : Nat) : (s.fset f i v).nextTag = s.nextTag := rfl
@[simp] theorem State.fset_onceTags (f : Fld) (i v : Nat) : (s.fset f i v).onceTags = s.onceTags := rfl
@[simp] theorem State.fset_once (f : Fld) (i v : Nat) : (s.fset f i v).once = s.once := rfl
@[simp] theorem State.fset_insts (f : Fld) (i v : Nat) : (s.fset f i v).insts = s.insts := rfl
@[simp] theorem State.fset_ctxs (f : Fld) (i v : Nat) : (s.fset f i v).ctxs = s.ctxs := rfl
@[simp] theorem State.fset_early (f : Fld) (i v : Nat) : (s.fset f i v).early = s.early := rfl
@[simp] theorem State.fset_staging (f : Fld) (i v : Nat) : (s.fset f i v).staging = s.staging := rfl
@[simp] theorem State.fset_stagingCap (f : Fld) (i v : Nat) : (s.fset f i v).stagingCap = s.stagingCap := rfl
@[simp] theorem State.fset_msgs (f : Fld) (i v : Nat) : (s.fset f i v).msgs = s.msgs := rfl
@[simp] theorem State.fset_seen (f : Fld) (i v : Nat) : (s.fset f i v).seen = s.seen := rfl
@[simp] theorem State.fset_log (f : Fld) (i v : Nat) : (s.fset f i v).log = s.log := rfl
@[simp] theorem State.fset_twin (f : Fld) (i v : Nat) : (s.fset f i v).twin = s.twin := rfl
@[simp] theorem State.fset_hbm (f : Fld) (i v : Nat) : (s.fset f i v).hbm = s.hbm := rfl
@[simp] theorem State.fset_power (f : Fld) (i v : Nat) : (s.fset f i v).power = s.power := rfl
@[simp] theorem State.fset_fuses (f : Fld) (i v : Nat) : (s.fset f i v).fuses = s.fuses := rfl
@[simp] theorem State.fset_boot (f : Fld) (i v : Nat) : (s.fset f i v).boot = s.boot := rfl
@[simp] theorem State.fset_mgmt (f : Fld) (i v : Nat) : (s.fset f i v).mgmt = s.mgmt := rfl
@[simp] theorem State.fset_jtag (f : Fld) (i v : Nat) : (s.fset f i v).jtag = s.jtag := rfl
@[simp] theorem State.fset_freeCtr (f : Fld) (i v : Nat) : (s.fset f i v).freeCtr = s.freeCtr := rfl

/-! ### swset -/

@[simp] theorem State.swset_pending (f : Fld) (i v : Nat) : (s.swset f i v).pending = s.pending := rfl
@[simp] theorem State.swset_mem (f : Fld) (i v : Nat) : (s.swset f i v).mem = s.mem := rfl
@[simp] theorem State.swset_panel (f : Fld) (i v : Nat) : (s.swset f i v).panel = s.panel := rfl
@[simp] theorem State.swset_flash (f : Fld) (i v : Nat) : (s.swset f i v).flash = s.flash := rfl
@[simp] theorem State.swset_ctrl (f : Fld) (i v : Nat) : (s.swset f i v).ctrl = s.ctrl := rfl
@[simp] theorem State.swset_bell (f : Fld) (i v : Nat) : (s.swset f i v).bell = s.bell := rfl
@[simp] theorem State.swset_bellMail (f : Fld) (i v : Nat) : (s.swset f i v).bellMail = s.bellMail := rfl
@[simp] theorem State.swset_bellSeen (f : Fld) (i v : Nat) : (s.swset f i v).bellSeen = s.bellSeen := rfl
@[simp] theorem State.swset_bellRead (f : Fld) (i v : Nat) : (s.swset f i v).bellRead = s.bellRead := rfl
@[simp] theorem State.swset_halted (f : Fld) (i v : Nat) : (s.swset f i v).halted = s.halted := rfl
@[simp] theorem State.swset_acl (f : Fld) (i v : Nat) : (s.swset f i v).acl = s.acl := rfl
@[simp] theorem State.swset_ops (f : Fld) (i v : Nat) : (s.swset f i v).ops = s.ops := rfl
@[simp] theorem State.swset_ost (f : Fld) (i v : Nat) : (s.swset f i v).ost = s.ost := rfl
@[simp] theorem State.swset_tiles (f : Fld) (i v : Nat) : (s.swset f i v).tiles = s.tiles := rfl
@[simp] theorem State.swset_tables (f : Fld) (i v : Nat) : (s.swset f i v).tables = s.tables := rfl
@[simp] theorem State.swset_holds (f : Fld) (i v : Nat) : (s.swset f i v).holds = s.holds := rfl
@[simp] theorem State.swset_domains (f : Fld) (i v : Nat) : (s.swset f i v).domains = s.domains := rfl
@[simp] theorem State.swset_harts (f : Fld) (i v : Nat) : (s.swset f i v).harts = s.harts := rfl
@[simp] theorem State.swset_moduleKick (f : Fld) (i v : Nat) : (s.swset f i v).moduleKick = s.moduleKick := rfl
@[simp] theorem State.swset_moduleExpired (f : Fld) (i v : Nat) : (s.swset f i v).moduleExpired = s.moduleExpired := rfl
@[simp] theorem State.swset_complexReset (f : Fld) (i v : Nat) : (s.swset f i v).complexReset = s.complexReset := rfl
@[simp] theorem State.swset_ports (f : Fld) (i v : Nat) : (s.swset f i v).ports = s.ports := rfl
@[simp] theorem State.swset_reqs (f : Fld) (i v : Nat) : (s.swset f i v).reqs = s.reqs := rfl
@[simp] theorem State.swset_waitTxns (f : Fld) (i v : Nat) : (s.swset f i v).waitTxns = s.waitTxns := rfl
@[simp] theorem State.swset_nextTag (f : Fld) (i v : Nat) : (s.swset f i v).nextTag = s.nextTag := rfl
@[simp] theorem State.swset_onceTags (f : Fld) (i v : Nat) : (s.swset f i v).onceTags = s.onceTags := rfl
@[simp] theorem State.swset_once (f : Fld) (i v : Nat) : (s.swset f i v).once = s.once := rfl
@[simp] theorem State.swset_insts (f : Fld) (i v : Nat) : (s.swset f i v).insts = s.insts := rfl
@[simp] theorem State.swset_ctxs (f : Fld) (i v : Nat) : (s.swset f i v).ctxs = s.ctxs := rfl
@[simp] theorem State.swset_early (f : Fld) (i v : Nat) : (s.swset f i v).early = s.early := rfl
@[simp] theorem State.swset_staging (f : Fld) (i v : Nat) : (s.swset f i v).staging = s.staging := rfl
@[simp] theorem State.swset_stagingCap (f : Fld) (i v : Nat) : (s.swset f i v).stagingCap = s.stagingCap := rfl
@[simp] theorem State.swset_msgs (f : Fld) (i v : Nat) : (s.swset f i v).msgs = s.msgs := rfl
@[simp] theorem State.swset_seen (f : Fld) (i v : Nat) : (s.swset f i v).seen = s.seen := rfl
@[simp] theorem State.swset_log (f : Fld) (i v : Nat) : (s.swset f i v).log = s.log := rfl
@[simp] theorem State.swset_twin (f : Fld) (i v : Nat) : (s.swset f i v).twin = s.twin := rfl
@[simp] theorem State.swset_hbm (f : Fld) (i v : Nat) : (s.swset f i v).hbm = s.hbm := rfl
@[simp] theorem State.swset_power (f : Fld) (i v : Nat) : (s.swset f i v).power = s.power := rfl
@[simp] theorem State.swset_fuses (f : Fld) (i v : Nat) : (s.swset f i v).fuses = s.fuses := rfl
@[simp] theorem State.swset_boot (f : Fld) (i v : Nat) : (s.swset f i v).boot = s.boot := rfl
@[simp] theorem State.swset_mgmt (f : Fld) (i v : Nat) : (s.swset f i v).mgmt = s.mgmt := rfl
@[simp] theorem State.swset_jtag (f : Fld) (i v : Nat) : (s.swset f i v).jtag = s.jtag := rfl
@[simp] theorem State.swset_freeCtr (f : Fld) (i v : Nat) : (s.swset f i v).freeCtr = s.freeCtr := rfl

/-! ### wrWhole -/

@[simp] theorem State.wrWhole_pending (r : Reg) (i : Nat) (v : Word64) : (s.wrWhole r i v).pending = s.pending := rfl
@[simp] theorem State.wrWhole_swFields (r : Reg) (i : Nat) (v : Word64) : (s.wrWhole r i v).swFields = s.swFields := rfl
@[simp] theorem State.wrWhole_mem (r : Reg) (i : Nat) (v : Word64) : (s.wrWhole r i v).mem = s.mem := rfl
@[simp] theorem State.wrWhole_panel (r : Reg) (i : Nat) (v : Word64) : (s.wrWhole r i v).panel = s.panel := rfl
@[simp] theorem State.wrWhole_flash (r : Reg) (i : Nat) (v : Word64) : (s.wrWhole r i v).flash = s.flash := rfl
@[simp] theorem State.wrWhole_ctrl (r : Reg) (i : Nat) (v : Word64) : (s.wrWhole r i v).ctrl = s.ctrl := rfl
@[simp] theorem State.wrWhole_bell (r : Reg) (i : Nat) (v : Word64) : (s.wrWhole r i v).bell = s.bell := rfl
@[simp] theorem State.wrWhole_bellMail (r : Reg) (i : Nat) (v : Word64) : (s.wrWhole r i v).bellMail = s.bellMail := rfl
@[simp] theorem State.wrWhole_bellSeen (r : Reg) (i : Nat) (v : Word64) : (s.wrWhole r i v).bellSeen = s.bellSeen := rfl
@[simp] theorem State.wrWhole_bellRead (r : Reg) (i : Nat) (v : Word64) : (s.wrWhole r i v).bellRead = s.bellRead := rfl
@[simp] theorem State.wrWhole_halted (r : Reg) (i : Nat) (v : Word64) : (s.wrWhole r i v).halted = s.halted := rfl
@[simp] theorem State.wrWhole_acl (r : Reg) (i : Nat) (v : Word64) : (s.wrWhole r i v).acl = s.acl := rfl
@[simp] theorem State.wrWhole_ops (r : Reg) (i : Nat) (v : Word64) : (s.wrWhole r i v).ops = s.ops := rfl
@[simp] theorem State.wrWhole_ost (r : Reg) (i : Nat) (v : Word64) : (s.wrWhole r i v).ost = s.ost := rfl
@[simp] theorem State.wrWhole_tiles (r : Reg) (i : Nat) (v : Word64) : (s.wrWhole r i v).tiles = s.tiles := rfl
@[simp] theorem State.wrWhole_tables (r : Reg) (i : Nat) (v : Word64) : (s.wrWhole r i v).tables = s.tables := rfl
@[simp] theorem State.wrWhole_holds (r : Reg) (i : Nat) (v : Word64) : (s.wrWhole r i v).holds = s.holds := rfl
@[simp] theorem State.wrWhole_domains (r : Reg) (i : Nat) (v : Word64) : (s.wrWhole r i v).domains = s.domains := rfl
@[simp] theorem State.wrWhole_harts (r : Reg) (i : Nat) (v : Word64) : (s.wrWhole r i v).harts = s.harts := rfl
@[simp] theorem State.wrWhole_moduleKick (r : Reg) (i : Nat) (v : Word64) : (s.wrWhole r i v).moduleKick = s.moduleKick := rfl
@[simp] theorem State.wrWhole_moduleExpired (r : Reg) (i : Nat) (v : Word64) : (s.wrWhole r i v).moduleExpired = s.moduleExpired := rfl
@[simp] theorem State.wrWhole_complexReset (r : Reg) (i : Nat) (v : Word64) : (s.wrWhole r i v).complexReset = s.complexReset := rfl
@[simp] theorem State.wrWhole_ports (r : Reg) (i : Nat) (v : Word64) : (s.wrWhole r i v).ports = s.ports := rfl
@[simp] theorem State.wrWhole_reqs (r : Reg) (i : Nat) (v : Word64) : (s.wrWhole r i v).reqs = s.reqs := rfl
@[simp] theorem State.wrWhole_waitTxns (r : Reg) (i : Nat) (v : Word64) : (s.wrWhole r i v).waitTxns = s.waitTxns := rfl
@[simp] theorem State.wrWhole_nextTag (r : Reg) (i : Nat) (v : Word64) : (s.wrWhole r i v).nextTag = s.nextTag := rfl
@[simp] theorem State.wrWhole_onceTags (r : Reg) (i : Nat) (v : Word64) : (s.wrWhole r i v).onceTags = s.onceTags := rfl
@[simp] theorem State.wrWhole_once (r : Reg) (i : Nat) (v : Word64) : (s.wrWhole r i v).once = s.once := rfl
@[simp] theorem State.wrWhole_insts (r : Reg) (i : Nat) (v : Word64) : (s.wrWhole r i v).insts = s.insts := rfl
@[simp] theorem State.wrWhole_ctxs (r : Reg) (i : Nat) (v : Word64) : (s.wrWhole r i v).ctxs = s.ctxs := rfl
@[simp] theorem State.wrWhole_early (r : Reg) (i : Nat) (v : Word64) : (s.wrWhole r i v).early = s.early := rfl
@[simp] theorem State.wrWhole_staging (r : Reg) (i : Nat) (v : Word64) : (s.wrWhole r i v).staging = s.staging := rfl
@[simp] theorem State.wrWhole_stagingCap (r : Reg) (i : Nat) (v : Word64) : (s.wrWhole r i v).stagingCap = s.stagingCap := rfl
@[simp] theorem State.wrWhole_msgs (r : Reg) (i : Nat) (v : Word64) : (s.wrWhole r i v).msgs = s.msgs := rfl
@[simp] theorem State.wrWhole_seen (r : Reg) (i : Nat) (v : Word64) : (s.wrWhole r i v).seen = s.seen := rfl
@[simp] theorem State.wrWhole_log (r : Reg) (i : Nat) (v : Word64) : (s.wrWhole r i v).log = s.log := rfl
@[simp] theorem State.wrWhole_twin (r : Reg) (i : Nat) (v : Word64) : (s.wrWhole r i v).twin = s.twin := rfl
@[simp] theorem State.wrWhole_hbm (r : Reg) (i : Nat) (v : Word64) : (s.wrWhole r i v).hbm = s.hbm := rfl
@[simp] theorem State.wrWhole_power (r : Reg) (i : Nat) (v : Word64) : (s.wrWhole r i v).power = s.power := rfl
@[simp] theorem State.wrWhole_fuses (r : Reg) (i : Nat) (v : Word64) : (s.wrWhole r i v).fuses = s.fuses := rfl
@[simp] theorem State.wrWhole_boot (r : Reg) (i : Nat) (v : Word64) : (s.wrWhole r i v).boot = s.boot := rfl
@[simp] theorem State.wrWhole_mgmt (r : Reg) (i : Nat) (v : Word64) : (s.wrWhole r i v).mgmt = s.mgmt := rfl
@[simp] theorem State.wrWhole_jtag (r : Reg) (i : Nat) (v : Word64) : (s.wrWhole r i v).jtag = s.jtag := rfl
@[simp] theorem State.wrWhole_freeCtr (r : Reg) (i : Nat) (v : Word64) : (s.wrWhole r i v).freeCtr = s.freeCtr := rfl

/-! ### finc -/

@[simp] theorem State.finc_pending (f : Fld) (i : Nat) : (s.finc f i).pending = s.pending := rfl
@[simp] theorem State.finc_swFields (f : Fld) (i : Nat) : (s.finc f i).swFields = s.swFields := rfl
@[simp] theorem State.finc_mem (f : Fld) (i : Nat) : (s.finc f i).mem = s.mem := rfl
@[simp] theorem State.finc_panel (f : Fld) (i : Nat) : (s.finc f i).panel = s.panel := rfl
@[simp] theorem State.finc_flash (f : Fld) (i : Nat) : (s.finc f i).flash = s.flash := rfl
@[simp] theorem State.finc_ctrl (f : Fld) (i : Nat) : (s.finc f i).ctrl = s.ctrl := rfl
@[simp] theorem State.finc_bell (f : Fld) (i : Nat) : (s.finc f i).bell = s.bell := rfl
@[simp] theorem State.finc_bellMail (f : Fld) (i : Nat) : (s.finc f i).bellMail = s.bellMail := rfl
@[simp] theorem State.finc_bellSeen (f : Fld) (i : Nat) : (s.finc f i).bellSeen = s.bellSeen := rfl
@[simp] theorem State.finc_bellRead (f : Fld) (i : Nat) : (s.finc f i).bellRead = s.bellRead := rfl
@[simp] theorem State.finc_halted (f : Fld) (i : Nat) : (s.finc f i).halted = s.halted := rfl
@[simp] theorem State.finc_acl (f : Fld) (i : Nat) : (s.finc f i).acl = s.acl := rfl
@[simp] theorem State.finc_ops (f : Fld) (i : Nat) : (s.finc f i).ops = s.ops := rfl
@[simp] theorem State.finc_ost (f : Fld) (i : Nat) : (s.finc f i).ost = s.ost := rfl
@[simp] theorem State.finc_tiles (f : Fld) (i : Nat) : (s.finc f i).tiles = s.tiles := rfl
@[simp] theorem State.finc_tables (f : Fld) (i : Nat) : (s.finc f i).tables = s.tables := rfl
@[simp] theorem State.finc_holds (f : Fld) (i : Nat) : (s.finc f i).holds = s.holds := rfl
@[simp] theorem State.finc_domains (f : Fld) (i : Nat) : (s.finc f i).domains = s.domains := rfl
@[simp] theorem State.finc_harts (f : Fld) (i : Nat) : (s.finc f i).harts = s.harts := rfl
@[simp] theorem State.finc_moduleKick (f : Fld) (i : Nat) : (s.finc f i).moduleKick = s.moduleKick := rfl
@[simp] theorem State.finc_moduleExpired (f : Fld) (i : Nat) : (s.finc f i).moduleExpired = s.moduleExpired := rfl
@[simp] theorem State.finc_complexReset (f : Fld) (i : Nat) : (s.finc f i).complexReset = s.complexReset := rfl
@[simp] theorem State.finc_ports (f : Fld) (i : Nat) : (s.finc f i).ports = s.ports := rfl
@[simp] theorem State.finc_reqs (f : Fld) (i : Nat) : (s.finc f i).reqs = s.reqs := rfl
@[simp] theorem State.finc_waitTxns (f : Fld) (i : Nat) : (s.finc f i).waitTxns = s.waitTxns := rfl
@[simp] theorem State.finc_nextTag (f : Fld) (i : Nat) : (s.finc f i).nextTag = s.nextTag := rfl
@[simp] theorem State.finc_onceTags (f : Fld) (i : Nat) : (s.finc f i).onceTags = s.onceTags := rfl
@[simp] theorem State.finc_once (f : Fld) (i : Nat) : (s.finc f i).once = s.once := rfl
@[simp] theorem State.finc_insts (f : Fld) (i : Nat) : (s.finc f i).insts = s.insts := rfl
@[simp] theorem State.finc_ctxs (f : Fld) (i : Nat) : (s.finc f i).ctxs = s.ctxs := rfl
@[simp] theorem State.finc_early (f : Fld) (i : Nat) : (s.finc f i).early = s.early := rfl
@[simp] theorem State.finc_staging (f : Fld) (i : Nat) : (s.finc f i).staging = s.staging := rfl
@[simp] theorem State.finc_stagingCap (f : Fld) (i : Nat) : (s.finc f i).stagingCap = s.stagingCap := rfl
@[simp] theorem State.finc_msgs (f : Fld) (i : Nat) : (s.finc f i).msgs = s.msgs := rfl
@[simp] theorem State.finc_seen (f : Fld) (i : Nat) : (s.finc f i).seen = s.seen := rfl
@[simp] theorem State.finc_log (f : Fld) (i : Nat) : (s.finc f i).log = s.log := rfl
@[simp] theorem State.finc_twin (f : Fld) (i : Nat) : (s.finc f i).twin = s.twin := rfl
@[simp] theorem State.finc_hbm (f : Fld) (i : Nat) : (s.finc f i).hbm = s.hbm := rfl
@[simp] theorem State.finc_power (f : Fld) (i : Nat) : (s.finc f i).power = s.power := rfl
@[simp] theorem State.finc_fuses (f : Fld) (i : Nat) : (s.finc f i).fuses = s.fuses := rfl
@[simp] theorem State.finc_boot (f : Fld) (i : Nat) : (s.finc f i).boot = s.boot := rfl
@[simp] theorem State.finc_mgmt (f : Fld) (i : Nat) : (s.finc f i).mgmt = s.mgmt := rfl
@[simp] theorem State.finc_jtag (f : Fld) (i : Nat) : (s.finc f i).jtag = s.jtag := rfl
@[simp] theorem State.finc_freeCtr (f : Fld) (i : Nat) : (s.finc f i).freeCtr = s.freeCtr := rfl

/-! ### fincSat -/

@[simp] theorem State.fincSat_pending (f : Fld) (i : Nat) : (s.fincSat f i).pending = s.pending := rfl
@[simp] theorem State.fincSat_swFields (f : Fld) (i : Nat) : (s.fincSat f i).swFields = s.swFields := rfl
@[simp] theorem State.fincSat_mem (f : Fld) (i : Nat) : (s.fincSat f i).mem = s.mem := rfl
@[simp] theorem State.fincSat_panel (f : Fld) (i : Nat) : (s.fincSat f i).panel = s.panel := rfl
@[simp] theorem State.fincSat_flash (f : Fld) (i : Nat) : (s.fincSat f i).flash = s.flash := rfl
@[simp] theorem State.fincSat_ctrl (f : Fld) (i : Nat) : (s.fincSat f i).ctrl = s.ctrl := rfl
@[simp] theorem State.fincSat_bell (f : Fld) (i : Nat) : (s.fincSat f i).bell = s.bell := rfl
@[simp] theorem State.fincSat_bellMail (f : Fld) (i : Nat) : (s.fincSat f i).bellMail = s.bellMail := rfl
@[simp] theorem State.fincSat_bellSeen (f : Fld) (i : Nat) : (s.fincSat f i).bellSeen = s.bellSeen := rfl
@[simp] theorem State.fincSat_bellRead (f : Fld) (i : Nat) : (s.fincSat f i).bellRead = s.bellRead := rfl
@[simp] theorem State.fincSat_halted (f : Fld) (i : Nat) : (s.fincSat f i).halted = s.halted := rfl
@[simp] theorem State.fincSat_acl (f : Fld) (i : Nat) : (s.fincSat f i).acl = s.acl := rfl
@[simp] theorem State.fincSat_ops (f : Fld) (i : Nat) : (s.fincSat f i).ops = s.ops := rfl
@[simp] theorem State.fincSat_ost (f : Fld) (i : Nat) : (s.fincSat f i).ost = s.ost := rfl
@[simp] theorem State.fincSat_tiles (f : Fld) (i : Nat) : (s.fincSat f i).tiles = s.tiles := rfl
@[simp] theorem State.fincSat_tables (f : Fld) (i : Nat) : (s.fincSat f i).tables = s.tables := rfl
@[simp] theorem State.fincSat_holds (f : Fld) (i : Nat) : (s.fincSat f i).holds = s.holds := rfl
@[simp] theorem State.fincSat_domains (f : Fld) (i : Nat) : (s.fincSat f i).domains = s.domains := rfl
@[simp] theorem State.fincSat_harts (f : Fld) (i : Nat) : (s.fincSat f i).harts = s.harts := rfl
@[simp] theorem State.fincSat_moduleKick (f : Fld) (i : Nat) : (s.fincSat f i).moduleKick = s.moduleKick := rfl
@[simp] theorem State.fincSat_moduleExpired (f : Fld) (i : Nat) : (s.fincSat f i).moduleExpired = s.moduleExpired := rfl
@[simp] theorem State.fincSat_complexReset (f : Fld) (i : Nat) : (s.fincSat f i).complexReset = s.complexReset := rfl
@[simp] theorem State.fincSat_ports (f : Fld) (i : Nat) : (s.fincSat f i).ports = s.ports := rfl
@[simp] theorem State.fincSat_reqs (f : Fld) (i : Nat) : (s.fincSat f i).reqs = s.reqs := rfl
@[simp] theorem State.fincSat_waitTxns (f : Fld) (i : Nat) : (s.fincSat f i).waitTxns = s.waitTxns := rfl
@[simp] theorem State.fincSat_nextTag (f : Fld) (i : Nat) : (s.fincSat f i).nextTag = s.nextTag := rfl
@[simp] theorem State.fincSat_onceTags (f : Fld) (i : Nat) : (s.fincSat f i).onceTags = s.onceTags := rfl
@[simp] theorem State.fincSat_once (f : Fld) (i : Nat) : (s.fincSat f i).once = s.once := rfl
@[simp] theorem State.fincSat_insts (f : Fld) (i : Nat) : (s.fincSat f i).insts = s.insts := rfl
@[simp] theorem State.fincSat_ctxs (f : Fld) (i : Nat) : (s.fincSat f i).ctxs = s.ctxs := rfl
@[simp] theorem State.fincSat_early (f : Fld) (i : Nat) : (s.fincSat f i).early = s.early := rfl
@[simp] theorem State.fincSat_staging (f : Fld) (i : Nat) : (s.fincSat f i).staging = s.staging := rfl
@[simp] theorem State.fincSat_stagingCap (f : Fld) (i : Nat) : (s.fincSat f i).stagingCap = s.stagingCap := rfl
@[simp] theorem State.fincSat_msgs (f : Fld) (i : Nat) : (s.fincSat f i).msgs = s.msgs := rfl
@[simp] theorem State.fincSat_seen (f : Fld) (i : Nat) : (s.fincSat f i).seen = s.seen := rfl
@[simp] theorem State.fincSat_log (f : Fld) (i : Nat) : (s.fincSat f i).log = s.log := rfl
@[simp] theorem State.fincSat_twin (f : Fld) (i : Nat) : (s.fincSat f i).twin = s.twin := rfl
@[simp] theorem State.fincSat_hbm (f : Fld) (i : Nat) : (s.fincSat f i).hbm = s.hbm := rfl
@[simp] theorem State.fincSat_power (f : Fld) (i : Nat) : (s.fincSat f i).power = s.power := rfl
@[simp] theorem State.fincSat_fuses (f : Fld) (i : Nat) : (s.fincSat f i).fuses = s.fuses := rfl
@[simp] theorem State.fincSat_boot (f : Fld) (i : Nat) : (s.fincSat f i).boot = s.boot := rfl
@[simp] theorem State.fincSat_mgmt (f : Fld) (i : Nat) : (s.fincSat f i).mgmt = s.mgmt := rfl
@[simp] theorem State.fincSat_jtag (f : Fld) (i : Nat) : (s.fincSat f i).jtag = s.jtag := rfl
@[simp] theorem State.fincSat_freeCtr (f : Fld) (i : Nat) : (s.fincSat f i).freeCtr = s.freeCtr := rfl

/-! ### bump -/

@[simp] theorem State.bump_pending (c p : Fld) (i : Nat) : (s.bump c p i).pending = s.pending := rfl
@[simp] theorem State.bump_swFields (c p : Fld) (i : Nat) : (s.bump c p i).swFields = s.swFields := rfl
@[simp] theorem State.bump_mem (c p : Fld) (i : Nat) : (s.bump c p i).mem = s.mem := rfl
@[simp] theorem State.bump_panel (c p : Fld) (i : Nat) : (s.bump c p i).panel = s.panel := rfl
@[simp] theorem State.bump_flash (c p : Fld) (i : Nat) : (s.bump c p i).flash = s.flash := rfl
@[simp] theorem State.bump_ctrl (c p : Fld) (i : Nat) : (s.bump c p i).ctrl = s.ctrl := rfl
@[simp] theorem State.bump_bell (c p : Fld) (i : Nat) : (s.bump c p i).bell = s.bell := rfl
@[simp] theorem State.bump_bellMail (c p : Fld) (i : Nat) : (s.bump c p i).bellMail = s.bellMail := rfl
@[simp] theorem State.bump_bellSeen (c p : Fld) (i : Nat) : (s.bump c p i).bellSeen = s.bellSeen := rfl
@[simp] theorem State.bump_bellRead (c p : Fld) (i : Nat) : (s.bump c p i).bellRead = s.bellRead := rfl
@[simp] theorem State.bump_halted (c p : Fld) (i : Nat) : (s.bump c p i).halted = s.halted := rfl
@[simp] theorem State.bump_acl (c p : Fld) (i : Nat) : (s.bump c p i).acl = s.acl := rfl
@[simp] theorem State.bump_ops (c p : Fld) (i : Nat) : (s.bump c p i).ops = s.ops := rfl
@[simp] theorem State.bump_ost (c p : Fld) (i : Nat) : (s.bump c p i).ost = s.ost := rfl
@[simp] theorem State.bump_tiles (c p : Fld) (i : Nat) : (s.bump c p i).tiles = s.tiles := rfl
@[simp] theorem State.bump_tables (c p : Fld) (i : Nat) : (s.bump c p i).tables = s.tables := rfl
@[simp] theorem State.bump_holds (c p : Fld) (i : Nat) : (s.bump c p i).holds = s.holds := rfl
@[simp] theorem State.bump_domains (c p : Fld) (i : Nat) : (s.bump c p i).domains = s.domains := rfl
@[simp] theorem State.bump_harts (c p : Fld) (i : Nat) : (s.bump c p i).harts = s.harts := rfl
@[simp] theorem State.bump_moduleKick (c p : Fld) (i : Nat) : (s.bump c p i).moduleKick = s.moduleKick := rfl
@[simp] theorem State.bump_moduleExpired (c p : Fld) (i : Nat) : (s.bump c p i).moduleExpired = s.moduleExpired := rfl
@[simp] theorem State.bump_complexReset (c p : Fld) (i : Nat) : (s.bump c p i).complexReset = s.complexReset := rfl
@[simp] theorem State.bump_ports (c p : Fld) (i : Nat) : (s.bump c p i).ports = s.ports := rfl
@[simp] theorem State.bump_reqs (c p : Fld) (i : Nat) : (s.bump c p i).reqs = s.reqs := rfl
@[simp] theorem State.bump_waitTxns (c p : Fld) (i : Nat) : (s.bump c p i).waitTxns = s.waitTxns := rfl
@[simp] theorem State.bump_nextTag (c p : Fld) (i : Nat) : (s.bump c p i).nextTag = s.nextTag := rfl
@[simp] theorem State.bump_onceTags (c p : Fld) (i : Nat) : (s.bump c p i).onceTags = s.onceTags := rfl
@[simp] theorem State.bump_once (c p : Fld) (i : Nat) : (s.bump c p i).once = s.once := rfl
@[simp] theorem State.bump_insts (c p : Fld) (i : Nat) : (s.bump c p i).insts = s.insts := rfl
@[simp] theorem State.bump_ctxs (c p : Fld) (i : Nat) : (s.bump c p i).ctxs = s.ctxs := rfl
@[simp] theorem State.bump_early (c p : Fld) (i : Nat) : (s.bump c p i).early = s.early := rfl
@[simp] theorem State.bump_staging (c p : Fld) (i : Nat) : (s.bump c p i).staging = s.staging := rfl
@[simp] theorem State.bump_stagingCap (c p : Fld) (i : Nat) : (s.bump c p i).stagingCap = s.stagingCap := rfl
@[simp] theorem State.bump_msgs (c p : Fld) (i : Nat) : (s.bump c p i).msgs = s.msgs := rfl
@[simp] theorem State.bump_seen (c p : Fld) (i : Nat) : (s.bump c p i).seen = s.seen := rfl
@[simp] theorem State.bump_log (c p : Fld) (i : Nat) : (s.bump c p i).log = s.log := rfl
@[simp] theorem State.bump_twin (c p : Fld) (i : Nat) : (s.bump c p i).twin = s.twin := rfl
@[simp] theorem State.bump_hbm (c p : Fld) (i : Nat) : (s.bump c p i).hbm = s.hbm := rfl
@[simp] theorem State.bump_power (c p : Fld) (i : Nat) : (s.bump c p i).power = s.power := rfl
@[simp] theorem State.bump_fuses (c p : Fld) (i : Nat) : (s.bump c p i).fuses = s.fuses := rfl
@[simp] theorem State.bump_boot (c p : Fld) (i : Nat) : (s.bump c p i).boot = s.boot := rfl
@[simp] theorem State.bump_mgmt (c p : Fld) (i : Nat) : (s.bump c p i).mgmt = s.mgmt := rfl
@[simp] theorem State.bump_jtag (c p : Fld) (i : Nat) : (s.bump c p i).jtag = s.jtag := rfl
@[simp] theorem State.bump_freeCtr (c p : Fld) (i : Nat) : (s.bump c p i).freeCtr = s.freeCtr := rfl

/-! ### setPower -/

@[simp] theorem State.setPower_pending (f : PowerStage → PowerStage) : (s.setPower f).pending = s.pending := rfl
@[simp] theorem State.setPower_regs (f : PowerStage → PowerStage) : (s.setPower f).regs = s.regs := rfl
@[simp] theorem State.setPower_swFields (f : PowerStage → PowerStage) : (s.setPower f).swFields = s.swFields := rfl
@[simp] theorem State.setPower_mem (f : PowerStage → PowerStage) : (s.setPower f).mem = s.mem := rfl
@[simp] theorem State.setPower_panel (f : PowerStage → PowerStage) : (s.setPower f).panel = s.panel := rfl
@[simp] theorem State.setPower_flash (f : PowerStage → PowerStage) : (s.setPower f).flash = s.flash := rfl
@[simp] theorem State.setPower_ctrl (f : PowerStage → PowerStage) : (s.setPower f).ctrl = s.ctrl := rfl
@[simp] theorem State.setPower_bell (f : PowerStage → PowerStage) : (s.setPower f).bell = s.bell := rfl
@[simp] theorem State.setPower_bellMail (f : PowerStage → PowerStage) : (s.setPower f).bellMail = s.bellMail := rfl
@[simp] theorem State.setPower_bellSeen (f : PowerStage → PowerStage) : (s.setPower f).bellSeen = s.bellSeen := rfl
@[simp] theorem State.setPower_bellRead (f : PowerStage → PowerStage) : (s.setPower f).bellRead = s.bellRead := rfl
@[simp] theorem State.setPower_halted (f : PowerStage → PowerStage) : (s.setPower f).halted = s.halted := rfl
@[simp] theorem State.setPower_acl (f : PowerStage → PowerStage) : (s.setPower f).acl = s.acl := rfl
@[simp] theorem State.setPower_ops (f : PowerStage → PowerStage) : (s.setPower f).ops = s.ops := rfl
@[simp] theorem State.setPower_ost (f : PowerStage → PowerStage) : (s.setPower f).ost = s.ost := rfl
@[simp] theorem State.setPower_tiles (f : PowerStage → PowerStage) : (s.setPower f).tiles = s.tiles := rfl
@[simp] theorem State.setPower_tables (f : PowerStage → PowerStage) : (s.setPower f).tables = s.tables := rfl
@[simp] theorem State.setPower_holds (f : PowerStage → PowerStage) : (s.setPower f).holds = s.holds := rfl
@[simp] theorem State.setPower_domains (f : PowerStage → PowerStage) : (s.setPower f).domains = s.domains := rfl
@[simp] theorem State.setPower_harts (f : PowerStage → PowerStage) : (s.setPower f).harts = s.harts := rfl
@[simp] theorem State.setPower_moduleKick (f : PowerStage → PowerStage) : (s.setPower f).moduleKick = s.moduleKick := rfl
@[simp] theorem State.setPower_moduleExpired (f : PowerStage → PowerStage) : (s.setPower f).moduleExpired = s.moduleExpired := rfl
@[simp] theorem State.setPower_complexReset (f : PowerStage → PowerStage) : (s.setPower f).complexReset = s.complexReset := rfl
@[simp] theorem State.setPower_ports (f : PowerStage → PowerStage) : (s.setPower f).ports = s.ports := rfl
@[simp] theorem State.setPower_reqs (f : PowerStage → PowerStage) : (s.setPower f).reqs = s.reqs := rfl
@[simp] theorem State.setPower_waitTxns (f : PowerStage → PowerStage) : (s.setPower f).waitTxns = s.waitTxns := rfl
@[simp] theorem State.setPower_nextTag (f : PowerStage → PowerStage) : (s.setPower f).nextTag = s.nextTag := rfl
@[simp] theorem State.setPower_onceTags (f : PowerStage → PowerStage) : (s.setPower f).onceTags = s.onceTags := rfl
@[simp] theorem State.setPower_once (f : PowerStage → PowerStage) : (s.setPower f).once = s.once := rfl
@[simp] theorem State.setPower_insts (f : PowerStage → PowerStage) : (s.setPower f).insts = s.insts := rfl
@[simp] theorem State.setPower_ctxs (f : PowerStage → PowerStage) : (s.setPower f).ctxs = s.ctxs := rfl
@[simp] theorem State.setPower_early (f : PowerStage → PowerStage) : (s.setPower f).early = s.early := rfl
@[simp] theorem State.setPower_staging (f : PowerStage → PowerStage) : (s.setPower f).staging = s.staging := rfl
@[simp] theorem State.setPower_stagingCap (f : PowerStage → PowerStage) : (s.setPower f).stagingCap = s.stagingCap := rfl
@[simp] theorem State.setPower_msgs (f : PowerStage → PowerStage) : (s.setPower f).msgs = s.msgs := rfl
@[simp] theorem State.setPower_seen (f : PowerStage → PowerStage) : (s.setPower f).seen = s.seen := rfl
@[simp] theorem State.setPower_log (f : PowerStage → PowerStage) : (s.setPower f).log = s.log := rfl
@[simp] theorem State.setPower_twin (f : PowerStage → PowerStage) : (s.setPower f).twin = s.twin := rfl
@[simp] theorem State.setPower_hbm (f : PowerStage → PowerStage) : (s.setPower f).hbm = s.hbm := rfl
@[simp] theorem State.setPower_fuses (f : PowerStage → PowerStage) : (s.setPower f).fuses = s.fuses := rfl
@[simp] theorem State.setPower_boot (f : PowerStage → PowerStage) : (s.setPower f).boot = s.boot := rfl
@[simp] theorem State.setPower_mgmt (f : PowerStage → PowerStage) : (s.setPower f).mgmt = s.mgmt := rfl
@[simp] theorem State.setPower_jtag (f : PowerStage → PowerStage) : (s.setPower f).jtag = s.jtag := rfl
@[simp] theorem State.setPower_freeCtr (f : PowerStage → PowerStage) : (s.setPower f).freeCtr = s.freeCtr := rfl

/-! ### setHart -/

@[simp] theorem State.setHart_pending (h : Nat) (x : Hart) : (s.setHart h x).pending = s.pending := rfl
@[simp] theorem State.setHart_regs (h : Nat) (x : Hart) : (s.setHart h x).regs = s.regs := rfl
@[simp] theorem State.setHart_swFields (h : Nat) (x : Hart) : (s.setHart h x).swFields = s.swFields := rfl
@[simp] theorem State.setHart_mem (h : Nat) (x : Hart) : (s.setHart h x).mem = s.mem := rfl
@[simp] theorem State.setHart_panel (h : Nat) (x : Hart) : (s.setHart h x).panel = s.panel := rfl
@[simp] theorem State.setHart_flash (h : Nat) (x : Hart) : (s.setHart h x).flash = s.flash := rfl
@[simp] theorem State.setHart_ctrl (h : Nat) (x : Hart) : (s.setHart h x).ctrl = s.ctrl := rfl
@[simp] theorem State.setHart_bell (h : Nat) (x : Hart) : (s.setHart h x).bell = s.bell := rfl
@[simp] theorem State.setHart_bellMail (h : Nat) (x : Hart) : (s.setHart h x).bellMail = s.bellMail := rfl
@[simp] theorem State.setHart_bellSeen (h : Nat) (x : Hart) : (s.setHart h x).bellSeen = s.bellSeen := rfl
@[simp] theorem State.setHart_bellRead (h : Nat) (x : Hart) : (s.setHart h x).bellRead = s.bellRead := rfl
@[simp] theorem State.setHart_halted (h : Nat) (x : Hart) : (s.setHart h x).halted = s.halted := rfl
@[simp] theorem State.setHart_acl (h : Nat) (x : Hart) : (s.setHart h x).acl = s.acl := rfl
@[simp] theorem State.setHart_ops (h : Nat) (x : Hart) : (s.setHart h x).ops = s.ops := rfl
@[simp] theorem State.setHart_ost (h : Nat) (x : Hart) : (s.setHart h x).ost = s.ost := rfl
@[simp] theorem State.setHart_tiles (h : Nat) (x : Hart) : (s.setHart h x).tiles = s.tiles := rfl
@[simp] theorem State.setHart_tables (h : Nat) (x : Hart) : (s.setHart h x).tables = s.tables := rfl
@[simp] theorem State.setHart_holds (h : Nat) (x : Hart) : (s.setHart h x).holds = s.holds := rfl
@[simp] theorem State.setHart_domains (h : Nat) (x : Hart) : (s.setHart h x).domains = s.domains := rfl
@[simp] theorem State.setHart_moduleKick (h : Nat) (x : Hart) : (s.setHart h x).moduleKick = s.moduleKick := rfl
@[simp] theorem State.setHart_moduleExpired (h : Nat) (x : Hart) : (s.setHart h x).moduleExpired = s.moduleExpired := rfl
@[simp] theorem State.setHart_complexReset (h : Nat) (x : Hart) : (s.setHart h x).complexReset = s.complexReset := rfl
@[simp] theorem State.setHart_ports (h : Nat) (x : Hart) : (s.setHart h x).ports = s.ports := rfl
@[simp] theorem State.setHart_reqs (h : Nat) (x : Hart) : (s.setHart h x).reqs = s.reqs := rfl
@[simp] theorem State.setHart_waitTxns (h : Nat) (x : Hart) : (s.setHart h x).waitTxns = s.waitTxns := rfl
@[simp] theorem State.setHart_nextTag (h : Nat) (x : Hart) : (s.setHart h x).nextTag = s.nextTag := rfl
@[simp] theorem State.setHart_onceTags (h : Nat) (x : Hart) : (s.setHart h x).onceTags = s.onceTags := rfl
@[simp] theorem State.setHart_once (h : Nat) (x : Hart) : (s.setHart h x).once = s.once := rfl
@[simp] theorem State.setHart_insts (h : Nat) (x : Hart) : (s.setHart h x).insts = s.insts := rfl
@[simp] theorem State.setHart_ctxs (h : Nat) (x : Hart) : (s.setHart h x).ctxs = s.ctxs := rfl
@[simp] theorem State.setHart_early (h : Nat) (x : Hart) : (s.setHart h x).early = s.early := rfl
@[simp] theorem State.setHart_staging (h : Nat) (x : Hart) : (s.setHart h x).staging = s.staging := rfl
@[simp] theorem State.setHart_stagingCap (h : Nat) (x : Hart) : (s.setHart h x).stagingCap = s.stagingCap := rfl
@[simp] theorem State.setHart_msgs (h : Nat) (x : Hart) : (s.setHart h x).msgs = s.msgs := rfl
@[simp] theorem State.setHart_seen (h : Nat) (x : Hart) : (s.setHart h x).seen = s.seen := rfl
@[simp] theorem State.setHart_log (h : Nat) (x : Hart) : (s.setHart h x).log = s.log := rfl
@[simp] theorem State.setHart_twin (h : Nat) (x : Hart) : (s.setHart h x).twin = s.twin := rfl
@[simp] theorem State.setHart_hbm (h : Nat) (x : Hart) : (s.setHart h x).hbm = s.hbm := rfl
@[simp] theorem State.setHart_power (h : Nat) (x : Hart) : (s.setHart h x).power = s.power := rfl
@[simp] theorem State.setHart_fuses (h : Nat) (x : Hart) : (s.setHart h x).fuses = s.fuses := rfl
@[simp] theorem State.setHart_boot (h : Nat) (x : Hart) : (s.setHart h x).boot = s.boot := rfl
@[simp] theorem State.setHart_mgmt (h : Nat) (x : Hart) : (s.setHart h x).mgmt = s.mgmt := rfl
@[simp] theorem State.setHart_jtag (h : Nat) (x : Hart) : (s.setHart h x).jtag = s.jtag := rfl
@[simp] theorem State.setHart_freeCtr (h : Nat) (x : Hart) : (s.setHart h x).freeCtr = s.freeCtr := rfl

/-! ### setOp -/

@[simp] theorem State.setOp_pending (n : Nat) (f : Op → Op) : (s.setOp n f).pending = s.pending := rfl
@[simp] theorem State.setOp_regs (n : Nat) (f : Op → Op) : (s.setOp n f).regs = s.regs := rfl
@[simp] theorem State.setOp_swFields (n : Nat) (f : Op → Op) : (s.setOp n f).swFields = s.swFields := rfl
@[simp] theorem State.setOp_mem (n : Nat) (f : Op → Op) : (s.setOp n f).mem = s.mem := rfl
@[simp] theorem State.setOp_panel (n : Nat) (f : Op → Op) : (s.setOp n f).panel = s.panel := rfl
@[simp] theorem State.setOp_flash (n : Nat) (f : Op → Op) : (s.setOp n f).flash = s.flash := rfl
@[simp] theorem State.setOp_ctrl (n : Nat) (f : Op → Op) : (s.setOp n f).ctrl = s.ctrl := rfl
@[simp] theorem State.setOp_bell (n : Nat) (f : Op → Op) : (s.setOp n f).bell = s.bell := rfl
@[simp] theorem State.setOp_bellMail (n : Nat) (f : Op → Op) : (s.setOp n f).bellMail = s.bellMail := rfl
@[simp] theorem State.setOp_bellSeen (n : Nat) (f : Op → Op) : (s.setOp n f).bellSeen = s.bellSeen := rfl
@[simp] theorem State.setOp_bellRead (n : Nat) (f : Op → Op) : (s.setOp n f).bellRead = s.bellRead := rfl
@[simp] theorem State.setOp_halted (n : Nat) (f : Op → Op) : (s.setOp n f).halted = s.halted := rfl
@[simp] theorem State.setOp_acl (n : Nat) (f : Op → Op) : (s.setOp n f).acl = s.acl := rfl
@[simp] theorem State.setOp_ost (n : Nat) (f : Op → Op) : (s.setOp n f).ost = s.ost := rfl
@[simp] theorem State.setOp_tiles (n : Nat) (f : Op → Op) : (s.setOp n f).tiles = s.tiles := rfl
@[simp] theorem State.setOp_tables (n : Nat) (f : Op → Op) : (s.setOp n f).tables = s.tables := rfl
@[simp] theorem State.setOp_holds (n : Nat) (f : Op → Op) : (s.setOp n f).holds = s.holds := rfl
@[simp] theorem State.setOp_domains (n : Nat) (f : Op → Op) : (s.setOp n f).domains = s.domains := rfl
@[simp] theorem State.setOp_harts (n : Nat) (f : Op → Op) : (s.setOp n f).harts = s.harts := rfl
@[simp] theorem State.setOp_moduleKick (n : Nat) (f : Op → Op) : (s.setOp n f).moduleKick = s.moduleKick := rfl
@[simp] theorem State.setOp_moduleExpired (n : Nat) (f : Op → Op) : (s.setOp n f).moduleExpired = s.moduleExpired := rfl
@[simp] theorem State.setOp_complexReset (n : Nat) (f : Op → Op) : (s.setOp n f).complexReset = s.complexReset := rfl
@[simp] theorem State.setOp_ports (n : Nat) (f : Op → Op) : (s.setOp n f).ports = s.ports := rfl
@[simp] theorem State.setOp_reqs (n : Nat) (f : Op → Op) : (s.setOp n f).reqs = s.reqs := rfl
@[simp] theorem State.setOp_waitTxns (n : Nat) (f : Op → Op) : (s.setOp n f).waitTxns = s.waitTxns := rfl
@[simp] theorem State.setOp_nextTag (n : Nat) (f : Op → Op) : (s.setOp n f).nextTag = s.nextTag := rfl
@[simp] theorem State.setOp_onceTags (n : Nat) (f : Op → Op) : (s.setOp n f).onceTags = s.onceTags := rfl
@[simp] theorem State.setOp_once (n : Nat) (f : Op → Op) : (s.setOp n f).once = s.once := rfl
@[simp] theorem State.setOp_insts (n : Nat) (f : Op → Op) : (s.setOp n f).insts = s.insts := rfl
@[simp] theorem State.setOp_ctxs (n : Nat) (f : Op → Op) : (s.setOp n f).ctxs = s.ctxs := rfl
@[simp] theorem State.setOp_early (n : Nat) (f : Op → Op) : (s.setOp n f).early = s.early := rfl
@[simp] theorem State.setOp_staging (n : Nat) (f : Op → Op) : (s.setOp n f).staging = s.staging := rfl
@[simp] theorem State.setOp_stagingCap (n : Nat) (f : Op → Op) : (s.setOp n f).stagingCap = s.stagingCap := rfl
@[simp] theorem State.setOp_msgs (n : Nat) (f : Op → Op) : (s.setOp n f).msgs = s.msgs := rfl
@[simp] theorem State.setOp_seen (n : Nat) (f : Op → Op) : (s.setOp n f).seen = s.seen := rfl
@[simp] theorem State.setOp_log (n : Nat) (f : Op → Op) : (s.setOp n f).log = s.log := rfl
@[simp] theorem State.setOp_twin (n : Nat) (f : Op → Op) : (s.setOp n f).twin = s.twin := rfl
@[simp] theorem State.setOp_hbm (n : Nat) (f : Op → Op) : (s.setOp n f).hbm = s.hbm := rfl
@[simp] theorem State.setOp_power (n : Nat) (f : Op → Op) : (s.setOp n f).power = s.power := rfl
@[simp] theorem State.setOp_fuses (n : Nat) (f : Op → Op) : (s.setOp n f).fuses = s.fuses := rfl
@[simp] theorem State.setOp_boot (n : Nat) (f : Op → Op) : (s.setOp n f).boot = s.boot := rfl
@[simp] theorem State.setOp_mgmt (n : Nat) (f : Op → Op) : (s.setOp n f).mgmt = s.mgmt := rfl
@[simp] theorem State.setOp_jtag (n : Nat) (f : Op → Op) : (s.setOp n f).jtag = s.jtag := rfl
@[simp] theorem State.setOp_freeCtr (n : Nat) (f : Op → Op) : (s.setOp n f).freeCtr = s.freeCtr := rfl

/-! ### setTile -/

@[simp] theorem State.setTile_pending (i : Nat) (x : Tile) : (s.setTile i x).pending = s.pending := rfl
@[simp] theorem State.setTile_regs (i : Nat) (x : Tile) : (s.setTile i x).regs = s.regs := rfl
@[simp] theorem State.setTile_swFields (i : Nat) (x : Tile) : (s.setTile i x).swFields = s.swFields := rfl
@[simp] theorem State.setTile_mem (i : Nat) (x : Tile) : (s.setTile i x).mem = s.mem := rfl
@[simp] theorem State.setTile_panel (i : Nat) (x : Tile) : (s.setTile i x).panel = s.panel := rfl
@[simp] theorem State.setTile_flash (i : Nat) (x : Tile) : (s.setTile i x).flash = s.flash := rfl
@[simp] theorem State.setTile_ctrl (i : Nat) (x : Tile) : (s.setTile i x).ctrl = s.ctrl := rfl
@[simp] theorem State.setTile_bell (i : Nat) (x : Tile) : (s.setTile i x).bell = s.bell := rfl
@[simp] theorem State.setTile_bellMail (i : Nat) (x : Tile) : (s.setTile i x).bellMail = s.bellMail := rfl
@[simp] theorem State.setTile_bellSeen (i : Nat) (x : Tile) : (s.setTile i x).bellSeen = s.bellSeen := rfl
@[simp] theorem State.setTile_bellRead (i : Nat) (x : Tile) : (s.setTile i x).bellRead = s.bellRead := rfl
@[simp] theorem State.setTile_halted (i : Nat) (x : Tile) : (s.setTile i x).halted = s.halted := rfl
@[simp] theorem State.setTile_acl (i : Nat) (x : Tile) : (s.setTile i x).acl = s.acl := rfl
@[simp] theorem State.setTile_ops (i : Nat) (x : Tile) : (s.setTile i x).ops = s.ops := rfl
@[simp] theorem State.setTile_ost (i : Nat) (x : Tile) : (s.setTile i x).ost = s.ost := rfl
@[simp] theorem State.setTile_tables (i : Nat) (x : Tile) : (s.setTile i x).tables = s.tables := rfl
@[simp] theorem State.setTile_holds (i : Nat) (x : Tile) : (s.setTile i x).holds = s.holds := rfl
@[simp] theorem State.setTile_domains (i : Nat) (x : Tile) : (s.setTile i x).domains = s.domains := rfl
@[simp] theorem State.setTile_harts (i : Nat) (x : Tile) : (s.setTile i x).harts = s.harts := rfl
@[simp] theorem State.setTile_moduleKick (i : Nat) (x : Tile) : (s.setTile i x).moduleKick = s.moduleKick := rfl
@[simp] theorem State.setTile_moduleExpired (i : Nat) (x : Tile) : (s.setTile i x).moduleExpired = s.moduleExpired := rfl
@[simp] theorem State.setTile_complexReset (i : Nat) (x : Tile) : (s.setTile i x).complexReset = s.complexReset := rfl
@[simp] theorem State.setTile_ports (i : Nat) (x : Tile) : (s.setTile i x).ports = s.ports := rfl
@[simp] theorem State.setTile_reqs (i : Nat) (x : Tile) : (s.setTile i x).reqs = s.reqs := rfl
@[simp] theorem State.setTile_waitTxns (i : Nat) (x : Tile) : (s.setTile i x).waitTxns = s.waitTxns := rfl
@[simp] theorem State.setTile_nextTag (i : Nat) (x : Tile) : (s.setTile i x).nextTag = s.nextTag := rfl
@[simp] theorem State.setTile_onceTags (i : Nat) (x : Tile) : (s.setTile i x).onceTags = s.onceTags := rfl
@[simp] theorem State.setTile_once (i : Nat) (x : Tile) : (s.setTile i x).once = s.once := rfl
@[simp] theorem State.setTile_insts (i : Nat) (x : Tile) : (s.setTile i x).insts = s.insts := rfl
@[simp] theorem State.setTile_ctxs (i : Nat) (x : Tile) : (s.setTile i x).ctxs = s.ctxs := rfl
@[simp] theorem State.setTile_early (i : Nat) (x : Tile) : (s.setTile i x).early = s.early := rfl
@[simp] theorem State.setTile_staging (i : Nat) (x : Tile) : (s.setTile i x).staging = s.staging := rfl
@[simp] theorem State.setTile_stagingCap (i : Nat) (x : Tile) : (s.setTile i x).stagingCap = s.stagingCap := rfl
@[simp] theorem State.setTile_msgs (i : Nat) (x : Tile) : (s.setTile i x).msgs = s.msgs := rfl
@[simp] theorem State.setTile_seen (i : Nat) (x : Tile) : (s.setTile i x).seen = s.seen := rfl
@[simp] theorem State.setTile_log (i : Nat) (x : Tile) : (s.setTile i x).log = s.log := rfl
@[simp] theorem State.setTile_twin (i : Nat) (x : Tile) : (s.setTile i x).twin = s.twin := rfl
@[simp] theorem State.setTile_hbm (i : Nat) (x : Tile) : (s.setTile i x).hbm = s.hbm := rfl
@[simp] theorem State.setTile_power (i : Nat) (x : Tile) : (s.setTile i x).power = s.power := rfl
@[simp] theorem State.setTile_fuses (i : Nat) (x : Tile) : (s.setTile i x).fuses = s.fuses := rfl
@[simp] theorem State.setTile_boot (i : Nat) (x : Tile) : (s.setTile i x).boot = s.boot := rfl
@[simp] theorem State.setTile_mgmt (i : Nat) (x : Tile) : (s.setTile i x).mgmt = s.mgmt := rfl
@[simp] theorem State.setTile_jtag (i : Nat) (x : Tile) : (s.setTile i x).jtag = s.jtag := rfl
@[simp] theorem State.setTile_freeCtr (i : Nat) (x : Tile) : (s.setTile i x).freeCtr = s.freeCtr := rfl

/-! ### setPort -/

@[simp] theorem State.setPort_pending (p : Nat) (x : Port) : (s.setPort p x).pending = s.pending := rfl
@[simp] theorem State.setPort_regs (p : Nat) (x : Port) : (s.setPort p x).regs = s.regs := rfl
@[simp] theorem State.setPort_swFields (p : Nat) (x : Port) : (s.setPort p x).swFields = s.swFields := rfl
@[simp] theorem State.setPort_mem (p : Nat) (x : Port) : (s.setPort p x).mem = s.mem := rfl
@[simp] theorem State.setPort_panel (p : Nat) (x : Port) : (s.setPort p x).panel = s.panel := rfl
@[simp] theorem State.setPort_flash (p : Nat) (x : Port) : (s.setPort p x).flash = s.flash := rfl
@[simp] theorem State.setPort_ctrl (p : Nat) (x : Port) : (s.setPort p x).ctrl = s.ctrl := rfl
@[simp] theorem State.setPort_bell (p : Nat) (x : Port) : (s.setPort p x).bell = s.bell := rfl
@[simp] theorem State.setPort_bellMail (p : Nat) (x : Port) : (s.setPort p x).bellMail = s.bellMail := rfl
@[simp] theorem State.setPort_bellSeen (p : Nat) (x : Port) : (s.setPort p x).bellSeen = s.bellSeen := rfl
@[simp] theorem State.setPort_bellRead (p : Nat) (x : Port) : (s.setPort p x).bellRead = s.bellRead := rfl
@[simp] theorem State.setPort_halted (p : Nat) (x : Port) : (s.setPort p x).halted = s.halted := rfl
@[simp] theorem State.setPort_acl (p : Nat) (x : Port) : (s.setPort p x).acl = s.acl := rfl
@[simp] theorem State.setPort_ops (p : Nat) (x : Port) : (s.setPort p x).ops = s.ops := rfl
@[simp] theorem State.setPort_ost (p : Nat) (x : Port) : (s.setPort p x).ost = s.ost := rfl
@[simp] theorem State.setPort_tiles (p : Nat) (x : Port) : (s.setPort p x).tiles = s.tiles := rfl
@[simp] theorem State.setPort_tables (p : Nat) (x : Port) : (s.setPort p x).tables = s.tables := rfl
@[simp] theorem State.setPort_holds (p : Nat) (x : Port) : (s.setPort p x).holds = s.holds := rfl
@[simp] theorem State.setPort_domains (p : Nat) (x : Port) : (s.setPort p x).domains = s.domains := rfl
@[simp] theorem State.setPort_harts (p : Nat) (x : Port) : (s.setPort p x).harts = s.harts := rfl
@[simp] theorem State.setPort_moduleKick (p : Nat) (x : Port) : (s.setPort p x).moduleKick = s.moduleKick := rfl
@[simp] theorem State.setPort_moduleExpired (p : Nat) (x : Port) : (s.setPort p x).moduleExpired = s.moduleExpired := rfl
@[simp] theorem State.setPort_complexReset (p : Nat) (x : Port) : (s.setPort p x).complexReset = s.complexReset := rfl
@[simp] theorem State.setPort_reqs (p : Nat) (x : Port) : (s.setPort p x).reqs = s.reqs := rfl
@[simp] theorem State.setPort_waitTxns (p : Nat) (x : Port) : (s.setPort p x).waitTxns = s.waitTxns := rfl
@[simp] theorem State.setPort_nextTag (p : Nat) (x : Port) : (s.setPort p x).nextTag = s.nextTag := rfl
@[simp] theorem State.setPort_onceTags (p : Nat) (x : Port) : (s.setPort p x).onceTags = s.onceTags := rfl
@[simp] theorem State.setPort_once (p : Nat) (x : Port) : (s.setPort p x).once = s.once := rfl
@[simp] theorem State.setPort_insts (p : Nat) (x : Port) : (s.setPort p x).insts = s.insts := rfl
@[simp] theorem State.setPort_ctxs (p : Nat) (x : Port) : (s.setPort p x).ctxs = s.ctxs := rfl
@[simp] theorem State.setPort_early (p : Nat) (x : Port) : (s.setPort p x).early = s.early := rfl
@[simp] theorem State.setPort_staging (p : Nat) (x : Port) : (s.setPort p x).staging = s.staging := rfl
@[simp] theorem State.setPort_stagingCap (p : Nat) (x : Port) : (s.setPort p x).stagingCap = s.stagingCap := rfl
@[simp] theorem State.setPort_msgs (p : Nat) (x : Port) : (s.setPort p x).msgs = s.msgs := rfl
@[simp] theorem State.setPort_seen (p : Nat) (x : Port) : (s.setPort p x).seen = s.seen := rfl
@[simp] theorem State.setPort_log (p : Nat) (x : Port) : (s.setPort p x).log = s.log := rfl
@[simp] theorem State.setPort_twin (p : Nat) (x : Port) : (s.setPort p x).twin = s.twin := rfl
@[simp] theorem State.setPort_hbm (p : Nat) (x : Port) : (s.setPort p x).hbm = s.hbm := rfl
@[simp] theorem State.setPort_power (p : Nat) (x : Port) : (s.setPort p x).power = s.power := rfl
@[simp] theorem State.setPort_fuses (p : Nat) (x : Port) : (s.setPort p x).fuses = s.fuses := rfl
@[simp] theorem State.setPort_boot (p : Nat) (x : Port) : (s.setPort p x).boot = s.boot := rfl
@[simp] theorem State.setPort_mgmt (p : Nat) (x : Port) : (s.setPort p x).mgmt = s.mgmt := rfl
@[simp] theorem State.setPort_jtag (p : Nat) (x : Port) : (s.setPort p x).jtag = s.jtag := rfl
@[simp] theorem State.setPort_freeCtr (p : Nat) (x : Port) : (s.setPort p x).freeCtr = s.freeCtr := rfl

/-! ### tell -/

@[simp] theorem State.tell_pending (m : List Byte) : (s.tell m).pending = s.pending := rfl
@[simp] theorem State.tell_regs (m : List Byte) : (s.tell m).regs = s.regs := rfl
@[simp] theorem State.tell_swFields (m : List Byte) : (s.tell m).swFields = s.swFields := rfl
@[simp] theorem State.tell_mem (m : List Byte) : (s.tell m).mem = s.mem := rfl
@[simp] theorem State.tell_panel (m : List Byte) : (s.tell m).panel = s.panel := rfl
@[simp] theorem State.tell_flash (m : List Byte) : (s.tell m).flash = s.flash := rfl
@[simp] theorem State.tell_ctrl (m : List Byte) : (s.tell m).ctrl = s.ctrl := rfl
@[simp] theorem State.tell_bell (m : List Byte) : (s.tell m).bell = s.bell := rfl
@[simp] theorem State.tell_bellMail (m : List Byte) : (s.tell m).bellMail = s.bellMail := rfl
@[simp] theorem State.tell_bellSeen (m : List Byte) : (s.tell m).bellSeen = s.bellSeen := rfl
@[simp] theorem State.tell_bellRead (m : List Byte) : (s.tell m).bellRead = s.bellRead := rfl
@[simp] theorem State.tell_halted (m : List Byte) : (s.tell m).halted = s.halted := rfl
@[simp] theorem State.tell_acl (m : List Byte) : (s.tell m).acl = s.acl := rfl
@[simp] theorem State.tell_ops (m : List Byte) : (s.tell m).ops = s.ops := rfl
@[simp] theorem State.tell_ost (m : List Byte) : (s.tell m).ost = s.ost := rfl
@[simp] theorem State.tell_tiles (m : List Byte) : (s.tell m).tiles = s.tiles := rfl
@[simp] theorem State.tell_tables (m : List Byte) : (s.tell m).tables = s.tables := rfl
@[simp] theorem State.tell_holds (m : List Byte) : (s.tell m).holds = s.holds := rfl
@[simp] theorem State.tell_domains (m : List Byte) : (s.tell m).domains = s.domains := rfl
@[simp] theorem State.tell_harts (m : List Byte) : (s.tell m).harts = s.harts := rfl
@[simp] theorem State.tell_moduleKick (m : List Byte) : (s.tell m).moduleKick = s.moduleKick := rfl
@[simp] theorem State.tell_moduleExpired (m : List Byte) : (s.tell m).moduleExpired = s.moduleExpired := rfl
@[simp] theorem State.tell_complexReset (m : List Byte) : (s.tell m).complexReset = s.complexReset := rfl
@[simp] theorem State.tell_ports (m : List Byte) : (s.tell m).ports = s.ports := rfl
@[simp] theorem State.tell_reqs (m : List Byte) : (s.tell m).reqs = s.reqs := rfl
@[simp] theorem State.tell_waitTxns (m : List Byte) : (s.tell m).waitTxns = s.waitTxns := rfl
@[simp] theorem State.tell_nextTag (m : List Byte) : (s.tell m).nextTag = s.nextTag := rfl
@[simp] theorem State.tell_onceTags (m : List Byte) : (s.tell m).onceTags = s.onceTags := rfl
@[simp] theorem State.tell_once (m : List Byte) : (s.tell m).once = s.once := rfl
@[simp] theorem State.tell_insts (m : List Byte) : (s.tell m).insts = s.insts := rfl
@[simp] theorem State.tell_ctxs (m : List Byte) : (s.tell m).ctxs = s.ctxs := rfl
@[simp] theorem State.tell_early (m : List Byte) : (s.tell m).early = s.early := rfl
@[simp] theorem State.tell_staging (m : List Byte) : (s.tell m).staging = s.staging := rfl
@[simp] theorem State.tell_stagingCap (m : List Byte) : (s.tell m).stagingCap = s.stagingCap := rfl
@[simp] theorem State.tell_msgs (m : List Byte) : (s.tell m).msgs = s.msgs := rfl
@[simp] theorem State.tell_seen (m : List Byte) : (s.tell m).seen = s.seen := rfl
@[simp] theorem State.tell_log (m : List Byte) : (s.tell m).log = s.log := rfl
@[simp] theorem State.tell_twin (m : List Byte) : (s.tell m).twin = s.twin := rfl
@[simp] theorem State.tell_hbm (m : List Byte) : (s.tell m).hbm = s.hbm := rfl
@[simp] theorem State.tell_power (m : List Byte) : (s.tell m).power = s.power := rfl
@[simp] theorem State.tell_fuses (m : List Byte) : (s.tell m).fuses = s.fuses := rfl
@[simp] theorem State.tell_boot (m : List Byte) : (s.tell m).boot = s.boot := rfl
@[simp] theorem State.tell_jtag (m : List Byte) : (s.tell m).jtag = s.jtag := rfl
@[simp] theorem State.tell_freeCtr (m : List Byte) : (s.tell m).freeCtr = s.freeCtr := rfl

/-! ### freeNext -/

@[simp] theorem State.freeNext_pending : (s.freeNext).pending = s.pending := rfl
@[simp] theorem State.freeNext_regs : (s.freeNext).regs = s.regs := rfl
@[simp] theorem State.freeNext_swFields : (s.freeNext).swFields = s.swFields := rfl
@[simp] theorem State.freeNext_mem : (s.freeNext).mem = s.mem := rfl
@[simp] theorem State.freeNext_panel : (s.freeNext).panel = s.panel := rfl
@[simp] theorem State.freeNext_flash : (s.freeNext).flash = s.flash := rfl
@[simp] theorem State.freeNext_ctrl : (s.freeNext).ctrl = s.ctrl := rfl
@[simp] theorem State.freeNext_bell : (s.freeNext).bell = s.bell := rfl
@[simp] theorem State.freeNext_bellMail : (s.freeNext).bellMail = s.bellMail := rfl
@[simp] theorem State.freeNext_bellSeen : (s.freeNext).bellSeen = s.bellSeen := rfl
@[simp] theorem State.freeNext_bellRead : (s.freeNext).bellRead = s.bellRead := rfl
@[simp] theorem State.freeNext_halted : (s.freeNext).halted = s.halted := rfl
@[simp] theorem State.freeNext_acl : (s.freeNext).acl = s.acl := rfl
@[simp] theorem State.freeNext_ops : (s.freeNext).ops = s.ops := rfl
@[simp] theorem State.freeNext_ost : (s.freeNext).ost = s.ost := rfl
@[simp] theorem State.freeNext_tiles : (s.freeNext).tiles = s.tiles := rfl
@[simp] theorem State.freeNext_tables : (s.freeNext).tables = s.tables := rfl
@[simp] theorem State.freeNext_holds : (s.freeNext).holds = s.holds := rfl
@[simp] theorem State.freeNext_domains : (s.freeNext).domains = s.domains := rfl
@[simp] theorem State.freeNext_harts : (s.freeNext).harts = s.harts := rfl
@[simp] theorem State.freeNext_moduleKick : (s.freeNext).moduleKick = s.moduleKick := rfl
@[simp] theorem State.freeNext_moduleExpired : (s.freeNext).moduleExpired = s.moduleExpired := rfl
@[simp] theorem State.freeNext_complexReset : (s.freeNext).complexReset = s.complexReset := rfl
@[simp] theorem State.freeNext_ports : (s.freeNext).ports = s.ports := rfl
@[simp] theorem State.freeNext_reqs : (s.freeNext).reqs = s.reqs := rfl
@[simp] theorem State.freeNext_waitTxns : (s.freeNext).waitTxns = s.waitTxns := rfl
@[simp] theorem State.freeNext_nextTag : (s.freeNext).nextTag = s.nextTag := rfl
@[simp] theorem State.freeNext_onceTags : (s.freeNext).onceTags = s.onceTags := rfl
@[simp] theorem State.freeNext_once : (s.freeNext).once = s.once := rfl
@[simp] theorem State.freeNext_insts : (s.freeNext).insts = s.insts := rfl
@[simp] theorem State.freeNext_ctxs : (s.freeNext).ctxs = s.ctxs := rfl
@[simp] theorem State.freeNext_early : (s.freeNext).early = s.early := rfl
@[simp] theorem State.freeNext_staging : (s.freeNext).staging = s.staging := rfl
@[simp] theorem State.freeNext_stagingCap : (s.freeNext).stagingCap = s.stagingCap := rfl
@[simp] theorem State.freeNext_msgs : (s.freeNext).msgs = s.msgs := rfl
@[simp] theorem State.freeNext_seen : (s.freeNext).seen = s.seen := rfl
@[simp] theorem State.freeNext_log : (s.freeNext).log = s.log := rfl
@[simp] theorem State.freeNext_twin : (s.freeNext).twin = s.twin := rfl
@[simp] theorem State.freeNext_hbm : (s.freeNext).hbm = s.hbm := rfl
@[simp] theorem State.freeNext_power : (s.freeNext).power = s.power := rfl
@[simp] theorem State.freeNext_fuses : (s.freeNext).fuses = s.fuses := rfl
@[simp] theorem State.freeNext_boot : (s.freeNext).boot = s.boot := rfl
@[simp] theorem State.freeNext_mgmt : (s.freeNext).mgmt = s.mgmt := rfl
@[simp] theorem State.freeNext_jtag : (s.freeNext).jtag = s.jtag := rfl

@[simp] theorem State.setPower_power (f : PowerStage → PowerStage) : (s.setPower f).power = f s.power := rfl
@[simp] theorem State.freeNext_freeCtr : s.freeNext.freeCtr = s.freeCtr + 1 := rfl
@[simp] theorem State.tell_out (m : List Byte) : (s.tell m).mgmt.out = s.mgmt.out ++ [m] := rfl

end Sys2Proof.Machine
end

