-- ==== Sys2Proof/Laws/Memory.lean ====
section
/-! SUPPORT. Memory: what the named operations on memory do to every byte, and that each keeps the canonical form. -/

namespace Sys2Proof.Machine

variable (s : State)

/-! ### One byte -/

/-- Words, rows, sites and places taken apart again, by their bounds. -/
theorem splitWord {A B t A' B' t' : Nat} (hB : B < 1024) (hB' : B' < 1024) (ht : t < 8) (ht' : t' < 8)
    (h : 8192 * A + 8 * B + t = 8192 * A' + 8 * B' + t') : A = A' ∧ B = B' ∧ t = t' := by omega

theorem splitRow {q r q' r' : Nat} (hr : r < 32) (hr' : r' < 32) (h : 32 * q + r = 32 * q' + r') : q = q' ∧ r = r' := by omega

theorem splitSite {q r q' r' : Nat} (hr : r < 2 ^ 19) (hr' : r' < 2 ^ 19) (h : q * 2 ^ 19 + r = q' * 2 ^ 19 + r') :
    q = q' ∧ r = r' := by
  have h1 : ∀ q r : Nat, r < 2 ^ 19 → (q * 2 ^ 19 + r) / 2 ^ 19 = q := fun q r h => by
    rw [Nat.mul_comm, Nat.mul_add_div (Nat.two_pow_pos 19), Nat.div_eq_of_lt h, Nat.add_zero]
  have h2 : q = q' := by rw [← h1 q r hr, h, h1 q' r' hr']
  subst h2
  exact ⟨rfl, Nat.add_left_cancel h⟩

theorem sameLoc {x y : Nat} (e1 : x / 8192 % 64 = y / 8192 % 64) (e2 : x / 256 % 32 = y / 256 % 32)
    (e3 : x / 8 % 32 = y / 8 % 32) (e4 : x % 8 = y % 8) : x % 524288 = y % 524288 := by
  have a : ∀ z : Nat, z % 256 = 8 * (z / 8 % 32) + z % 8 := fun z => by omega
  have b : ∀ z : Nat, z % 8192 = 256 * (z / 256 % 32) + z % 256 := fun z => by omega
  have c : ∀ z : Nat, z % 524288 = 8192 * (z / 8192 % 64) + z % 8192 := fun z => by omega
  rw [c x, c y, b x, b y, a x, a y, e1, e2, e3, e4]

theorem samePlace {x y : Nat} (l : x % 524288 = y % 524288) (s1 : x / 524288 % 32 = y / 524288 % 32)
    (s2 : x / 16777216 % 32 = y / 16777216 % 32) (s3 : x / 536870912 = y / 536870912) : x = y := by
  have a : ∀ z : Nat, z % 16777216 = 524288 * (z / 524288 % 32) + z % 524288 := fun z => by omega
  have b : ∀ z : Nat, z % 536870912 = 16777216 * (z / 16777216 % 32) + z % 16777216 := fun z => by omega
  rw [← Nat.div_add_mod x 536870912, ← Nat.div_add_mod y 536870912, b x, b y, a x, a y, l, s1, s2, s3]

/-- A byte of a panel store lies below 512 KiB (R91). -/
theorem panelPlace_lt {b i j t : Nat} (hb : b < 64) (hi : i < 32) (ht : t < 8) : panelPlace b i j + t < 2 ^ 19 := by
  have h1 : panelBank b i j < 64 := by simp only [panelBank]; omega
  have h2 : panelAddr b i < 1024 := by simp only [panelAddr]; omega
  simp only [panelPlace]; omega

/-- Every byte of a panel store has a place of its own (R91). -/
theorem panelPlace_inj {b i j t b' i' j' t' : Nat} (hi : i < 32) (hj : j < 32) (ht : t < 8) (hb : b < 64) (hb' : b' < 64)
    (hi' : i' < 32) (hj' : j' < 32) (ht' : t' < 8) (h : panelPlace b i j + t = panelPlace b' i' j' + t') :
    b = b' ∧ i = i' ∧ j = j' ∧ t = t' := by
  have h2 : panelAddr b i < 1024 := by simp only [panelAddr]; omega
  have h2' : panelAddr b' i' < 1024 := by simp only [panelAddr]; omega
  obtain ⟨e1, e2, rfl⟩ := splitWord h2 h2' ht ht' h
  obtain ⟨b1, rfl⟩ := splitRow hi hi' e2
  obtain ⟨b2, e3⟩ := splitRow (Nat.mod_lt _ (by omega)) (Nat.mod_lt _ (by omega)) e1
  have : b = b' := by omega
  have : j = j' := by clear e1 e2 h b1 b2; omega
  omega

/-- Every byte of the panel window has a place of its own (R285). -/
theorem State.panelKey_inj {a c : Nat} (ha : inPanel a = true) (hc : inPanel c = true)
    (h : s.panelKey a = s.panelKey c) : a = c := by
  simp only [inPanel, Bool.and_eq_true, decide_eq_true_eq] at ha hc
  simp only [State.panelKey] at h
  generalize s.fon Fl.memPswinSpare 0 = sp at h
  obtain ⟨x, rfl⟩ : ∃ x, a = 0xFC00000000 + x := ⟨a - 0xFC00000000, by omega⟩
  obtain ⟨y, rfl⟩ : ∃ y, c = 0xFC00000000 + y := ⟨c - 0xFC00000000, by omega⟩
  simp only [Nat.add_sub_cancel_left] at h
  have m : ∀ z k : Nat, 0 < k → z % k < k := fun z k hk => Nat.mod_lt z hk
  have lx := panelPlace_lt (j := x / 8 % 32) (m (x / 8192) 64 (by omega)) (m (x / 256) 32 (by omega)) (m x 8 (by omega))
  have ly := panelPlace_lt (j := y / 8 % 32) (m (y / 8192) 64 (by omega)) (m (y / 256) 32 (by omega)) (m y 8 (by omega))
  have inj := panelPlace_inj (m (x / 256) 32 (by omega)) (m (x / 8) 32 (by omega)) (m x 8 (by omega))
    (m (x / 8192) 64 (by omega)) (m (y / 8192) 64 (by omega)) (m (y / 256) 32 (by omega)) (m (y / 8) 32 (by omega))
    (m y 8 (by omega))
  rw [Nat.add_assoc _ (panelPlace _ _ _), Nat.add_assoc _ (panelPlace _ _ _)] at h
  generalize panelPlace (x / 8192 % 64) (x / 256 % 32) (x / 8 % 32) + x % 8 = px at h lx inj
  generalize panelPlace (y / 8192 % 64) (y / 256 % 32) (y / 8 % 32) + y % 8 = py at h ly inj
  obtain ⟨hq, hp⟩ := splitSite lx ly h
  obtain ⟨e1, e2, e3, e4⟩ := inj hp
  have loc := sameLoc e1 e2 e3 e4
  clear e1 e2 e3 e4 inj hp h lx ly ha hc
  have hx := m (x / 524288) 32 (by omega)
  have hy := m (y / 524288) 32 (by omega)
  have hx2 := m (x / 16777216) 32 (by omega)
  have hy2 := m (y / 16777216) 32 (by omega)
  simp only [show (2 : Nat) ^ 19 = 524288 from rfl, show (2 : Nat) ^ 24 = 16777216 from rfl,
    show (2 : Nat) ^ 29 = 536870912 from rfl] at hq
  have slot : x / 524288 % 32 = y / 524288 % 32 ∧ x / 16777216 % 32 = y / 16777216 % 32 ∧
      x / 536870912 = y / 536870912 := by
    clear loc m
    generalize x / 524288 % 32 = rx at *
    generalize y / 524288 % 32 = ry at *
    generalize x / 16777216 % 32 = cx at *
    generalize y / 16777216 % 32 = cy at *
    generalize x / 536870912 = qx at *
    generalize y / 536870912 = qy at *
    cases sp <;> simp only [Bool.false_eq_true, and_false, if_false, and_true] at hq
    · omega
    · split at hq <;> split at hq <;> omega
  obtain ⟨s1, s2, s3⟩ := slot
  rw [samePlace loc s1 s2 s3]

theorem State.pokeByte_fields (a : Nat) (b : Byte) :
    s.pokeByte a b = { s with mem := (s.pokeByte a b).mem, panel := (s.pokeByte a b).panel } := by
  unfold State.pokeByte; split <;> rfl

@[simp] theorem State.pokeByte_regs (a : Nat) (b : Byte) : (s.pokeByte a b).regs = s.regs := by
  rw [State.pokeByte_fields]

theorem State.pokeByte_panelKey (a c : Nat) (b : Byte) : (s.pokeByte a b).panelKey c = s.panelKey c := by
  unfold State.panelKey State.fon State.fget State.rd
  rw [State.pokeByte_regs]

/-- A byte put changes that byte and no other. -/
theorem State.byteAt_pokeByte (a c : Nat) (b : Byte) :
    (s.pokeByte a b).byteAt c = if c = a then b else s.byteAt c := by
  unfold State.byteAt
  rw [State.pokeByte_panelKey]
  unfold State.pokeByte
  by_cases ha : inPanel a = true <;> by_cases hc : inPanel c = true
  · simp only [ha, hc, if_true]
    by_cases h : c = a
    · subst h; simp
    · rw [if_neg h, mget_mput_ne _ _ _ fun he => h (s.panelKey_inj hc ha he)]
  · have : c ≠ a := fun h => hc (h ▸ ha)
    simp [ha, hc, this]
  · have : c ≠ a := fun h => ha (h ▸ hc)
    simp [ha, hc, this]
  · simp only [ha, hc, if_false, Bool.false_eq_true]
    exact mget_mput 0 s.mem a c b

/-! ### Bytes in a row -/

theorem State.poke_fields (bs : List Byte) (a : Nat) :
    s.poke a bs = { s with mem := (s.poke a bs).mem, panel := (s.poke a bs).panel } := by
  induction bs generalizing s a with
  | nil => rfl
  | cons b r ih =>
    rw [State.poke, ih, State.pokeByte_fields]

/-- Bytes put change those bytes and no other. -/
theorem State.byteAt_poke (a c : Nat) (bs : List Byte) :
    (s.poke a bs).byteAt c = if a ≤ c ∧ c < a + bs.length then bs.getD (c - a) 0 else s.byteAt c := by
  induction bs generalizing s a with
  | nil => rw [if_neg (by simp)]; rfl
  | cons b r ih =>
    rw [State.poke, ih, State.byteAt_pokeByte]
    by_cases h : c = a
    · subst h
      rw [if_neg (by omega), if_pos rfl, if_pos (by simp)]; simp
    · rw [if_neg h]
      by_cases h2 : a + 1 ≤ c ∧ c < a + 1 + r.length
      · rw [if_pos h2, if_pos (by simp; omega)]
        obtain ⟨k, hk⟩ : ∃ k, c - a = k + 1 := ⟨c - a - 1, by omega⟩
        rw [hk, show c - (a + 1) = k by omega]; simp
      · rw [if_neg h2, if_neg (by simp; omega)]

/-- The bytes just put, read back. -/
theorem State.peek_poke (a : Nat) (bs : List Byte) : (s.poke a bs).peek a bs.length = bs := by
  apply List.ext_getElem (by simp [State.peek])
  intro i h1 h2
  simp only [State.peek, List.getElem_map, List.getElem_range, State.byteAt_poke]
  rw [if_pos (by omega), Nat.add_sub_cancel_left]
  simp [h2]

/-! ### A write -/

theorem State.clearUe_byteAt (a n c : Nat) : (s.clearUe a n).byteAt c = s.byteAt c := by
  unfold State.clearUe; split <;> rfl

theorem State.markDirty_byteAt (a n c : Nat) : (s.markDirty a n).byteAt c = s.byteAt c := rfl

/-- A write changes the bytes written and no other (R264, R266). -/
theorem State.byteAt_memWrite (a c : Nat) (bs : List Byte) :
    (s.memWrite a bs).byteAt c = if a ≤ c ∧ c < a + bs.length then bs.getD (c - a) 0 else s.byteAt c := by
  unfold State.memWrite
  rw [State.markDirty_byteAt, State.clearUe_byteAt, State.byteAt_poke]

/-- A write touches the memories, the lines in error and the twin's granules, and nothing else. -/
theorem State.memWrite_fields (a : Nat) (bs : List Byte) :
    s.memWrite a bs = { s with
      mem := (s.memWrite a bs).mem, panel := (s.memWrite a bs).panel, hbm := (s.memWrite a bs).hbm,
      twin := (s.memWrite a bs).twin } := by
  unfold State.memWrite State.clearUe
  split
  · unfold State.markDirty; conv_lhs => rw [State.poke_fields]
    conv_rhs => rw [State.poke_fields]
  · unfold State.markDirty; conv_lhs => rw [State.poke_fields]
    conv_rhs => rw [State.poke_fields]

/-! ### The canonical form -/

theorem State.pokeByte_wf (a : Nat) (b : Byte) (hm : Memory.wf s.mem) (hp : Memory.wf s.panel) :
    Memory.wf (s.pokeByte a b).mem ∧ Memory.wf (s.pokeByte a b).panel := by
  unfold State.pokeByte
  split
  · exact ⟨hm, Canonical.mput hp _ _⟩
  · exact ⟨Canonical.mput hm _ _, hp⟩

theorem State.poke_wf (a : Nat) (bs : List Byte) (hm : Memory.wf s.mem) (hp : Memory.wf s.panel) :
    Memory.wf (s.poke a bs).mem ∧ Memory.wf (s.poke a bs).panel := by
  induction bs generalizing s a with
  | nil => exact ⟨hm, hp⟩
  | cons b r ih =>
    have h := s.pokeByte_wf a b hm hp
    exact ih _ (a + 1) h.1 h.2

/-- A write keeps the memories in canonical form. -/
theorem State.memWrite_wf (a : Nat) (bs : List Byte) (hm : Memory.wf s.mem) (hp : Memory.wf s.panel) :
    Memory.wf (s.memWrite a bs).mem ∧ Memory.wf (s.memWrite a bs).panel := by
  have h := s.poke_wf a bs hm hp
  unfold State.memWrite State.clearUe
  split <;> exact h

theorem State.memWord_wf (a : Nat) (w : Word64) (hm : Memory.wf s.mem) (hp : Memory.wf s.panel) :
    Memory.wf (s.memWord a w).mem ∧ Memory.wf (s.memWord a w).panel := s.memWrite_wf a _ hm hp

/-- Bytes put into a list of cells keep it in canonical form: flash and control SRAM. -/
theorem canonical_putBytes (d : Byte) (l : List (Byte × Nat)) (f : Byte × Nat → Nat) (m : List Host.Cell)
    (h : Canonical d m) : Canonical d (l.foldl (fun m e => mput d m (f e) e.1) m) := by
  induction l generalizing m with
  | nil => exact h
  | cons e r ih => exact ih _ (Canonical.mput h _ _)

theorem State.flashPut_wf (a : Nat) (bs : List Byte) (h : Canonical 0xFF s.flash) : Canonical 0xFF (s.flashPut a bs).flash :=
  canonical_putBytes 0xFF _ _ _ h

theorem State.wiped_wf (m : WipeMem) (h : Memory.wf s.mem) : Memory.wf (s.wiped m).mem := by
  cases m
  · exact Canonical.filter h _
  · exact h
  · exact Canonical.filter h _
  · exact h

theorem State.logEntry_wf (e : Event) (hm : Memory.wf s.mem) (hp : Memory.wf s.panel) :
    Memory.wf (s.logEntry e).mem ∧ Memory.wf (s.logEntry e).panel := by
  unfold State.logEntry
  simp only
  split
  · exact ⟨hm, hp⟩
  · exact s.memWrite_wf _ _ hm hp

theorem State.reset_wf : Memory.wf State.reset.mem ∧ Memory.wf State.reset.panel ∧ Canonical 0xFF State.reset.flash :=
  ⟨canonical_nil _, canonical_nil _, canonical_nil _⟩

end Sys2Proof.Machine
end

