-- ==== Sys2Proof/Laws/Outcome.lean ====
section
/-! SUPPORT. Outcome: what ends every command: the halt it leaves in force, the queue it leaves alone (R331). -/

namespace Sys2Proof.Machine

/-! ### Ports switched off -/

/-- What switching one port off does to the registers. -/
def State.portOff (s : State) (p : Nat) : State :=
  ((s.fset Fl.portStatState p 0).fset Fl.portStatWidth p 3).fset Fl.portLanesActive p 0

theorem State.portsOff_eq (s : State) : s.portsOff = (List.range 12).foldl State.portOff { s with ports := [] } := rfl

/-- Only registers differ. -/
abbrev RegsOnly (s t : State) : Prop := t = { s with regs := t.regs }

theorem RegsOnly.refl (s : State) : RegsOnly s s := rfl

theorem RegsOnly.trans {s t u : State} (h : RegsOnly s t) (k : RegsOnly t u) : RegsOnly s u := by
  unfold RegsOnly at *; rw [k, h]

theorem regsOnly_wr (s : State) (r : Reg) (i : Nat) (v : Word64) : RegsOnly s (s.wr r i v) := rfl

theorem regsOnly_fset (s : State) (f : Fld) (i v : Nat) : RegsOnly s (s.fset f i v) := regsOnly_wr s _ _ _

theorem State.portOff_fields (s : State) (p : Nat) : RegsOnly s (s.portOff p) :=
  ((regsOnly_fset s _ _ _).trans (regsOnly_fset _ _ _ _)).trans (regsOnly_fset _ _ _ _)

/-- A fold of steps that change registers only changes registers only. -/
theorem regsOnly_foldl {α : Type} (f : State → α → State) (hf : ∀ s x, RegsOnly s (f s x)) (l : List α) (s : State) :
    RegsOnly s (l.foldl f s) := by
  induction l generalizing s with
  | nil => exact .refl s
  | cons p r ih => exact (hf s p).trans (ih _)

theorem State.portsOff_fields (s : State) : s.portsOff = { s with ports := [], regs := s.portsOff.regs } := by
  have h := regsOnly_foldl State.portOff State.portOff_fields (List.range 12) { s with ports := [] }
  rw [State.portsOff_eq]; exact h

/-- A field of the ports' state that a port off does not touch. -/
theorem State.portOff_fget_ne (s : State) {p q : Nat} (hp : p < 12) (hq : q < 12) (h : q ≠ p) :
    (s.portOff p).fget Fl.portStatState q = s.fget Fl.portStatState q := by
  unfold State.portOff
  rw [State.fget_fset_ne _ _ hp hq (.inr h), State.fget_fset_ne _ _ hp hq (.inr h), State.fget_fset_ne _ _ hp hq (.inr h)]

theorem State.portOff_fget_same (s : State) {p : Nat} (hp : p < 12) : (s.portOff p).fget Fl.portStatState p = 0 := by
  unfold State.portOff
  rw [State.fget_fset_ne _ _ hp hp (.inl (by decide)),
    State.fget_fset_field (f := Fl.portStatWidth) (g := Fl.portStatState) _ _ _ (by decide) rfl (by decide), State.fget_fset_same _ _ _ _ (by decide)]
  rfl

theorem State.portOffs_fget (l : List Nat) (hl : ∀ p ∈ l, p < 12) (s : State) {q : Nat} (hq : q < 12)
    (h : q ∈ l ∨ s.fget Fl.portStatState q = 0) : (l.foldl State.portOff s).fget Fl.portStatState q = 0 := by
  induction l generalizing s with
  | nil => simpa using h
  | cons p r ih =>
    have hp := hl p (by simp)
    rw [List.foldl_cons]
    refine ih (fun x hx => hl x (by simp [hx])) _ ?_
    by_cases hpq : q = p
    · exact .inr (by rw [hpq]; exact s.portOff_fget_same hp)
    · rcases h with h | h
      · exact .inl (by simpa [hpq] using h)
      · exact .inr (by rw [s.portOff_fget_ne hp hq hpq, h])

/-- Every port DISABLED (R331). -/
theorem State.portsOff_state (s : State) {p : Nat} (hp : p < 12) : s.portsOff.fget Fl.portStatState p = 0 := by
  rw [State.portsOff_eq]
  exact State.portOffs_fget _ (fun x hx => List.mem_range.mp hx) _ hp (.inl (List.mem_range.mpr hp))

/-! ### The halt -/

/-- The halt touches the ports, the array and what is under way, and nothing else (R331). -/
theorem State.halt_fields (s : State) :
    s.halt = { s with
      regs := s.portsOff.regs, ports := [], tiles := [], holds := [], domains := [], halted := true, ops := [],
      insts := [], early := [], msgs := [], reqs := [], waitTxns := [] } := by
  unfold State.halt State.clearArray
  rw [State.portsOff_fields]

theorem State.settle_of_running {s : State} (h : s.halted = false) : s.settle = s := by simp [State.settle, h]

theorem State.settle_of_halted {s : State} (h : s.halted = true) : s.settle = s.halt := by simp [State.settle, h]

@[simp] theorem State.settle_mem (s : State) : s.settle.mem = s.mem := by
  unfold State.settle; split <;> simp [State.halt_fields]

@[simp] theorem State.settle_panel (s : State) : s.settle.panel = s.panel := by
  unfold State.settle; split <;> simp [State.halt_fields]

@[simp] theorem State.settle_flash (s : State) : s.settle.flash = s.flash := by
  unfold State.settle; split <;> simp [State.halt_fields]

@[simp] theorem State.settle_ctrl (s : State) : s.settle.ctrl = s.ctrl := by
  unfold State.settle; split <;> simp [State.halt_fields]

@[simp] theorem State.settle_bell (s : State) : s.settle.bell = s.bell := by
  unfold State.settle; split <;> simp [State.halt_fields]

@[simp] theorem State.settle_bellMail (s : State) : s.settle.bellMail = s.bellMail := by
  unfold State.settle; split <;> simp [State.halt_fields]

@[simp] theorem State.settle_bellSeen (s : State) : s.settle.bellSeen = s.bellSeen := by
  unfold State.settle; split <;> simp [State.halt_fields]

@[simp] theorem State.settle_bellRead (s : State) : s.settle.bellRead = s.bellRead := by
  unfold State.settle; split <;> simp [State.halt_fields]

@[simp] theorem State.settle_halted (s : State) : s.settle.halted = s.halted := by
  unfold State.settle; split <;> simp_all [State.halt_fields]

@[simp] theorem State.settle_acl (s : State) : s.settle.acl = s.acl := by
  unfold State.settle; split <;> simp [State.halt_fields]

@[simp] theorem State.settle_ost (s : State) : s.settle.ost = s.ost := by
  unfold State.settle; split <;> simp [State.halt_fields]

@[simp] theorem State.settle_tables (s : State) : s.settle.tables = s.tables := by
  unfold State.settle; split <;> simp [State.halt_fields]

@[simp] theorem State.settle_harts (s : State) : s.settle.harts = s.harts := by
  unfold State.settle; split <;> simp [State.halt_fields]

@[simp] theorem State.settle_moduleKick (s : State) : s.settle.moduleKick = s.moduleKick := by
  unfold State.settle; split <;> simp [State.halt_fields]

@[simp] theorem State.settle_moduleExpired (s : State) : s.settle.moduleExpired = s.moduleExpired := by
  unfold State.settle; split <;> simp [State.halt_fields]

@[simp] theorem State.settle_complexReset (s : State) : s.settle.complexReset = s.complexReset := by
  unfold State.settle; split <;> simp [State.halt_fields]

@[simp] theorem State.settle_nextTag (s : State) : s.settle.nextTag = s.nextTag := by
  unfold State.settle; split <;> simp [State.halt_fields]

@[simp] theorem State.settle_once (s : State) : s.settle.once = s.once := by
  unfold State.settle; split <;> simp [State.halt_fields]

@[simp] theorem State.settle_ctxs (s : State) : s.settle.ctxs = s.ctxs := by
  unfold State.settle; split <;> simp [State.halt_fields]

@[simp] theorem State.settle_seen (s : State) : s.settle.seen = s.seen := by
  unfold State.settle; split <;> simp [State.halt_fields]

@[simp] theorem State.settle_log (s : State) : s.settle.log = s.log := by
  unfold State.settle; split <;> simp [State.halt_fields]

@[simp] theorem State.settle_twin (s : State) : s.settle.twin = s.twin := by
  unfold State.settle; split <;> simp [State.halt_fields]

@[simp] theorem State.settle_hbm (s : State) : s.settle.hbm = s.hbm := by
  unfold State.settle; split <;> simp [State.halt_fields]

@[simp] theorem State.settle_power (s : State) : s.settle.power = s.power := by
  unfold State.settle; split <;> simp [State.halt_fields]

@[simp] theorem State.settle_fuses (s : State) : s.settle.fuses = s.fuses := by
  unfold State.settle; split <;> simp [State.halt_fields]

@[simp] theorem State.settle_boot (s : State) : s.settle.boot = s.boot := by
  unfold State.settle; split <;> simp [State.halt_fields]

@[simp] theorem State.settle_mgmt (s : State) : s.settle.mgmt = s.mgmt := by
  unfold State.settle; split <;> simp [State.halt_fields]

@[simp] theorem State.settle_jtag (s : State) : s.settle.jtag = s.jtag := by
  unfold State.settle; split <;> simp [State.halt_fields]

@[simp] theorem State.settle_freeCtr (s : State) : s.settle.freeCtr = s.freeCtr := by
  unfold State.settle; split <;> simp [State.halt_fields]

@[simp] theorem State.settle_pending (s : State) : s.settle.pending = s.pending := by
  unfold State.settle; split <;> simp [State.halt_fields]

/-! ### Outcomes -/

@[simp] theorem done_next (s t : State) : done s t = .next { t.settle with pending := s.pending } := rfl

theorem act_live {s : State} {f : State → State} (h : s.live = true) : act s f = done s (f s) := by simp [act, h]

theorem act_dead {s : State} {f : State → State} (h : s.live = false) : act s f = .next s := by simp [act, h]

/-- A command that runs on a live module and does not halt it ends in the state it makes, with the queue untouched. -/
theorem act_running {s : State} {f : State → State} (h : s.live = true) (hr : (f s).halted = false) :
    act s f = .next { f s with pending := s.pending } := by
  rw [act_live h, done_next, State.settle_of_running hr]

/-- What a command of a running module can answer. -/
theorem act_cases {s t : State} {f : State → State} (h : act s f = .next t) :
    (s.live = true ∧ t = { (f s).settle with pending := s.pending }) ∨ (s.live = false ∧ t = s) := by
  by_cases hl : s.live = true
  · rw [act_live hl, done_next] at h
    exact .inl ⟨hl, by cases h; rfl⟩
  · rw [act_dead (by simpa using hl)] at h
    exact .inr ⟨by simpa using hl, by cases h; rfl⟩

end Sys2Proof.Machine
end

