-- ==== Sys2Proof/Tests/Slice0.lean ====
section
/-! SUPPORT. Tests: for every statement a concrete state that meets its hypotheses, with what the spec gives there, and
an ill-formed term for every check of the operands. -/

open Sys2Proof Sys2Proof.Machine

namespace Sys2Proof.Tests

set_option Elab.async false

/-- The state a command leaves; a fault or a refusal leaves the state as it was. -/
def after (c : Instr) (s : State) : State := match exec c s with
  | .next t => t
  | _ => s

/-- The module right after reset, powered and live. -/
def up : State := State.reset

/-- The module with its memories wiped. -/
def clean : State := { up with boot := { up.boot with wiping := [] } }

/-- The state at a later bell, 2^40 array cycles. -/
def later (s : State) : State := { s with bell := [(0, 2 ^ 40)] }

/-- Fields of a state set: field, instance, value. -/
def sets (s : State) (l : List (Fld × Nat × Nat)) : State := l.foldl (fun s x => s.fset x.1 x.2.1 x.2.2) s

/-- The module in a phase of its power stage. -/
def phased (p : Power) : State := { up with power := { phase := p, pwrEn := false, pwrGood := false } }

/-- A step that answers a next state. -/
def ran : State → Bool := fun s => match step s with
  | .next _ => true
  | _ => false
/-! ### Witnesses: power stage and pins -/

theorem test_idle_step : (up.pending = [] ∧ up.powered = true) ∧
    ran up = true := by decide +kernel

theorem test_step_runs_front : step { up with pending := [.nop 0, .refresh 0] } =
    exec (.nop 0) { up with pending := [.refresh 0] } := rfl

theorem witness_halt_invariant_kept :
    Safety.HaltQuiet up ∧ ran up = true := by unfold Safety.HaltQuiet; decide +kernel

theorem witness_halted_leaves_by_reset : ({ up with halted := true } : State).halted = true ∧
    (after (.reset 0) { up with halted := true }).halted = false := by decide +kernel

theorem witness_dead_ignores : ({ up with halted := true } : State).live = false ∧
    Safety.needsLive (.stepIssue 0) = true ∧
    after (.stepIssue 0) { up with halted := true } = { up with halted := true } := by decide +kernel

theorem test_pwr_en_assert : ((phased .off).power.pwrEn = false ∧ (phased .off).power.phase = .off) ∧
    (after .pwrEnAssert (phased .off)).power.phase = .sequencing := by decide +kernel

theorem test_pwr_en_during_down : ((phased .down).power.pwrEn = false ∧ (phased .down).power.phase = .down) ∧
    (after .pwrEnAssert (phased .down)).power.again = true ∧
    (after .powerDownWaitEnd (phased .down)).power.phase = .off := by decide +kernel

theorem test_input_in_range : (phased .waiting).power.phase = .waiting ∧
    (after (.inputInRange 46000) (phased .waiting)).power.phase = .sequencing ∧
    (after (.inputInRange 60000) (phased .waiting)).power.phase = .sequencing := by decide +kernel

theorem test_pwr_good : (phased .sequencing).power.phase = .sequencing ∧
    (after (.pwrGood none) (phased .sequencing)).live = true ∧
    (after (.pwrGood (some 3)) (phased .sequencing)).power.phase = .down := by decide +kernel

theorem test_power_downs : up.power.phase = .on ∧
    (∀ c ∈ ([.pwrEnDeassert, .inputBrownout 43999, .inputOvervoltageTrip 64001, .railShort 7, .railShort 12,
        .thermalTrip 0 1760, .thermalTrip 11 1600, .thermalTrip 14 2000] : List Instr), (after c up).power.phase = .down) ∧
    (thermLimits 0 = some (1520, 1760) ∧ thermLimits 11 = some (1440, 1600) ∧ thermLimits 14 = some (1760, 2000)) ∧
    (after .phaseLost { up with power := { phases := 4 } }).power.phase = .down := by decide +kernel

theorem test_input_warnings : up.powered = true ∧
    (after (.inputUndervoltage 45999) up).fget Fl.pwrStatUvWarn 0 = 1 ∧
    (after (.inputRecovered 46501) up).fget Fl.pwrStatUvWarn 0 = 0 ∧
    (after (.inputOvervoltageWarn 60001) up).fget Fl.pwrStatOvWarn 0 = 1 ∧
    (after .remoteSenseOpen up).fget Fl.pwrStatSenseLocal 0 = 1 := by decide +kernel

theorem test_phase_lost : (∀ n ∈ [5, 8], ({ up with power := { phases := n } } : State).powered = true ∧
    (after .phaseLost { up with power := { phases := n } }).fget Fl.pwrCapPhases 0 = n - 1) := by decide +kernel

theorem test_clocks_lost : (after (.referenceLost false) up).halted = true ∧
    (after (.pllLost .array) up).fget Fl.clkStatArray 0 = 0 := by decide +kernel

theorem test_cap_tick : up.live = true ∧
    (after (.capControlTick 56000 71000 4000001) up).fget Fl.arrThrottleCapN 0 = 2 ∧
    (after (.capControlTick 56000 71000 3900000) (sets up [(Fl.arrThrottleCapN, 0, 1)])).fget Fl.arrThrottleCapN 0 = 1 ∧
    (after (.capControlTick 56000 71000 3899999) (sets up [(Fl.arrThrottleCapN, 0, 1)])).fget Fl.arrThrottleCapN 0 = 0 :=
  by decide +kernel

theorem test_pwr_cap_write : up.live = true ∧ up.present (.hart 15) = true ∧
    (after (.pwrCapWrite (.hart 15) (BitVec.ofNat 64 (1200 * 2 ^ 48))) up).fget Fl.pwrCapLimitW 0 = 1200 ∧
    (after (.pwrCapWrite (.hart 15) (BitVec.ofNat 64 (4001 * 2 ^ 48))) up).fget Fl.pwrCapLimitW 0 = up.fget Fl.pwrCapLimitW 0 :=
  by decide +kernel

theorem test_thermal_tick : up.live = true ∧ ([1520] : List (BitVec 16))[0]? = some 1520 ∧
    thermLimits 0 = some (1520, 1760) ∧
    (after (.thermalControlTick [1520]) up).fget Fl.arrThrottleThermN 0 = 4 := by decide +kernel

theorem test_load_shed_fall :
    (up.powered = true ∧ up.fget Fl.pwrStatLoadShed 0 = 0 ∧ up.fget Fl.pwrStatShedRamp 0 = 0) ∧
    (after .loadShedFall up).fget Fl.pwrStatLoadShed 0 = 1 := by decide +kernel

/-- A module under load shed, and one on the ramp out of it. -/
def shed : State := sets up [(Fl.pwrStatLoadShed, 0, 1), (Fl.arrThrottleShedNNow, 0, 63)]
def ramp : State := sets up [(Fl.pwrStatShedRamp, 0, 1), (Fl.arrThrottleShedNNow, 0, 1)]

theorem test_load_shed_rise :
    (shed.powered = true ∧ shed.fget Fl.pwrStatLoadShed 0 = 1 ∧ shed.power.uvShed = false) ∧
    (after .loadShedRise shed).fget Fl.pwrStatShedRamp 0 = 1 ∧
    (ramp.powered = true ∧ ramp.fget Fl.pwrStatShedRamp 0 = 1 ∧ ramp.shedTarget ≠ 0 ∧
      ramp.power.rampNext ≤ ramp.now + 88) ∧
    (after .shedStepDown ramp).power.due.length = 1 := by decide +kernel

theorem test_reset_pin : up.power.phase = .on ∧ (after .resetNAssert up).power.resetN = false ∧
    ((after .resetNAssert up).power.phase = .on ∧
      (after (.resetNDeassert 63) (after .resetNAssert up)).fget Fl.mgtI3cPid 0 = 63) := by decide +kernel

/-! ### Witnesses: boot and register writes -/

/-- The module in stage INIT, its memories wiped and trained, every quarter proved. -/
def ready : State :=
  { sets up [(Fl.secBootStatStage, 0, sgInit)] with
    boot := { wiping := [], started := true, verified := true, trained := true, proved := [0, 1, 2, 3] } }

/-- The module after boot lock. -/
def locked : State := sets up [(Fl.secBootStatStage, 0, sgFirmware), (Fl.secBootStatLock, 0, 1)]

theorem test_wipe_done : (up.live = true ∧ WipeMem.panel ∈ up.boot.wiping) ∧
    (after (.wipeDone .panel true) up).fget (wipeFld .panel) 0 = 1 ∧
    (after (.wipeDone .panel false) up).fget Fl.secBootStatErr 0 = 7 ∧
    (let s : State := { up with boot := { trained := true } }
     s.live = true ∧ WipeMem.hbm ∈ s.boot.wiping ∧ s.boot.trained = true) := by decide +kernel

/-- A module in INIT whose HBM is not trained yet. -/
def untrained : State := { ready with boot := { ready.boot with trained := false } }

theorem test_hbm_training :
    (untrained.live = true ∧ untrained.stage = sgInit ∧ untrained.boot.trained = false ∧ untrained.boot.record = []) ∧
    (after (.hbmTrainingDone []) untrained).fget Fl.memCtlState 7 = 1 ∧
    (after (.hbmTrainingDone [7]) untrained).halted = true := by decide +kernel

theorem imgNat_append (p r : List Byte) (a n : Nat) (h : a + n ≤ p.length) : imgNat (p ++ r) a n = imgNat p a n := by
  unfold imgNat
  rw [List.drop_append_of_le_length (by omega), List.take_append_of_le_length (by simp; omega)]

theorem flashPeek_add (s : State) (a m k : Nat) :
    s.flashPeek a (m + k) = s.flashPeek a m ++ s.flashPeek (a + m) k := by
  unfold State.flashPeek
  rw [List.range_add, List.map_append, List.map_map]
  congr 1
  exact List.map_congr_left fun i _ => by simp [Nat.add_assoc]

theorem flashPeek_length (s : State) (a n : Nat) : (s.flashPeek a n).length = n := by simp [State.flashPeek]

/-- The verdicts of a security unit that finds every signature good. -/
def good : Verdicts := ⟨true, true, true, true, true, true⟩

/-- A module whose ROM has begun, with slot 0 to try and nothing in it. -/
def blank : State := { up with boot := { started := true, slots := [0] } }

theorem witness_no_slot : (blank.live = true ∧ blank.boot.started = true ∧ blank.boot.verified = false ∧
    blank.stage = sgRom ∧ (blank.lifecycle good).fuses.life ≠ 0xF) ∧
    ∀ k ∈ blank.boot.slots, (blank.lifecycle good).slotOk good k = false := by
  refine ⟨by decide +kernel, ?_⟩
  have e : blank.lifecycle good = blank := by decide +kernel
  rw [e]
  intro k hk
  have hk : k = 0 := by simpa [blank] using hk
  subst hk
  have h : imgNat (blank.slotImage 0) 0 4 = imgNat (blank.flashPeek (slotBase 0) 64) 0 4 := by
    unfold State.slotImage
    rw [show 0x2000000 = 64 + 0x1FFFFC0 from rfl, flashPeek_add, imgNat_append _ _ _ _ (by rw [flashPeek_length]; omega)]
  have g : (imgNat (blank.flashPeek (slotBase 0) 64) 0 4 == 0x5746594C) = false := by decide +kernel
  unfold State.slotOk State.imageOk
  simp [h, g]

/-- The header of a firmware image with one empty section, and its key (Tables 15.5 and 15.6). -/
def header : List Byte :=
  [0x4C, 0x59, 0x46, 0x57, 1, 0, 1, 0, 0, 0, 0, 0, 0, 0x10, 0, 0] ++ List.replicate 48 0 ++
    [1, 0, 0, 0, 0, 0x10, 0, 0] ++ List.replicate 24 0

/-- A module whose slot 0 holds that image. -/
def loaded : State :=
  { blank with flash := (header.zipIdx.map fun e => (slotBase 0 + e.2, e.1)),
               fuses := { isazoKey := sha256 (List.replicate 32 0) } }

theorem peek_loaded : loaded.flashPeek (slotBase 0) 96 = header := by decide +kernel

theorem imageOk_loaded (r : List Byte) : loaded.imageOk (header ++ r) true = true := by
  have hl : header.length = 96 := by decide +kernel
  have hs : imageSections (header ++ r) = [⟨1, 4096, 0, 0⟩] := by
    rw [imageSections, header]
    simp [List.replicate, leNat]
  have hd : ((header ++ r).drop 16).take 32 = List.replicate 32 0 := by
    rw [header]; simp [List.replicate]
  have e0 : imgNat header 0 4 = 0x5746594C := by decide +kernel
  have e1 : imgNat header 4 2 = 1 := by decide +kernel
  have e2 : imgNat header 6 1 = 1 := by decide +kernel
  have e3 : imgNat header 7 1 = 0 := by decide +kernel
  have e4 : imgNat header 12 4 = 4096 := by decide +kernel
  have e5 : digestIs (List.replicate 32 0) loaded.fuses.isazoKey = true := by simp [digestIs, loaded]
  have e6 : max loaded.fuses.rollbackA loaded.fuses.rollbackB = 0 := by decide +kernel
  have e7 : loaded.destOk ⟨1, 4096, 0, 0⟩ = true := by simp [State.destOk]
  unfold State.imageOk imgSvn imgLength
  rw [hs, hd, imgNat_append _ _ 0 4 (by omega), imgNat_append _ _ 4 2 (by omega), imgNat_append _ _ 6 1 (by omega),
    imgNat_append _ _ 7 1 (by omega), imgNat_append _ _ 12 4 (by omega), e0, e1, e2, e3, e4, e5, e6]
  simp [e7, noOverlap, List.zipIdx]

theorem slotImage_loaded : ∃ r, loaded.slotImage 0 = header ++ r := by
  refine ⟨loaded.flashPeek (slotBase 0 + 96) 0x1FFFFA0, ?_⟩
  rw [← peek_loaded, ← flashPeek_add]; rfl

theorem witness_slot_verifies : (loaded.live = true ∧ loaded.boot.started = true ∧ loaded.boot.verified = false ∧
    loaded.stage = sgRom ∧ (loaded.lifecycle good).fuses.life ≠ 0xF) ∧
    ∃ k ∈ loaded.boot.slots, (loaded.lifecycle good).slotOk good k = true := by
  have e : loaded.lifecycle good = loaded := by decide +kernel
  refine ⟨⟨rfl, rfl, rfl, by decide +kernel, by rw [e]; decide +kernel⟩, 0, by decide +kernel, ?_⟩
  obtain ⟨r, hr⟩ := slotImage_loaded
  rw [e, State.slotOk, hr]
  exact imageOk_loaded r

theorem witness_boot_ready : ready.live = true ∧ ready.bootReady = true := by decide +kernel

theorem test_register_write_refused : up.live = true ∧
    (∀ c ∈ ([.registerWrite (.hart 0) 0 4 1, .registerWrite (.hart 0) 4 8 1, .registerWrite (.hart 0) 0xFFFFF8 8 1] : List Instr),
      (after c up).regs = up.regs ∧ ((after c up).hart 0).cs csMcause = 7) ∧ regAt 0xFFFFF8 = none := by decide +kernel

theorem test_register_write : (up.live = true ∧ up.present (.hart 15) = true) ∧
    (after (.registerWrite (.hart 15) (Reg.off .ostClassWt 7) 8 (2 ^ 63 + 5)) up).fget Fl.ostClassWtWt 7 = 5 ∧
    (after (.registerWrite (.hart 15) (Reg.off .ostClassWt 7) 8 (2 ^ 63)) up).fget Fl.ostClassWtWt 7 = up.fget Fl.ostClassWtWt 7 :=
  by decide +kernel

theorem test_register_write_locked : (locked.live = true ∧ locked.bootLocked = true) ∧
    after (.registerWrite (.hart 0) (Reg.off .toLimit 10) 8 77) locked = locked := by decide +kernel

/-- A module with room 4095: 16 slots at 1 MiB, HEAD 0, TAIL 3, closed or open. -/
def room (enable : Nat) : State :=
  sets up [(Fl.roomBaseBase, 4095, 4096), (Fl.roomSizeLog2, 4095, 4), (Fl.roomAttrEnable, 4095, enable),
    (Fl.roomTailTail, 4095, 3)]

theorem test_room_config : ((room 0).live = true ∧ (room 0).present (.hart 0) = true ∧
      (room 0).fget Fl.roomAttrEnable 4095 = 0) ∧
    (after (.roomConfigWrite (.hart 0) 4095 false 0x200000) (room 0)).fget Fl.roomBaseBase 4095 = 0x2000 ∧
    (after (.roomConfigWrite (.hart 0) 4095 true 4) (room 0)).fget Fl.roomTailTail 4095 = 0 ∧
    (after (.roomConfigWrite (.hart 0) 4095 true 16) (room 0)).fget Fl.roomSizeLog2 4095 = 16 ∧
    ((room 1).fget Fl.roomAttrEnable 4095 = 1 ∧ after (.roomConfigWrite (.hart 0) 4095 true 16) (room 1) = room 1) :=
  by decide +kernel

theorem test_room_enable : ((room 0).populated ((room 0).ringBase 4095) (256 * (room 0).ringSlots 4095) = true ∧
      (room 0).fget Fl.twnCtlEnable 0 = 0 ∧ (room 0).fget Fl.glbNodeRole 0 = 0) ∧
    (after (.roomEnableWrite (.hart 0) 4095 (2 ^ 63)) (room 0)).fget Fl.roomAttrEnable 4095 = 1 ∧
    (after (.roomEnableWrite (.hart 0) 4095 0) (room 1)).fget Fl.roomAttrEnable 4095 = 0 := by decide +kernel

theorem test_room_enable_refused :
    (let s := sets up [(Fl.roomBaseBase, 0, 0xC0000000), (Fl.roomSizeLog2, 0, 4)]
     s.populated (s.ringBase 0) (256 * s.ringSlots 0) = false ∧
       (after (.roomEnableWrite (.hart 0) 0 (2 ^ 63)) s).fget Fl.errEvtCode 0 = 0x14) := by decide +kernel

theorem test_doorbell :
    ((room 1).live = true ∧ (room 1).mayWrite (.hart 0) .hartG = true ∧ (room 1).fget Fl.roomAttrSrc 4095 = 0 ∧
      (room 1).ringSlots 4095 = 16) ∧
    (after (.roomDoorbell (.hart 0) 4095 16) (room 1)).fget Fl.roomTailTail 4095 = 16 ∧
    (after (.roomDoorbell (.hart 0) 4095 17) (room 1)).fget Fl.roomTailTail 4095 = 3 ∧
    (let s := sets (room 1) [(Fl.roomAttrSrc, 4095, 1)]
     s.mayWrite (.hart 0) .hartG = true ∧ s.fget Fl.roomAttrSrc 4095 = 1 ∧
       (after (.roomDoorbell (.hart 0) 4095 4) s).fget Fl.errEvtCode 0 = 0x14) := by decide +kernel

/-! ### Witnesses: control registers -/

theorem test_trap_clr : (up.live = true ∧ up.isPrincipal (.hart 0) = true ∧ up.isPrincipal (.hart 1) = false) ∧
    (after (.trapClr (.hart 0)) { up with ost := { trapped := true } }).ost.trapped = false ∧
    (after (.trapClr (.hart 1)) { up with ost := { trapped := true } }).ost.trapped = true := by decide +kernel

theorem test_loose_swap : (up.present (.hart 0) = true ∧ up.fget Fl.detStrictStrict 0 = 0) ∧
    (after (.looseSwap (.hart 0)) up).fget Fl.tblGenLooseSwap 0 = 1 ∧
    (let s := sets up [(Fl.detStrictStrict, 0, 1)]
     s.fget Fl.detStrictStrict 0 = 1 ∧ (after (.looseSwap (.hart 0)) s).fget Fl.tblGenLooseSwap 0 = 0) := by decide +kernel

theorem test_err_log_base :
    (up.populated (0xC000000000 - 64 * 1024) (64 * 1024) = true ∧
      up.populated (0xC000000000 - 64) (64 * 1024) = false) ∧
    (after (.errLogBaseWrite (.hart 0) 0xBFFFFF0000) up).fget Fl.errLogBaseAddr 0 = 0xBFFFFF0000 ∧
    after (.errLogBaseWrite (.hart 0) 0xBFFFFFFFC0) up = up := by decide +kernel

/-- A module whose control table lies at the start of the commons, with one entry in list 15: nodes 5 to 7 may read. -/
def acled : State :=
  (sets up [(Fl.ostCtlAcl64k, 0, 0xFE0000)]).poke (0xFE00000000 + 8 * (256 * 15 + 255))
    (leBytes 8 (2 ^ 63 + 2 ^ 38 + 7 * 2 ^ 18 + 5))

theorem witness_acl_load : (acled.live = true ∧ acled.present (.hart 0) = true ∧
      inCommons (acled.fget Fl.ostCtlAcl64k 0 * 65536) 32768 = true) ∧
    (let w := acled.peekNat (acled.fget Fl.ostCtlAcl64k 0 * 65536 + 8 * (256 * 15 + 255)) 8
     bitsOf w 63 63 = 1 ∧ bitsOf w Right.read.bit Right.read.bit = 1 ∧ bitsOf w 17 0 ≤ 7 ∧ 7 ≤ bitsOf w 35 18) := by
  decide +kernel

theorem test_event_ack : (up.isPrincipal (.hart 0) = true ∧ up.isPrincipal (.peer 1 0) = false) ∧
    (let s := sets up [(Fl.portRetryEvtCount, 11, 2), (Fl.portRetryEvtPend, 11, 1)]
     (after (.eventAck (.hart 0) (Reg.off .portRetryAck 11) (2 ^ 33)) s).fget Fl.portRetryEvtPend 11 = 0 ∧
     (after (.eventAck (.hart 0) (Reg.off .portRetryAck 11) (2 ^ 32)) s).fget Fl.portRetryEvtPend 11 = 1) := by
  decide +kernel

theorem test_kicks :
    ((15 : BitVec 16) <<< 12).getLsbD 15 = true ∧ (up.present (.hart 15) = true) ∧
    (let s : State := { up with bell := [(0, 9)] }
     ((after (.hartKick 15 0x8000) s).hart 15).kick = 9 ∧ after (.hartKick 15 0x7FFF) s = s ∧
     (after (.moduleKick (.hart 0)) s).moduleKick = 9 ∧ after (.moduleKick (.hart 3)) s = s) := by decide +kernel

theorem test_det_write : (up.live = true ∧ up.present (.hart 0) = true ∧ up.idle = true) ∧
    (after (.detWrite (.hart 0) (Reg.off .detStep 0) 7) up).fget Fl.detStepStep 0 = 7 ∧
    (after (.detWrite (.hart 0) (Reg.off .detSeed 15) 7) up).rd .detSeed 15 = 7 ∧
    (let s := sets up [(Fl.ostCtlRun, 0, 1)]
     s.idle = false ∧ (after (.detWrite (.hart 0) (Reg.off .detStep 0) 7) s).fget Fl.errEvtCode 0 = 0x14) := by
  decide +kernel

/-- WAYMARK_CTL with LOG_EN, a log of 1 MiB at 1 MiB. -/
def logWord : Word64 := BitVec.ofNat 64 (2 ^ 63 + 2 ^ 36 + 2 ^ 28)

theorem test_waymark_ctl :
    (up.idle = true ∧ logWord.getLsbD 63 = true ∧ up.fget Fl.waymarkCtlLogEn 0 = 0 ∧ bitsOf logWord.toNat 35 28 ≠ 0 ∧
      up.populated (bitsOf logWord.toNat 55 36 * 2 ^ 20) (bitsOf logWord.toNat 35 28 * 2 ^ 20) = true) ∧
    (after (.waymarkCtlWrite (.hart 0) logWord) up).fget Fl.waymarkCtlLogEn 0 = 1 ∧
    (after (.waymarkCtlWrite (.hart 0) 0) up).fget Fl.waymarkCtlLogEn 0 = 0 ∧
    (let s := sets up [(Fl.ostCtlRun, 0, 1)]
     s.idle = false ∧ (after (.waymarkCtlWrite (.hart 0) logWord) s).fget Fl.waymarkCtlLogEn 0 = 0) := by decide +kernel

/-- A group of one member, this node, whose list lies at the start of the commons. -/
def groupWord : Word64 := BitVec.ofNat 64 (2 ^ 63 + 2 ^ 42 + 0xFE00000000)

theorem test_grp_cfg :
    (up.fget Fl.grpStatState 1023 ≠ 1 ∧ up.fget Fl.grpStatState 1023 ≠ 2 ∧ up.fget Fl.twnCtlEnable 0 = 0 ∧
      bitsOf groupWord.toNat 60 42 = 1 ∧ bitsOf groupWord.toNat 39 0 % 8 = 0 ∧
      inCommons (bitsOf groupWord.toNat 39 0) 4 = true ∧ (up.readMembers false 0xFE00000000 1).Nodup ∧
      up.node ∈ up.readMembers false 0xFE00000000 1) ∧
    (after (.grpCfgWrite (.hart 0) 1023 groupWord) up).fget Fl.grpCfgValid 1023 = 1 ∧
    (after (.grpCfgWrite (.hart 0) 1023 0) up).fget Fl.grpCfgValid 1023 = 0 ∧
    (∀ st ∈ [1, 2], let s := sets up [(Fl.grpStatState, 1023, st)]
      s.fget Fl.grpStatState 1023 = st ∧ after (.grpCfgWrite (.hart 0) 1023 groupWord) s = s) := by decide +kernel

/-- A module whose port 11 has role PEER, in a state, and training or retraining. -/
def porty (st : Nat) (x : Port := {}) : State :=
  { sets up [(Fl.portCtlRole, 11, 1), (Fl.portStatState, 11, st), (Fl.portCtlMinWidth, 11, 1)] with ports := [(11, x)] }

theorem test_port_control :
    ((porty 0).live = true ∧ (porty 0).fget Fl.portStatState 11 = 0 ∧ (porty 0).portRole 11 ≠ 0 ∧
      (porty 0).twinSelf ≠ twExcluded) ∧
    (after (.portEnableWrite (.hart 0) 11 true) (porty 0)).fget Fl.portStatState 11 = 1 ∧
    (after (.portEnableWrite (.hart 0) 11 false) (porty 5)).fget Fl.portStatState 11 = 0 ∧
    (after (.portRetrain (.hart 0) 11) (porty 5)).fget Fl.portStatState 11 = 6 ∧
    (after (.portRetrain (.hart 0) 11) (porty 7)).fget Fl.portStatState 11 = 1 := by decide +kernel

theorem test_port_detect : (porty 1).fget Fl.portStatState 11 = 1 ∧
    (after (.portDetect 11) (porty 1)).fget Fl.portStatState 11 = 2 := by decide +kernel

theorem test_equalise : ((porty 2).trainPhase 11 = 2 ∧ (porty 6 { retrain := 2 }).trainPhase 11 = 2) ∧
    (after (.equaliseDone 11 0xF0) (porty 2)).fget Fl.portStatState 11 = 3 ∧
    (after (.equaliseDone 11 0xF1) (porty 2)).fget Fl.portStatDownCause 11 = 2 := by decide +kernel

theorem test_align : ((porty 3).trainPhase 11 = 3 ∧
      chooseLanes ((porty 3).passedLanes 11) [0, 1, 2, 3] = some (1, [0, 1, 2, 3]) ∧
      chooseLanes ((porty 3).passedLanes 11) [6, 7] = some (2, [6, 7]) ∧ chooseLanes ((porty 3).passedLanes 11) [7] = none) ∧
    (after (.alignDone 11 ⟨0x0F, 0x0F⟩) (porty 3)).fget Fl.portStatWidth 11 = 1 ∧
    (after (.alignDone 11 ⟨0x0F, 0x03⟩) (porty 3)).fget Fl.portStatState 11 = 2 ∧
    (after (.alignDone 11 ⟨0x0F, 0x03⟩) (porty 3 { alignFails := 2 })).fget Fl.portStatDownCause 11 = 5 ∧
    (after (.alignDone 11 ⟨0xC0, 0xC0⟩) (porty 3)).fget Fl.portStatState 11 = 7 ∧
    (after (.alignDone 11 ⟨0x80, 0x80⟩) (porty 3)).fget Fl.portStatState 11 = 7 := by decide +kernel

theorem test_align_timeout : (later (porty 3 { alignFails := 1 })).trainPhase 11 = 3 ∧
    (later (porty 3 { alignFails := 1 })).elapsed ((later (porty 3 { alignFails := 1 })).port 11).alignAt 8000 = true ∧
    (after (.alignTimeout 11) (later (porty 3 { alignFails := 1 }))).fget Fl.portStatState 11 = 2 ∧
    (after (.alignTimeout 11) (later (porty 3 { alignFails := 2 }))).fget Fl.portStatDownCause 11 = 5 ∧
    (after (.alignTimeout 11) (porty 3 { alignFails := 1 })).fget Fl.portStatState 11 = 3 := by decide +kernel

theorem test_retrain_timeout : (later (porty 6)).fget Fl.portStatState 11 = 6 ∧
    (later (porty 6)).elapsed ((later (porty 6)).port 11).retrainAt ((later (porty 6)).limitUs 4) = true ∧
    (after (.retrainTimeout 11) (later (porty 6))).fget Fl.portStatDownCause 11 = 1 := by decide +kernel

/-- The CONFIG payload of a module with node ID 2 in this tray, whose DATA buffers all hold 7 flits. -/
def config : List Byte :=
  [1, 0, 1, 0, 2, 0, 0, 0] ++ (List.replicate 8 [7, 0]).flatten ++ [1, 0] ++ List.replicate 22 0

/-- Port 11's far end is in slot 2. -/
def facing (st : Nat) (x : Port := {}) : State := { sets (porty st) [(Fl.portCtlPeerSlot, 11, 2)] with ports := [(11, x)] }

theorem test_config : ((facing 4).trainPhase 11 = 4 ∧ config.head? = some 1 ∧ (facing 4).peerFault 11 config = none ∧
      ((facing 4).port 11).probe = none ∧ ((facing 4).port 11).trained = false) ∧
    mget 0 ((after (.configFlit 11 config) (facing 4)).port 11).credit 7 = 7 ∧
    ((porty 4).peerFault 11 config = some 3 ∧
      (after (.configFlit 11 config) (porty 4)).fget Fl.portStatDownCause 11 = 3) ∧
    ((facing 6 { retrain := 4, peer := some 1 }).peerFault 11 config = some 4) := by decide +kernel

theorem test_lane_weak :
    (let s := sets (porty 5) [(Fl.portLanesActive, 11, 0x80)]
     s.fget Fl.portStatState 11 = 5 ∧ bitsOf (s.fget Fl.portLanesActive 11) 7 7 = 1 ∧
       (after (.laneWeak 11 ⟨7, 1, 15⟩) s).fget Fl.portLanesWeak 11 = 0 ∧
       (let x : Port := { corrected := [(7, 5, 4090), (7, 0, 9)], rxCw := 2 ^ 20 }
        let u : State := { s with ports := [(11, x)] }
        (x.countCw 4).laneErrors 7 = 4090 ∧ u.fget Fl.portLanesSerMax 11 = 4096 ∧
          (after (.laneWeak 11 ⟨7, 4, 6⟩) u).fget Fl.portLanesWeak 11 = 0 ∧
          (after (.laneWeak 11 ⟨7, 4, 7⟩) u).fget Fl.portLanesWeak 11 = 0x80)) := by decide +kernel

/-- The module in a state of its twin. -/
def twinned (st : Nat) : State := sets up [(Fl.twnCtlEnable, 0, 1), (Fl.twnStateSelf, 0, st), (Fl.twnPartnerNode, 0, 9)]

theorem test_twn_adopt : (up.isPrincipal (.hart 0) = true ∧ (BitVec.ofNat 64 (2 ^ 63 + 5)).getLsbD 63 = true ∧
      up.fget Fl.twnAdoptGo 0 = 0 ∧ up.twinSelf ≠ twServingBoth) ∧
    (after (.twnAdopt (.hart 0) (BitVec.ofNat 64 (2 ^ 63 + 5))) up).fget Fl.errEvtCode 0 = 0x14 ∧
    ((twinned twServingBoth).twinSelf = twServingBoth ∧
      (after (.twnAdopt (.hart 0) (BitVec.ofNat 64 (2 ^ 63 + 5))) (twinned twServingBoth)).fget Fl.twnAdoptNode 0 = 5) := by
  decide +kernel

theorem test_life_req : up.isPrincipal (.hart 0) = true ∧ up.isPrincipal (.hart 4) = false ∧
    (after (.lifeReqGo (.hart 0)) locked).stage = sgRom ∧ after (.lifeReqGo (.hart 4)) locked = locked := by decide +kernel

theorem test_arr_mode : (up.isPrincipal (.hart 0) = true ∧ up.arrayEmpty = true) ∧
    (let s := sets up [(Fl.glbQmaskArrayQ, 0, 1), (Fl.arrModeLock, 0, 1)]
     (after (.arrModeWrite (.hart 0) 0x11) s).fget Fl.arrModeTest 0 = 0 ∧
     (after (.arrModeWrite (.hart 0) 0xF0) s).fget Fl.arrModeTest 0 = 0xE ∧
     (after (.arrModeWrite (.hart 0) 0) s).locked = true) := by decide +kernel

theorem test_glb_qmask :
    (let s := sets up [(Fl.arrModeTest, 0, 8)]
     (after (.glbQmaskWrite (.hart 0) 0xF) s).fget Fl.glbQmaskArrayQ 0 = 7) := by decide +kernel

theorem witness_mode_boundary :
    (let s : State := { up with ost := { bLock := some 1 } }
     s.live = true ∧ s.boundary = true ∧ s.arrayEmpty = true) ∧
    (let s : State := { up with ops := [{ seq := 0, room := 0, dom := 0, words := [], inArray := true }] }
     s.live = true ∧ (s.arrayEmpty = false → after .modeBoundary s = s)) := by decide +kernel

theorem test_tile_registers : (up.isPrincipal (.hart 0) = true ∧ up.fusedRepair 4223 = (63, 63)) ∧
    (let s := sets up [(Fl.tileStateState, 4223, stSuspect)]
     s.siteState 4223 = stSuspect ∧ (1 : Word64).toNat % 4 = stSpare ∧
       (after (.tileStateWrite (.hart 0) 4223 (BitVec.ofNat 64 stActive)) s).siteState 4223 = stActive ∧
       after (.tileStateWrite (.hart 0) 4223 1) s = s) := by decide +kernel

theorem test_arr_throttle : (up.present (.hart 15) = true ∧ up.power.due = [] ∧
      max 63 (max (up.fget Fl.arrThrottleCapN 0) (up.fget Fl.arrThrottleThermN 0)) ≠ up.fget Fl.arrThrottleEffN 0) ∧
    (after (.arrThrottleWrite (.hart 15) 63) up).power.due = [(64, false, 63)] := by decide +kernel

theorem test_prove_start : (up.isPrincipal (.hart 0) = true ∧ (BitVec.ofNat 64 (2 ^ 63 + 3 * 2 ^ 60)).getLsbD 63 = true ∧
      up.fget Fl.arrProveBusy 0 = 0) ∧
    (let s := sets up [(Fl.arrModeTest, 0, 8)]
     bitsOf s.testQ 3 3 = 1 ∧
       (after (.arrProveStart (.hart 0) (BitVec.ofNat 64 (2 ^ 63 + 3 * 2 ^ 60))) s).fget Fl.arrProveQuarter 0 = 3) ∧
    (let s := sets up [(Fl.arrModeTest, 0, 7)]
     bitsOf s.testQ 3 3 = 0 ∧
       (after (.arrProveStart (.hart 0) (BitVec.ofNat 64 (2 ^ 63 + 3 * 2 ^ 60))) s).fget Fl.errEvtCode 0 = 0x14) ∧
    (up.ost.proving = none ∧ up.present (.hart 15) = true ∧ 15 ≠ up.principalHart ∧
      (after (.arrProveStart (.hart 15) (BitVec.ofNat 64 (2 ^ 63))) up).fget Fl.errEvtCode 0 = 0x14) := by
  decide +kernel

/-- Any bit that is stuck fails the march test. -/
theorem test_march : marchPasses 0 0 = true ∧ marchPasses (2 ^ 519) 0 = false ∧ marchPasses 0 1 = false := by
  decide +kernel

theorem witness_proving_end :
    (let s : State := { sets up [(Fl.arrProveBusy, 0, 1)] with ost := { proving := some 3 } }
     s.live = true ∧ s.ost.proving = some 3 ∧ ∀ x ∈ ([⟨4223, []⟩] : List SiteDefects), x.defects = []) := by decide +kernel

/-! ### Witnesses: bell, holds -/

/-- The module with every replica at a bell. -/
def atBell (b : Nat) : State := { up with bell := [(0, b), (1, b), (2, b), (3, b)] }

theorem test_bell_check :
    ((atBell 0x50000).replica 3 % 2 ^ 16 = 0 ∧
      mget 0 (after (.bellCheckSend 3) (atBell 0x50000)).bellMail 14 = 6) ∧
    ((5 : BitVec 48).toNat = bitsOf ((atBell 0x50003).replica 2) 63 16 ∧ (atBell 0x50003).replica 2 % 2 ^ 16 = 3 ∧
      (after (.bellCheckArrive 3 2 5) (atBell 0x50003)).halted = false) ∧
    ((4 : BitVec 48).toNat ≠ bitsOf ((atBell 0x50003).replica 2) 63 16 ∧
      (after (.bellCheckArrive 3 2 4) (atBell 0x50003)).halted = true) := by decide +kernel

theorem test_bell_missing :
    (let s : State := { atBell 0x50004 with bellMail := [(14, 6)] }
     s.replica 2 % 2 ^ 16 = 4 ∧ mget 0 s.bellMail (4 * 3 + 2) ≠ 0 ∧
       (after (.bellCheckMissing 3 2) s).halted = true) := by decide +kernel

theorem test_hold_decision :
    (let s := sets up [(Fl.glbQmaskArrayQ, 0, 15), (Fl.arrThrottleEffN, 0, 16)]
     let o : Op := { seq := 5, room := 0, dom := s.domOf 3, words := [] }
     let x : Sent := { dst := 4, tag0 := 0, tag1 := 0, data := [0] }
     let z : State := { s with
       ops := [o], insts := [{ ctx := 7, no := 0, op := 5, kind := kdReduce, sent := [x] }], stagingCap := 0,
       tiles := [(4223, { bufs := [{ front := { seq := 5, plc := 0, tile := 0 } }] })] }
     s.quarterRuns 3 = true ∧ z.quarterRuns 3 = true ∧ s.commonsShort 3 = false ∧ z.commonsShort 3 = true ∧
       levelHolds 16 3 = true ∧ levelHolds 16 (s.now + 4) = false ∧
       unitQuarter (.quench 4223 true) = some 3 ∧ z.pruneHolds.unitShort (z.domOf 3) (.quench 4223 true) = some 3 ∧
       (after (.holdDecision (.commons 3)) z).holdAt (s.domOf 3) 4 = true ∧
       (after (.holdDecision (.quench 4223 true)) z).holdAt (s.domOf 3) 4 = true ∧
       after (.holdDecision (.commons 3)) s = s) := by decide +kernel

theorem test_hold_throttle :
    (let s := sets { up with bell := [(0, 63 + 64 - 4)] } [(Fl.glbQmaskArrayQ, 0, 15), (Fl.arrThrottleEffN, 0, 1)]
     levelHolds (s.fget Fl.arrThrottleEffN 0) (s.now + 4) = true ∧ s.domQuarters (s.domOf 3) ≠ [] ∧
       (after (.holdDecision .throttle) s).holdAt (s.domOf 3) 127 = true) := by decide +kernel

theorem test_hold_cycle :
    (let s : State := { up with holds := [⟨0, 2, [1, 11]⟩] }
     s.holds.find? (fun k => k.dom == 2 && k.bell == s.now) = some ⟨0, 2, [1, 11]⟩ ∧ [1, 11].Nodup ∧
       (after (.holdCycle 2) s).fget Fl.arrHoldCauseCycles 11 = 1 ∧
       (after (.holdCycle 2) s).fget Fl.arrHoldCauseCycles 0 = 1 ∧
       (after (.holdCycle 2) s).fget Fl.arrHoldCauseCycles 2 = 0) := by decide +kernel

/-! ### Witnesses: operations in tiles -/

/-- A tensor descriptor of up to two dimensions (Table 6.5). -/
def tens (addr fmt : Nat) (sizes : List Nat) : List Word64 :=
  [BitVec.ofNat 64 (addr + fmt * 2 ^ 40 + sizes.length * 2 ^ 48), BitVec.ofNat 64 (sizes.getD 0 0 * 2 ^ 40),
    BitVec.ofNat 64 (sizes.getD 1 0 * 2 ^ 40), 0, BitVec.ofNat 64 (if sizes.length = 2 then sizes.getD 0 0 else 0), 0]

/-- A descriptor with ANCHOR AUTO and its record at 0x8000 (Table 6.1). -/
def desc (op sub : Nat) (t0 t1 t2 : List Word64) (more : List Word64 := []) : List Word64 :=
  [BitVec.ofNat 64 (op + sub * 2 ^ 8 + 2 ^ 44), 0, 0, 0x8000] ++ t0 ++ t1 ++ t2 ++ more ++ List.replicate (10 - more.length) 0

/-- An unused tensor. -/
def noT : List Word64 := List.replicate 6 0

/-- posit8 (Table 2.1). -/
def p8 : Nat := 0x10

/-- The module with its array in service in LOCKED mode and selection running, with operations. -/
def withOps (ops : List Op) : State :=
  { sets clean [(Fl.glbQmaskArrayQ, 0, 15), (Fl.arrModeLock, 0, 1), (Fl.ostCtlRun, 0, 1)] with ops := ops }

/-- A MATMUL of M 33, N 1, K 4 over posit8: its second block has one output and runs in two steps in logical tile 64. -/
def mm : Op :=
  { seq := 5, room := 3, dom := 0,
    words := desc opMatmul 0 (tens 0x1000 p8 [4, 33]) (tens 0x2000 p8 [4, 1]) (tens 0x3000 p8 [1, 33]) }

/-- The front of that block. -/
def fr : Front := { seq := 5, plc := 0, tile := 64 }

/-- A bellows with two entries, each a pair of ones (posit8 0x40), and a tile with both of its bellows so filled. -/
def ones : Bellows := { q := List.replicate 2 { bits := entryBits true 0x7F 0x40 0x40 }, pos := 4 }
def full : Tile := { cur := some fr, rowB := [(0, ones)], colB := [(0, ones)] }

/-- The block after its two steps: its group holds 4.0 in units of 2^-48 (R64). -/
def stepped : State := after (.stepIssue 1) (after (.stepIssue 1) { withOps [mm] with tiles := [(1, full)] })

/-- The block with its group one unit off. -/
def hurt : State :=
  { stepped with tiles := [(1, { stepped.tile 1 with
      drain := (stepped.tile 1).drain.map fun b => { b with grps := [(0, { v := 2 ^ 50 + 1 })] } })] }

theorem test_front_enter :
    ((withOps [mm]).live = true ∧ (withOps [mm]).op? 5 = some mm ∧ (withOps [mm]).nextSub mm 0 64 = some 0 ∧
      (0, blockKey 64 0) ∈ mm.tileBlocks ∧ (withOps [mm]).mayFront mm = true ∧
      (withOps [mm]).earlierLeft mm 0 64 = false ∧
      (∀ p ∈ (withOps [mm]).before mm, (withOps [mm]).stepsLeftAt p (mm.runSite 0 (blockKey 64 0)) = false) ∧
      ((withOps [mm]).tile (mm.runSite 0 (blockKey 64 0))).cur = none ∧
      mm.frontSteps (frontOf mm 0 (blockKey 64 0)) ≠ 0) ∧
    ((after (.frontEnter 5 64 0) (withOps [mm])).tile 1).cur = some fr := by decide +kernel

theorem test_tong_wait_end :
    (let o : Op := { mm with tongWait := [64] }
     let s : State := { withOps [o] with tiles := [(1, { cur := some { fr with wait := true } })] }
     Canonical {} s.tiles ∧ s.ops.find? (fun o => o.tongWait.contains 64 && s.tongDone o 64) = some o ∧
       s.op? o.seq = some o ∧ ((after (.tongWaitEnd 64) s).tile 1).cur = some fr) := by decide +kernel

theorem test_step_issue :
    (let s : State := { withOps [mm] with tiles := [(1, full)] }
     (s.tile 1).cur = some fr ∧ s.op? fr.seq = some mm ∧ s.canStep 1 mm fr (s.tile 1) = true ∧
       (s.tile 1).steps + 1 < mm.frontSteps fr ∧ ((after (.stepIssue 1) s).tile 1).steps = 1) ∧
    (let s : State := { withOps [mm] with tiles := [(1, { full with steps := 1 })] }
     s.canStep 1 mm fr (s.tile 1) = true ∧ (s.tile 1).steps + 1 = mm.frontSteps fr) ∧
    (stepped.tile 1).drain.map (fun b => (b.front, b.grps)) = some (fr, [(0, { v := 2 ^ 50 })]) := by decide +kernel

/-- A tile whose panel store has the four ones of row 0 of the block. -/
def filling : State :=
  { withOps [mm] with
    tiles := [(1, { cur := some fr, panels := [⟨false, 5, 0, 64, 0, [0]⟩] })],
    panel := (List.range 4).map fun i => (panelByte 1 false mm.d.nbuf 0 ⟨0, 0, 0, 0⟩ + i, 0x40) }

theorem test_bellows_fill :
    (let b := mget {} (filling.tile 1).rowB 0
     let x := mm.d.fillOf (mm.d.partKs 0) true 0 b.pos 0
     (filling.tile 1).cur = some fr ∧ filling.op? 5 = some mm ∧ logicalOf (filling.spareRow 1) 0 = some 0 ∧
       mm.d.usesRow fr 0 = true ∧
       (x.picks.all fun p => p.all fun p =>
         (filling.tile 1).hasWord fr false p.chunk (wordNo (mm.d.panelPos false p.line p.x))) = true ∧
       b.pos / 2 < mm.d.tileSteps 64 * mm.d.entriesPerStep true ∧ b.q.length + x.entries.length ≤ 64) ∧
    (let b := mget {} ((after (.bellowsFill 1 true 0) filling).tile 1).rowB 0
     b.pos = 4 ∧ b.q.map (fun e => e.bits) = [entryBits true 0x7F 0x40 0x40, entryBits false 0x7F 0x40 0x40]) := by decide +kernel

theorem test_panel_fill :
    (let s : State := { withOps [mm] with mem := [(0x1080, 0x40)] }
     s.op? 5 = some mm ∧ mm.d.isMat = true ∧ mm.notOut = true ∧ s.gatherReady mm = true ∧ s.readUe mm = [] ∧
       mm.stopping = false ∧ mm.preempted = false ∧ s.fillFree mm 0 0 false 0 = true ∧
       ((s.fillTiles mm 0 false 0 0).map Prod.fst).Nodup ∧ (1, 64) ∈ s.fillTiles mm 0 false 0 0 ∧
       mget 0 (after (.panelFill 5 0 0 false 0 0 0) s).panel (panelByte 1 false mm.d.nbuf 0 ⟨0, 0, 0, 0⟩) = 0x40) := by
  decide +kernel

/-- A MATVEC of K 64 and N 1 with CB4 weights, whose product tables the builder forms. -/
def mv : Op :=
  { seq := 5, room := 3, dom := 0,
    words := desc opMatvec 0 (tens 0x1000 p8 [64])
      ((tens 0x2000 0x50 [64, 1]).set 1 (BitVec.ofNat 64 (64 * 2 ^ 40 + 0x4000))) (tens 0x3000 p8 [1]) }

theorem test_product_table_build :
    (let f : Front := { seq := 5, plc := 0, tile := 0 }
     let s : State := { withOps [mv] with
       tiles := [(0, { cur := some f, rowB := (List.range 32).map fun r => (r, ones) })] }
     s.op? 5 = some mv ∧ mv.d.prodTables = true ∧ (s.tile 0).ptabStep < mv.d.tileSteps 0 ∧
       (∀ r < 32, ((mget {} (s.tile 0).rowB (s.physRow 0 r)).q[0]?).isSome = true) ∧
       ((after (.productTableBuild 0) s).tile 0).ptabStep = 1) := by decide +kernel

/-- The MATMUL with its K dealt to a chain of 2 or 4 tiles. -/
def chain (n : Nat) : Op :=
  { mm with words := mm.words.set 0 (BitVec.ofNat 64 (opMatmul + 2 ^ 44 + n * 2 ^ 48)),
            sends := [⟨0, 0, [(65, { v := 3 }, 0)]⟩] }

/-- A drained block of its second tile. -/
def relayed (n : Nat) : State :=
  { withOps [chain n] with tiles := [(1, { bufs := [{ front := fr, checked := true, grps := [(65, { v := 4 })] }] })] }

theorem test_relay_arrive :
    ((chain 2).inbound fr 65 = some ({ v := 3 }, 0) ∧ (chain 2).d.partOf 64 + 1 = (chain 2).d.parts ∧
      (∃ b ∈ ((relayed 2).tile 1).bufs, ((relayed 2).tile 1).buf? ((relayed 2).takesRelay 65) = some b ∧ b.front = fr) ∧
      (relayed 2).op? 5 = some (chain 2)) ∧
    ((after (.relayArrive 1 65) (relayed 2)).tile 1).bufs.map (fun b => mget {} b.grps 65) = [{ v := 7 }] ∧
    ((chain 4).d.partOf 64 ≠ 0 ∧ (chain 4).d.partOf 64 + 1 ≠ (chain 4).d.parts ∧
      (∃ b ∈ ((relayed 4).tile 1).bufs, ((relayed 4).tile 1).buf? ((relayed 4).takesRelay 65) = some b ∧
        b.relayGot.length + 1 ≠ (chain 4).d.relayN) ∧
      (chain 4).inbound fr 65 = some ({ v := 3 }, 0)) := by decide +kernel

theorem test_saddlebag_lane :
    (let o : Op := { mm with words := mm.words.set 6 (BitVec.ofNat 64 (33 * 2 ^ 40 + 0x4000)) }
     let s : State := { withOps [o] with tiles := [(1, { drain := some { front := fr } })] }
     (s.tile 1).readDrain.buf? s.wantsLane = some { front := fr } ∧ s.op? 5 = some o ∧
       ((after (.saddlebagLaneTerms 1) s).tile 1).bufs.map (fun b => b.laneGot) = [true]) := by decide +kernel

theorem witness_quench_block : (stepped.tile 1).cur = none ∧ stepped.op? 5 = some mm ∧
    (∃ b ∈ (stepped.tile 1).readDrain.bufs, (stepped.tile 1).readDrain.bufs = [b] ∧ b.front = fr ∧ b.checked = false ∧
      (stepped.checkBlock 1 (mm.lay fr) b).ok = true) ∧ mm.d.isMat = true ∧ stepped.readsOpen mm = [] ∧
    stepped.opUe mm = [] ∧ stepped.runRoom mm = true ∧ mm.d.parts = 1 ∧ mm.partner = false ∧
    mm.d.hasBags = false ∧ mm.fusedPost = false ∧ mm.d.retemper = 0 ∧ mm.d.ledgerEn = false := by decide +kernel

theorem test_quench_block : (after (.quenchBlock 1 []) stepped).byteAt (0x3000 + 32) = 0x50 := by decide +kernel

theorem witness_quench_fails :
    (hurt.tile 1).cur = none ∧ (∃ b ∈ (hurt.tile 1).readDrain.bufs, (hurt.tile 1).readDrain.bufs = [b] ∧ b.front = fr ∧
        b.checked = false ∧ b.spills = false ∧ (hurt.checkBlock 1 (mm.lay fr) b).ok = false ∧
        (hurt.checkBlock 1 (mm.lay fr) b).located.1 = 0) ∧ hurt.op? 5 = some mm ∧ mm.gauged fr = true ∧ (mm.lay fr).w = 128 ∧ hurt.siteState 1 ≠ stRetired ∧ hurt.ost.repaired.contains 1 = false ∧
      hurt.fget Fl.tileRepairSpareRowFor 1 = 63 ∧ mm.reruns = [] ∧ mm.blocks = [] := by decide +kernel

/-! ### Witnesses: operations -/

/-- A MATMUL of two K-chunks in the array, with an eligible room of strict class 1. -/
def long (stopping : Bool) : Op :=
  { seq := 5, room := 3, dom := 0, entered := true, inArray := true, stopping := stopping, idem := true,
    words := desc opMatmul 0 (tens 0x10000 p8 [2050, 33]) (tens 0x2000 p8 [2050, 1]) (tens 0x3000 p8 [1, 33]) }
def contested (en : Nat) (o : Op) : State :=
  { sets (withOps [o]) [(Fl.ostCtlPreemptEn, 0, en), (Fl.ostClassWtStrict, 1, 1), (Fl.roomAttrClass, 7, 1)] with
    bell := [(0, 15999)], mem := [(0, BitVec.ofNat 8 opMatmul)], ost := { strictSince := [(7, 0)] }, tiles := [(0, { cur := some { seq := 5, plc := 0, tile := 0 } })] }

theorem test_preempt_decision :
    (∀ en ∈ [0, 1], let s := contested en (long false)
      s.live = true ∧ s.fget Fl.ostCtlPreemptEn 0 = en ∧ s.saveFits = true ∧
        s.ops.find? (fun o => o.dom == 0 && o.preemptible && s.boundaryAhead o && s.strictWaits o) = some (long false)) ∧
    (after (.preemptDecision 0) (contested 1 (long false))).op? 5 = some (long true) := by decide +kernel

theorem test_preempt_save :
    (let s := withOps [long true]
     s.op? 5 = some (long true) ∧ s.readyToSave (long true) = true ∧ s.tiles = [] ∧
       ((after (.preemptSave 5) s).ops.map fun o => (o.preempted, o.inArray)) = [(true, false)]) := by decide +kernel

theorem test_hold_watchdog :
    (let o : Op := { mm with inArray := true, idem := true }
     let s : State := { withOps [o] with domains := [(0, { run := up.fget Fl.toLimitLimit 0, last := 0 })] }
     s.fget Fl.toLimitLimit 0 ≤ (mget {} s.domains 0).run ∧ s.now ≤ (mget {} s.domains 0).last ∧ o.again = true ∧
       (after (.holdWatchdogExpire 0) s).op? 5 = some o.fresh) := by decide +kernel

theorem test_fetch_timeout :
    (let o : Op := { mm with inArray := true, idem := true }
     let s : State := { withOps [o] with tiles := [(1, full)] }
     Canonical {} s.tiles ∧ (s.tile 1).cur = some fr ∧ s.op? 5 = some o ∧ o.again = true ∧
       (after (.bellowsFetchTimeout 1 0) s).op? 5 = some o.fresh) := by decide +kernel

/-- Operations of one or two elements, by opcode and sub-operation. -/
def small (op sub : Nat) (more : List Word64 := []) (seq : Nat := 5) : Op :=
  let v := tens 0x1000 p8 [2]
  { seq := seq, room := 3, dom := 0, ext := if op = opAttend then tens 0x5000 p8 [2, 1] else [],
    words := desc op sub
      (if op = opMatmul then tens 0x1000 p8 [2, 33] else if op = opAttend then tens 0x1000 p8 [2, 1] else v)
      (if op = opMatmul ∨ op = opMatvec ∨ op = opAttend then tens 0x2000 p8 [2, 1] else tens 0x2000 p8 [2])
      (if op = opMatmul then tens 0x3000 p8 [1, 33] else if op = opMatvec ∨ op = opReduce then tens 0x3000 p8 [1]
        else if op = opAttend then tens 0x3000 p8 [2, 1] else if op = opScatter then tens 0x3000 0x70 [2]
        else tens 0x3000 p8 [2]) more }

/-- What every row of an array or data operation asks for. -/
def runs (s : State) (o : Op) : Bool :=
  s.live && s.op? o.seq == some o && s.runnable o && (s.opUe o).isEmpty && s.runRoom o && (s.readsOpen o).isEmpty

theorem witness_operations_run :
    ∀ r ∈ ([(opMatmul, 0), (opMatvec, 0), (opElemwise, 0), (opElemwise, 1), (opElemwise, 2), (opElemwise, 3),
        (opElemwise, 4), (opElemwise, 5), (opElemwise, 6), (opElemwise, 7), (opReduce, 0), (opReduce, 1), (opReduce, 2),
        (opReduce, 3), (opReduce, 4), (opNorm, 0), (opNorm, 1), (opSoftmax, 0), (opAttend, 0), (opConvert, 0),
        (opConvert, 1), (opConvert, 2), (opConvert, 3), (opGather, 0), (opScatter, 0), (opRng, 0), (opRng, 1),
        (opRng, 2), (opCopy, 0)] : List (Nat × Nat)),
      let o := small r.1 r.2
      runs (withOps [o]) o = true ∧ o.d.opcode = r.1 ∧ o.d.subop = r.2 ∧ o.fusedPost = false ∧ o.partner = false ∧
        o.d.ledgerEn = false ∧ (runWithRetemper ((withOps [o]).envOf o)).2 = none := by decide +kernel

/-- Ones and twos in posit8 (0x40 and 0x48) at the operands of `small`. -/
def data : List Host.Cell := [(0x1000, 0x40), (0x1001, 0x48), (0x2000, 0x48), (0x2001, 0x40)]

/-- The first output of an operation on that data. -/
def out (c : Nat → Instr) (op sub : Nat) : Byte :=
  (after (c 5) { withOps [small op sub] with mem := data }).byteAt 0x3000

theorem test_matvec : out .matvec opMatvec 0 = 0x50 := by decide +kernel
theorem test_elemwise : out .elemwiseUnary opElemwise 0 = 0x40 ∧ out .elemwiseAdd opElemwise 1 = 0x4C ∧
    out .elemwiseSub opElemwise 2 = 0xC0 ∧ out .elemwiseMul opElemwise 3 = 0x48 ∧ out .elemwiseMax opElemwise 5 = 0x48 ∧
    out .elemwiseMin opElemwise 6 = 0x40 := by decide +kernel
theorem test_reduce : out .reduceSum opReduce 0 = 0x4C ∧ out .reduceSumsq opReduce 1 = 0x52 ∧
    out .reduceMax opReduce 2 = 0x48 ∧ out .reduceMin opReduce 3 = 0x40 ∧ out .reduceVar opReduce 4 = 0x30 := by
  decide +kernel
theorem test_copy : out .copy opCopy 0 = 0x40 ∧ out .gather opGather 0 = 0x40 := by
  decide +kernel

/-- A MATMUL with a fused REDUCE as the first instance of context 7. -/
def fused (post : Nat) : Op := { mm with words := mm.words.set 28 (BitVec.ofNat 64 (post * 16)) }

theorem witness_fused_run :
    (let s : State := { withOps [fused 1] with insts := [{ ctx := 7, no := 0, op := 5, kind := kdReduce, words := (fused 1).words }] }
     runs s (fused 1) = true ∧ (fused 1).fusedPost = true ∧ ((s.instsOf 5).any fun i => i.isReduce) = true) := by
  decide +kernel

theorem test_finisher_row :
    (let o := small opSoftmax 0
     let s := withOps [o]
     runs s o = true ∧ bitsOf (s.fget Fl.qchFinBusy 0) 3 3 = 0 ∧ 0 < finisherRows (s.runEnv o) ∧ 0 ∉ o.rows ∧
       s.rowsReady o = true ∧ o.fusedPost = false ∧ o.d.retemper = 0) ∧
    (let o := small opReduce 2
     let s : State := { withOps [o] with mem := data }
     runs s o = true ∧ s.rowsReady o = true ∧ (after (.finisherRow 3 5 0) s).fget Fl.qchFinBusy 0 = 8) := by decide +kernel

theorem test_exact_add :
    (let o := small opScatter 0
     let s : State := { withOps [o] with mem := data }
     let v := s.envOf o
     runs s o = true ∧ 1 < o.d.t0.count ∧ (1, 0) ∉ o.blocks ∧
       v.t2.place v.rd (unlinear v.t2.psizes 1) = .at (8 * 0x3010) [1] ∧
       (after (.exactAdd 5 1) s).byteAt 0x3016 = 2) := by decide +kernel

/-- Room 4095 with a NOP descriptor at its HEAD, and the Ostler running. -/
def ordered : State :=
  { sets (withOps []) [(Fl.roomBaseBase, 4095, 4096), (Fl.roomSizeLog2, 4095, 4), (Fl.roomAttrEnable, 4095, 1),
      (Fl.roomAttrQuantum, 4095, 1), (Fl.roomTailTail, 4095, 1)] with mem := [(0x100000, 0x1F)] }

theorem test_select : (ordered.live = true ∧ ordered.eligible 0 = [4095] ∧ ordered.preempted 0 = none ∧
      ordered.twin.serves = none ∧ ordered.fget Fl.roomAttrQuantum 4095 ≠ 0 ∧
      ordered.fget Fl.ostClassWtWt (ordered.roomClass 4095) ≠ 0 ∧ (∀ o ∈ ordered.ops, o.seq ≠ ordered.ost.seq)) ∧
    (after (.ostlerSelect 0) ordered).fget Fl.roomHeadHead 4095 = 1 := by decide +kernel

theorem test_select_stopped :
    (let s := sets ordered [(Fl.ostCtlRun, 0, 0)]
     s.live = true ∧ s.fget Fl.ostCtlRun 0 = 0 ∧ after (.ostlerSelect 0) s = s) := by decide +kernel

theorem test_completion_record :
    (let o : Op := { mm with phase := .written }
     let s := withOps [o]
     s.op? 5 = some o ∧ o.d.notify = 0 ∧ ¬ (o.specUsed = true ∧ s.readsOpen o ≠ []) ∧ o.status ≠ 0x22 ∧
       (after (.completionRecord 5) s).ops = []) := by decide +kernel

theorem test_nop :
    (let o := small opNop 0
     (withOps [o]).op? 5 = some o ∧ o.d.opcode = opNop ∧ o.d.notify = 0 ∧ (after (.nop 5) (withOps [o])).ops = []) := by
  decide +kernel

theorem test_fence :
    (let o : Op := small opFence 0 (List.replicate 4 0 ++ [1])
     let s := withOps [o]
     let s2 := withOps [o, { mm with seq := 4 }]
     o.d.opcode = opFence ∧ s.fenceMet o = true ∧ (after (.fence 5) s).ops = [] ∧
       s2.op? 5 = some o ∧ s2.fenceMet o = false ∧ after (.fence 5) s2 = s2) := by decide +kernel

theorem test_budget :
    (let s (b : Nat) : State := { withOps [mm] with bell := [(0, b)] }
     let n := 800000 * up.fget Fl.ostToOpDefaultMs 0
     mm.d.budgetMs = 0 ∧ (s 0).op? 5 = some mm ∧ after (.budgetExpire 5) (s (n - 1)) = s (n - 1) ∧
       (after (.budgetExpire 5) (s n)).byteAt 0x8000 = 0x20) := by decide +kernel

theorem witness_table_load :
    (let o := small opTload 0
     let s := withOps [o]
     s.op? 5 = some o ∧ o.d.opcode = opTload ∧ s.runnable o = true ∧ s.readUe o = []) := by decide +kernel

theorem test_table_swap :
    (let o := small opTswap 0
     let s := withOps [o]
     s.op? 5 = some o ∧ o.d.opcode = opTswap ∧ o.phase = .selected ∧ (after (.tableSwap 5) s).tblCur false = 1) := by
  decide +kernel

theorem test_waymark :
    (let o := small opWaymark 0
     let s := withOps [o]
     s.op? 5 = some o ∧ o.d.opcode = opWaymark ∧ s.insts = [] ∧ s.mirroring = false ∧
       (after (.waymark 5) s).fget Fl.detStepStep 0 = 1) := by decide +kernel

theorem test_departure :
    (let s (b : Nat) : State := { withOps [] with ost := { depart := some b } }
     (s 0).stream 0 = true ∧ (s 0).ost.depart = some 0 ∧ (after (.departure 0) (s 0)).ost.depart = none ∧
       after (.departure 0) (s 1) = s 1) := by decide +kernel

/-! ### Witnesses: collectives -/

/-- Words 22 to 28 of a descriptor of a collective in context 7. -/
def collWord (pre post : Nat) : List Word64 := List.replicate 6 0 ++ [BitVec.ofNat 64 (pre + post * 16 + 7 * 2 ^ 16)]

/-- Context 7: this module, node 0, and node 4; `self` is this module's member number. -/
def grouped (self : Nat) (ops : List Op) (insts : List Inst) : State :=
  { sets (withOps ops) [(Fl.grpCfgValid, 7, 1), (Fl.grpStatState, 7, 1), (Fl.grpStatSelf, 7, self)] with
    ctxs := [(7, { members := if self = 0 then [0, 4] else [4, 0] })], insts := insts }

/-- An operation on the group, its instance of a kind, and the module with both. -/
def collOp (op sub pre post : Nat) (ph : Phase := .selected) : Op := { small op sub (collWord pre post) with phase := ph }
def instOf (self : Nat) (o : Op) (kind : Nat) : Inst := (grouped self [o] []).newInst o kind 3
def collS (self : Nat) (o : Op) (kind : Nat) (f : Inst → Inst := id) : State :=
  grouped self [o] [f (instOf self o kind)]

/-- What the rows that start an instance ask for in common. -/
def starts (s : State) (o : Op) (kind : Nat) : Bool :=
  s.live && s.op? 5 == some o && !(instOf 0 o kind).started && s.inst? 7 3 == some (instOf 0 o kind) &&
    (s.instsOf 5).find? (fun i => i.kind == kind) == some (instOf 0 o kind) && s.early.isEmpty && s.turnOf o &&
    (s.opUe o).isEmpty && s.runRoom o

theorem witness_no_replay (o : Op) (k : Nat) : Safety.NoReplay (collS 0 o k) := by
  refine ⟨rfl, fun p => ?_⟩
  cases p <;> exact ⟨rfl, rfl⟩

theorem witness_fused_gathers :
    ∀ r ∈ ([(1, kdGather), (2, kdAllGather)] : List (Nat × Nat)),
      let o := collOp opMatvec 0 r.1 0
      starts (collS 0 o r.2) o r.2 = true ∧ o.d.opcode ≠ opColl ∧ (instOf 0 o r.2).isMsg = false := by decide +kernel

theorem witness_fused_reductions :
    ∀ r ∈ ([(1, kdReduce), (2, kdAllReduce), (3, kdReduceScatter)] : List (Nat × Nat)),
      let o := collOp opMatvec 0 0 r.1 .computed
      starts (collS 0 o r.2) o r.2 = true ∧ o.d.opcode ≠ opColl ∧ o.phase = .computed := by decide +kernel

theorem test_collective :
    (let o := collOp opColl 0 0 2
     let s := collS 0 o kdAllReduce
     starts s o kdAllReduce = true ∧ (s.instsOf 5).head? = some (instOf 0 o kdAllReduce) ∧ s.stream 0 = true ∧
       (∀ j ∈ s.readsOpen o, j.op = 5) ∧
       (after (.collective 5) s).insts.map (fun i => i.started) = [true]) := by decide +kernel

theorem witness_messages_start :
    ∀ r ∈ ([(opBarrier, 0, kdBarrier), (opScalar, 0, kdScalar), (opScalar, 2, kdScalar), (opScalar, 3, kdScalar)] :
        List (Nat × Nat × Nat)),
      let o := collOp r.1 r.2.1 0 0
      let s := collS 0 o r.2.2
      starts s o r.2.2 = true ∧ (instOf 0 o r.2.2).isMsg = true ∧ (s.instsOf 5).head? = some (instOf 0 o r.2.2) ∧
        o.d.opcode = r.1 ∧ o.d.subop = r.2.1 ∧ s.readsOpen o = [] := by decide +kernel

/-- An all-reduce of two posit8 elements under way, and node 4's contribution to it: two ones as packs. -/
def reducing (self : Nat) (f : Inst → Inst := id) : State :=
  let o := collOp opColl 0 0 2 .computed
  collS self o kdAllReduce fun i => f { i with started := true }
def given : List Grp := [{ v := 2 ^ 48 }, { v := 2 ^ 48 }]
def packs : List Byte := given.flatMap (packGroup 128)
def chunkTag0 : Word64 := tagWord0 (grpsResidue given) 3 7 false
def chunkTag1 (stage : Nat) (out : Bool) : Word64 := tagWord1 1 0 stage out false 0 kdAllReduce p8 0

/-- The one instance of a state. -/
def theInst (s : State) : Inst := s.insts.headD { ctx := 0, no := 0, op := 0, kind := 0 }

theorem test_chunk :
    (∀ out : Bool, let s := reducing 0
      let i := theInst s
      s.ctxAt 0 chunkTag0 = some 7 ∧ s.senderNode 7 (chunkTag1 2 out) = 4 ∧ 4 ∉ (mget {} s.ctxs 7).suspects ∧
        s.inst? 7 (tgSeq chunkTag0) = some i ∧ tgEpoch (chunkTag1 2 out) = i.epoch ∧
        tgKind (chunkTag1 2 out) = i.kind ∧ tgFmt (chunkTag1 2 out) = i.fmtCode ∧
        tgChunk (chunkTag1 2 out) < i.chunks ∧ i.started = true ∧ i.hasChunk (chunkTag1 2 out) = false ∧
        i.chunkBad chunkTag0 (chunkTag1 2 out) packs = none) ∧
    (let s := reducing 0
     let i := theInst s
     i.isGather = false ∧ i.takesChunk (s.selfName i) 0 = true ∧ mget none i.result 0 = none ∧
       ((s.stages i).any fun y => y.code == 2) = true) ∧
    mget none (theInst (after (.chunk 0 chunkTag0 (chunkTag1 2 true) packs) (reducing 0))).result 0 = some packs := by
  decide +kernel

theorem test_chunk_ack :
    (let x : Sent := { dst := 4, tag0 := chunkTag0, tag1 := chunkTag1 2 false, data := packs }
     let s := reducing 0 fun i => { i with sent := [x] }
     (∃ i ∈ s.insts, s.inst? i.ctx i.no = some i ∧ x ∈ i.sent) ∧ s.waitTxns = [] ∧
       (after (.chunkAck 4 chunkTag0 (chunkTag1 2 false)) s).insts.map (fun i => i.sent.map fun y => y.acked) = [[true]]) := by
  decide +kernel

/-- The group's root with its own input and node 4's. -/
def addReady : State :=
  after (.chunk 0 chunkTag0 (chunkTag1 2 false) packs)
    (after (.collective 5) { collS 0 (collOp opColl 0 0 2) kdAllReduce with mem := data })

/-- One and two, and the sums of both members. -/
def mine : List Grp := [{ v := 2 ^ 48 }, { v := 2 ^ 49 }]
def sums : List Grp := [{ v := 2 ^ 49 }, { v := 3 * 2 ^ 48 }]

theorem test_stage_add :
    (∃ i ∈ addReady.insts, addReady.inst? 7 3 = some i ∧ i.isMsg = false ∧ i.started = true ∧
      (addReady.addable i 0).map (fun x => (x.1, x.2.2)) = some (0, [mine.flatMap (packGroup 128), packs]) ∧
      ([mine.flatMap (packGroup 128), packs].map fun b => (i.decode (i.chunkElems 0).2 b).getD []) = [mine, given] ∧
      addGroups i.addW (i.chunkElems 0).2 [mine, given] = sums ∧
      sumResidue sums = (([mine, given].map sumResidue).foldl (· + ·) 0) % 65535 ∧
      sumResidue (flipSum i.addW (some (0, 5)) sums) ≠ (([mine, given].map sumResidue).foldl (· + ·) 0) % 65535 ∧
      (addReady.addable i 0).map (fun x => mget 0 i.faults (faultKey 0x02 (addReady.instTag1 i x.2.1.code false false 0))) =
        some 0 ∧ 0 < addReady.fget Fl.colModeResendMax 0) ∧
    (after (.stageAdd 7 3 0 none) addReady).insts.map (fun i => mget none i.result 0) =
      [some (sums.flatMap (packGroup 128))] ∧
    (after (.stageAdd 7 3 0 (some (0, 5))) addReady).fget Fl.colFaultEvtCause 0 = 2 := by decide +kernel

/-- Member 1 with the result it takes. -/
def holder : State := reducing 1 fun i => { i with result := [(0, some packs)] }

theorem test_seal_report_send :
    (∃ i ∈ holder.insts, holder.inst? 7 3 = some i ∧ i.started = true ∧ i.isMsg = false ∧ i.firstK = 0 ∧ i.segs = 1 ∧
      0 ∉ i.reported ∧ holder.segDelivered i 0 = true ∧ i.ctx = 7 ∧ i.no = 3) ∧
    holder.selfIdx 7 ≠ 0 ∧ holder.sealKids 7 = [] ∧
    (after (.sealReportSend 7 3 0) holder).msgs.map (fun x => (x.dst, x.data)) =
      [(4, reportBytes 0 (1, false, crc64 packs))] := by decide +kernel

/-- Tags of messages of KIND 8 from member 0. -/
def sealTag1 (out : Bool) : Word64 := tagWord1 0 0 0 out false 0 kdSeal 0 0
def sealTag0 : Word64 := tagWord0 0 3 7 false

theorem test_seal_report :
    (∃ i ∈ holder.insts, holder.ctxAt 0 sealTag0 = some 7 ∧ holder.senderNode 7 (sealTag1 false) = 4 ∧
      4 ∉ (mget {} holder.ctxs 7).suspects ∧ holder.inst? 7 (tgSeq sealTag0) = some i ∧
      tgEpoch (sealTag1 false) = i.epoch ∧ tgKind (sealTag1 false) = kdSeal ∧ tgOut (sealTag1 false) = false ∧
      i.segs ≤ 2 ^ 20 ∧ (sealTag0, tgPlain (sealTag1 false), 0) ∉ holder.seen) ∧
    (after (.sealReport 0 sealTag0 (sealTag1 false) (reportBytes 0 (1, false, 9))) holder).insts.map
      (fun i => mget none i.reports 0) = [some (1, false, 9)] := by decide +kernel

theorem test_seal :
    (∃ i ∈ holder.insts, tgKind (sealTag1 true) = kdSeal ∧ tgOut (sealTag1 true) = true ∧ 0 ∉ i.sealedSegs ∧
      ∀ k < i.segs, k ≠ 0 → k ∈ i.sealedSegs) ∧
    (after (.sealMsg 0 sealTag0 (sealTag1 true) (sealBytes 0 true 9)) holder).insts = [] ∧
    (let s := reducing 1 fun i => { i with chunks := 257 }
     (∃ i ∈ s.insts, 1 < i.segs ∧ 1 ∉ i.sealedSegs) ∧
       (after (.sealMsg 0 sealTag0 (sealTag1 true) (sealBytes 0 true 9)) s).insts.map (fun i => i.sealedSegs) = [[0]]) := by
  decide +kernel

/-- A barrier or a scalar sum under way. -/
def messaging (self op kind : Nat) : State :=
  collS self (collOp op 0 0 0 .computed) kind fun i => { i with started := true }
def msgTag1 (self stage kind fmt : Nat) (out : Bool) : Word64 := tagWord1 (1 - self) 0 stage out false 0 kind fmt 0

theorem test_barrier_messages :
    (∃ i ∈ (messaging 0 opBarrier kdBarrier).insts,
      (messaging 0 opBarrier kdBarrier).ctxAt 0 sealTag0 = some 7 ∧ i.started = true ∧
        tgKind (msgTag1 0 2 kdBarrier 0 false) = kdBarrier ∧ tgOut (msgTag1 0 2 kdBarrier 0 false) = false ∧
        i.msgOk (msgTag1 0 2 kdBarrier 0 false) [] = true ∧ (messaging 0 opBarrier kdBarrier).seen = []) ∧
    (after (.barrierArrival 0 sealTag0 (msgTag1 0 2 kdBarrier 0 false) []) (messaging 0 opBarrier kdBarrier)).seen.length = 1 ∧
    (∃ i ∈ (messaging 1 opBarrier kdBarrier).insts,
      i.msgOk (msgTag1 1 2 kdBarrier 0 true) (leBytes 8 100 ++ leBytes 8 0) = true) ∧
    (after (.barrierRelease 0 11 sealTag0 (msgTag1 1 2 kdBarrier 0 true) (leBytes 8 100 ++ leBytes 8 0))
      (messaging 1 opBarrier kdBarrier)).fget Fl.grpBellOffset 7 = 100 := by decide +kernel

/-- Two scalar groups as packs, with their header (Table 9.18). -/
def scalars : List Byte := [2, 0, 0x10, 0] ++ leBytes 4 20 ++ packs ++ List.replicate 4 0

theorem test_scalar_messages :
    (∃ i ∈ (messaging 0 opScalar kdScalar).insts,
      i.msgOk (msgTag1 0 2 kdScalar p8 false) scalars = true ∧ tgOut (msgTag1 0 2 kdScalar p8 false) = false ∧
        tgKind (msgTag1 0 2 kdScalar p8 false) = kdScalar) ∧
    (after (.scalarContribution 0 sealTag0 (msgTag1 0 2 kdScalar p8 false) scalars) (messaging 0 opScalar kdScalar)).seen.length = 1 ∧
    (∃ i ∈ (messaging 1 opScalar kdScalar).insts, i.msgOk (msgTag1 1 2 kdScalar p8 true) scalars = true) ∧
    (after (.scalarResult 0 sealTag0 (msgTag1 1 2 kdScalar p8 true) scalars) (messaging 1 opScalar kdScalar)).insts = [] := by
  decide +kernel

theorem test_coll_msg_ack_resend :
    (let x : Sent := { dst := 4, tag0 := sealTag0, tag1 := sealTag1 false, data := [] }
     let s : State := later { holder with msgs := [x] }
     s.msgs[0]? = some x ∧ s.elapsed x.since 16000 = true ∧ (∀ e ∈ s.ctxs, x.dst ∉ e.2.suspects) ∧ s.waitTxns = [] ∧
       (after (.collMsgAck 4 sealTag0 (sealTag1 false)) s).msgs = [] ∧
       (after (.collMsgResend 0) s).msgs.map (fun y => tgResend y.tag1) = [true]) := by decide +kernel

theorem test_member_suspect :
    (let s := later (reducing 0)
     s.fget Fl.grpCfgValid 7 = 1 ∧ s.fget Fl.grpStatState 7 ≠ gsFailed ∧ 1 < (s.members 7).length ∧ 1 ≠ s.selfIdx 7 ∧
       (s.members 7).getD 1 0 ∉ (mget {} s.ctxs 7).suspects ∧ s.stageOver 7 ((s.members 7).getD 1 0) = true ∧
       (after (.memberSuspect 7 1) s).fget Fl.grpStatState 7 = gsSuspect) := by decide +kernel

theorem test_twin_wait_expire :
    (∀ l ∈ [0, 1],
     let s : State := sets (later { grouped 0 [] [] with ctxs := [(7, { members := [0, 4], suspects := [4] })] })
       [(Fl.grpStatState, 7, 2), (Fl.grpCfgOnLoss, 7, l)]
     s.elapsed (mget {} s.ctxs 7).suspectAt (s.limitUs 6) = true ∧ s.fget Fl.grpStatState 7 = gsSuspect ∧ s.fget Fl.grpCfgOnLoss 7 = l ∧
       s.ctxStrict (decide (512 ≤ 7) && s.twin.serves.isSome) = false ∧ s.insts = [] ∧ (s.members 7).Nodup ∧
       (if l = 1 then (after (.twinWaitExpire 7) s).members 7 = [0]
        else (after (.twinWaitExpire 7) s).fget Fl.grpStatState 7 = gsFailed)) := by decide +kernel

/-! ### Witnesses: ports and transactions -/

/-- A transaction from node 1 to this module. -/
def txn (ttype vc : Nat) : Txn := { blankTxn ttype vc 0 with src := 1, tag := 5 }

/-- The module with port 11 ACTIVE, its role, and what the port holds; node 1 may do everything. -/
def linked (role : Nat) (x : Port := {}) : State :=
  { sets clean [(Fl.portCtlRole, 11, role), (Fl.portStatState, 11, 5), (Fl.portCtlPeerSlot, 11, 1)] with
    ports := [(11, x)], acl := [(0, BitVec.ofNat 64 (2 ^ 63 + 0xF * 2 ^ 36 + 1 * 2 ^ 18 + 1))] }

/-- A transaction that has arrived and is not discarded. -/
def here (s : State) (x : Txn) : Bool :=
  s.live && s.arrives 11 x && (s.screen 11 x).isNone && s.takeRx 11 x == { s with ports := (s.takeRx 11 x).ports } &&
    !s.mustWait x && s.aclFor 11 x == s.acl

/-- A MGMT message with a node or a rack update. -/
def mgmt (msg : Nat) (arg1 : Word64) : Txn := { txn ttMgmt 0 with arg0 := BitVec.ofNat 64 msg, arg1 := arg1 }

theorem test_unreach_reach :
    (let s : State := { reducing 0 with ports := [(11, {})] }
     let s := sets s [(Fl.portCtlRole, 11, 2), (Fl.portStatState, 11, 5)]
     let x := mgmt 1 4
     here s x = true ∧ x.ttype = ttMgmt ∧ x.arg0.toNat % 256 = 1 ∧ wbits x.arg1 17 0 ∈ s.members 7 ∧
       (s.members 7).idxOf 4 ≠ s.selfIdx 7 ∧ s.fget Fl.grpCfgValid 7 = 1 ∧ s.fget Fl.grpStatState 7 ≠ gsFailed ∧
       (mget {} (after (.unreach 11 x) s).ctxs 7).suspects = [4] ∧
       (mget {} (after (.reach 11 (mgmt 2 4)) (after (.unreach 11 x) s)).ctxs 7).suspects = [] ∧
       here (after (.unreach 11 x) s) (mgmt 2 4) = true) := by decide +kernel

theorem test_resume :
    (let f (n : Nat) : TxFlit := { seq := n, ftype := 2, vc := 0, used := 1, payload := [3] }
     let x : Port := { resumeDue := true, seq := 2, replay := [f 0, f 1] }
     ([2, 0, 0, 0, 1, 0] : List Byte).head? = some 2 ∧ ((linked 1 x).port 11).resumeDue = true ∧
       (linked 1 x).fget Fl.portStatState 11 = 5 ∧
       ((after (.resumeFlit 11 [2, 0, 0, 0, 1, 0]) (linked 1 x)).port 11).resend = [f 1]) := by decide +kernel

theorem test_probe :
    (let s : State := { linked 1 { probeNo := 255 } with bell := [(0, 2 ^ 20)] }
     (s.port 11).probeAt + 2 ^ 20 ≤ s.now ∧ ((after (.probeSend 11) s).port 11).probe = some (0, 2 ^ 20) ∧
       (linked 1).now < ((linked 1).port 11).probeAt + 2 ^ 20 ∧
       let c := ((after (.flitSend 11) (after (.probeSend 11) s)).port 11).wire
       (c.drop 8).take 16 = [3, 0, 0, 0, 0, 0, 0, 0] ++ leBytes 8 (2 ^ 20)) ∧
    (let p : List Byte := [3, 9, 0, 0, 0, 0, 0, 0] ++ leBytes 8 77
     p.head? = some 3 ∧ p.length = 16 ∧
       ((after (.probeFlit 11 p) (linked 1)).port 11).ctrl.map (fun c => c.take 2) = [[4, 9]]) ∧
    (let p : List Byte := [4, 9, 0, 0, 0, 0, 0, 0] ++ leBytes 8 100 ++ leBytes 8 5000 ++ leBytes 8 5010
     let s : State := { linked 1 { probe := some (9, 100) } with bell := [(0, 150)] }
     p.head? = some 4 ∧ leNat ((p.drop 1).take 1) = 9 ∧ (s.port 11).probe = some (9, 100) ∧ (s.port 11).spoiled = false ∧
       (s.port 11).nakOut = false ∧ (after (.probeReplyFlit 11 p) s).fget Fl.portStatDelay 11 = 20) := by decide +kernel

/-- A READ of 4 bytes at 0x1000, and a DATA flit with it on channel 3. -/
def rdTxn : Txn := { txn ttRead 3 with len := 0, addr := 0x1000 }
def dataFlit (seq : Nat) : List Byte :=
  flitBytes (seq * 2 ^ 52 + 0xFFF * 2 ^ 40 + 3 * 2 ^ 37 + 2 ^ 33 + 32 * 2 ^ 12) (txnBytes rdTxn)

theorem test_flit_receive :
    (let f := dataFlit 4095
     let s := linked 1 { expect := 4095 }
     let h := leNat (f.take 8)
     f.length = 256 ∧ crc64 (f.take 248) = leNat (f.drop 248) ∧ bitsOf h 36 33 = 1 ∧ bitsOf h 63 52 = 4095 ∧
       bitsOf h 32 32 = 0 ∧ ((after (.flitReceive 11 f false) s).port 11).expect = 0 ∧
       ((after (.flitReceive 11 f false) s).port 11).rxq.map (fun e => e.txn) = [rdTxn] ∧
       mget [] ((after (.flitReceive 11 f false) s).port 11).rxFlits 3 = [32] ∧
       (let u := after (.read 11 rdTxn) (after (.flitReceive 11 f false) s)
        (u.port 11).rxq = [] ∧ mget 0 (u.port 11).owed 3 = 1)) := by decide +kernel

theorem test_flit_receive_bad :
    (¬ ((dataFlit 0).set 9 1).take 248 = (dataFlit 0).take 248) ∧
    ((after (.flitReceive 11 ((dataFlit 0).set 9 1) false) (linked 1)).port 11).nakDue = true ∧
    (bitsOf (leNat ((dataFlit 1).take 8)) 63 52 ≠ ((linked 1).port 11).expect ∧
      ((after (.flitReceive 11 (dataFlit 1) false) (linked 1)).port 11).nakOut = true) := by decide +kernel

/-- R245: a group of four codewords of 544 symbols fills 17, 34 and 68 lane words of 16 symbols on 8, 4 and 2 lanes. -/
theorem test_interleave :
    (let g := (List.range 4).map fun w => (List.range 544).map fun j => 1000 * w + j
     (interleave 8 g).map (fun l => l.length) = List.replicate 8 (17 * 16) ∧
     (interleave 4 g).map (fun l => l.length) = List.replicate 4 (34 * 16) ∧
     (interleave 2 g).map (fun l => l.length) = List.replicate 2 (68 * 16) ∧
     ((interleave 4 g).getD 1 []).take 6 = [1, 1001, 2001, 3001, 5, 1005]) := by decide +kernel

/-- Table 10.16, with COUNT, PASSED, PROPOSED and FINAL in their places. -/
theorem test_align_word :
    alignWord 3 5 0xF7 0x0F true / 2 ^ 64 = 0x7A1EC0D30305F70F80000000 ∧ alignWord 3 5 0xF7 0x0F true % 2 ^ 32 = 0 := by
  decide +kernel

theorem test_lane_stream :
    (let x := (linked 1).port 11
     x.fec = {} ∧ ((after (.flitSend 11) (linked 1)).port 11).fec.bits = 2048) ∧
    (let x : FecTx := { msg := 1, bits := 5139, group := [[], [], []], count := 511 }
     let b : List Byte := List.replicate 256 0xFF
     b.length = 256 ∧ x.bits < 5140 ∧ x.msg < 2 ^ x.bits ∧ x.group.length = 3 ∧ x.count < 512 ∧ 5140 ≤ x.bits + 2048) ∧
    (let x := after (.alignDone 11 ⟨0x0F, 0x0F⟩) (porty 3)
     (x.port 11).fec = {} ∧ (x.port 11).align.map Prod.fst = (porty 3).lanesTrained 11) := by decide +kernel

theorem test_flit_send :
    (let f : TxFlit := { seq := 4095, ftype := 1, vc := 7, used := 2, payload := [1, 2] }
     let s := linked 1 { resend := [f] }
     (s.port 11).resend = f :: [] ∧ f.used = f.payload.length ∧
       ((after (.flitSend 11) s).port 11).wire.take 10 =
         leBytes 8 (0xFFF * 2 ^ 52 + 0xFFF * 2 ^ 40 + 7 * 2 ^ 37 + 2 ^ 33 + 2 * 2 ^ 12) ++ [1, 2]) ∧
    ((after (.flitSend 11) (linked 1 { ctrl := [[3]], seq := 4095 })).port 11).seq = 0 ∧
    (let s := linked 1 { txq := [(3, [rdTxn])], credit := [(3, 1)] }
     s.nextVc 11 = some (3, false) ∧ mget 0 ((after (.flitSend 11) s).port 11).credit 3 = 0) ∧
    ((linked 1).nextVc 11 = none ∧ ((after (.flitSend 11) (linked 1)).port 11).seq = 0) := by decide +kernel

theorem test_replays :
    (let f (n : Nat) : TxFlit := { seq := n, ftype := 2, vc := 0, used := 1, payload := [3] }
     let x (n : Nat) : Port := { seq := 2, replay := [f 0, f 1], stalls := n }
     ((x 14).ackTo 0).replay ≠ [] ∧ (x 14).stalls < 15 ∧ (x 14).resend = [] ∧
       ((after (.nakReceive 11 0 1) (linked 1 (x 14))).port 11).resend = [f 1] ∧
       (later (linked 1 (x 14))).ackLate 11 = true ∧
       (after (.ackTimeout 11) (later (linked 1 (x 14)))).fget Fl.portStatState 11 = 5 ∧
       (after (.ackTimeout 11) (later (linked 1 (x 15)))).fget Fl.portStatState 11 = 6) ∧
    (after (.fecUncorrectable 11) (linked 1 { badCw := 2 })).fget Fl.portStatState 11 = 5 ∧
    (after (.fecUncorrectable 11) (linked 1 { badCw := 3 })).fget Fl.portStatState 11 = 6 := by decide +kernel

theorem witness_frames :
    (rdTxn.wf = true ∧ rdTxn.len = rdTxn.data.length ∧ rdTxn.vc = 3) ∧
    nextTxn 3 (txnBytes rdTxn ++ [7]) = some (rdTxn, [7]) := by decide +kernel

/-- A READ and a WRITE of a peer, with ONCE or without. -/
def rd4 (once : Bool := false) : Txn := { txn ttRead 3 with len := 2, addr := 0x1000, once := once }
def wr4 (once : Bool := false) : Txn := { txn ttWrite 4 with len := 2, addr := 0xBFFFFFFFFE, once := once, data := [1, 2] }

theorem test_peer_read :
    (let s : State := { linked 1 with mem := data }
     here s (rd4) = true ∧ rd4.dst = s.node ∧ s.hasRight 0 .read 1 = true ∧ inPanel 0x1000 = false ∧
       s.populated 0x1000 2 = true ∧ s.hbm.ueLines = [] ∧ { s with acl := [] }.hasRight 0 .read 1 = false ∧
       here { s with acl := [] } rd4 = true ∧
       (mget [] ((after (.read 11 rd4) s).port 11).txq 4).map (fun x => x.data) = [[0x40, 0x48]]) := by decide +kernel

theorem test_peer_write :
    (let s := linked 1
     here s wr4 = true ∧ s.hasRight 0 .write 1 = true ∧ inPanel wr4.addr = false ∧
       s.populated wr4.addr wr4.data.length = true ∧ { s with acl := [] }.hasRight 0 .write 1 = false ∧
       here { s with acl := [] } wr4 = true ∧ (after (.write 11 wr4) s).byteAt 0xBFFFFFFFFF = 2) := by decide +kernel

theorem test_once_cache :
    (∀ x ∈ [rd4 true, wr4 true, { txn ttWorkOrder 5 with len := 256, once := true, data := List.replicate 256 0 }],
      let s : State := { linked 1 with once := [(1, 5, replyTo x ttWriteAck 4 rsOk [])] }
      here s x = true ∧ s.answersFor x.dst = true ∧ x.once = true ∧ (s.onceHit x.src x.tag).isSome = true) ∧
    (let s : State := { up with once := [(1, 5, rd4), (1, 6, rd4)] }
     (after (.onceCacheExpiry 1 5) s).once.length = 1) := by decide +kernel

/-- A work order for room 4095, which takes them from Torwald ports. -/
def order : Txn :=
  { txn ttWorkOrder 5 with len := 256, once := true, arg0 := 4095, data := List.replicate 256 0x1F }
def orderly (enable tail : Nat) : State :=
  { sets (linked 1) [(Fl.roomBaseBase, 4095, 4096), (Fl.roomSizeLog2, 4095, 4), (Fl.roomAttrEnable, 4095, enable),
      (Fl.roomAttrSrc, 4095, 1), (Fl.roomTailTail, 4095, tail)] with
    acl := [(0, BitVec.ofNat 64 (2 ^ 63 + 0xF * 2 ^ 36 + 1 * 2 ^ 18 + 1))] }

theorem test_work_order :
    (∀ e ∈ [(0, 0), (1, 15), (1, 16)], let s := orderly e.1 e.2
      here s order = true ∧ s.onceHit 1 5 = none ∧ s.once.length < 65536 ∧ s.twin.serves = none ∧ order.data.length = 256 ∧
        s.fget Fl.roomAttrEnable 4095 = e.1 ∧ s.fget Fl.roomAttrSrc 4095 = 1 ∧ s.fget Fl.glbNodeRole 0 ≠ 1 ∧
        s.hasRight (s.fget Fl.roomAttrAcl 4095) .order 1 = true ∧ s.ringSlots 4095 = 16 ∧
        s.fget Fl.waymarkCtlLogEn 0 = 0 ∧ s.populated (s.ringBase 4095 + 256 * (e.2 % 16)) 256 = true) ∧
    (after (.workOrder 11 order) (orderly 1 15)).fget Fl.roomTailTail 4095 = 16 ∧
    (after (.workOrder 11 order) (orderly 1 16)).mem = [] := by decide +kernel

/-- A request of this module to node 1 of each kind. -/
def asked (ttype : Nat) (again : Bool := false) (who : Waiter := .order) : Req :=
  { txn := { blankTxn ttype 4 1 with tag := 5 }, stream := 0, node := 1, port := 11, via := 11, again := again, who := who }

theorem test_responses :
    (∀ r ∈ ([(ttReadRsp, ttRead), (ttWriteAck, ttWrite), (ttWorkAck, ttWorkOrder)] : List (Nat × Nat)),
      let x := txn r.1 (if r.1 = ttWorkAck then 5 else 4)
      let s : State := { linked 1 with reqs := [asked r.2] }
      here s x = true ∧ s.waitTxns = [] ∧ x.ttype = r.1) ∧
    (after (.writeAck 11 (txn ttWriteAck 4)) { linked 1 with reqs := [asked ttWrite, asked ttRead] }).reqs = [asked ttRead] :=
  by decide +kernel

theorem test_remote_timeout :
    (∀ w ∈ [Waiter.order, .alias_, .op 3], let s : State := later { linked 1 with reqs := [asked ttWrite false w] }
      s.reqs.find? (fun r => r.txn.tag == 5 && s.overdue r) = some (asked ttWrite false w) ∧
        s.routes (s.aliased 1) 0 4 false = 11 :: [] ∧
        (after (.remoteTimeout 5) s).reqs = [{ asked ttWrite true w with since := 2 ^ 40 }]) ∧
    (let s : State := later { linked 1 with reqs := [asked ttWrite true] }
     s.reqs.find? (fun r => r.txn.tag == 5 && s.overdue r) = some (asked ttWrite true) ∧ s.waitTxns = [] ∧
       (after (.remoteTimeout 5) s).reqs = []) := by decide +kernel

theorem test_rack_update :
    (let x := mgmt 3 (BitVec.ofNat 64 (0xABC * 2 ^ 16 + 4095))
     let s := sets (linked 2) [(Fl.routeCtlRackTbl, 0, 0xFE00000000)]
     here s x = true ∧ x.arg0.toNat % 256 = 3 ∧ s.waitTxns = [] ∧
       inCommons (s.fget Fl.routeCtlRackTbl 0 + 2 * wbits x.arg1 11 0) 2 = true ∧
       (after (.rackUpdate 11 x) s).peekNat (0xFE00000000 + 8190) 2 = 0xABC) := by decide +kernel

/-! ### Witnesses: memory and watchdogs -/

theorem test_line_code :
    ∀ p ∈ [0, 63, 64, 71], rsDecode (rsSyndromes ((List.replicate 64 0 ++ rsCheck (List.replicate 64 0)).set p 0xFF)) =
      some [(p, 0xFF)] := by decide +kernel

theorem test_hbm_line_read :
    (0xBFFFFFFFFF < clean.hbmTop ∧ clean.hbm.ueLines = [] ∧
      rsDecode (rsSyndromes (clean.lineWord (0xBFFFFFFFFF / 64) (symErrs []))) = some []) ∧
    (let s : State := sets clean [(Fl.memCeEvtCount, 0, 2 ^ 32 - 1), (Fl.memPprCeThresh, 0, 0)]
     pcStack (s.granuleOf 0).1 = 0 ∧ rsDecode (rsSyndromes (s.lineWord 0 (symErrs [(63, 6)]))) = some [(63, 6)] ∧
       s.hbm.refused = [] ∧ symErrs [(63, 6)] = [(63, 6)] ∧
       (after (.hbmLineRead 0 0 noSeq [(63, 6)]) s).fget Fl.memCeEvtCount 0 = 0) := by
  decide +kernel

/-- A module with an uncorrectable line at 0x2000 that an operation reads. -/
def rotten : State :=
  { withOps [{ mm with inArray := true, idem := true }] with hbm := { ueLines := [0x80] }, tiles := [(1, full)] }

theorem test_hbm_ue :
    (rotten.live = true ∧ 0x2000 < rotten.hbmTop ∧ 0x2000 / 64 ∈ rotten.hbm.ueLines ∧
      mget 0 rotten.hbm.pcUe (rotten.granuleOf 0x2000).1 + 1 ≠
        rotten.fget Fl.memCtlUeRetire (pcStack (rotten.granuleOf 0x2000).1) ∧
      ∀ o ∈ rotten.ops, o.again = true) ∧
    (after (.hbmLineRead 0x2000 3 5 []) rotten).op? 5 = some (({ mm with inArray := true, idem := true } : Op).fresh) ∧
    (after (.hbmLineRead 0x2000 2 noSeq []) rotten).ops = rotten.ops := by decide +kernel

theorem test_patrol_scrub :
    (let s := sets clean [(Fl.memScrubEnable, 7, 1), (Fl.memScrubPos, 7, 0x17FFFFF)]
     s.fget Fl.memScrubEnable 7 = 1 ∧ s.ops = [] ∧ (s.scrubNext 7).fget Fl.memScrubPos 7 = 0) ∧
    (let s := sets clean [(Fl.memScrubEnable, 7, 0)]
     s.fget Fl.memScrubEnable 7 = 0 ∧ after (.patrolScrub 7 []) s = s) := by decide +kernel

theorem test_row_repair :
    (let s : State := { up with hbm := { wanted := [(511, 9)] } }
     (511, 9) ∈ s.hbm.wanted ∧ (after (.rowRepair 511 9 false) s).hbm.repaired = [(511, 9)] ∧
       (after (.rowRepair 511 9 true) s).fget Fl.memPprFailed (pcStack 511) = 1) := by decide +kernel

theorem test_sram_scrub :
    (after (.sramScrub (.panel 4223 0) true .scrub) up).fget Fl.errEvtClass 0 = 2 ∧
    (rotten.op? 5 = some { mm with inArray := true, idem := true } ∧
      (after (.sramScrub (.table 0 true 0) true (.operation 5)) rotten).op? 5 =
        some (({ mm with inArray := true, idem := true } : Op).fresh)) := by decide +kernel

/-- A request of pseudo-channel 511 has timed out once. -/
def late : State := { up with hbm := { pcLate := [(511, 0x12344)] } }

theorem test_retirement :
    (511 ∉ late.retiredPcs ∧ (511, 0x12344) ∈ late.hbm.pcLate ∧ late.fget Fl.memRetireN 0 < 4 ∧
      (511, 0x12345) ∉ late.hbm.pcLate) ∧
    (after (.hbmTransactionTimeout 511 0x12344 2 noSeq) late).hbmTop = 0xC000000000 - 0x60000000 ∧
    (after (.hbmTransactionTimeout 511 0x12345 2 noSeq) late).hbm.pcLate.length = 2 := by decide +kernel

/-- The module a minute after boot lock, with no kick of a watchdog since. -/
def idleLong : State := { locked with bell := [(0, 48000000000)] }

theorem test_hart_watchdog :
    (idleLong.live = true ∧ idleLong.hartDue 0 = true ∧ idleLong.twice 0 = false ∧ idleLong.hartDue 15 = true ∧
      15 ≠ idleLong.principalHart) ∧
    ((after (.hartWdogExpire 15) idleLong).hart 15).restarts = 1 ∧
    (let s : State := { idleLong with harts := [(0, { expired := some 47999999999 })] }
     s.hartDue 0 = true ∧ s.twice 0 = true ∧ 0 = s.principalHart ∧
       (List.range 4).find? (fun q => s.fget Fl.glbQmaskPrincipal 0 < q && s.complexUp q) = some 1 ∧
       (after (.hartWdogExpire 0) s).fget Fl.glbQmaskPrincipal 0 = 1) := by decide +kernel

theorem test_module_watchdog :
    (idleLong.bootLocked = true ∧ idleLong.complexReset = false ∧
      idleLong.moduleKick + 800 * idleLong.fget Fl.toLimitLimit 9 ≤ idleLong.now ∧
      (idleLong.moduleExpired.filter fun b => idleLong.now ≤ b + 3600 * 800000000).length < 2) ∧
    (after .moduleWdogExpire idleLong).complexReset = true ∧
    (let s : State := { idleLong with moduleExpired := [1, 2] }
     2 ≤ (s.moduleExpired.filter fun b => s.now ≤ b + 3600 * 800000000).length ∧
       (after .moduleWdogExpire s).fget Fl.secBootStatLock 0 = 0) := by decide +kernel

/-- The control complex in reset, its firmware in slot 0. -/
def held : State := { loaded with complexReset := true }

theorem witness_complex_restart :
    (held.live = true ∧ held.complexReset = true ∧
      held.imageOk (held.slotImage (held.fget Fl.secBootStatSlot 0)) true = true) ∧
    (held.imageOk (held.slotImage (held.fget Fl.secBootStatSlot 0)) false = false ∧
      (List.range 4).find? (fun q => held.fget Fl.glbQmaskPrincipal 0 < q && held.complexUp q) = some 1) := by
  have e : held.fget Fl.secBootStatSlot 0 = 0 := by decide +kernel
  obtain ⟨r, hr⟩ := slotImage_loaded
  have h : held.slotImage 0 = header ++ r := hr
  refine ⟨⟨rfl, rfl, ?_⟩, ?_, by decide +kernel⟩
  · rw [e, h]; exact imageOk_loaded r
  · simp [State.imageOk]

/-! ### Witnesses: twins, the sideband, the TAP -/

/-- The module with node 1 as its twin on port 11, in a state of the pair. -/
def paired (st : Nat) (tw : Twin := {}) : State :=
  { sets (linked 1) [(Fl.twnCtlEnable, 0, 1), (Fl.twnStateSelf, 0, st), (Fl.twnPartnerNode, 0, 1),
      (Fl.twnCtlResBaseGb, 0, 767), (Fl.twnReserveGib, 0, 1), (Fl.portCtlTwin, 11, 1)] with twin := tw }

/-- A MIRROR transaction of a kind of Table 14.14. -/
def mirror (kind : Nat) (arg0 : Nat := 0) (data : List Byte := []) (addr : Nat := 0) : Txn :=
  { txn ttMirror 6 with arg0 := BitVec.ofNat 64 arg0, arg1 := BitVec.ofNat 64 kind, data := data, len := data.length, addr := addr }

theorem test_twin_sends :
    ((later (paired twMirroring)).live = true ∧ (later (paired twMirroring)).fget Fl.twnCtlEnable 0 = 1 ∧
      (later (paired twMirroring)).twinSelf ≠ twFencing ∧ (later (paired twMirroring)).twinSelf ≠ twReplaying ∧
      (later (paired twMirroring)).beatDue = true ∧ (after .heartbeatSend (paired twMirroring)).twin.unacked = [] ∧
      (after .heartbeatSend (later (paired twMirroring))).twin.unacked.map (fun x => (x.1.arg1, x.1.data)) =
        [(4, leBytes 8 ((paired twMirroring).rd .twnState 0).toNat)]) ∧
    (let s := paired twMirroring { dirty := [7] }
     s.mirroring = true ∧ 7 ∈ s.twin.dirty) := by decide +kernel

theorem test_mirror_granule :
    (let s := paired twMirroring { freshDir := [(0xFFFFFF, 16384)], sealedDir := [(3, 1)] }
     let x := mirror 1 0 [1, 2] 0xFFFFFFFFFE
     here s x = true ∧ x.ttype = ttMirror ∧ s.answersFor x.dst = true ∧ x.once = false ∧ s.fromTwin x = true ∧
       s.twinSelf ≠ twSuspect ∧ wbits x.arg1 7 0 = 1 ∧ x.addr % 65536 + x.data.length ≤ 65536 ∧
       mget 0 s.twin.freshDir (x.addr / 65536) = 16383 + 1 ∧ s.resBase + (16383 + 1) * 65536 ≤ 0xC000000000 ∧
       (after (.mirrorGranule 11 x) s).byteAt 0xBFFFFFFFFF = 2) ∧
    (let s := paired twMirroring { shadowStopped := true }
     here s (mirror 1 0 [1] 5) = true ∧ s.fromTwin (mirror 1 0 [1] 5) = true ∧
       (after (.mirrorGranule 11 (mirror 1 0 [1] 5)) s).mem = []) := by decide +kernel

theorem test_mirror_messages :
    (∀ k ∈ [2, 3, 4], let s := paired twMirroring
      here s (mirror k) = true ∧ s.fromTwin (mirror k) = true ∧ wbits (mirror k).arg1 7 0 = k ∧
        s.twinSelf ≠ twExcluded ∧ s.twinSelf ≠ twSuspect ∧ s.twin.shadowStopped = false) ∧
    (after (.mirrorConfig 11 (mirror 2 0 (leBytes 8 0x99) 0x108)) (paired twMirroring)).twin.freshCfg = [(0x108, some 0x99)] ∧
    ((after (.mirrorSeal 11 (mirror 3 (2 ^ 48 - 1))) (paired twMirroring { freshDir := [(3, 2)], sealedDir := [(4, 1)] })).twin.sealedDir
      = [(3, 2), (4, 1)]) ∧
    (after (.heartbeat 11 (mirror 4 0 (leBytes 8 (2 ^ 61)))) (paired twMirroring)).fget Fl.twnStatePartner 0 = 2 := by
  decide +kernel

theorem test_mirror_ack :
    (let q : Req := { asked ttMirror false .mirror with txn := { mirror 3 9 with dst := 1, tag := 5 } }
     let s : State := { paired twPairing { sealWait := some 5 } with reqs := [q], ops := [mm] }
     let x := txn ttMirrorAck 6
     here s x = true ∧ s.reqs.find? (fun r => r.answers ttMirror x) = some q ∧ q.who = .mirror ∧
       wbits q.txn.arg1 7 0 = 3 ∧ x.status = rsOk ∧ s.twin.sealWait.bind s.op? = some mm ∧ mm.partner = false ∧
       (after (.mirrorAck 11 x) s).fget Fl.twnStateSealed 0 = 9 ∧ (after (.mirrorAck 11 x) s).twinSelf = twMirroring) := by
  decide +kernel

/-- A spare on port 11, whose reserve lies at the top of HBM. -/
def spare : State :=
  sets (linked 1) [(Fl.glbNodeRole, 0, 1), (Fl.twnCtlResBaseGb, 0, 767), (Fl.twnReserveGib, 0, 1)]

theorem test_adopt :
    (let x := mirror 5 (2 ^ 18 + 9)
     here spare x = true ∧ spare.answersFor x.dst = true ∧ spare.fget Fl.glbNodeRole 0 = 1 ∧ spare.reserveFits = true ∧
       spare.hasRight 0 .regs (wbits x.arg0 35 18) = true ∧
       (after (.adopt 11 x) spare).fget Fl.glbNodeNode 0 = 9 ∧
       (linked 1).fget Fl.glbNodeRole 0 ≠ 1 ∧ here (linked 1) x = true ∧
       (after (.adopt 11 x) (linked 1)).fget Fl.glbNodeNode 0 = 0) ∧
    (let s : State := later { sets up [(Fl.twnAdoptGo, 0, 1)] with reqs := [asked ttMirror false .adopt] }
     s.waitTxns = [] ∧ s.fget Fl.twnAdoptGo 0 = 1 ∧ s.elapsed s.twin.adoptAt (s.limitUs 6) = true ∧ (after .adoptTimeout s).reqs = []) := by decide +kernel

theorem test_suspicion :
    (∀ st ∈ [twPairing, twMirroring, twUnshadowed],
      let s : State := { paired st with bell := [(0, 800 * (paired st).fget Fl.toLimitLimit 10)] }
      s.twin.failed = false ∧ s.twin.lastHeard + 800 * s.fget Fl.toLimitLimit 10 ≤ s.now ∧
        (after .partnerSilence s).twinSelf = twSuspect ∧
        (paired st).now < (paired st).twin.lastHeard + 800 * (paired st).fget Fl.toLimitLimit 10) ∧
    (∀ h ∈ [true, false], let s : State := { paired twSuspect { probing := true, hasSealed := h } with bell := [(0, 16000000)] }
      s.live = true ∧ s.twin.since + 16000000 ≤ s.now ∧ (paired twSuspect).now < (paired twSuspect).twin.since + 16000000 ∧ s.twinSelf = twSuspect ∧ s.twin.probing = true ∧
        (after .partnerFailed s).twinSelf = (if h then twFencing else twUnshadowed) ∧
        (after .partnerFailed s).fget Fl.portCtlEnable 11 = 0) := by decide +kernel

theorem test_takeover :
    (let s : State := { paired twFencing { serves := some 1 } with bell := [(0, 240000000)] }
     s.twin.since + 240000000 ≤ s.now ∧ (after .fencingEnd s).twinSelf = twReplaying) ∧
    (paired twReplaying { serves := some 1 }).replayedAll = true ∧
    ((after .partnerReplayEnd (paired twReplaying { serves := some 1 })).twinSelf = twServingBoth) ∧
    (let s := paired twServingBoth { serves := some 1 }
     s.ops = [] ∧ s.twin.serves.isSome = true ∧ s.ctxGoesOn = false ∧ (after .contextSwitch s).twin.running = true) ∧
    (let s : State := { paired twServingBoth { serves := some 1, newTwin := some 4, newSealed := true } with
                        ops := [{ mm with partner := true }] }
     s.twinSelf = twServingBoth ∧ s.twin.newTwin.isSome = true ∧ s.twin.newSealed = true ∧
       (after (.handBack 4) s).ops = [] ∧ (after (.handBack 4) s).twinSelf = twMirroring) := by decide +kernel

/-- The last message sent. -/
def said (c : Instr) (s : State) : List Byte := (after c s).mgmt.out.getLastD []

theorem test_management :
    (up.powered = true ∧ up.fget Fl.mgtI3cDa 0 = 0 ∧ (after (.entdaa 0x7E) up).fget Fl.mgtI3cDa 0 = 0x7E) ∧
    ((5 : BitVec 8) ≠ 0 ∧ (5 : BitVec 8) ≠ 0xFF ∧ said (.setEndpointId 5) up = [0, 0, 1, 0, 0, 5, 0]) ∧
    ((1 : BitVec 8) ∈ mctpTypes ∧ (2 : BitVec 8) ∉ mctpTypes) ∧ (0x0001 ∈ sensorIds ∧ 0x0004 ∉ sensorIds) ∧
    said (.getSensorReading 0x0001) up = [1, 0, 2, 0x11, 0, 5, 0, 0, 1, 1, 1, 0, 0, 0, 0] ∧
    said (.getPdr 20) up = [1, 0, 2, 0x51, 0x82] := by decide +kernel

theorem test_vendor :
    (Reg.glbLife.place.2.1 = 1 ∧ said (.readReg 7 (Reg.off .glbLife 0)) up =
      [0x7F, 0, 0, 0, 0, 2, 1, 7, 0, 0] ++ leBytes 8 (up.regRead .glbLife 0).toNat) ∧
    (0xFFFFF8 % 8 = 0 ∧ regAt 0xFFFFF8 = none ∧ said (.readReg 7 0xFFFFF8) up = [0x7F, 0, 0, 0, 0, 2, 1, 7, 0, 4, 2]) ∧
    (up.fwServes = false ∧ up.romServes = false ∧ locked.fwServes = true ∧ locked.mgmt.nonce = none ∧
      (let s := sets up [(Fl.secBootStatStage, 0, sgRecovery)]
       s.romServes = true ∧ said (.flashRead 1 0x7FFFFFF 1) s = [0x7F, 0, 0, 0, 0, 0x10, 1, 1, 0, 0, 0xFF])) ∧
    (locked.flashOpen 0x4FFFFFF = true ∧ locked.flashOpen 0x2FFFF = false ∧ locked.flashByte 0x4FFFFFF = 0xFF ∧
      (after (.flashWrite 1 0x4FFFFFF [9]) locked).flashByte 0x4FFFFFF = 9) ∧
    (locked.header.gen + 1 < 2 ^ 32 ∧ (after (.bootSelect 1 1 0 3 0xFF) locked).header.tries = 3) ∧
    (let s := after (.attest 9 (List.replicate 32 1)) locked
     (List.replicate 32 (1 : Byte)).length = 32 ∧ s.mgmt.nonce = some ((9 : BitVec 16).toNat, List.replicate 32 1) ∧
       s.live = true) := by decide +kernel

/-- The module in a lifecycle state. -/
def inLife (n : Nat) : State := sets up [(Fl.glbLifeState, 0, n)]

theorem test_tap :
    ((inLife 7).power.phase = .on ∧ (inLife 7).scanAllowed = true ∧ (inLife 7).debugAllowed = true ∧
      (inLife 3).scanAllowed = false ∧ (inLife 3).debugAllowed = false ∧
      (inLife 7).present (.hart (inLife 7).principalHart) = true) ∧
    (after .extest (inLife 7)).halted = true ∧ (after .extest (inLife 3)).halted = false ∧
    ((after (.dbgHart 15 .halt) (inLife 7)).hart 15).halted = true ∧
    (after (.dbgReg (Reg.off .ostClassWt 7) (some (2 ^ 63 + 1))) (inLife 7)).fget Fl.ostClassWtStrict 7 = 1 := by
  decide +kernel

theorem test_boot_lock :
    (ready.live = true ∧ ready.bootReady = true) ∧
    (Fl.toLimitLimit ∈ Fl.toLimitLimit.reg.fields ∧ Fl.toLimitLimit.acc = .rwl ∧ 10 < Fl.toLimitLimit.reg.place.2.1 ∧
      locked.fget Fl.secBootStatLock 0 = 1 ∧
      (after (.registerWrite (.hart 0) (Reg.off .toLimit 10) 8 77) locked).fget Fl.toLimitLimit 10 =
        locked.fget Fl.toLimitLimit 10) := by decide +kernel

/-! ### Operands out of range -/

/-- Every check of the operands refuses a command with that operand one beyond its range. -/
theorem test_ill_formed :
    (∀ c ∈ ([.pwrGood (some 16), .railShort 16, .pllLost (.fabric 4), .pllLost (.memory 4), .pllLost (.control 4),
        .pllLost (.serdes 4), .thermalTrip 16 0, .bellCheckSend 4, .bellCheckArrive 4 0 0, .bellCheckArrive 0 4 0,
        .bellCheckMissing 4 0, .bellCheckMissing 0 4, .holdDecision (.bellows 4224 true 0 0 0),
        .holdDecision (.bellows 0 true 64 0 0), .holdDecision (.bellows 0 true 0 65 0), .holdDecision (.bellows 0 true 0 0 65),
        .holdDecision (.quench 4224 true), .holdDecision (.tableBuild 4224),
        .holdDecision (.relay 4224), .holdDecision (.finisher 4), .holdDecision (.saddlebag 4 true),
        .holdDecision (.commons 4), .holdDecision (.collective 4 true), .holdCycle 4, .stepIssue 4224,
        .bellowsFill 4224 true 0, .bellowsFill 0 true 64, .frontEnter (2 ^ 48) 0 0, .frontEnter 0 4096 0, .tongWaitEnd 4096,
        .quenchBlock 4224 [], .relayArrive 4224 0, .relayArrive 0 4096, .finisherRow 4 0 0, .finisherRow 0 (2 ^ 48) 0] :
        List Instr), c.wf = false) ∧
    (∀ c ∈ ([.saddlebagLaneTerms 4224, .productTableBuild 4224, .preemptDecision 4, .preemptSave (2 ^ 48),
        .holdWatchdogExpire 4, .bellowsFetchTimeout 4224 0, .bellowsFetchTimeout 0 (2 ^ 40), .arrProveStart (.hart 16) 0,
        .provingRunEnd 4 [] [], .provingRunEnd 0 [] [⟨4224, []⟩], .provingRunEnd 0 [.relay 32 1] [], .arrModeWrite (.hart 16) 0,
        .glbQmaskWrite (.peer (2 ^ 18) 0) 0, .tileRepairWrite (.peer 0 12) 0 0, .tileRepairWrite .rom 4224 0,
        .tileStateWrite (.hart 16) 0 0, .tileStateWrite .rom 4224 0, .arrThrottleWrite (.hart 16) 0, .ostlerSelect 4,
        .departure 4] : List Instr), c.wf = false) ∧
    (∀ f ∈ ([.completionRecord, .budgetExpire, .matmul, .matvec, .elemwiseUnary, .elemwiseAdd, .elemwiseSub, .elemwiseMul,
        .elemwiseFma, .elemwiseMax, .elemwiseMin, .dropout, .reduceSum, .reduceSumsq, .reduceMax, .reduceMin, .reduceVar,
        .normLayer, .normRms, .softmax, .attend, .quant, .fold, .cbBuild, .sbBuild, .gather, .scatterAcc, .rngUniform,
        .rngNormal, .rngBernoulli, .copy, .collective, .fusedGather, .fusedAllGather, .fusedReduce, .fusedAllReduce,
        .fusedReduceScatter, .barrier, .scalarReduceSum, .scalarReduceMax, .scalarReduceMin, .tableLoad, .tableSwap,
        .waymark, .fence, .nop] : List (Nat → Instr)), (f (2 ^ 48)).wf = false ∧ (f (2 ^ 48 - 1)).wf = true) := by
  decide +kernel

theorem test_ill_formed_writes :
    (∀ c ∈ ([.roomDoorbell (.hart 16) 0 0, .roomDoorbell .rom 4096 0, .roomConfigWrite .rom 4096 true 0,
        .roomEnableWrite .rom 4096 0, .trapClr (.hart 16), .aclLoad (.hart 16), .looseSwap (.hart 16),
        .errLogBaseWrite (.hart 16) 0, .eventAck .rom (2 ^ 32) 0, .hartKick 16 0, .moduleKick (.hart 16),
        .detWrite .rom (2 ^ 32) 0, .waymarkCtlWrite (.hart 16) 0, .grpCfgWrite .rom 1024 0, .portEnableWrite .rom 12 true,
        .portRetrain .rom 12, .pwrCapWrite (.hart 16) 0, .twnAdopt (.hart 16) 0, .lifeReqGo (.hart 16),
        .registerWrite .rom (2 ^ 32) 8 0, .registerWrite .rom 0 3 0] : List Instr), c.wf = false) ∧
    (∀ c ∈ ([.chunk (2 ^ 18) 0 0 [], .chunkAck (2 ^ 18) 0 0, .stageAdd 1024 0 0 none, .stageAdd 0 (2 ^ 32) 0 none,
        .stageAdd 0 0 (2 ^ 20) none, .sealReportSend 1024 0 0, .sealReportSend 0 (2 ^ 32) 0, .sealReportSend 0 0 (2 ^ 16),
        .memberSuspect 1024 0, .memberSuspect 0 (2 ^ 18), .twinWaitExpire 1024] : List Instr), c.wf = false) := by
  decide +kernel

theorem test_ill_formed_links :
    (∀ c ∈ ([.portDetect 12, .equaliseDone 12 0, .alignDone 12 ⟨0, 0⟩, .alignTimeout 12, .configFlit 12 [],
        .configFlit 0 (List.replicate 241 0), .resumeFlit 12 [], .probeSend 12, .probeFlit 12 [], .probeReplyFlit 12 [],
        .flitReceive 12 (List.replicate 256 0) false, .flitReceive 0 [] false, .nakReceive 12 0 0, .nakReceive 0 4096 0,
        .ackTimeout 12, .retrainTimeout 12, .fecUncorrectable 12, .laneWeak 12 ⟨0, 1, 0⟩, .laneWeak 0 ⟨8, 1, 0⟩, .laneWeak 0 ⟨0, 0, 0⟩, .laneWeak 0 ⟨0, 1, 16⟩, .flitSend 12,
        .remoteTimeout 65536, .onceCacheExpiry (2 ^ 18) 0, .onceCacheExpiry 0 65536] : List Instr), c.wf = false) ∧
    (∀ f ∈ ([.read, .readRsp, .write, .writeAck, .workOrder, .workAck, .mirrorGranule, .mirrorConfig, .mirrorSeal,
        .heartbeat, .adopt, .mirrorAck, .unreach, .reach, .rackUpdate] : List (Nat → Txn → Instr)),
      (f 12 rdTxn).wf = false ∧ (f 11 rdTxn).wf = true ∧ (f 11 { rdTxn with tag := 65536 }).wf = false) ∧
    (∀ t ∈ ([{ rdTxn with ttype := 256 }, { rdTxn with vc := 8 }, { rdTxn with dst := 2 ^ 18 },
        { rdTxn with src := 2 ^ 18 }, { rdTxn with len := 2 ^ 13 }, { rdTxn with status := 256 },
        { rdTxn with addr := 2 ^ 40 }] : List Txn), t.wf = false) ∧
    (∀ c ∈ ([.hbmLineRead (2 ^ 40) 0 0 [], .hbmLineRead 0 4 0 [], .hbmLineRead 0 0 (2 ^ 48) [], .patrolScrub 8 [],
        .rowRepair 512 0 false, .refresh 8, .hbmTransactionTimeout 512 0 0 0, .hbmTransactionTimeout 0 (2 ^ 40) 0 0,
        .exactAdd (2 ^ 48) 0, .sramScrub (.commons (2 ^ 40) true) true .scrub, .sramScrub (.panel 4224 0) true .scrub,
        .sramScrub (.panel 0 (2 ^ 19)) true .scrub, .sramScrub (.table 4224 true 0) true .scrub,
        .sramScrub (.table 0 true (2 ^ 14)) true .scrub, .hartWdogExpire 16, .mirrorSend (2 ^ 24), .handBack (2 ^ 18),
        .getSensorReading 65536, .getStateSensorReadings 65536, .readReg 0 (2 ^ 32), .flashRead 0 (2 ^ 32) 0,
        .flashRead 0 0 1025, .flashErase 0 (2 ^ 32), .flashWrite 0 0 (List.replicate 1025 0), .attest 0 [], .dbgHart 16 .halt,
        .dbgHart 0 (.inspect (.x 32)), .dbgHart 0 (.inspect (.f 32)), .dbgHart 0 (.inspect (.csr 4096)),
        .dbgHart 0 (.step (.compute 32 0)), .dbgHart 0 (.step (.computeF 32 0)), .dbgHart 0 (.step (.jump 32 0)),
        .dbgHart 0 (.step (.load 32 false true 8 0 0)), .dbgHart 0 (.step (.load 0 false true 3 0 0)),
        .dbgHart 0 (.step (.store 0 false 8 32 0)), .dbgHart 0 (.step (.csr 4096 0 none)),
        .dbgReg (2 ^ 32) none] : List Instr), c.wf = false) ∧
    (∀ d ∈ ([.stuck (.panel 64 0 0) 0 0, .stuck (.panel 0 32 0) 0 0, .stuck (.panel 0 0 32) 0 0, .stuck (.table true 2048) 0 0,
        .stuck (.rowBellows 33 0) 0 0, .stuck (.colBellows 33 0) 0 0, .stuck (.drain 33 0) 0 0, .stuck (.drain 0 33) 0 0,
        .stuck (.buffer 2 0) 0 0, .stuck (.buffer 0 1024) 0 0, .cell 34 0 0 0 1, .cell 0 34 0 0 1, .cell 0 0 6 0 1,
        .cell 0 0 0 2048 1] : List Defect), d.wf = false) := by decide +kernel

end Sys2Proof.Tests
end

section
/-! The scope: what every command's meaning ends in, and the queue it leaves alone (R4; log entries 1 and 2). -/

namespace Sys2Proof.Machine

open Sys2Proof.Safety

/-- Outcome `o` of a command given state `s` is a next state, with the queue that `s` had. -/
def AnswersKeepingQueue (s : State) (o : Outcome) : Prop := ∃ t, o = .next t ∧ t.pending = s.pending

theorem done_answersKeepingQueue (s t : State) : AnswersKeepingQueue s (done s t) := ⟨_, done_next s t, rfl⟩

theorem act_answersKeepingQueue (s : State) (f : State → State) : AnswersKeepingQueue s (act s f) := by
  cases h : s.live with
  | true => rw [act_live h]; exact done_answersKeepingQueue s (f s)
  | false => exact ⟨s, act_dead h, rfl⟩

/-- Every command is one effect on the state: under `act`, which asks for a live module, or, for the power stage, the
reset pin, the sideband and the TAP, under `done` in every module (log entry 1). The row is all that decides it. -/
theorem exec_eq_act_or_done (c : Instr) :
    ∃ f : State → State, ∀ s, exec c s = bif needsLive c then act s f else done s (f s) := by
  cases c <;> exact ⟨_, fun _ => rfl⟩

theorem exec_eq_act {c : Instr} (h : needsLive c = true) : ∃ f : State → State, ∀ s, exec c s = act s f := by
  simpa only [h, cond_true] using exec_eq_act_or_done c

theorem exec_eq_done {c : Instr} (h : needsLive c = false) :
    ∃ f : State → State, ∀ s, exec c s = done s (f s) := by
  simpa only [h, cond_false] using exec_eq_act_or_done c

/-- Settles O3: a command ends in `act` or in `done`, and both answer with the queue they were given. -/
theorem commandsAnswer : Obligations.CommandsAnswer := by
  intro c s
  cases h : needsLive c with
  | true =>
    obtain ⟨f, hf⟩ := exec_eq_act h
    rw [hf]
    exact act_answersKeepingQueue s f
  | false =>
    obtain ⟨f, hf⟩ := exec_eq_done h
    rw [hf]
    exact done_answersKeepingQueue s (f s)

end Sys2Proof.Machine
end

section
/-! Frames that the rows of chapter 1 share: what a command of a running module answers, what a fold leaves alone, which
bytes and register fields an update leaves as they were. -/

namespace Sys2Proof.Machine

/-! ### A command of a running module -/

theorem State.halted_of_live {s : State} (h : s.live = true) : s.halted = false := by
  simp only [State.live, Bool.and_eq_true, Bool.not_eq_true'] at h
  exact h.2

/-- An effect that neither halts the module nor touches the queue is the command's whole answer. -/
theorem act_eq_next {s t : State} {f : State → State} (hl : s.live = true) (ht : f s = t) (hr : t.halted = false)
    (hp : t.pending = s.pending) : act s f = .next t := by
  subst ht
  rw [act_running hl hr, ← hp]

/-! ### Updates of registers only -/

section
variable {s t : State} (h : RegsOnly s t)
include h

theorem RegsOnly.pending : t.pending = s.pending := by rw [h]
theorem RegsOnly.halted : t.halted = s.halted := by rw [h]
theorem RegsOnly.bell : t.bell = s.bell := by rw [h]
theorem RegsOnly.mem : t.mem = s.mem := by rw [h]
theorem RegsOnly.panel : t.panel = s.panel := by rw [h]
theorem RegsOnly.flash : t.flash = s.flash := by rw [h]
theorem RegsOnly.ost : t.ost = s.ost := by rw [h]
theorem RegsOnly.ops : t.ops = s.ops := by rw [h]
theorem RegsOnly.tiles : t.tiles = s.tiles := by rw [h]

end

/-! ### Folds -/

/-- What every step of a fold leaves alone, the fold leaves alone. -/
theorem foldl_keeps {α β γ : Type} (p : β → γ) (f : β → α → β) (l : List α) (b : β)
    (hf : ∀ b, ∀ a ∈ l, p (f b a) = p b) : p (l.foldl f b) = p b := by
  induction l generalizing b with
  | nil => rfl
  | cons a r ih => rw [List.foldl_cons, ih _ fun b x hx => hf b x (.tail _ hx), hf b a (.head _)]

/-- Keys updated in place, each once, each from its own value. -/
theorem mget_foldl_update {α : Type} [DecidableEq α] (d : α) (g : α → α) {l : List Nat} (hl : l.Nodup) (m : SMap α)
    (k : Nat) : mget d (l.foldl (fun m q => mput d m q (g (mget d m q))) m) k =
      if k ∈ l then g (mget d m k) else mget d m k := by
  induction l generalizing m with
  | nil => rfl
  | cons q r ih =>
    obtain ⟨hq, hr⟩ := List.nodup_cons.mp hl
    rw [List.foldl_cons, ih hr]
    simp only [mget_mput, List.mem_cons]
    by_cases hk : k = q
    · subst hk; simp [hq]
    · simp [hk]

/-- One value put at the keys of a list. -/
theorem mget_foldl_put {α β : Type} [DecidableEq α] (d v : α) (key : β → Nat) (l : List β) (m : SMap α) (k : Nat) :
    mget d (l.foldl (fun m x => mput d m (key x) v) m) k = if ∃ x ∈ l, key x = k then v else mget d m k := by
  induction l generalizing m with
  | nil => simp
  | cons x r ih =>
    rw [List.foldl_cons, ih]
    by_cases hr : ∃ y ∈ r, key y = k
    · obtain ⟨y, hy, hk⟩ := hr
      rw [if_pos ⟨y, hy, hk⟩, if_pos ⟨y, .tail _ hy, hk⟩]
    · by_cases hx : key x = k
      · rw [if_neg hr, if_pos ⟨x, .head _, hx⟩, mget_mput, if_pos hx.symm]
      · rw [if_neg hr, mget_mput, if_neg (Ne.symm hx), if_neg]
        rintro ⟨y, hy, hk⟩
        rcases List.mem_cons.mp hy with rfl | hy
        · exact hx hk
        · exact hr ⟨y, hy, hk⟩

/-! ### Bytes and fields -/

theorem State.fget_lt (s : State) (f : Fld) (i : Nat) : s.fget f i < 2 ^ (f.hi + 1 - f.lo) := bitsOf_lt _ _ _

/-- Fields are read from the registers alone. -/
theorem State.fget_of_regs {s t : State} (h : t.regs = s.regs) (f : Fld) (i : Nat) : t.fget f i = s.fget f i := by
  unfold State.fget State.rd
  rw [h]

/-- Bytes are read from the memories, and in the panel window through MEM_PSWIN.SPARE (R285). -/
theorem State.byteAt_eq {s t : State} (hm : t.mem = s.mem) (hp : t.panel = s.panel)
    (hf : t.fget Fl.memPswinSpare 0 = s.fget Fl.memPswinSpare 0) (a : Nat) : t.byteAt a = s.byteAt a := by
  unfold State.byteAt State.panelKey State.fon
  rw [hm, hp, hf]

/-- A register other than MEM_PSWIN, written, changes no byte. -/
theorem State.byteAt_wr (s : State) {r : Reg} {i : Nat} (v : Word64) (hi : i < r.place.2.1) (hr : r ≠ .memPswin) :
    (s.wr r i v).byteAt = s.byteAt := by
  have h : (s.wr r i v).fget Fl.memPswinSpare 0 = s.fget Fl.memPswinSpare 0 := by
    have hw := s.rd_wr_ne (r' := .memPswin) (j := 0) v hi (by decide) (.inl (Ne.symm hr))
    exact congrArg (fun w => bitsOf w.toNat 0 0) hw
  funext a
  exact State.byteAt_eq (s.wr_mem r i v) (s.wr_panel r i v) h a

theorem State.byteAt_fset (s : State) {f : Fld} {i : Nat} (v : Nat) (hi : i < f.reg.place.2.1) (hf : f.reg ≠ .memPswin) :
    (s.fset f i v).byteAt = s.byteAt := s.byteAt_wr _ hi hf

/-! ### Updates of some registers only -/

/-- Only registers differ, and of those no field of a register for which `p` holds. -/
structure RegsBut (p : Reg → Prop) (s t : State) : Prop where
  regs : RegsOnly s t
  fget : ∀ f i, i < f.reg.place.2.1 → p f.reg → t.fget f i = s.fget f i

section
variable {p : Reg → Prop}

theorem RegsBut.refl (s : State) : RegsBut p s s := ⟨.refl s, fun _ _ _ _ => rfl⟩

theorem RegsBut.trans {s t u : State} (h : RegsBut p s t) (k : RegsBut p t u) : RegsBut p s u :=
  ⟨h.regs.trans k.regs, fun f i hi hp => (k.fget f i hi hp).trans (h.fget f i hi hp)⟩

theorem regsBut_fset (s : State) {f : Fld} {i : Nat} (v : Nat) (hi : i < f.reg.place.2.1) (hf : ¬ p f.reg) :
    RegsBut p s (s.fset f i v) :=
  ⟨regsOnly_fset s f i v, fun _ _ hj hp => s.fget_fset_ne v hi hj (.inl fun h => hf (h ▸ hp))⟩

theorem regsBut_foldl {α : Type} (f : State → α → State) (l : List α) (s : State)
    (hf : ∀ s, ∀ x ∈ l, RegsBut p s (f s x)) : RegsBut p s (l.foldl f s) := by
  induction l generalizing s with
  | nil => exact .refl s
  | cons x r ih => exact (hf s x (.head _)).trans (ih _ fun t y hy => hf t y (.tail _ hy))

end

/-! ### What a command has no part in -/

/-- The same bytes of memory, operations, tiles, flash, halt and queue. -/
structure SameStores (s t : State) : Prop where
  bytes : t.byteAt = s.byteAt
  ops : t.ops = s.ops
  tiles : t.tiles = s.tiles
  flash : t.flash = s.flash
  halted : t.halted = s.halted
  pending : t.pending = s.pending

theorem SameStores.refl (s : State) : SameStores s s := ⟨rfl, rfl, rfl, rfl, rfl, rfl⟩

theorem SameStores.trans {s t u : State} (h : SameStores s t) (k : SameStores t u) : SameStores s u :=
  ⟨k.bytes.trans h.bytes, k.ops.trans h.ops, k.tiles.trans h.tiles, k.flash.trans h.flash, k.halted.trans h.halted,
    k.pending.trans h.pending⟩

theorem RegsOnly.sameStores {s t : State} (h : RegsOnly s t) (hb : t.byteAt = s.byteAt) : SameStores s t :=
  ⟨hb, h.ops, h.tiles, h.flash, h.halted, h.pending⟩

end Sys2Proof.Machine
end

section
/-! The array cycle that an empty queue passes (R16; log entry 2). -/

namespace Sys2Proof.Machine

/-! ### The count -/

theorem State.replica_of_bell {s t : State} (h : t.bell = s.bell) (q : Nat) : t.replica q = s.replica q := by
  unfold State.replica
  rw [h]

theorem State.replica_countCycle (s : State) {q : Nat} (hq : q < 4) :
    s.countCycle.replica q = (s.replica q + 1) % 2 ^ 64 := by
  unfold State.replica State.countCycle
  rw [mget_foldl_update 0 (fun v => (v + 1) % 2 ^ 64) List.nodup_range, if_pos (List.mem_range.mpr hq)]

theorem State.set_bell_sameStores (s : State) (b : SMap Nat) (fs : List (Nat × Nat)) :
    SameStores s { s with bell := b, swFields := fs } := ⟨rfl, rfl, rfl, rfl, rfl, rfl⟩

theorem State.countCycle_sameStores (s : State) : SameStores s s.countCycle := s.set_bell_sameStores _ _

/-! ### Levels, finishers and the Ostler's notes -/

theorem State.applyLevel_regsOnly (s : State) (d : Nat × Bool × Nat) : RegsOnly s (s.applyLevel d) := by
  unfold State.applyLevel
  split
  · dsimp only
    split
    · exact (regsOnly_fset _ _ _ _).trans (regsOnly_fset _ _ _ _)
    · exact regsOnly_fset _ _ _ _
  · exact regsOnly_fset _ _ _ _

theorem State.applyLevel_byteAt (s : State) (d : Nat × Bool × Nat) : (s.applyLevel d).byteAt = s.byteAt := by
  unfold State.applyLevel
  split
  · dsimp only
    split
    · rw [State.byteAt_fset _ _ (by decide) (by decide), State.byteAt_fset _ _ (by decide) (by decide)]
    · rw [State.byteAt_fset _ _ (by decide) (by decide)]
  · rw [State.byteAt_fset _ _ (by decide) (by decide)]

/-- The levels that take effect are a fold of register writes. -/
theorem State.applyDue_keeps {γ : Type} (p : State → γ) (s : State)
    (h : ∀ (t : State) (d : Nat × Bool × Nat), p (t.applyLevel d) = p t) :
    p s.applyDue = p { s with power := { s.power with due := s.power.due.filter fun d => s.now < d.1 } } :=
  foldl_keeps p State.applyLevel _ _ fun t d _ => h t d

theorem State.applyDue_bell (s : State) : s.applyDue.bell = s.bell :=
  s.applyDue_keeps State.bell fun t d => (t.applyLevel_regsOnly d).bell

theorem State.applyDue_sameStores (s : State) : SameStores s s.applyDue where
  bytes := s.applyDue_keeps State.byteAt State.applyLevel_byteAt
  ops := s.applyDue_keeps State.ops fun t d => (t.applyLevel_regsOnly d).ops
  tiles := s.applyDue_keeps State.tiles fun t d => (t.applyLevel_regsOnly d).tiles
  flash := s.applyDue_keeps State.flash fun t d => (t.applyLevel_regsOnly d).flash
  halted := s.applyDue_keeps State.halted fun t d => (t.applyLevel_regsOnly d).halted
  pending := s.applyDue_keeps State.pending fun t d => (t.applyLevel_regsOnly d).pending

theorem State.freeFinishers_regsOnly (s : State) : RegsOnly s s.freeFinishers := regsOnly_fset s _ _ _

theorem State.freeFinishers_sameStores (s : State) : SameStores s s.freeFinishers :=
  s.freeFinishers_regsOnly.sameStores (State.byteAt_fset s _ (by decide) (by decide))

theorem State.noteStrict_bell (s : State) : s.noteStrict.bell = s.bell := rfl

theorem State.noteStrict_sameStores (s : State) : SameStores s s.noteStrict := ⟨rfl, rfl, rfl, rfl, rfl, rfl⟩

/-! ### The cycle -/

theorem tick_powered {s : State} (h : s.powered = true) :
    tick s = s.countCycle.applyDue.freeFinishers.noteStrict := if_pos h

/-- The bell moves in an array cycle by its count alone. -/
theorem tick_bell {s : State} (h : s.powered = true) : (tick s).bell = s.countCycle.bell := by
  rw [tick_powered h, State.noteStrict_bell, (State.freeFinishers_regsOnly _).bell, State.applyDue_bell]

theorem tick_sameStores {s : State} (h : s.powered = true) : SameStores s (tick s) := by
  rw [tick_powered h]
  exact ((s.countCycle_sameStores.trans (State.applyDue_sameStores _)).trans (State.freeFinishers_sameStores _)).trans
    (State.noteStrict_sameStores _)

theorem step_of_pending_nil {s : State} (h : s.pending = []) : step s = .next (tick s) := by
  unfold step
  rw [h]

/-- Settles O2: the cycle counts every replica first, and what follows in it touches registers, levels that are due and the
Ostler's notes only. -/
theorem idleStepCounts : Obligations.IdleStepCounts := by
  intro s hq hp
  obtain ⟨hb, ho, ht, hf, -, -⟩ := tick_sameStores hp
  refine ⟨tick s, step_of_pending_nil hq, fun q h4 => ?_, congrFun hb, ho, ht, hf⟩
  rw [State.replica_of_bell (tick_bell hp), s.replica_countCycle h4]

end Sys2Proof.Machine
end

section
/-! Modes of the array: what ARR_MODE and GLB_QMASK take of a write, the values in force until the mode boundary, and the
boundary itself (R23, R24). -/

namespace Sys2Proof.Machine

/-! ### One bit of a quarter -/

theorem bitsOf_one_eq_testBit (v q : Nat) : bitsOf v q q = (v.testBit q).toNat := by
  have h : q + 1 - q = 1 := by omega
  unfold bitsOf
  rw [h, pow_one, Nat.testBit_eq_decide_div_mod_eq]
  rcases Nat.mod_two_eq_zero_or_one (v / 2 ^ q) with h | h <;> simp [h]

/-- A bit of a field is a bit of the word. -/
theorem bitsOf_bitsOf {v hi lo q : Nat} (h : lo + q ≤ hi) : bitsOf (bitsOf v hi lo) q q = bitsOf v (lo + q) (lo + q) := by
  rw [bitsOf_one_eq_testBit, bitsOf_one_eq_testBit, bitsOf_testBit, decide_eq_true (by omega), Bool.true_and]

/-- The numbers below `n` that a predicate picks, as a mask. -/
def maskOf (p : Nat → Prop) [DecidablePred p] (n : Nat) : Nat := ((List.range n).map fun k => if p k then 2 ^ k else 0).sum

section
variable (p : Nat → Prop) [DecidablePred p]

theorem maskOf_succ (n : Nat) : maskOf p (n + 1) = 2 ^ n * (decide (p n)).toNat + maskOf p n := by
  unfold maskOf
  rw [List.range_succ, List.map_append, List.sum_append, Nat.add_comm]
  by_cases h : p n <;> simp [h]

theorem maskOf_lt (n : Nat) : maskOf p n < 2 ^ n := by
  induction n with
  | zero => simp [maskOf]
  | succ n ih =>
    rw [maskOf_succ, pow_succ]
    have : 2 ^ n * (decide (p n)).toNat ≤ 2 ^ n * 1 := Nat.mul_le_mul_left _ (Bool.toNat_le _)
    omega

theorem maskOf_testBit (n q : Nat) : (maskOf p n).testBit q = decide (q < n ∧ p q) := by
  induction n with
  | zero => simp [maskOf]
  | succ n ih =>
    rw [maskOf_succ, Nat.testBit_two_pow_mul_add _ (maskOf_lt p n), ih, Nat.testBit_bool_toNat]
    rcases Nat.lt_trichotomy q n with h | rfl | h
    · simp [h, Nat.lt_succ_of_lt h]
    · simp
    · rw [if_neg (by omega)]
      simp [show q - n ≠ 0 by omega, show ¬ q < n + 1 by omega]

theorem bitsOf_maskOf {n q : Nat} (h : q < n) : bitsOf (maskOf p n) q q = if p q then 1 else 0 := by
  rw [bitsOf_one_eq_testBit, maskOf_testBit]
  by_cases hp : p q <;> simp [h, hp]

end

theorem bitsOf_one_cases (v q : Nat) : bitsOf v q q = 0 ∨ bitsOf v q q = 1 := by
  rw [bitsOf_one_eq_testBit]
  cases v.testBit q <;> simp

/-! ### Values in force (R23) -/

/-- Until the boundary the value in force is the one that was in force before the write. -/
theorem keepOld_getD (held : Option Nat) (old new : Nat) : (keepOld held old new).getD new = held.getD old := by
  unfold keepOld
  cases held with
  | some x => rfl
  | none =>
    dsimp only
    split
    · rename_i h; simp [h]
    · rfl

/-! ### ARR_MODE (R24) -/

/-- A write that would leave LOCK set beside a TEST bit takes nothing. -/
theorem State.modeTakes_of_conflict (s : State) {v : Word64} (hl : bitsOf v.toNat 0 0 = 1) (ht : bitsOf v.toNat 7 4 ≠ 0) :
    s.modeTakes v = (s.fget Fl.arrModeLock 0, s.fget Fl.arrModeTest 0) := if_pos ⟨hl, ht⟩

/-- A write without that conflict takes the TEST bit of quarter `k`. -/
abbrev State.testTaken (s : State) (v : Word64) (k : Nat) : Prop :=
  bitsOf (bitsOf v.toNat 7 4) k k = 1 ∧
    ¬ (bitsOf (s.fget Fl.arrModeTest 0) k k = 0 ∧
      (bitsOf (s.fget Fl.glbQmaskArrayQ 0) k k = 1 ∨ s.fget Fl.glbLifeState 0 = 0xF))

theorem State.modeTakes_of_free (s : State) {v : Word64} (h : ¬ (bitsOf v.toNat 0 0 = 1 ∧ bitsOf v.toNat 7 4 ≠ 0)) :
    s.modeTakes v = (bitsOf v.toNat 0 0, maskOf (s.testTaken v) 4) := if_neg h

theorem State.modeTakes_lt (s : State) (v : Word64) : (s.modeTakes v).1 < 2 ∧ (s.modeTakes v).2 < 2 ^ 4 := by
  by_cases h : bitsOf v.toNat 0 0 = 1 ∧ bitsOf v.toNat 7 4 ≠ 0
  · rw [s.modeTakes_of_conflict h.1 h.2]
    exact ⟨s.fget_lt Fl.arrModeLock 0, s.fget_lt Fl.arrModeTest 0⟩
  · rw [s.modeTakes_of_free h]
    exact ⟨bitsOf_lt _ _ _, maskOf_lt _ _⟩

/-- The registers after a write of ARR_MODE. -/
def State.modeWritten (s : State) (v : Word64) : State :=
  (s.fset Fl.arrModeLock 0 (s.modeTakes v).1).fset Fl.arrModeTest 0 (s.modeTakes v).2

section
variable (s : State) (v : Word64)

theorem State.modeWritten_lock : (s.modeWritten v).fget Fl.arrModeLock 0 = (s.modeTakes v).1 := by
  unfold State.modeWritten
  rw [State.fget_fset_field (f := Fl.arrModeTest) (g := Fl.arrModeLock) _ _ _ (by decide) rfl (by decide),
    State.fget_fset_same _ _ _ _ (by decide)]
  exact Nat.mod_eq_of_lt (s.modeTakes_lt v).1

theorem State.modeWritten_test : (s.modeWritten v).fget Fl.arrModeTest 0 = (s.modeTakes v).2 := by
  unfold State.modeWritten
  rw [State.fget_fset_same _ _ _ _ (by decide)]
  exact Nat.mod_eq_of_lt (s.modeTakes_lt v).2

theorem State.modeWritten_arrayQ : (s.modeWritten v).fget Fl.glbQmaskArrayQ 0 = s.fget Fl.glbQmaskArrayQ 0 := by
  unfold State.modeWritten
  rw [State.fget_fset_ne _ _ (by decide) (by decide) (.inl (by decide)),
    State.fget_fset_ne _ _ (by decide) (by decide) (.inl (by decide))]

variable {s v} {req : Requester} (hp : s.isPrincipal req = true)
include hp

/-- The principal's write of ARR_MODE: the fields take it, and the values in force are kept (R23). -/
theorem State.arrMode_eq :
    s.arrMode req v = { s.modeWritten v with ost := { s.ost with
      bLock := keepOld s.ost.bLock (s.fget Fl.arrModeLock 0) (s.modeTakes v).1
      bTest := keepOld s.ost.bTest (s.fget Fl.arrModeTest 0) (s.modeTakes v).2 } } := by
  unfold State.arrMode
  rw [hp]
  rfl

theorem State.arrMode_lock : (s.arrMode req v).fget Fl.arrModeLock 0 = (s.modeTakes v).1 := by
  rw [State.arrMode_eq hp]
  exact s.modeWritten_lock v

theorem State.arrMode_test : (s.arrMode req v).fget Fl.arrModeTest 0 = (s.modeTakes v).2 := by
  rw [State.arrMode_eq hp]
  exact s.modeWritten_test v

theorem State.arrMode_keeps_inForce :
    (s.arrMode req v).locked = s.locked ∧ (s.arrMode req v).testQ = s.testQ ∧ (s.arrMode req v).arrayQ = s.arrayQ := by
  unfold State.locked State.testQ State.arrayQ
  rw [State.arrMode_lock hp, State.arrMode_test hp, State.arrMode_eq hp]
  dsimp only
  rw [keepOld_getD, keepOld_getD]
  exact ⟨rfl, rfl, congrArg _ (s.modeWritten_arrayQ v)⟩

theorem exec_arrModeWrite (hl : s.live = true) : exec (.arrModeWrite req v) s = .next (s.arrMode req v) := by
  refine act_eq_next (f := fun s => s.arrMode req v) hl rfl ?_ ?_ <;> rw [State.arrMode_eq hp]
  · exact State.halted_of_live hl
  · rfl

end

/-! ### GLB_QMASK (R24) -/

/-- A write of GLB_QMASK takes the bit of quarter `k`. -/
abbrev State.arrayTaken (s : State) (v : Word64) (k : Nat) : Prop :=
  bitsOf v.toNat k k = 1 ∧
    ¬ (bitsOf (s.fget Fl.glbQmaskArrayQ 0) k k = 0 ∧ bitsOf (s.fget Fl.arrModeTest 0) k k = 1)

section
variable {s : State} {v : Word64} {req : Requester} (hp : s.isPrincipal req = true)
include hp

theorem State.glbQmask_eq :
    s.glbQmask req v = { s.fset Fl.glbQmaskArrayQ 0 (maskOf (s.arrayTaken v) 4) with ost := { s.ost with
      bArrayQ := keepOld s.ost.bArrayQ (s.fget Fl.glbQmaskArrayQ 0) (maskOf (s.arrayTaken v) 4) } } := by
  unfold State.glbQmask
  rw [hp]
  rfl

theorem State.glbQmask_arrayQ : (s.glbQmask req v).fget Fl.glbQmaskArrayQ 0 = maskOf (s.arrayTaken v) 4 := by
  rw [State.glbQmask_eq hp]
  exact (s.fget_fset_same Fl.glbQmaskArrayQ 0 (maskOf (s.arrayTaken v) 4) (by decide)).trans
    (Nat.mod_eq_of_lt (maskOf_lt _ 4))

theorem State.glbQmask_mode {f : Fld} (hf : f.reg = .arrMode) : (s.glbQmask req v).fget f 0 = s.fget f 0 := by
  rw [State.glbQmask_eq hp]
  exact s.fget_fset_ne _ (by decide) (by rw [hf]; decide) (.inl (by rw [hf]; decide))

theorem State.glbQmask_keeps_inForce :
    (s.glbQmask req v).locked = s.locked ∧ (s.glbQmask req v).testQ = s.testQ ∧ (s.glbQmask req v).arrayQ = s.arrayQ := by
  unfold State.locked State.testQ State.arrayQ
  rw [State.glbQmask_arrayQ hp, State.glbQmask_mode hp rfl, State.glbQmask_mode hp rfl, State.glbQmask_eq hp]
  dsimp only
  rw [keepOld_getD]
  exact ⟨rfl, rfl, rfl⟩

theorem exec_glbQmaskWrite (hl : s.live = true) : exec (.glbQmaskWrite req v) s = .next (s.glbQmask req v) := by
  refine act_eq_next (f := fun s => s.glbQmask req v) hl rfl ?_ ?_ <;> rw [State.glbQmask_eq hp]
  · exact State.halted_of_live hl
  · rfl

end

/-! ### The mode boundary (R23) -/

theorem homeSite_lt {n : Nat} (h : n < 4096) : spareOf (homeSite n) < 4224 := by
  unfold spareOf homeSite
  dsimp only
  omega

/-- The registers other than TILE_MAP, TILE_STATE and ARR_DEPTH, which the remapping of R409 and R410 writes. -/
def notMapped (r : Reg) : Prop := r ≠ .tileMap ∧ r ≠ .tileState ∧ r ≠ .arrDepth

theorem State.setMap_regsBut (s : State) {n : Nat} (hn : n < 4096) (site : Option Nat) :
    RegsBut notMapped s (s.setMap n site) := by
  have h : ∀ (t : State) (f : Fld) (v : Nat), f.reg = .tileMap → RegsBut notMapped t (t.fset f n v) :=
    fun t f v hf => regsBut_fset t v (by rw [hf]; exact hn) fun hp => hp.1 hf
  cases site with
  | some i => exact (h _ _ _ rfl).trans (h _ _ _ rfl)
  | none => exact (h _ _ _ rfl).trans (h _ _ _ rfl)

theorem State.setSiteState_regsBut (s : State) {i : Nat} (hi : i < 4224) (v : Nat) :
    RegsBut notMapped s (s.fset Fl.tileStateState i v) := regsBut_fset s v hi fun hp => hp.2.1 rfl

theorem State.remapTile_regsBut (b : Bool) (s : State) {n : Nat} (hn : n < 4096) :
    RegsBut notMapped s (State.remapTile b s n) := by
  have hm := fun site => s.setMap_regsBut hn site
  have hs := fun (t : State) v => t.setSiteState_regsBut (homeSite_lt hn) v
  unfold State.remapTile
  dsimp only
  split
  · split
    · exact .refl s
    · exact hm _
  · split
    · split
      · exact .refl s
      · split
        · exact (hm _).trans (hs _ _)
        · exact hm _
    · split
      · exact (hm _).trans (hs _ _)
      · split
        · exact .refl s
        · exact hm _

theorem State.redepth_regsBut (s : State) : RegsBut notMapped s s.redepth := by
  have h : ∀ (t : State) (f : Fld) (v : Nat), f.reg = .arrDepth → RegsBut notMapped t (t.fset f 0 v) :=
    fun t f v hf => regsBut_fset t v (by rw [hf]; decide) fun hp => hp.2.2 hf
  have hd : ∀ q, (depthFld q).reg = .arrDepth := fun q => by
    unfold depthFld
    split <;> rfl
  exact ((regsBut_foldl _ _ _ fun t q _ => h t _ _ (hd q)).trans (h _ _ _ rfl)).trans (h _ _ _ rfl)

theorem State.remap_regsBut (s : State) (b : Bool) : RegsBut notMapped s (s.remap b) :=
  (regsBut_foldl _ _ _ fun t _ hn => t.remapTile_regsBut b (List.mem_range.mp hn)).trans (State.redepth_regsBut _)

/-- No value of ARR_MODE, GLB_QMASK or TILE_REPAIR is pending. -/
def State.noPending (s : State) : State :=
  { s with ost := { s.ost with bLock := none, bTest := none, bArrayQ := none, repairNow := [] } }

/-- At the boundary nothing is pending any more; beside that, mapping registers and the streams of operations change. -/
theorem State.modeBoundary_eq {s : State} (h : s.arrayEmpty = true) :
    ∃ t ops, RegsBut notMapped s.noPending t ∧ s.modeBoundary = { t with ops := ops } := by
  have key (t : State) :
      ∃ ops, (if s.boundary then { t with ops := t.ops.map t.rehome } else t) = { t with ops := ops } := by
    split
    · exact ⟨_, rfl⟩
    · exact ⟨t.ops, rfl⟩
  obtain ⟨ops, he⟩ := key (s.noPending.remap true)
  exact ⟨_, ops, s.noPending.remap_regsBut true, (if_pos h).trans he⟩

theorem State.modeBoundary_ost {s : State} (h : s.arrayEmpty = true) :
    s.modeBoundary.ost = { s.ost with bLock := none, bTest := none, bArrayQ := none, repairNow := [] } := by
  obtain ⟨t, ops, ht, he⟩ := State.modeBoundary_eq h
  rw [he]
  exact ht.regs.ost

theorem State.modeBoundary_fget {s : State} (h : s.arrayEmpty = true) {f : Fld} (hi : 0 < f.reg.place.2.1)
    (hf : notMapped f.reg) : s.modeBoundary.fget f 0 = s.fget f 0 := by
  obtain ⟨t, ops, ht, he⟩ := State.modeBoundary_eq h
  rw [he]
  exact ht.fget f 0 hi hf

theorem exec_modeBoundary {s : State} (hl : s.live = true) (h : s.arrayEmpty = true) :
    exec .modeBoundary s = .next s.modeBoundary := by
  obtain ⟨t, ops, ht, he⟩ := State.modeBoundary_eq h
  refine act_eq_next (f := State.modeBoundary) hl rfl ?_ ?_ <;> rw [he]
  · exact ht.regs.halted.trans (State.halted_of_live hl)
  · exact ht.regs.pending

theorem exec_modeBoundary_waits {s : State} (hl : s.live = true) (h : s.arrayEmpty = false) :
    exec .modeBoundary s = .next s :=
  act_eq_next hl (if_neg (by simp [h])) (State.halted_of_live hl) rfl

/-! ### The obligation -/

theorem bitsOf_zero_of_getLsbD (v : Word64) : bitsOf v.toNat 0 0 = (v.getLsbD 0).toNat := bitsOf_one_eq_testBit _ _

/-- A bit that a write carries, unless it is refused. -/
theorem taken_bit {b : Nat} (hb : b = 0 ∨ b = 1) (c : Prop) [Decidable c] :
    (if b = 1 ∧ ¬ c then 1 else 0) = if c then 0 else b := by
  rcases hb with rfl | rfl <;> by_cases h : c <;> simp [h]

/-- Settles O24: a write takes the fields by `modeTakes` or `arrayTaken` and keeps the values in force; the boundary drops what
is kept, so that the registers count. -/
theorem arrayModes : Obligations.ArrayModes := by
  refine ⟨fun s req v hl hp => ⟨fun h0 ht => ?_, fun h => ?_, ?_⟩, fun s req v hl hp => ⟨?_, ?_⟩, fun s hl he => ?_,
    fun s hl he => exec_modeBoundary_waits hl he⟩
  · refine ⟨_, exec_arrModeWrite hp hl, ?_⟩
    rw [State.arrMode_lock hp, State.arrMode_test hp, s.modeTakes_of_conflict (by rw [bitsOf_zero_of_getLsbD, h0]; rfl) ht]
    exact ⟨rfl, rfl⟩
  · have hfree : ¬ (bitsOf v.toNat 0 0 = 1 ∧ bitsOf v.toNat 7 4 ≠ 0) := by
      rintro ⟨h1, h2⟩
      rcases h with h | h
      · rw [bitsOf_zero_of_getLsbD, h] at h1; cases h1
      · exact h2 h
    refine ⟨_, exec_arrModeWrite hp hl, ?_⟩
    rw [State.arrMode_lock hp, State.arrMode_test hp, s.modeTakes_of_free hfree]
    refine ⟨by simp [bitsOf], fun q hq => ?_⟩
    have hb := bitsOf_bitsOf (v := v.toNat) (hi := 7) (lo := 4) (q := q) (by omega)
    rw [bitsOf_maskOf _ hq]
    unfold State.testTaken
    rw [hb]
    exact taken_bit (bitsOf_one_cases _ _) _
  · refine ⟨_, exec_glbQmaskWrite hp hl, fun q hq => ?_⟩
    rw [State.glbQmask_arrayQ hp, bitsOf_maskOf _ hq]
    exact taken_bit (bitsOf_one_cases _ _) _
  · exact ⟨_, exec_arrModeWrite hp hl, State.arrMode_keeps_inForce hp⟩
  · exact ⟨_, exec_glbQmaskWrite hp hl, State.glbQmask_keeps_inForce hp⟩
  · refine ⟨_, exec_modeBoundary hl he, ?_⟩
    unfold State.boundary State.locked State.testQ State.arrayQ
    rw [State.modeBoundary_ost he, State.modeBoundary_fget he (by decide) ⟨by decide, by decide, by decide⟩,
      State.modeBoundary_fget he (by decide) ⟨by decide, by decide, by decide⟩,
      State.modeBoundary_fget he (by decide) ⟨by decide, by decide, by decide⟩]
    exact ⟨rfl, rfl, rfl, rfl⟩

end Sys2Proof.Machine
end

section
/-! What a fatal event leaves: the halt, and ERR_EVT with its code and class (R329, R331). -/

namespace Sys2Proof.Machine

/-! ### ERR_EVT -/

theorem State.errEvt_code (s : State) (e : Event) : (s.errEvt e).fget Fl.errEvtCode 0 = e.code % 2 ^ 8 := by
  unfold State.errEvt
  rw [State.fget_fset_field (f := Fl.errEvtClass) (g := Fl.errEvtCode) _ _ _ (by decide) rfl (by decide),
    State.fget_fset_same _ _ _ _ (by decide)]
  rfl

theorem State.errEvt_class (s : State) (e : Event) : (s.errEvt e).fget Fl.errEvtClass 0 = e.cls.code := by
  unfold State.errEvt
  rw [State.fget_fset_same _ _ _ _ (by decide)]
  cases e.cls <;> rfl

/-! ### The halt -/

/-- The registers other than those that a port switched off writes. -/
def notPort (r : Reg) : Prop := r ≠ .portStat ∧ r ≠ .portLanes

theorem State.portOff_regsBut (s : State) {p : Nat} (hp : p < 12) : RegsBut notPort s (s.portOff p) :=
  ((regsBut_fset s _ hp fun h => h.1 rfl).trans (regsBut_fset _ _ hp fun h => h.1 rfl)).trans
    (regsBut_fset _ _ hp fun h => h.2 rfl)

theorem State.halt_fget (s : State) {f : Fld} {i : Nat} (hi : i < f.reg.place.2.1) (hf : notPort f.reg) :
    s.halt.fget f i = s.fget f i := by
  have h := regsBut_foldl State.portOff (List.range 12) { s with ports := [] } fun t p hp =>
    t.portOff_regsBut (List.mem_range.mp hp)
  rw [← State.portsOff_eq] at h
  rw [State.fget_of_regs (s := s.portsOff) (by rw [State.halt_fields])]
  exact h.fget f i hi hf

theorem State.fget_set_pending (s : State) (l : List Instr) (f : Fld) (i : Nat) :
    State.fget { s with pending := l } f i = s.fget f i := rfl

theorem State.halt_halted (s : State) : s.halt.halted = true := by rw [State.halt_fields]

/-- A command that ends in a FATAL event halts the module and reports the event. -/
theorem act_fatal {s u : State} {f : State → State} {e : Event} (hl : s.live = true) (hf : f s = u.logEvent e)
    (he : e.cls = .fatal) :
    ∃ t, act s f = .next t ∧ t.halted = true ∧ t.fget Fl.errEvtCode 0 = e.code % 2 ^ 8 ∧ t.fget Fl.errEvtClass 0 = 6 := by
  have hw : f s = (((u.alertFor e).logEntry e).errEvt e).halt := hf.trans (if_pos he)
  refine ⟨_, act_live hl, ?_⟩
  rw [hw, State.settle_of_halted (State.halt_halted _)]
  generalize hv : (u.alertFor e).logEntry e = v
  have hn : notPort Fl.errEvtCode.reg := ⟨by decide, by decide⟩
  generalize hu : v.errEvt e = w
  have hx {f : Fld} (hi : 0 < f.reg.place.2.1) (hf : notPort f.reg) : w.halt.halt.fget f 0 = w.fget f 0 :=
    (State.halt_fget _ hi hf).trans (State.halt_fget _ hi hf)
  refine ⟨w.halt.halt_halted, ?_, ?_⟩
  · rw [State.fget_set_pending, hx (f := Fl.errEvtCode) (by decide) hn, ← hu, v.errEvt_code e]
  · rw [State.fget_set_pending, hx (f := Fl.errEvtClass) (by decide) hn, ← hu, v.errEvt_class e, he]
    rfl

end Sys2Proof.Machine
end

section
/-! The check of the bell's replicas, the stamps of holds, and the count of a hold cycle (R17, R106 to R108, R387). -/

namespace Sys2Proof.Machine

/-! ### The bell check -/

section
variable (s : State)

theorem State.bellLow_eq (q : Nat) : s.bellLow q = s.replica q % 2 ^ 16 := by
  unfold State.bellLow bitsOf
  rw [pow_zero, Nat.div_one]

/-- A value sent is on its way to each of the other quarters. -/
theorem State.bellSend_mail {q d : Nat} (h : s.replica q % 2 ^ 16 = 0) (hd : d < 4) (hne : d ≠ q) :
    mget 0 (s.bellSend q).bellMail (4 * q + d) = s.bellHigh q + 1 := by
  unfold State.bellSend
  rw [if_pos (by rw [s.bellLow_eq, h])]
  dsimp only
  rw [mget_foldl_put, if_pos]
  exact ⟨d, by simp [hd, hne], rfl⟩

theorem State.bellSend_fields (q : Nat) : s.bellSend q = { s with bellMail := (s.bellSend q).bellMail } := by
  unfold State.bellSend
  split <;> rfl

theorem State.bellArrive_good {src dst value : Nat} (hv : value = bitsOf (s.replica dst) 63 16)
    (hl : s.replica dst % 2 ^ 16 = 3) :
    s.bellArrive src dst value = { s with
      bellMail := merase s.bellMail (4 * src + dst), bellSeen := mput 0 s.bellSeen (4 * src + dst) (value + 1) } :=
  if_pos ⟨hv, (s.bellLow_eq dst).trans hl⟩

theorem State.bellArrive_bad {src dst value : Nat}
    (h : value ≠ bitsOf (s.replica dst) 63 16 ∨ s.replica dst % 2 ^ 16 ≠ 3) :
    ∃ t : State, s.bellArrive src dst value = t.clockError src dst false value := by
  refine ⟨_, if_neg ?_⟩
  rw [s.bellLow_eq]
  rintro ⟨hv, hl⟩
  exact h.elim (· hv) (· hl)

theorem State.bellMissing_late {src dst : Nat} (hl : s.replica dst % 2 ^ 16 = 4)
    (h : mget 0 s.bellMail (4 * src + dst) ≠ 0 ∨ mget 0 s.bellSeen (4 * src + dst) ≠ bitsOf (s.replica dst) 63 16 + 1) :
    s.bellMissing src dst = s.clockError src dst true 0 := if_pos ⟨(s.bellLow_eq dst).trans hl, h⟩

theorem State.bellMissing_seen {src dst : Nat} (hm : mget 0 s.bellMail (4 * src + dst) = 0)
    (hs : mget 0 s.bellSeen (4 * src + dst) = bitsOf (s.replica dst) 63 16 + 1) : s.bellMissing src dst = s :=
  if_neg fun h => h.2.elim (· hm) (· hs)

end

/-- R17, the sender's side. -/
theorem exec_bellCheckSend {s : State} (hl : s.live = true) (q : Nat) :
    exec (.bellCheckSend q) s = .next (s.bellSend q) := by
  refine act_eq_next (f := fun s => s.bellSend q) hl rfl ?_ ?_ <;> rw [s.bellSend_fields q]
  exact State.halted_of_live hl

/-- R17, the receiver's side: both comparisons hold. -/
theorem exec_bellCheckArrive_good {s : State} {src dst : Nat} {value : BitVec 48} (hl : s.live = true) (hne : src ≠ dst)
    (hv : value.toNat = bitsOf (s.replica dst) 63 16) (ht : s.replica dst % 2 ^ 16 = 3) :
    exec (.bellCheckArrive src dst value) s = .next (s.bellArrive src dst value.toNat) := by
  refine act_eq_next (f := fun s => if src = dst then s else s.bellArrive src dst value.toNat) hl (if_neg hne) ?_ ?_ <;>
    rw [s.bellArrive_good hv ht]
  exact State.halted_of_live hl

/-- The fatal clock error of Table 14.19. -/
theorem act_clockError {s u : State} {f : State → State} {src dst value : Nat} {missing : Bool} (hl : s.live = true)
    (hf : f s = u.clockError src dst missing value) :
    ∃ t, act s f = .next t ∧ t.halted = true ∧ t.fget Fl.errEvtCode 0 = 0x01 ∧ t.fget Fl.errEvtClass 0 = 6 :=
  act_fatal hl hf rfl

/-- R17: a comparison fails. -/
theorem exec_bellCheckArrive_bad {s : State} {src dst : Nat} {value : BitVec 48} (hl : s.live = true) (hne : src ≠ dst)
    (h : value.toNat ≠ bitsOf (s.replica dst) 63 16 ∨ s.replica dst % 2 ^ 16 ≠ 3) :
    ∃ t, exec (.bellCheckArrive src dst value) s = .next t ∧ t.halted = true ∧ t.fget Fl.errEvtCode 0 = 0x01 ∧
      t.fget Fl.errEvtClass 0 = 6 := by
  obtain ⟨u, hu⟩ := s.bellArrive_bad (src := src) h
  exact act_clockError (f := fun s => if src = dst then s else s.bellArrive src dst value.toNat) hl
    ((if_neg hne).trans hu)

/-- R17: the value is not there when the low bits reach 4. -/
theorem exec_bellCheckMissing_late {s : State} {src dst : Nat} (hl : s.live = true) (hne : src ≠ dst)
    (ht : s.replica dst % 2 ^ 16 = 4)
    (h : mget 0 s.bellMail (4 * src + dst) ≠ 0 ∨ mget 0 s.bellSeen (4 * src + dst) ≠ bitsOf (s.replica dst) 63 16 + 1) :
    ∃ t, exec (.bellCheckMissing src dst) s = .next t ∧ t.halted = true ∧ t.fget Fl.errEvtCode 0 = 0x01 ∧
      t.fget Fl.errEvtClass 0 = 6 :=
  act_clockError (f := fun s => if src = dst then s else s.bellMissing src dst) hl
    ((if_neg hne).trans (s.bellMissing_late ht h))

theorem exec_bellCheckMissing_seen {s : State} {src dst : Nat} (hl : s.live = true) (hne : src ≠ dst)
    (hm : mget 0 s.bellMail (4 * src + dst) = 0)
    (hs : mget 0 s.bellSeen (4 * src + dst) = bitsOf (s.replica dst) 63 16 + 1) :
    exec (.bellCheckMissing src dst) s = .next s :=
  act_eq_next (f := fun s => if src = dst then s else s.bellMissing src dst) hl
    ((if_neg hne).trans (s.bellMissing_seen hm hs)) (State.halted_of_live hl) rfl

/-! ### Stamps (R106) -/

/-- Only stamps of holds differ. -/
abbrev HoldsOnly (s t : State) : Prop := t = { s with holds := t.holds }

theorem HoldsOnly.refl (s : State) : HoldsOnly s s := rfl

theorem HoldsOnly.trans {s t u : State} (h : HoldsOnly s t) (k : HoldsOnly t u) : HoldsOnly s u := by
  unfold HoldsOnly at *
  rw [k, h]

section
variable {s t : State} (h : HoldsOnly s t)
include h

theorem HoldsOnly.now : t.now = s.now := by rw [h]; rfl
theorem HoldsOnly.halted : t.halted = s.halted := by rw [h]
theorem HoldsOnly.pending : t.pending = s.pending := by rw [h]
theorem HoldsOnly.throttle (d : Nat) : t.unitShort d .throttle = s.unitShort d .throttle := by rw [h]; rfl

end

section
variable (s : State) (dom cause : Nat)

theorem State.pruneHolds_holdsOnly : HoldsOnly s s.pruneHolds := rfl

theorem State.requestHold_holdsOnly : HoldsOnly s (s.requestHold dom cause) := by
  unfold State.requestHold
  dsimp only
  split <;> rfl

/-- Stamps of the bells still to come outlast the dropping of old ones. -/
theorem State.holdAt_pruneHolds {b : Nat} (hb : s.now ≤ b) : s.pruneHolds.holdAt dom b = s.holdAt dom b := by
  unfold State.holdAt State.pruneHolds
  rw [List.any_filter]
  congr 1
  funext h
  by_cases he : h.bell = b
  · simp [he, hb]
  · simp [he]

/-- A request stamps the bell four ahead in its domain, and no other. -/
theorem State.holdAt_requestHold (d b : Nat) :
    (s.requestHold dom cause).holdAt d b = (s.holdAt d b || (dom == d && s.now + 4 == b)) := by
  unfold State.requestHold
  dsimp only
  split
  · rename_i h
    have hm : (State.holdAt { s with holds := s.holds.map fun h =>
        if h.dom == dom && h.bell == s.now + 4 then { h with causes := union h.causes [cause] } else h } d b) =
        s.holdAt d b := by
      unfold State.holdAt
      rw [List.any_map]
      congr 1
      funext h
      dsimp only [Function.comp]
      split <;> rfl
    rw [hm]
    by_cases hd : (dom == d && s.now + 4 == b) = true
    · obtain ⟨h1, h2⟩ := Bool.and_eq_true_iff.mp hd
      rw [← eq_of_beq h1, ← eq_of_beq h2, h]
      rfl
    · rw [Bool.eq_false_of_not_eq_true hd, Bool.or_false]
  · simp [State.holdAt]

/-- The cause stands with the stamp. -/
theorem State.requestHold_cause :
    ∃ h ∈ (s.requestHold dom cause).holds, h.dom = dom ∧ h.bell = s.now + 4 ∧ cause ∈ h.causes := by
  unfold State.requestHold
  dsimp only
  split
  · rename_i hs
    obtain ⟨h, hh, hk⟩ := List.any_eq_true.mp hs
    obtain ⟨hd, hb⟩ := Bool.and_eq_true_iff.mp hk
    refine ⟨_, List.mem_map_of_mem hh, ?_⟩
    rw [if_pos hk]
    refine ⟨eq_of_beq hd, eq_of_beq hb, ?_⟩
    by_cases hc : cause ∈ h.causes <;> simp [union, hc]
  · exact ⟨_, List.mem_append_right _ (.head _), rfl, rfl, .head _⟩

end

/-! ### Decisions (R107, R387) -/

section
variable {s : State}

/-- A unit of a quarter decides for the quarter's domain, where the quarter runs. -/
theorem exec_holdDecision_quarter {u : HoldUnit} {q : Nat} (hl : s.live = true) (hu : unitQuarter u = some q) :
    exec (.holdDecision u) s =
      .next (if s.quarterRuns q then s.pruneHolds.decide1 u (s.domOf q) else s.pruneHolds) := by
  have hr : HoldsOnly s.pruneHolds (if s.quarterRuns q then s.pruneHolds.decide1 u (s.domOf q) else s.pruneHolds) := by
    unfold State.decide1
    split
    · split
      · exact State.requestHold_holdsOnly _ _ _
      · exact .refl _
    · exact .refl _
  refine act_eq_next (f := fun s => match unitQuarter u with
    | some q => if s.pruneHolds.quarterRuns q then s.pruneHolds.decide1 u (s.pruneHolds.domOf q) else s.pruneHolds
    | none => s.pruneHolds.doms.foldl (State.decide1 u) s.pruneHolds) hl ?_ ?_ ?_
  · rw [hu]
    rfl
  · exact hr.halted.trans (State.halted_of_live hl)
  · exact hr.pending

theorem State.decide1_short {u : HoldUnit} {dom c : Nat} (h : s.unitShort dom u = some c) :
    s.decide1 u dom = s.requestHold dom c := by
  unfold State.decide1
  rw [h]

theorem State.decide1_serves {u : HoldUnit} {dom : Nat} (h : s.unitShort dom u = none) : s.decide1 u dom = s := by
  unfold State.decide1
  rw [h]

theorem State.unitShort_commons (dom q : Nat) :
    s.pruneHolds.unitShort dom (.commons q) = if s.commonsShort q then some 6 else none := rfl

/-- A level that holds the bell four ahead asks every domain it is put to. -/
theorem State.foldl_throttle {l : List Nat} (h : ∀ d, s.unitShort d .throttle = some 10) :
    HoldsOnly s (l.foldl (State.decide1 .throttle) s) ∧
      ∀ d, (d ∈ l ∨ s.holdAt d (s.now + 4) = true) →
        (l.foldl (State.decide1 .throttle) s).holdAt d (s.now + 4) = true := by
  induction l generalizing s with
  | nil => exact ⟨.refl s, fun d hd => hd.resolve_left (by simp)⟩
  | cons x r ih =>
    have hx : HoldsOnly s (s.requestHold x 10) := s.requestHold_holdsOnly x 10
    obtain ⟨ho, ha⟩ := ih (s := s.requestHold x 10) fun d => (hx.throttle d).trans (h d)
    rw [List.foldl_cons, State.decide1_short (h x)]
    rw [hx.now] at ha
    refine ⟨hx.trans ho, fun d hd => ha d ?_⟩
    rw [State.holdAt_requestHold]
    rcases hd with hd | hd
    · rcases List.mem_cons.mp hd with rfl | hd
      · exact .inr (by simp)
      · exact .inl hd
    · exact .inr (by simp [hd])

/-- Throttle asks every domain that has a quarter (R387; log entry 59). -/
theorem exec_holdDecision_throttle (hl : s.live = true)
    (h : levelHolds (s.fget Fl.arrThrottleEffN 0) (s.now + 4) = true) :
    ∃ t, exec (.holdDecision .throttle) s = .next t ∧
      (∀ d < 4, s.domQuarters d ≠ [] → t.holdAt d (s.now + 4) = true) ∧ HoldsOnly s t := by
  obtain ⟨ho, ha⟩ := State.foldl_throttle (s := s.pruneHolds) (l := s.doms) fun d => if_pos h
  refine ⟨_, act_eq_next (f := fun s => s.pruneHolds.doms.foldl (State.decide1 .throttle) s.pruneHolds) hl rfl
    (ho.halted.trans (State.halted_of_live hl)) ho.pending, fun d hd hq => ha d (.inl ?_),
    s.pruneHolds_holdsOnly.trans ho⟩
  simp [State.doms, hd, hq]

end

/-! ### The count of a hold cycle (R106, R108) -/

section
variable (s : State)

/-- A counter that fills its register wraps at 64 bits. -/
theorem State.fget_finc_same (f : Fld) (i : Nat) (hw : f.inWord) :
    (s.finc f i).fget f i = (s.fget f i + 1) % 2 ^ (f.hi + 1 - f.lo) := by
  unfold State.finc
  rw [State.fget_fset_same _ _ _ _ hw]
  have : f.max + 1 = 2 ^ (f.hi + 1 - f.lo) := Nat.sub_add_cancel Nat.one_le_two_pow
  rw [this, Nat.mod_mod]

/-- The registers other than the hold counters. -/
def notHold (r : Reg) : Prop := r ≠ .arrHoldCause

theorem State.fincHold_regsBut {c : Nat} (hc : c < 16) : RegsBut notHold s (s.finc Fl.arrHoldCauseCycles c) :=
  regsBut_fset s _ hc fun h => h rfl

/-- Every cause of a list without repetition counts once. -/
theorem State.foldl_fincHold {l : List Nat} (hn : l.Nodup) (hl : ∀ c ∈ l, c < 16) {c : Nat} (hc : c < 16) :
    (l.foldl (fun (t : State) c => t.finc Fl.arrHoldCauseCycles c) s).fget Fl.arrHoldCauseCycles c =
      (s.fget Fl.arrHoldCauseCycles c + if c ∈ l then 1 else 0) % 2 ^ 64 := by
  induction l generalizing s with
  | nil => exact (Nat.mod_eq_of_lt (s.fget_lt Fl.arrHoldCauseCycles c)).symm
  | cons x r ih =>
    obtain ⟨hx, hr⟩ := List.nodup_cons.mp hn
    rw [List.foldl_cons, ih _ hr fun y hy => hl y (.tail _ hy)]
    by_cases h : c = x
    · subst h
      rw [if_neg hx, if_pos (.head _), State.fget_finc_same _ _ _ (by decide)]
      rw [Nat.add_zero]
      exact Nat.mod_mod _ _
    · have hf : (s.finc Fl.arrHoldCauseCycles x).fget Fl.arrHoldCauseCycles c = s.fget Fl.arrHoldCauseCycles c :=
        s.fget_fset_ne _ (hl x (.head _)) hc (.inr h)
      rw [hf]
      simp [h]

/-- TOTAL and the causes that asked for the hold advance, once each. -/
theorem State.countHold_cycles {causes : List Nat} (hn : causes.Nodup) (h : ∀ c ∈ causes, 1 ≤ c ∧ c < 12) {c : Nat}
    (hc : c < 16) : (s.countHold causes).fget Fl.arrHoldCauseCycles c =
      (s.fget Fl.arrHoldCauseCycles c + if c = 0 ∨ c ∈ causes then 1 else 0) % 2 ^ 64 := by
  have h0 : (0 :: causes).Nodup := List.nodup_cons.mpr ⟨fun hm => absurd (h 0 hm).1 (by omega), hn⟩
  have hl : ∀ x ∈ 0 :: causes, x < 16 := fun x hx => by
    rcases List.mem_cons.mp hx with rfl | hx
    · omega
    · exact Nat.lt_trans (h x hx).2 (by omega)
  unfold State.countHold
  rw [s.foldl_fincHold h0 hl hc]
  simp only [List.mem_cons]

theorem State.countHold_regsBut {causes : List Nat} (h : ∀ c ∈ causes, c < 16) :
    RegsBut notHold s (s.countHold causes) :=
  regsBut_foldl _ _ _ fun t c hc => t.fincHold_regsBut (by
    rcases List.mem_cons.mp hc with rfl | hc
    · omega
    · exact h c hc)

variable {s} {dom : Nat} {h : Hold} (hf : s.holds.find? (fun k => k.dom == dom && k.bell == s.now) = some h)
include hf

/-- A hold cycle counts, and notes the domain's run of holds; the rest is bookkeeping of stamps and operations. -/
theorem State.holdNow_eq :
    ∃ hs os, ∃ y : HoldDom, y.last = s.now + 1 ∧ s.holdNow dom = { s.countHold h.causes with
      holds := hs, domains := mput {} (s.countHold h.causes).domains dom y, ops := os } := by
  unfold State.holdNow
  rw [hf]
  exact ⟨_, _, _, rfl, rfl⟩

theorem exec_holdCycle (hl : s.live = true) (hc : ∀ c ∈ h.causes, c < 16) :
    exec (.holdCycle dom) s = .next (s.holdNow dom) := by
  obtain ⟨hs, os, y, -, he⟩ := State.holdNow_eq hf
  have hr := (s.countHold_regsBut hc).regs
  refine act_eq_next (f := fun s => s.holdNow dom) hl rfl ?_ ?_ <;> rw [he]
  · exact hr.halted.trans (State.halted_of_live hl)
  · exact hr.pending

omit hf in
/-- A hold cycle that has just been counted keeps its domain still (R105). -/
theorem State.frozen_of_last {t : State} (ht : (mget {} t.domains dom).last = t.now + 1) : t.frozen dom = true := by
  simp [State.frozen, ht]

/-- The counters, the freeze and what a hold cycle leaves alone. -/
theorem State.holdNow_spec (hn : h.causes.Nodup) (hc : ∀ c ∈ h.causes, 1 ≤ c ∧ c < 12) :
    (∀ c < 16, (s.holdNow dom).fget Fl.arrHoldCauseCycles c =
      (s.fget Fl.arrHoldCauseCycles c + if c = 0 ∨ c ∈ h.causes then 1 else 0) % 2 ^ 64) ∧
      (s.holdNow dom).frozen dom = true ∧ (∀ a, (s.holdNow dom).byteAt a = s.byteAt a) ∧
      (s.holdNow dom).tiles = s.tiles := by
  have h16 : ∀ c ∈ h.causes, c < 16 := fun c hm => Nat.lt_trans (hc c hm).2 (by omega)
  have hr := s.countHold_regsBut h16
  obtain ⟨hs, os, y, hy, he⟩ := State.holdNow_eq hf
  rw [he]
  refine ⟨fun c h4 => ?_, ?_, fun a => ?_, hr.regs.tiles⟩
  · exact s.countHold_cycles hn hc h4
  · refine State.frozen_of_last ?_
    dsimp only
    rw [mget_mput_same, hy]
    exact congrArg (· + 1) (State.replica_of_bell hr.regs.bell 0).symm
  · exact State.byteAt_eq hr.regs.mem hr.regs.panel
      (hr.fget Fl.memPswinSpare 0 (by decide) (show Reg.memPswin ≠ .arrHoldCause by decide)) a

end

/-! ### The obligation -/

/-- Settles O28: the rows of the bell check, of the hold decisions and of a hold cycle, each by its own lemma. -/
theorem bellAndHolds : Obligations.BellAndHolds := by
  refine ⟨fun s hl => ⟨fun q _ hq => ?_, fun src dst value _ _ hne => ⟨fun hv ht => ?_, fun h => ?_⟩,
    fun src dst _ _ hne ht => ⟨fun h => ?_, fun hm hs => ?_⟩⟩, fun s hl => ⟨fun u q c _ hu hq hc => ?_,
    fun q _ hq hc => ?_, fun h => ?_, fun q _ hc => ?_⟩, fun s dom h hl hf hn hc => ?_⟩
  · exact ⟨_, exec_bellCheckSend hl q, fun d hd hne => s.bellSend_mail hq hd hne, s.bellSend_fields q⟩
  · refine ⟨_, exec_bellCheckArrive_good hl hne hv ht, ?_⟩
    rw [s.bellArrive_good hv ht]
    exact ⟨State.halted_of_live hl, rfl⟩
  · exact exec_bellCheckArrive_bad hl hne h
  · exact exec_bellCheckMissing_late hl hne ht h
  · exact exec_bellCheckMissing_seen hl hne hm hs
  · refine ⟨_, exec_holdDecision_quarter hl hu, ?_⟩
    rw [if_pos hq, State.decide1_short hc]
    exact ⟨s.pruneHolds_holdsOnly.trans (State.requestHold_holdsOnly _ _ _), State.requestHold_cause _ _ _⟩
  · refine ⟨_, exec_holdDecision_quarter hl rfl, ?_⟩
    rw [if_pos hq, State.decide1_short ((s.unitShort_commons _ q).trans (if_pos hc))]
    refine ⟨?_, s.pruneHolds_holdsOnly.trans (State.requestHold_holdsOnly _ _ _)⟩
    rw [State.holdAt_requestHold, s.pruneHolds_holdsOnly.now]
    simp
  · exact exec_holdDecision_throttle hl h
  · refine ⟨_, exec_holdDecision_quarter hl rfl, fun d => ?_⟩
    rw [State.decide1_serves ((s.unitShort_commons _ q).trans (if_neg (by simp [hc]))), ite_self]
    exact s.holdAt_pruneHolds d (Nat.le_add_right _ _)
  · exact ⟨_, exec_holdCycle hf hl fun c hm => Nat.lt_trans (hc c hm).2 (by omega), State.holdNow_spec hf hn hc⟩

end Sys2Proof.Machine
end

section
/-! Fronts in tiles, the waits for tongs, and the steps of a tile (R20, R84 to R86, R111, R133). -/

namespace Sys2Proof.Machine

/-! ### Operations and tiles in the state -/

/-- An operation changed, without its number, is found again as changed. -/
theorem State.op?_setOp {s : State} {seq : Nat} {o : Op} (g : Op → Op) (h : s.op? seq = some o)
    (hg : ∀ o, (g o).seq = o.seq) : (s.setOp seq g).op? seq = some (g o) := by
  have hs : o.seq = seq := by simpa using List.find?_some h
  have hp : ((fun o : Op => decide (o.seq = seq)) ∘ fun o => if o.seq = seq then g o else o) =
      fun o => decide (o.seq = seq) := by
    funext x
    dsimp only [Function.comp]
    split
    · rw [hg]
    · rfl
  unfold State.op? State.setOp at *
  rw [List.find?_map, hp, h, Option.map_some, if_pos hs]

theorem State.seq_of_op? {s : State} {seq : Nat} {o : Op} (h : s.op? seq = some o) : o.seq = seq := by
  simpa using List.find?_some h

section
variable (s : State) (i : Nat) (x : Tile)

@[simp] theorem State.tile_setTile_same : (s.setTile i x).tile i = x := mget_mput_same _ _ _ _

theorem State.tile_setTile_ne {j : Nat} (h : j ≠ i) : (s.setTile i x).tile j = s.tile j := mget_mput_ne _ _ _ h

end

/-- Tiles are read from the map of tiles alone. -/
theorem State.tile_of_tiles {s t : State} (h : t.tiles = s.tiles) (j : Nat) : t.tile j = s.tile j := by
  unfold State.tile
  rw [h]

/-- Operations are found in the list of operations alone. -/
theorem State.op?_of_ops {s t : State} (h : t.ops = s.ops) (n : Nat) : t.op? n = s.op? n := by
  unfold State.op?
  rw [h]

/-- A value that is no default stands in the map under its key. -/
theorem mem_of_mget_ne {α : Type} {d : α} {m : SMap α} {k : Nat} (h : mget d m k ≠ d) : (k, mget d m k) ∈ m := by
  induction m with
  | nil => exact absurd rfl h
  | cons e r ih =>
    obtain ⟨j, v⟩ := e
    unfold mget at h ⊢
    split
    · rename_i hj
      subst hj
      exact .head _
    · rename_i hj
      rw [if_neg hj] at h
      exact .tail _ (ih h)

/-- Only tiles differ. -/
abbrev TilesOnly (s t : State) : Prop := t = { s with tiles := t.tiles }

theorem TilesOnly.refl (s : State) : TilesOnly s s := rfl

theorem TilesOnly.trans {s t u : State} (h : TilesOnly s t) (k : TilesOnly t u) : TilesOnly s u := by
  unfold TilesOnly at *
  rw [k, h]

section
variable {s t : State} (h : TilesOnly s t)
include h

theorem TilesOnly.ops : t.ops = s.ops := by rw [h]
theorem TilesOnly.halted : t.halted = s.halted := by rw [h]
theorem TilesOnly.pending : t.pending = s.pending := by rw [h]
theorem TilesOnly.byteAt : t.byteAt = s.byteAt := by rw [h]; rfl

end

theorem tilesOnly_setTile (s : State) (i : Nat) (x : Tile) : TilesOnly s (s.setTile i x) := rfl

theorem tilesOnly_foldl {α : Type} (f : State → α → State) (hf : ∀ s x, TilesOnly s (f s x)) (l : List α) (s : State) :
    TilesOnly s (l.foldl f s) := by
  induction l generalizing s with
  | nil => exact .refl s
  | cons x r ih => exact (hf s x).trans (ih _)

/-! ### Tiles that drain without a step (R130) -/

theorem State.drainEmpty_eq (s : State) (site : Nat) :
    s.drainEmpty site = s ∨ ∃ x, s.drainEmpty site = s.setTile site x := by
  unfold State.drainEmpty
  dsimp only
  split
  · exact .inl rfl
  · split
    · exact .inl rfl
    · split
      · exact .inr ⟨_, rfl⟩
      · exact .inl rfl

theorem State.drainEmpty_tilesOnly (s : State) (site : Nat) : TilesOnly s (s.drainEmpty site) := by
  rcases s.drainEmpty_eq site with h | ⟨x, h⟩ <;> rw [h]
  · exact tilesOnly_setTile s site x

theorem State.drainEmpty_tile_ne (s : State) {site j : Nat} (hj : j ≠ site) : (s.drainEmpty site).tile j = s.tile j := by
  rcases s.drainEmpty_eq site with h | ⟨x, h⟩ <;> rw [h]
  exact s.tile_setTile_ne site x hj

/-- A front with steps to issue stays in its cells. -/
theorem State.drainEmpty_of_steps {s : State} {site : Nat} {f : Front} {o : Op} (hc : (s.tile site).cur = some f)
    (ho : s.op? f.seq = some o) (hn : o.frontSteps f ≠ 0) : s.drainEmpty site = s := by
  unfold State.drainEmpty
  dsimp only
  rw [hc]
  dsimp only
  rw [ho]
  exact if_neg fun h => hn h.1

/-! ### FRONT_ENTER -/

/-- The front that a tile holds, and its steps issued. -/
def Tile.progress (t : Tile) : Option Front × Nat := (t.cur, t.steps)

theorem Tile.progress_mk {c : Option Front} {n : Nat} {ps : List Panel} {rb cb : SMap Bellows} {g : SMap Grp}
    {a gr gc : SMap Nat} {gk : Nat} {sa : SMap Int} {pt : SMap (List Nat)} {pn : Nat} {d : Option Block} {bs : List Block} :
    Tile.progress ⟨c, n, ps, rb, cb, g, a, gr, gc, gk, sa, pt, pn, d, bs⟩ = (c, n) := rfl

theorem State.loadGroup_progress (s : State) (site : Nat) (y : Layout) (t : Tile) (i j : Nat) (g : Grp) :
    (s.loadGroup site y t i j g).progress = t.progress := rfl

theorem Tile.set_sa_progress (t : Tile) (m : SMap Int) : Tile.progress { t with sa := m } = t.progress := rfl

theorem State.loadSave_progress (s : State) (site : Nat) (y : Layout) (base : Nat) (t : Tile) :
    (s.loadSave site y base t).progress = t.progress := by
  unfold State.loadSave
  dsimp only
  rw [Tile.set_sa_progress]
  refine foldl_keeps Tile.progress _ _ _ fun t e _ => ?_
  split
  · rfl
  · exact s.loadGroup_progress _ _ _ _ _ _

theorem State.resumeTile_cur (s : State) (site : Nat) (o : Op) (f : Front) (t : Tile) :
    (s.resumeTile site o f t).cur = t.cur := by
  unfold State.resumeTile
  split
  · rfl
  · exact congrArg Prod.fst (s.loadSave_progress _ _ _ _)

theorem State.resumeTile_of_nothing_saved (s : State) (site : Nat) {o : Op} (f : Front) (t : Tile) (h : o.saved = []) :
    s.resumeTile site o f t = t := by
  unfold State.resumeTile Op.savedOf
  rw [h]
  rfl

theorem State.setOther_sameStores (s : State) (f : NodeCtx → NodeCtx) : SameStores s (s.setOther f) :=
  ⟨rfl, rfl, rfl, rfl, rfl, rfl⟩

theorem State.setTblState_sameStores (s : State) (p : Bool) (w : Word64) : SameStores s (s.setTblState p w) := by
  unfold State.setTblState
  split
  · exact s.setOther_sameStores _
  · exact (regsOnly_wr s _ _ _).sameStores (s.byteAt_wr _ (by decide) (by decide))

theorem State.setTables_sameStores (s : State) (p : Bool) (t : Tables) : SameStores s (s.setTables p t) := by
  unfold State.setTables
  split
  · exact s.setOther_sameStores _
  · exact ⟨rfl, rfl, rfl, rfl, rfl, rfl⟩

/-- The bank that a product-table pass takes is in the table RAM (R182). -/
theorem State.takeProd_sameStores (s : State) (o : Op) : SameStores s (s.takeProd o) := by
  unfold State.takeProd
  split
  · exact (s.setTables_sameStores _ _).trans (State.setTblState_sameStores _ _ _)
  · exact .refl s

/-- An operation with a front in its first tile. -/
def Op.enters (plc key : Nat) (o : Op) : Op :=
  { o with entered := true, inArray := true, saved := o.saved.filter fun x => !(x.plc == plc && x.key == key) }

/-- The front of a block with its TONG_WAIT mark. -/
def Op.entryFront (o : Op) (plc key tile : Nat) : Front := { frontOf o plc key with wait := o.tongWait.contains tile }

/-- A tile that has taken a front up, with the chunk buffers that are the front's own. -/
def Tile.takenUp (t : Tile) (f : Front) : Tile :=
  { t with cur := some f, steps := 0, panels := t.panels.filter fun p => p.seq == f.seq && p.plc == f.plc && p.tile == f.tile }

/-- A state with an operation's front entered. -/
def State.withFront (s z : State) (o : Op) (plc key tile : Nat) : State :=
  (z.setOp o.seq (Op.enters plc key)).setTile (o.runSite plc key)
    (s.resumeTile (o.runSite plc key) o (o.entryFront plc key tile)
      ((s.tile (o.runSite plc key)).takenUp (o.entryFront plc key tile)))

theorem blockKey_mod {tile : Nat} (h : tile < 4096) (u : Nat) : blockKey tile u % 4096 = tile := by
  unfold blockKey
  omega

section
variable {s : State} {seq tile plc u : Nat} {o : Op} (ho : s.op? seq = some o) (ht : tile < 4096)
  (hu : s.nextSub o plc tile = some u)
  (hm : s.mayFront o = true) (he : s.earlierLeft o plc (blockKey tile u) = false)
  (hb : ∀ p ∈ s.before o, s.stepsLeftAt p (o.runSite plc (blockKey tile u)) = false)
  (hc : (s.tile (o.runSite plc (blockKey tile u))).cur = none)
include ho ht hu hm he hb hc

/-- A front that may enter its tile does (R133). -/
theorem State.enterFront_eq :
    ∃ z, SameStores s z ∧ s.enterFront seq tile plc =
      (s.withFront z o plc (blockKey tile u) tile).drainEmpty (o.runSite plc (blockKey tile u)) := by
  have hz : SameStores s (if o.entered then s else s.takeProd o) := by
    split
    · exact .refl s
    · exact s.takeProd_sameStores o
  refine ⟨_, hz, ?_⟩
  obtain rfl := State.seq_of_op? ho
  have hk : (o.entryFront plc (blockKey tile u) tile).tile = tile := blockKey_mod ht u
  unfold State.withFront Tile.takenUp State.enterFront
  rw [ho]
  dsimp only
  rw [hu]
  dsimp only
  rw [if_neg (by simpa [hm, he, hc] using hb), hk]
  rfl

/-- What FRONT_ENTER leaves in the tile, the operation and the rest. -/
theorem State.enterFront_spec (hn : o.frontSteps (frontOf o plc (blockKey tile u)) ≠ 0) :
    ∃ z, SameStores s z ∧ s.enterFront seq tile plc = s.withFront z o plc (blockKey tile u) tile ∧
      ((s.withFront z o plc (blockKey tile u) tile).tile (o.runSite plc (blockKey tile u))).cur =
        some (o.entryFront plc (blockKey tile u) tile) ∧
      (s.withFront z o plc (blockKey tile u) tile).op? seq = some (o.enters plc (blockKey tile u)) := by
  obtain ⟨z, hz, heq⟩ := State.enterFront_eq ho ht hu hm he hb hc
  obtain rfl := State.seq_of_op? ho
  have hcur : ((s.withFront z o plc (blockKey tile u) tile).tile (o.runSite plc (blockKey tile u))).cur =
      some (o.entryFront plc (blockKey tile u) tile) := by
    unfold State.withFront
    rw [State.tile_setTile_same, State.resumeTile_cur]
    rfl
  have hop : (s.withFront z o plc (blockKey tile u) tile).op? o.seq = some (o.enters plc (blockKey tile u)) :=
    State.op?_setOp _ ((State.op?_of_ops hz.ops _).trans ho) fun _ => rfl
  exact ⟨z, hz, heq.trans (State.drainEmpty_of_steps hcur hop hn), hcur, hop⟩

end

/-! ### TONG_WAIT_END -/

/-- The mark of one tile's front removed, where it is a front of operation `seq` in logical tile `tile`. -/
def State.unmarkSite (seq tile : Nat) (t : State) (e : Nat × Tile) : State :=
  match e.2.cur with
  | some f =>
    if f.seq = seq ∧ f.tile = tile then
      (t.setTile e.1 { t.tile e.1 with cur := some { f with wait := false } }).drainEmpty e.1
    else t
  | none => t

section
variable (seq tile : Nat) (t : State) (e : Nat × Tile)

theorem State.unmarkSite_tilesOnly : TilesOnly t (State.unmarkSite seq tile t e) := by
  unfold State.unmarkSite
  split
  · split
    · exact (tilesOnly_setTile t _ _).trans (State.drainEmpty_tilesOnly _ _)
    · exact .refl t
  · exact .refl t

theorem State.unmarkSite_tile_ne {j : Nat} (hj : j ≠ e.1) : (State.unmarkSite seq tile t e).tile j = t.tile j := by
  unfold State.unmarkSite
  split
  · split
    · rw [State.drainEmpty_tile_ne _ hj, State.tile_setTile_ne _ _ _ hj]
    · rfl
  · rfl

/-- An admitted front with steps to issue stands in its cells without the mark. -/
theorem State.unmarkSite_cur {f : Front} {o : Op} (hc : e.2.cur = some f) (hs : f.seq = seq) (ht : f.tile = tile)
    (ho : t.op? seq = some o) (hn : o.frontSteps f ≠ 0) :
    ((State.unmarkSite seq tile t e).tile e.1).cur = some { f with wait := false } := by
  have hcur : ((t.setTile e.1 { t.tile e.1 with cur := some { f with wait := false } }).tile e.1).cur =
      some { f with wait := false } := by rw [State.tile_setTile_same]
  have hd := State.drainEmpty_of_steps hcur (o := o) (hs ▸ ho) hn
  unfold State.unmarkSite
  rw [hc]
  dsimp only
  rw [if_pos ⟨hs, ht⟩, hd]
  exact hcur

end

/-- The front of a site whose mark is removed: the other sites' turns leave its tile alone. -/
theorem State.foldl_unmarkSite_cur {seq tile : Nat} {l : SMap Tile} (hl : l.Pairwise fun a b => a.1 < b.1) {site : Nat}
    {x : Tile} (hx : (site, x) ∈ l) {t : State} {f : Front} {o : Op} (hc : x.cur = some f) (hs : f.seq = seq)
    (ht : f.tile = tile) (ho : t.op? seq = some o) (hn : o.frontSteps f ≠ 0) :
    ((l.foldl (State.unmarkSite seq tile) t).tile site).cur = some { f with wait := false } := by
  obtain ⟨l₁, l₂, rfl⟩ := List.append_of_mem hx
  have h2 : ∀ e ∈ l₂, site ≠ e.1 := fun e he =>
    Nat.ne_of_lt ((List.pairwise_cons.mp (List.pairwise_append.mp hl).2.1).1 e he)
  have h1 := tilesOnly_foldl (State.unmarkSite seq tile) (State.unmarkSite_tilesOnly seq tile) l₁ t
  rw [List.foldl_append, List.foldl_cons,
    foldl_keeps (fun t => State.tile t site) _ l₂ _ fun t e he => State.unmarkSite_tile_ne seq tile t e (h2 e he)]
  exact State.unmarkSite_cur seq tile _ (site, x) hc hs ht ((State.op?_of_ops h1.ops _).trans ho) hn

/-- An operation without the TONG_WAIT mark of a tile. -/
def Op.unmarked (tile : Nat) (o : Op) : Op := { o with tongWait := o.tongWait.filter (· ≠ tile) }

/-- The mark that is satisfied is removed from the operation and from the fronts that carry it (R111). -/
theorem State.endWait_eq {s : State} {tile : Nat} {o : Op}
    (h : s.ops.find? (fun o => o.tongWait.contains tile && s.tongDone o tile) = some o) :
    s.endWait tile = s.tiles.foldl (State.unmarkSite o.seq tile) (s.setOp o.seq (Op.unmarked tile)) := by
  unfold State.endWait
  rw [h]
  rfl

/-! ### STEP_ISSUE -/

section
variable (s : State) (site : Nat) (v : Env) (f : Front)

theorem State.loadStart_progress (t : Tile) : (s.loadStart site v f t).progress = t.progress := by
  unfold State.loadStart
  split
  · refine foldl_keeps Tile.progress _ _ _ fun t e _ => ?_
    dsimp only
    split
    · rfl
    · exact s.loadGroup_progress _ _ _ _ _ _
  · rfl

theorem State.cellAdd_progress (d : Desc) (t : Tile) (c : CellTerm) : (s.cellAdd site d t c).progress = t.progress := by
  unfold State.cellAdd
  dsimp only
  split
  · rw [Tile.progress_mk]
    rfl
  · split
    · rw [Tile.progress_mk]
      rfl
    · rw [Tile.progress_mk]
      rfl

theorem assembleTerm_progress (d : Desc) (t : Tile) (c : CellTerm) : (assembleTerm d t c).progress = t.progress := by
  unfold assembleTerm
  rw [Tile.progress_mk]
  rfl

theorem State.gaugeStep_progress (e : EdgeSums) (t : Tile) : (s.gaugeStep site e t).progress = t.progress := by
  unfold State.gaugeStep
  rw [Tile.progress_mk]
  rfl

theorem Tile.addCodes_progress (t : Tile) (d : Desc) (ts : List CellTerm) : (t.addCodes d ts).progress = t.progress := by
  unfold Tile.addCodes
  dsimp only
  split
  · rw [Tile.progress_mk]
    rfl
  · rfl

/-- A step of a matrix product leaves its front in the tile, one step on. -/
theorem State.stepMat_progress (t : Tile) : (s.stepMat site v f t).1.progress = (t.cur, t.steps + 1) := by
  have h0 : (if t.steps = 0 then s.loadStart site v f t else t).progress = t.progress := by
    split
    · exact s.loadStart_progress site v f t
    · rfl
  unfold State.stepMat
  dsimp only
  generalize (if t.steps = 0 then s.loadStart site v f t else t) = t0 at h0 ⊢
  obtain ⟨hc, hs⟩ := Prod.mk.inj h0
  generalize s.cellTerms site v f t0 = cs
  generalize stepTerms v.d t0.steps cs = ts
  have h1 : (s.gaugeStep site (edgeSums v.d cs) (cs.foldl (s.cellAdd site v.d) t0)).progress = t0.progress := by
    rw [State.gaugeStep_progress]
    exact foldl_keeps Tile.progress _ _ _ fun t c _ => s.cellAdd_progress site v.d t c
  generalize s.gaugeStep site (edgeSums v.d cs) (cs.foldl (s.cellAdd site v.d) t0) = t1 at h1 ⊢
  have h2 : (if v.d.pieces then ts.foldl (assembleTerm v.d) t1 else t1).progress = t0.progress := by
    split
    · exact (foldl_keeps Tile.progress _ _ _ fun t c _ => assembleTerm_progress v.d t c).trans h1
    · exact h1
  have h3 := (Tile.addCodes_progress _ v.d ts).trans h2
  rw [Tile.progress_mk, (Prod.mk.inj h3).1, hc, hs]

/-- A step of another operation leaves its front in the tile, one step on. -/
theorem State.stepPass_progress (o : Op) (t : Tile) : (s.stepPass site v o f t).progress = (t.cur, t.steps + 1) := by
  unfold State.stepPass
  dsimp only
  split
  · rfl
  · refine foldl_keeps Tile.progress _ _ _ fun t e _ => ?_
    split
    · rfl
    · rw [Tile.progress_mk]
      split
      · rfl
      · exact s.loadGroup_progress _ _ _ _ _ _

/-- A tile after the step that STEP_ISSUE gives it, and the step's ledger events. -/
def State.stepped (o : Op) (t : Tile) : Tile × List LEvent :=
  if o.d.isMat then s.stepMat site v f t else (s.stepPass site v o f t, [])

theorem State.stepped_progress (o : Op) (t : Tile) : (s.stepped site v f o t).1.progress = (t.cur, t.steps + 1) := by
  unfold State.stepped
  split
  · exact s.stepMat_progress site v f t
  · exact s.stepPass_progress site v f o t

theorem State.stepped_fst (o : Op) (t : Tile) : (s.stepped site v f o t).1 =
    if o.d.isMat then (s.stepMat site v f t).1 else s.stepPass site v o f t := by
  unfold State.stepped
  split <;> rfl

/-- The tile after STEP_ISSUE: after the last step of a front its groups have moved into the drain registers (R86). -/
def State.issued (o : Op) (t : Tile) : Tile :=
  let t2 := (s.stepped site (s.runEnv o) f o t).1
  let nf := s.nextFront o f
  if t2.steps = o.frontSteps f then (if nf.isNone then t2.dropPanels f else t2).drainAll f nf else t2

end

/-- An operation after a step in one of its tiles. -/
def Op.afterStep (s : State) (f : Front) (o : Op) : Op :=
  { o with stepsLeft := if f.tile = 0 then o.stepsLeft - 1 else o.stepsLeft,
           specUsed := o.specUsed || !(s.readsOpen o).isEmpty }

section
variable {s : State} {site : Nat} {f : Front} {o : Op}

/-- Before its last step a front stays, one step on. -/
theorem State.issued_of_lt (hc : (s.tile site).cur = some f) (h : (s.tile site).steps + 1 < o.frontSteps f) :
    (s.issued site f o (s.tile site)).cur = some f ∧ (s.issued site f o (s.tile site)).steps = (s.tile site).steps + 1 := by
  obtain ⟨h1, h2⟩ := Prod.mk.inj (s.stepped_progress site (s.runEnv o) f o (s.tile site))
  unfold State.issued
  dsimp only
  rw [if_neg (by omega), h1, h2]
  exact ⟨hc, rfl⟩

/-- After its last step its groups stand in the drain registers, and the cells are clear. -/
theorem State.issued_of_last (h : (s.tile site).steps + 1 = o.frontSteps f) :
    (s.issued site f o (s.tile site)).drain =
        some ((if o.d.isMat then (s.stepMat site (s.runEnv o) f (s.tile site)).1
          else s.stepPass site (s.runEnv o) o f (s.tile site)).block f) ∧
      (s.issued site f o (s.tile site)).cur = s.nextFront o f ∧ (s.issued site f o (s.tile site)).grps = [] := by
  have h2 := (Prod.mk.inj (s.stepped_progress site (s.runEnv o) f o (s.tile site))).2
  unfold State.issued
  dsimp only
  rw [if_pos (by omega), ← State.stepped_fst]
  generalize (s.stepped site (s.runEnv o) f o (s.tile site)).1 = t2
  split <;> exact ⟨rfl, rfl, rfl⟩

/-- A tile that can issue a step issues it (R84 to R86). -/
theorem State.issueStep_eq (hc : (s.tile site).cur = some f) (ho : s.op? f.seq = some o)
    (h : s.canStep site o f (s.tile site) = true) :
    s.issueStep site = ((s.setTile site (s.issued site f o (s.tile site))).ledger f.seq
      (s.stepped site (s.runEnv o) f o (s.tile site)).2).setOp f.seq (Op.afterStep s f) := by
  have hn : o.frontSteps f ≠ 0 := by
    unfold State.canStep at h
    simp only [Bool.and_eq_true, decide_eq_true_eq] at h
    omega
  unfold State.issueStep
  dsimp only
  rw [hc]
  dsimp only
  rw [ho]
  dsimp only
  rw [if_neg hn, if_neg (by simp [h])]
  rfl

end

/-! ### The ledger leaves the array alone (R168) -/

/-- The tiles, the halt and the queue. -/
def State.arrayPart (s : State) : SMap Tile × Bool × List Instr := (s.tiles, s.halted, s.pending)

section
variable (s : State)

theorem State.mapGranule_arrayPart (g : Nat) : (s.mapGranule g).arrayPart = s.arrayPart := by
  unfold State.mapGranule
  split <;> rfl

theorem State.xpoke_arrayPart (a : Nat) (b : Byte) : (s.xpoke a b).arrayPart = s.arrayPart := by
  unfold State.xpoke
  split
  · rw [State.pokeByte_fields]
    rfl
  · rfl

theorem State.xpokes_arrayPart (a : Nat) (bs : List Byte) : (s.xpokes a bs).arrayPart = s.arrayPart := by
  induction bs generalizing s a with
  | nil => rfl
  | cons b r ih => exact (ih _ _).trans (s.xpoke_arrayPart a b)

theorem State.markPartner_arrayPart (a n : Nat) : (s.markPartner a n).arrayPart = s.arrayPart := rfl

theorem State.ctxWrite_arrayPart (p : Bool) (a : Nat) (bs : List Byte) : (s.ctxWrite p a bs).arrayPart = s.arrayPart := by
  unfold State.ctxWrite
  split
  · rw [State.markPartner_arrayPart, State.xpokes_arrayPart]
    exact foldl_keeps State.arrayPart _ _ _ fun t g _ => t.mapGranule_arrayPart g
  · rw [State.memWrite_fields]
    rfl

theorem State.setOp_arrayPart (n : Nat) (g : Op → Op) : (s.setOp n g).arrayPart = s.arrayPart := rfl

theorem State.ledgerOne_arrayPart (seq : Nat) (e : LEvent) : (State.ledgerOne seq s e).arrayPart = s.arrayPart := by
  unfold State.ledgerOne
  split
  · rfl
  · split
    · rw [State.setOp_arrayPart, State.ctxWrite_arrayPart]
    · rfl

theorem State.ledger_arrayPart (seq : Nat) (es : List LEvent) : (s.ledger seq es).arrayPart = s.arrayPart :=
  foldl_keeps State.arrayPart _ _ _ fun t e _ => t.ledgerOne_arrayPart seq e

variable {s} in
/-- Without LEDGER_EN there is no ledger. -/
theorem State.ledger_off {seq : Nat} {o : Op} (ho : s.op? seq = some o) (h : o.d.ledgerEn = false) (es : List LEvent) :
    s.ledger seq es = s := by
  refine List.foldl_fixed' (fun e => ?_) es
  unfold State.ledgerOne
  rw [ho]
  exact if_neg (by simp [h])

end

/-! ### What a step leaves -/

section
variable {s : State} {site : Nat} {f : Front} {o : Op} (hc : (s.tile site).cur = some f) (ho : s.op? f.seq = some o)
  (h : s.canStep site o f (s.tile site) = true)
include hc ho h

theorem State.issueStep_arrayPart :
    (s.issueStep site).arrayPart = (s.setTile site (s.issued site f o (s.tile site))).arrayPart := by
  rw [State.issueStep_eq hc ho h, State.setOp_arrayPart, State.ledger_arrayPart]

theorem exec_stepIssue (hl : s.live = true) : exec (.stepIssue site) s = .next (s.issueStep site) := by
  obtain ⟨-, hr⟩ := Prod.mk.inj (State.issueStep_arrayPart hc ho h)
  obtain ⟨hh, hp⟩ := Prod.mk.inj hr
  exact act_eq_next (f := fun s => s.issueStep site) hl rfl (hh.trans (State.halted_of_live hl)) hp

theorem State.issueStep_tile (j : Nat) :
    (s.issueStep site).tile j = if j = site then s.issued site f o (s.tile site) else s.tile j := by
  rw [State.tile_of_tiles (Prod.mk.inj (State.issueStep_arrayPart hc ho h)).1]
  split
  · rename_i hj
    rw [hj, State.tile_setTile_same]
  · rename_i hj
    exact s.tile_setTile_ne _ _ hj

theorem State.issueStep_byteAt (hled : o.d.ledgerEn = false) : (s.issueStep site).byteAt = s.byteAt := by
  rw [State.issueStep_eq hc ho h, State.ledger_off (s := s.setTile site _) (o := o) ho hled]
  rfl

end

/-! ### The obligation -/

/-- Settles O30: a front that enters is taken up, a satisfied mark leaves its fronts, and an issued step stays in the tile or,
as the last, goes to the drain registers. -/
theorem tileFronts : Obligations.TileFronts := by
  refine ⟨fun s seq tile plc u o hl ho ht hu hm he hb hc hn => ?_, fun s tile o hl hcan hf ho => ?_,
    fun s site f o hl hc ho hs => ?_⟩
  · obtain ⟨z, hz, heq, hcur, hop⟩ := State.enterFront_spec ho ht hu hm he hb hc hn
    refine ⟨_, _, act_eq_next (f := fun s => s.enterFront seq tile plc) hl heq (hz.halted.trans (State.halted_of_live hl))
      hz.pending, hcur, fun h0 => ?_, hop, rfl, rfl, fun j hj => ?_, congrFun hz.bytes⟩
    · unfold State.withFront
      rw [State.tile_setTile_same, State.resumeTile_of_nothing_saved _ _ _ _ h0]
      rfl
    · unfold State.withFront
      rw [State.tile_setTile_ne _ _ _ hj]
      exact State.tile_of_tiles hz.tiles j
  · have ht := tilesOnly_foldl (State.unmarkSite o.seq tile) (State.unmarkSite_tilesOnly o.seq tile) s.tiles
      (s.setOp o.seq (Op.unmarked tile))
    have hop : (s.setOp o.seq (Op.unmarked tile)).op? o.seq = some (o.unmarked tile) := State.op?_setOp _ ho fun _ => rfl
    refine ⟨_, o.unmarked tile, act_eq_next (f := fun s => s.endWait tile) hl (State.endWait_eq hf)
      (ht.halted.trans (State.halted_of_live hl)) ht.pending, (State.op?_of_ops ht.ops _).trans hop, ?_,
      fun site f hc hs hft hn => ?_, congrFun ht.byteAt⟩
    · simp [Op.unmarked]
    · have hx : (site, s.tile site) ∈ s.tiles := mem_of_mget_ne fun h => by
        rw [show s.tile site = {} from h] at hc
        cases hc
      exact State.foldl_unmarkSite_cur hcan.1 hx hc hs hft hop hn
  · refine ⟨_, exec_stepIssue hc ho hs hl, ?_⟩
    have htile := State.issueStep_tile hc ho hs
    rw [(htile site).trans (if_pos rfl)]
    exact ⟨State.issued_of_lt hc, State.issued_of_last, fun j hj => (htile j).trans (if_neg hj),
      fun hled => congrFun (State.issueStep_byteAt hc ho hs hled)⟩

end Sys2Proof.Machine
end

section
/-! Bits in memory: what a bit write of the own context leaves in every byte, and what bits read back (R29). -/

namespace Sys2Proof.Machine

open Sys2Proof.Safety

/-! ### Bytes of a number -/

theorem leNat_leBytes (k v : Nat) : leNat (leBytes k v) = v % 256 ^ k := by
  induction k generalizing v with
  | zero => simp [leBytes, leNat, Nat.mod_one]
  | succ k ih =>
    rw [leBytes, leNat, ih, BitVec.toNat_ofNat, pow_succ' 256 k, Nat.mod_mul (a := 256)]

theorem leBytes_length (k v : Nat) : (leBytes k v).length = k := by
  induction k generalizing v with
  | zero => rfl
  | succ k ih => rw [leBytes, List.length_cons, ih]

theorem bitsOf_mod {v m hi lo : Nat} (h : hi < m) : bitsOf (v % 2 ^ m) hi lo = bitsOf v hi lo := by
  apply Nat.eq_of_testBit_eq
  intro i
  rw [bitsOf_testBit, bitsOf_testBit, Nat.testBit_mod_two_pow]
  by_cases hi' : i < hi + 1 - lo
  · rw [decide_eq_true (show lo + i < m by omega), Bool.true_and]
  · simp [hi']

/-! ### Bits read -/

/-- The last byte of a run of bits holds its last bit. -/
theorem bits_in_bytes (a n : Nat) : a % 8 + n ≤ 8 * ceilDiv (a % 8 + n) 8 := by
  unfold ceilDiv
  omega

/-- A run of at least one bit is a field of the number that its bytes hold. -/
theorem rdBits_eq_bitsOf (rd : Rd) (b : Nat) {n : Nat} (hn : n ≠ 0) :
    rdBits rd b n = bitsOf (rdNat rd (b / 8) (ceilDiv (b % 8 + n) 8)) (b % 8 + n - 1) (b % 8) := by
  unfold rdBits bitsOf
  rw [show b % 8 + n - 1 + 1 - b % 8 = n by omega]

theorem rdBits_zero (rd : Rd) (b : Nat) : rdBits rd b 0 = 0 := Nat.mod_one _

/-- Bits are read from the bytes they lie in, and from no other. -/
theorem rdBits_congr {rd rd' : Rd} {b n : Nat} (h : ∀ i < n, rd ((b + i) / 8) = rd' ((b + i) / 8)) :
    rdBits rd b n = rdBits rd' b n := by
  have hb : rdBytes rd (b / 8) (ceilDiv (b % 8 + n) 8) = rdBytes rd' (b / 8) (ceilDiv (b % 8 + n) 8) ∨ n = 0 := by
    by_cases hn : n = 0
    · exact .inr hn
    · refine .inl (List.map_congr_left fun j hj => ?_)
      have hj : j < ceilDiv (b % 8 + n) 8 := List.mem_range.mp hj
      unfold ceilDiv at hj
      have hi := h (8 * j - b % 8) (by omega)
      rwa [show (b + (8 * j - b % 8)) / 8 = b / 8 + j by omega] at hi
  rcases hb with hb | rfl
  · unfold rdBits rdNat
    rw [hb]
  · rw [rdBits_zero, rdBits_zero]

/-! ### One bit write -/

section
variable (s : State)

theorem State.ctxRd_own : s.ctxRd false = s.byteAt := rfl

theorem State.peek_memWrite (a : Nat) (bs : List Byte) : (s.memWrite a bs).peek a bs.length = bs := by
  have h : (s.memWrite a bs).byteAt = (s.poke a bs).byteAt := by
    funext c
    rw [State.byteAt_memWrite, State.byteAt_poke]
  unfold State.peek
  rw [h]
  exact s.peek_poke a bs

/-- A number written, read back. -/
theorem State.rdNat_memWrite (a k x : Nat) : rdNat (s.memWrite a (leBytes k x)).byteAt a k = x % 256 ^ k := by
  have h := s.peek_memWrite a (leBytes k x)
  rw [leBytes_length] at h
  exact (congrArg leNat h).trans (leNat_leBytes k x)

theorem State.ctxBits_zero (p : Bool) (b x : Nat) : s.ctxBits p (b, 0, x) = s := rfl

theorem State.ctxBits_pos (p : Bool) (b x : Nat) {n : Nat} (hn : n ≠ 0) :
    s.ctxBits p (b, n, x) = s.ctxWrite p (b / 8) (leBytes (ceilDiv (b % 8 + n) 8)
      (setBits (rdNat (s.ctxRd p) (b / 8) (ceilDiv (b % 8 + n) 8)) (b % 8 + n - 1) (b % 8) x)) := if_neg hn

theorem State.ctxBits_own (b x : Nat) {n : Nat} (hn : n ≠ 0) :
    s.ctxBits false (b, n, x) = s.memWrite (b / 8) (leBytes (ceilDiv (b % 8 + n) 8)
      (setBits (rdNat s.byteAt (b / 8) (ceilDiv (b % 8 + n) 8)) (b % 8 + n - 1) (b % 8) x)) := s.ctxBits_pos false b x hn

/-- A bit write leaves every byte alone that holds none of its bits. -/
theorem State.byteAt_ctxBits {w : BitWrite} {a : Nat} (h : ¬ touches w a) :
    (s.ctxBits false w).byteAt a = s.byteAt a := by
  obtain ⟨b, n, x⟩ := w
  by_cases hn : n = 0
  · rw [hn, State.ctxBits_zero]
  · rw [s.ctxBits_own b x hn, State.byteAt_memWrite, leBytes_length]
    exact if_neg h

/-- The bits just written. -/
theorem State.rdBits_ctxBits (b n x : Nat) : rdBits (s.ctxBits false (b, n, x)).byteAt b n = x % 2 ^ n := by
  by_cases hn : n = 0
  · rw [hn, rdBits_zero, pow_zero, Nat.mod_one]
  · have hk := bits_in_bytes b n
    rw [rdBits_eq_bitsOf _ _ hn, s.ctxBits_own b x hn, State.rdNat_memWrite,
      show 256 = 2 ^ 8 from rfl, ← pow_mul, bitsOf_mod (by omega), bitsOf_setBits_same,
      show b % 8 + n - 1 + 1 - b % 8 = n by omega]

end

/-! ### Bit writes in order -/

section
variable (s : State)

theorem State.clearWhole_byteAt (p : Bool) (ws : List BitWrite) : (s.clearWhole p ws).byteAt = s.byteAt := by
  unfold State.clearWhole
  split <;> rfl

theorem State.byteAt_foldl_ctxBits {ws : List BitWrite} {a : Nat} (h : ∀ w ∈ ws, ¬ touches w a) :
    (ws.foldl (fun s w => State.ctxBits s false w) s).byteAt a = s.byteAt a :=
  foldl_keeps (fun t => State.byteAt t a) _ ws s fun t w hw => t.byteAt_ctxBits (h w hw)

/-- Bit writes leave every byte alone that holds none of their bits. -/
theorem State.byteAt_ctxBitsAll {ws : List BitWrite} {a : Nat} (h : ∀ w ∈ ws, ¬ touches w a) :
    (s.ctxBitsAll false ws).byteAt a = s.byteAt a :=
  (State.byteAt_foldl_ctxBits _ h).trans (congrFun (s.clearWhole_byteAt false ws) a)

/-- Bits written stand where no later write touches their bytes. -/
theorem State.rdBits_ctxBitsAll {ws l m : List BitWrite} {b n x : Nat} (hw : ws = l ++ (b, n, x) :: m)
    (h : ∀ w ∈ m, ∀ i < n, ¬ touches w ((b + i) / 8)) :
    rdBits (s.ctxBitsAll false ws).byteAt b n = x % 2 ^ n := by
  unfold State.ctxBitsAll
  generalize s.clearWhole false ws = z
  rw [hw, List.foldl_append, List.foldl_cons,
    rdBits_congr fun i hi => State.byteAt_foldl_ctxBits _ fun w hm => h w hm i hi]
  exact State.rdBits_ctxBits _ b n x

theorem State.byteAt_ctxBitsAll_nil : (s.ctxBitsAll false []).byteAt = s.byteAt := s.clearWhole_byteAt false []

end

end Sys2Proof.Machine
end

section
/-! What the writes of an operation, its ledger and its end leave alone (R158, R168). -/

namespace Sys2Proof.Machine

/-! ### Stores -/

/-- Only the memories, the lines in error and the twin's granules differ. -/
abbrev StoresOnly (s t : State) : Prop := t = { s with mem := t.mem, panel := t.panel, hbm := t.hbm, twin := t.twin }

theorem StoresOnly.refl (s : State) : StoresOnly s s := rfl

theorem StoresOnly.trans {s t u : State} (h : StoresOnly s t) (k : StoresOnly t u) : StoresOnly s u := by
  unfold StoresOnly at *
  rw [k, h]

theorem storesOnly_foldl {α : Type} (f : State → α → State) (hf : ∀ s x, StoresOnly s (f s x)) (l : List α) (s : State) :
    StoresOnly s (l.foldl f s) := by
  induction l generalizing s with
  | nil => exact .refl s
  | cons x r ih => exact (hf s x).trans (ih _)

section
variable (s : State)

theorem State.mapGranule_storesOnly (g : Nat) : StoresOnly s (s.mapGranule g) := by
  unfold State.mapGranule
  split <;> rfl

theorem State.xpoke_storesOnly (a : Nat) (b : Byte) : StoresOnly s (s.xpoke a b) := by
  unfold State.xpoke
  split
  · unfold State.pokeByte
    split <;> rfl
  · rfl

theorem State.xpokes_storesOnly (a : Nat) (bs : List Byte) : StoresOnly s (s.xpokes a bs) := by
  induction bs generalizing s a with
  | nil => rfl
  | cons b r ih => exact (s.xpoke_storesOnly a b).trans (ih _ _)

theorem State.ctxWrite_storesOnly (p : Bool) (a : Nat) (bs : List Byte) : StoresOnly s (s.ctxWrite p a bs) := by
  unfold State.ctxWrite
  split
  · exact ((storesOnly_foldl _ (fun t g => t.mapGranule_storesOnly g) _ _).trans (State.xpokes_storesOnly _ a bs)).trans rfl
  · exact s.memWrite_fields a bs

theorem State.ctxBits_storesOnly (p : Bool) (w : BitWrite) : StoresOnly s (s.ctxBits p w) := by
  obtain ⟨b, n, x⟩ := w
  by_cases hn : n = 0
  · rw [hn, State.ctxBits_zero]
  · rw [s.ctxBits_pos p b x hn]
    exact s.ctxWrite_storesOnly p _ _

theorem State.clearWhole_storesOnly (p : Bool) (ws : List BitWrite) : StoresOnly s (s.clearWhole p ws) := by
  unfold State.clearWhole
  split <;> rfl

theorem State.ctxBitsAll_storesOnly (p : Bool) (ws : List BitWrite) : StoresOnly s (s.ctxBitsAll p ws) :=
  (s.clearWhole_storesOnly p ws).trans (storesOnly_foldl _ (fun t w => t.ctxBits_storesOnly p w) ws _)

theorem State.noteMirror_twin (p : Bool) (t : Tensor) : s.noteMirror p t = { s with twin := (s.noteMirror p t).twin } := by
  unfold State.noteMirror
  dsimp only
  split
  · split <;> rfl
  · rfl

theorem State.noteMirror_storesOnly (p : Bool) (t : Tensor) : StoresOnly s (s.noteMirror p t) := by
  have h := s.noteMirror_twin p t
  unfold StoresOnly
  rw [h]

theorem State.noteMirror_byteAt (p : Bool) (t : Tensor) : (s.noteMirror p t).byteAt = s.byteAt := by
  rw [s.noteMirror_twin p t]
  rfl

theorem State.logEntry_storesOnly (e : Event) : StoresOnly s (s.logEntry e) := by
  unfold State.logEntry
  dsimp only
  split
  · rfl
  · exact s.memWrite_fields _ _

end

/-! ### Registers and the Ostler's notes -/

/-- Only registers and the Ostler's notes differ. -/
abbrev RegsOst (s t : State) : Prop := t = { s with regs := t.regs, ost := t.ost }

theorem RegsOst.refl (s : State) : RegsOst s s := rfl

theorem RegsOst.trans {s t u : State} (h : RegsOst s t) (k : RegsOst t u) : RegsOst s u := by
  unfold RegsOst at *
  rw [k, h]

theorem RegsOnly.regsOst {s t : State} (h : RegsOnly s t) : RegsOst s t := by
  unfold RegsOst
  rw [h]

theorem regsOst_set_ost {s t : State} (h : RegsOnly s t) (x : Ost) : RegsOst s { t with ost := x } := by
  unfold RegsOst
  rw [h]

section
variable {s t : State} (h : RegsOst s t)
include h

theorem RegsOst.ops : t.ops = s.ops := by rw [h]
theorem RegsOst.halted : t.halted = s.halted := by rw [h]
theorem RegsOst.pending : t.pending = s.pending := by rw [h]

end

/-! ### The ledger, the counts and the end of an operation -/

/-- An operation without what its ledger, its counts and its end change in it. -/
def Op.core (o : Op) : Op := { o with ledgerN := 0, cnt := {}, status := 0, phase := .selected, inArray := false }

/-- An operation with more counted (R164). -/
def Op.counted (c : Counts) (o : Op) : Op := { o with cnt := o.cnt.plus c }

/-- What `Op.core` keeps is alike in operations with the same core. -/
theorem Op.of_core {α : Type} (p : Op → α) (hp : ∀ o : Op, p o.core = p o) {o o' : Op} (h : o'.core = o.core) :
    p o' = p o := by rw [← hp o', h, hp]

/-- State `t` differs from `s` by stores, by other operations, and in operation `seq` by no more than `Op.core` drops. -/
structure KeepsOp (seq : Nat) (s t : State) : Prop where
  op : (t.op? seq).map Op.core = (s.op? seq).map Op.core
  regs : t.regs = s.regs
  ost : t.ost = s.ost
  tiles : t.tiles = s.tiles
  halted : t.halted = s.halted
  pending : t.pending = s.pending

section
variable {seq : Nat}

theorem KeepsOp.refl (s : State) : KeepsOp seq s s := ⟨rfl, rfl, rfl, rfl, rfl, rfl⟩

theorem KeepsOp.trans {s t u : State} (h : KeepsOp seq s t) (k : KeepsOp seq t u) : KeepsOp seq s u :=
  ⟨k.op.trans h.op, k.regs.trans h.regs, k.ost.trans h.ost, k.tiles.trans h.tiles, k.halted.trans h.halted,
    k.pending.trans h.pending⟩

/-- The operation is found again, alike but for what `Op.core` drops. -/
theorem KeepsOp.find {s t : State} {o : Op} (h : KeepsOp seq s t) (ho : s.op? seq = some o) :
    ∃ o', t.op? seq = some o' ∧ o'.core = o.core := by
  have hm := h.op
  rw [ho] at hm
  exact Option.map_eq_some_iff.mp hm

theorem KeepsOp.fget {s t : State} (h : KeepsOp seq s t) (f : Fld) (i : Nat) : t.fget f i = s.fget f i :=
  State.fget_of_regs h.regs f i

theorem StoresOnly.keepsOp {s t : State} (h : StoresOnly s t) : KeepsOp seq s t := by
  rw [h]
  exact ⟨rfl, rfl, rfl, rfl, rfl, rfl⟩

theorem State.op?_map_setOp (s : State) {g : Op → Op} {α : Type} (p : Op → α) (hs : ∀ o, (g o).seq = o.seq)
    (hp : ∀ o, p (g o) = p o) : ((s.setOp seq g).op? seq).map p = (s.op? seq).map p := by
  cases h : s.op? seq with
  | none =>
    have : (s.setOp seq g).op? seq = none := by
      unfold State.op? State.setOp at *
      rw [List.find?_eq_none] at h ⊢
      intro o ho
      obtain ⟨x, hx, rfl⟩ := List.mem_map.mp ho
      rw [if_neg (by simpa using h x hx)]
      exact h x hx
    rw [this]
  | some o => rw [State.op?_setOp g h hs, Option.map_some, Option.map_some, hp]

theorem keepsOp_setOp (s : State) {g : Op → Op} (hs : ∀ o, (g o).seq = o.seq) (hc : ∀ o, (g o).core = o.core) :
    KeepsOp seq s (s.setOp seq g) := ⟨s.op?_map_setOp Op.core hs hc, rfl, rfl, rfl, rfl, rfl⟩

theorem State.count_keepsOp (s : State) (c : Counts) : KeepsOp seq s (s.setOp seq (Op.counted c)) :=
  keepsOp_setOp s (fun _ => rfl) fun _ => rfl

theorem State.ledgerOne_keepsOp (s : State) (e : LEvent) : KeepsOp seq s (State.ledgerOne seq s e) := by
  unfold State.ledgerOne
  split
  · exact .refl s
  · split
    · exact (State.ctxWrite_storesOnly s _ _ _).keepsOp.trans (keepsOp_setOp _ (fun _ => rfl) fun _ => rfl)
    · exact .refl s

theorem State.ledger_keepsOp (s : State) (es : List LEvent) : KeepsOp seq s (s.ledger seq es) := by
  induction es generalizing s with
  | nil => exact .refl s
  | cons e r ih => exact (s.ledgerOne_keepsOp e).trans (ih _)

end

/-- An operation whose outputs have all been delivered. -/
def Op.ended (cnt : Counts) (status : Nat) (o : Op) : Op :=
  { o with cnt := cnt, status := status, phase := .written, inArray := false }

/-- An operation that delivers its own outputs and does not retemper ends with its other writes and their events. -/
theorem State.endRun_eq (s : State) {o : Op} (hf : o.fusedPost = false) (hr : o.d.retemper = 0) :
    ∃ es cnt st, s.endRun o =
      ((s.ctxBitsAll o.partner (restOfRun (s.runEnv o)).extra).ledger o.seq es).setOp o.seq (Op.ended cnt st) := by
  have hover (n a b c : Nat) : o.d.overThresh n a b c = false := by
    unfold Desc.overThresh
    rw [hr]
    rfl
  unfold State.endRun
  dsimp only
  rw [hf, hover]
  exact ⟨_, _, _, rfl⟩

theorem State.endRun_keepsOp (s : State) {o : Op} (hf : o.fusedPost = false) (hr : o.d.retemper = 0) :
    KeepsOp o.seq s (s.endRun o) := by
  obtain ⟨es, cnt, st, h⟩ := s.endRun_eq hf hr
  rw [h]
  exact ((s.ctxBitsAll_storesOnly _ _).keepsOp.trans (State.ledger_keepsOp _ es)).trans
    (keepsOp_setOp _ (fun _ => rfl) fun _ => rfl)

/-- At its end the operation stands as written. -/
theorem State.endRun_op {s : State} {o o₁ : Op} (hf : o.fusedPost = false) (hr : o.d.retemper = 0)
    (ho : s.op? o.seq = some o₁) :
    ∃ o', (s.endRun o).op? o.seq = some o' ∧ o'.core = o₁.core ∧ o'.phase = .written := by
  obtain ⟨es, cnt, st, h⟩ := s.endRun_eq hf hr
  have hk := (s.ctxBitsAll_storesOnly o.partner (restOfRun (s.runEnv o)).extra).keepsOp.trans
    (State.ledger_keepsOp (seq := o.seq) _ es)
  obtain ⟨o₂, h₂, hc⟩ := hk.find ho
  rw [h]
  exact ⟨_, State.op?_setOp _ h₂ fun _ => rfl, hc, rfl⟩

end Sys2Proof.Machine
end

section
/-! Rows of the finishers and the terms of the exact-add unit (R82, R281). -/

namespace Sys2Proof.Machine

open Sys2Proof.Safety

/-- An operation that reads nothing unsealed runs on the state as it is (R229). -/
theorem State.runEnv_of_sealed {s : State} {o : Op} (h : s.readsOpen o = []) : s.runEnv o = s.envOf o :=
  if_pos (by rw [h]; rfl)

/-! ### EXACT_ADD -/

/-- The unit's write for a source element: the term added exactly to the destination element. -/
theorem scatterOne_extra {v : Env} {l b : Nat} {idx : List Nat}
    (h : v.t2.place v.rd (unlinear v.t2.psizes l) = .at b idx) :
    (scatterOne v l).extra =
      [(b, v.t2.w, exactAddElem v.t2.w (scatterTerm v v.t2.w (v.d.t0.elemAt v.rd l)) (rdBits v.rd b v.t2.w))] := by
  unfold scatterOne
  dsimp only
  rw [h]

/-- The memory after the write of one exact add. -/
def State.exactWritten (s : State) (v : Env) (elem : Nat) : State :=
  (s.noteMirror false v.t2).ctxBitsAll false (scatterOne v elem).extra

theorem State.exactWritten_storesOnly (s : State) (v : Env) (elem : Nat) : StoresOnly s (s.exactWritten v elem) :=
  (s.noteMirror_storesOnly _ _).trans (State.ctxBitsAll_storesOnly _ _ _)

section
variable {s : State} {v : Env} {elem b : Nat} {idx : List Nat}
  (h : v.t2.place v.rd (unlinear v.t2.psizes elem) = .at b idx)
include h

theorem State.exactWritten_elem : rdBits (s.exactWritten v elem).byteAt b v.t2.w =
    exactAddElem v.t2.w (scatterTerm v v.t2.w (v.d.t0.elemAt v.rd elem)) (rdBits v.rd b v.t2.w) % 2 ^ v.t2.w :=
  State.rdBits_ctxBitsAll _ (l := []) (m := []) (scatterOne_extra h) (by simp)

theorem State.exactWritten_byteAt {a : Nat} (ha : ¬ touches (b, v.t2.w, 0) a) :
    (s.exactWritten v elem).byteAt a = s.byteAt a := by
  have hw : ∀ w ∈ (scatterOne v elem).extra, ¬ touches w a := by
    rw [scatterOne_extra h]
    intro w hw
    rw [List.mem_singleton.mp hw]
    exact ha
  exact (State.byteAt_ctxBitsAll _ hw).trans (congrFun (s.noteMirror_byteAt _ _) a)

end

/-- What an exact add counts (R164). -/
def exactCounts (r : RunOut) : Counts := { spillHi := r.spillHi, spillLo := r.spillLo, narOut := r.narOut }

/-- An operation whose exact add of one source element is done. -/
def Op.added (elem : Nat) (c : Counts) (o : Op) : Op :=
  { o with blocks := o.blocks ++ [(elem, 0)], cnt := o.cnt.plus c }

/-- An operation whose exact adds are all done, by the ledger events of its destination's list (R147). -/
def Op.addsDone (es : List LEvent) (o : Op) : Op :=
  { o with phase := .written, status := if es.isEmpty then o.status else 0x24 }

/-- The state after one exact add. -/
def State.afterAdd (s : State) (seq : Nat) (v : Env) (elem : Nat) : State :=
  ((s.exactWritten v elem).ledger seq (scatterOne v elem).evs).setOp seq (Op.added elem (exactCounts (scatterOne v elem)))

section
variable {s : State} {seq elem : Nat} {o : Op} (ho : s.op? seq = some o) (hop : o.d.opcode = opScatter)
  (he : elem < o.d.t0.count) (hb : (elem, 0) ∉ o.blocks) (hrun : s.runnable { o with blocks := [] } = true)
  (hu : s.opUe o = []) (hroom : s.runRoom o = true) (hp : o.partner = false) (hs : s.readsOpen o = [])
include ho hop he hb hrun hu hroom hp hs

/-- An exact add of an operation that may run; after the last one the operation is done. -/
theorem State.exactAdd_eq :
    s.exactAdd seq elem =
      let t := s.afterAdd seq (s.envOf o) elem
      if o.blocks.length + 1 < o.d.t0.count then t
      else
        let es := listEvents (s.envOf o).t2 (s.envOf o).rd
        (t.ledger seq (listEvents o.d.t0 (s.envOf o).rd ++ es)).setOp seq (Op.addsDone es) := by
  have hg : ¬ (o.d.opcode ≠ opScatter ∨ o.d.t0.count ≤ elem ∨ o.blocks.contains (elem, 0) = true ∨
      (!s.runnable { o with blocks := [] }) = true) := by
    simp [hop, he, hb, hrun]
  unfold State.exactAdd
  rw [ho]
  dsimp only
  rw [if_neg hg, hu, hroom, State.runEnv_of_sealed hs, hp]
  rfl

/-- What an exact add leaves: the operation with its element noted, the memory with its write. -/
theorem State.exactAdd_spec (hl : o.d.ledgerEn = false) :
    let t := s.exactAdd seq elem
    t.byteAt = (s.exactWritten (s.envOf o) elem).byteAt ∧ t.halted = s.halted ∧ t.pending = s.pending ∧
      ∃ o', t.op? seq = some o' ∧ (elem, 0) ∈ o'.blocks ∧
        (o.blocks.length + 1 = o.d.t0.count → o'.phase = .written) := by
  have hz := s.exactWritten_storesOnly (s.envOf o) elem
  have hw : (s.exactWritten (s.envOf o) elem).op? seq = some o := (State.op?_of_ops (by rw [hz]) _).trans ho
  have hh : (s.exactWritten (s.envOf o) elem).halted = s.halted := by rw [hz]
  have hq : (s.exactWritten (s.envOf o) elem).pending = s.pending := by rw [hz]
  have h1 := State.op?_setOp (Op.added elem (exactCounts (scatterOne (s.envOf o) elem))) hw fun _ => rfl
  rw [State.exactAdd_eq ho hop he hb hrun hu hroom hp hs]
  unfold State.afterAdd
  dsimp only
  rw [State.ledger_off hw hl, State.ledger_off h1 hl]
  split
  · rename_i hlt
    exact ⟨rfl, hh, hq, _, h1, by simp [Op.added], fun h => absurd h (by omega)⟩
  · exact ⟨rfl, hh, hq, _, State.op?_setOp _ h1 fun _ => rfl, by simp [Op.added, Op.addsDone], fun _ => rfl⟩

end

/-! ### FINISHER_ROW -/

/-- A finisher of a quarter that has taken up one row. -/
def State.tookRow (s : State) (q : Nat) : State := (s.useFinisher q 1).countRows 1

theorem State.fget_set_ost (s : State) (x : Ost) (f : Fld) (i : Nat) : State.fget { s with ost := x } f i = s.fget f i := rfl

/-- A finisher taken up changes the BUSY bits and the Ostler's note of when it is free again. -/
theorem State.useFinisher_eq (s : State) (q n : Nat) : ∃ x, s.useFinisher q n =
    { s.fset Fl.qchFinBusy 0 (setBits (s.fget Fl.qchFinBusy 0) q q 1) with ost := x } := ⟨_, rfl⟩

theorem State.useFinisher_fget (s : State) (q n : Nat) (f : Fld) (i : Nat) : (s.useFinisher q n).fget f i =
    (s.fset Fl.qchFinBusy 0 (setBits (s.fget Fl.qchFinBusy 0) q q 1)).fget f i := by
  obtain ⟨x, h⟩ := s.useFinisher_eq q n
  rw [h]
  exact State.fget_set_ost _ x f i

theorem State.useFinisher_regsOst (s : State) (q n : Nat) : RegsOst s (s.useFinisher q n) := by
  obtain ⟨x, h⟩ := s.useFinisher_eq q n
  rw [h]
  exact regsOst_set_ost (regsOnly_fset s _ _ _) x

theorem State.tookRow_busy (s : State) {q : Nat} (hq : q < 4) : bitsOf ((s.tookRow q).fget Fl.qchFinBusy 0) q q = 1 := by
  have h : (s.useFinisher q 1).fget Fl.qchFinBusy 0 = setBits (s.fget Fl.qchFinBusy 0) q q 1 % 2 ^ 4 :=
    (s.useFinisher_fget q 1 _ _).trans (s.fget_fset_same Fl.qchFinBusy 0 _ (by decide))
  unfold State.tookRow State.countRows
  rw [State.fget_fset_field (f := Fl.qchFinRows) (g := Fl.qchFinBusy) _ _ _ (by decide) rfl (by decide), h, bitsOf_mod hq,
    bitsOf_setBits_same, show q + 1 - q = 1 by omega]
  rfl

theorem State.tookRow_rows (s : State) (q : Nat) :
    (s.tookRow q).fget Fl.qchFinRows 0 = (s.fget Fl.qchFinRows 0 + 1) % 2 ^ 48 := by
  have h : (s.useFinisher q 1).fget Fl.qchFinRows 0 = s.fget Fl.qchFinRows 0 :=
    (s.useFinisher_fget q 1 _ _).trans
      (State.fget_fset_field (f := Fl.qchFinBusy) (g := Fl.qchFinRows) _ _ _ (by decide) rfl (by decide))
  unfold State.tookRow State.countRows
  rw [State.fget_fset_same _ _ _ _ (by decide), h]
  exact Nat.mod_mod _ _

/-- The outputs of a finisher row. -/
def rowRun (v : Env) (row : Nat) : RunOut := { outs := (runOf v).outs.filter fun e => finisherRowOf v e.idx == row }

/-- A finisher row's outputs written, entered in the ledger and counted. -/
def State.rowWritten (s : State) (o : Op) (v : Env) (row : Nat) : State :=
  (((s.noteMirror o.partner v.t2).ctxBitsAll o.partner ((rowRun v row).writes v)).ledger o.seq
    ((rowRun v row).outs.flatMap fun e => e.evs)).setOp o.seq (Op.counted ((rowRun v row).counts v))

theorem State.rowWritten_keepsOp (s : State) (o : Op) (v : Env) (row : Nat) : KeepsOp o.seq s (s.rowWritten o v row) := by
  have hw := (s.noteMirror_storesOnly o.partner v.t2).trans
    (State.ctxBitsAll_storesOnly _ o.partner ((rowRun v row).writes v))
  exact (hw.keepsOp.trans (State.ledger_keepsOp _ _)).trans (State.count_keepsOp _ _)

/-- Operation `o` of state `s` has ended in `t` with its rows; of the registers no more than ARR_GAUGE_EVT has changed. -/
structure RowsEnded (o : Op) (s t : State) : Prop where
  op : ∃ o', t.op? o.seq = some o' ∧ o'.rows = o.rows ∧ o'.phase = .written
  fget : ∀ f i, i < f.reg.place.2.1 → f.reg ≠ .arrGaugeEvt → t.fget f i = s.fget f i
  halted : t.halted = s.halted
  pending : t.pending = s.pending

section
variable {s : State} {o : Op} (ho : s.op? o.seq = some o) (hf : o.fusedPost = false) (hr : o.d.retemper = 0)
include ho hf hr

theorem State.endRun_rowsEnded : RowsEnded o s (s.endRun o) := by
  obtain ⟨o', h', hc, hp⟩ := State.endRun_op hf hr ho
  have hk := s.endRun_keepsOp hf hr
  exact ⟨⟨o', h', Op.of_core Op.rows (fun _ => rfl) hc, hp⟩, fun f i _ _ => hk.fget f i, hk.halted, hk.pending⟩

/-- The rows end the same way where gauge counts are taken first. -/
theorem State.endRun_counted (n : Nat) (c : Counts) :
    RowsEnded o s (((s.addUnchecked n).setOp o.seq (Op.counted c)).endRun (o.counted c)) := by
  have h1 : ((s.addUnchecked n).setOp o.seq (Op.counted c)).op? o.seq = some (o.counted c) :=
    State.op?_setOp _ ((State.op?_of_ops (regsOnly_fset s _ _ _).ops _).trans ho) fun _ => rfl
  have h := State.endRun_rowsEnded (o := o.counted c) h1 hf hr
  have hr := regsOnly_fset s Fl.arrGaugeEvtUnchecked 0 ((s.fget Fl.arrGaugeEvtUnchecked 0 + n) % 2 ^ 24)
  refine ⟨h.op, fun f i hi hg => (h.fget f i hi hg).trans ?_, (h.halted.trans (State.setOp_halted _ _ _)).trans hr.halted,
    (h.pending.trans (State.setOp_pending _ _ _)).trans hr.pending⟩
  exact (State.fget_of_regs (State.setOp_regs _ _ _) f i).trans (s.fget_fset_ne _ (by decide) hi (.inl hg))

/-- The last row ends the operation, whether its blocks ran in tiles or not. -/
theorem State.endRows_rowsEnded : RowsEnded o s (s.endRows o.seq) := by
  unfold State.endRows
  rw [ho]
  dsimp only
  split
  · exact State.endRun_rowsEnded ho hf hr
  · exact State.endRun_counted ho hf hr _ _

end

/-- An operation with a row noted. -/
def Op.noted (row : Nat) (o : Op) : Op := { o with rows := o.rows ++ [row], inArray := true }

/-- A finisher that has taken up a row of an operation. -/
def State.rowTaken (s : State) (q seq row : Nat) : State := (s.tookRow q).setOp seq (Op.noted row)

section
variable (s : State) (q seq row : Nat)

theorem State.tookRow_regsOst : RegsOst s (s.tookRow q) :=
  (s.useFinisher_regsOst q 1).trans (regsOnly_fset _ _ _ _).regsOst

theorem State.rowTaken_halted : (s.rowTaken q seq row).halted = s.halted :=
  (State.setOp_halted _ _ _).trans (s.tookRow_regsOst q).halted

theorem State.rowTaken_pending : (s.rowTaken q seq row).pending = s.pending :=
  (State.setOp_pending _ _ _).trans (s.tookRow_regsOst q).pending

theorem State.rowTaken_fget (f : Fld) (i : Nat) : (s.rowTaken q seq row).fget f i = (s.tookRow q).fget f i :=
  State.fget_of_regs (State.setOp_regs _ _ _) f i

variable {s seq} in
theorem State.rowTaken_op? {o : Op} (ho : s.op? seq = some o) :
    (s.rowTaken q seq row).op? seq = some (o.noted row) :=
  State.op?_setOp _ ((State.op?_of_ops (s.tookRow_regsOst q).ops _).trans ho) fun _ => rfl

end

section
variable {s : State} {q seq row : Nat} {o : Op} (ho : s.op? seq = some o)
  (hq : bitsOf (s.fget Fl.qchFinBusy 0) q q = 0) (hn : row < finisherRows (s.runEnv o)) (hrow : row ∉ o.rows)
  (hready : s.rowsReady o = true) (hu : s.opUe o = []) (hroom : s.runRoom o = true) (hf : o.fusedPost = false)
include ho hq hn hrow hready hu hroom hf

/-- A row that a finisher may take up; the last one ends the operation. -/
theorem State.finisherRow_eq :
    s.finisherRow q seq row =
      let t := (s.rowTaken q seq row).rowWritten o (s.runEnv o) row
      if o.rows.length + 1 < finisherRows (s.runEnv o) then t else t.endRows seq := by
  obtain rfl := State.seq_of_op? ho
  have hg : ¬ (s.finBusy q = true ∨ finisherRows (s.runEnv o) ≤ row ∨ o.rows.contains row = true ∨
      (!s.rowsReady o) = true) := by
    simp [State.finBusy, hq, hn, hrow, hready]
  unfold State.finisherRow
  rw [ho]
  dsimp only
  rw [if_neg hg, hu, hroom, hf]
  rfl

/-- What a finisher row leaves: the operation with its row noted, and written after the last one; the finisher busy and its
row counted. -/
theorem State.finisherRow_spec (hlast : o.rows.length + 1 < finisherRows (s.runEnv o) ∨ o.d.retemper = 0) :
    let t := s.finisherRow q seq row
    t.halted = s.halted ∧ t.pending = s.pending ∧
      (∀ f : Fld, f.reg = .qchFin → t.fget f 0 = (s.tookRow q).fget f 0) ∧
      ∃ o', t.op? seq = some o' ∧ row ∈ o'.rows ∧
        (finisherRows (s.runEnv o) ≤ o.rows.length + 1 → o'.phase = .written) := by
  rw [State.finisherRow_eq ho hq hn hrow hready hu hroom hf]
  obtain rfl := State.seq_of_op? ho
  have hk := (s.rowTaken q o.seq row).rowWritten_keepsOp o (s.runEnv o) row
  obtain ⟨o₁, h₁, hc⟩ := hk.find (State.rowTaken_op? q row ho)
  have hhalt := hk.halted.trans (s.rowTaken_halted q o.seq row)
  have hpend := hk.pending.trans (s.rowTaken_pending q o.seq row)
  have hfget (f : Fld) := (hk.fget f 0).trans (s.rowTaken_fget q o.seq row f 0)
  generalize (s.rowTaken q o.seq row).rowWritten o (s.runEnv o) row = t at *
  have hrows : o₁.rows = o.rows ++ [row] := (Op.of_core Op.rows (fun _ => rfl) hc).trans rfl
  have hseq : o₁.seq = o.seq := (Op.of_core Op.seq (fun _ => rfl) hc).trans rfl
  have hmem : row ∈ o₁.rows := by simp [hrows]
  dsimp only
  split
  · exact ⟨hhalt, hpend, fun f _ => hfget f, o₁, h₁, hmem, fun h => absurd h (by omega)⟩
  · rename_i hlt
    have hf₁ : o₁.fusedPost = false := (Op.of_core Op.fusedPost (fun _ => rfl) hc).trans hf
    have hr₁ : o₁.d.retemper = 0 :=
      (Op.of_core (fun o => o.d.retemper) (fun _ => rfl) hc).trans (hlast.resolve_left hlt)
    rw [← hseq] at h₁ ⊢
    obtain ⟨⟨o', ho', hr', hp'⟩, hends, hhalt', hpend'⟩ := State.endRows_rowsEnded h₁ hf₁ hr₁
    exact ⟨hhalt'.trans hhalt, hpend'.trans hpend,
      fun f hq => (hends f 0 (by rw [hq]; decide) (by rw [hq]; decide)).trans (hfget f),
      o', ho', hr' ▸ hmem, fun _ => hp'⟩

end

/-- Settles O33: a row and a term are each one write of memory and one note in the operation, whose end is one more. -/
theorem rowsAndTerms : Obligations.RowsAndTerms := by
  refine ⟨fun s q seq row o hl hq4 ho => ?_, fun s seq elem b idx o hl ho hop he hb hrun hu hroom hp hled hs => ?_⟩
  · intro n hq hn hrow hready hu hroom hf hlast
    obtain ⟨hhalt, hpend, hfget, o', ho', hmem, hphase⟩ := State.finisherRow_spec ho hq hn hrow hready hu hroom hf hlast
    refine ⟨_, o', act_eq_next (f := fun s => s.finisherRow q seq row) hl rfl (hhalt.trans (State.halted_of_live hl)) hpend,
      ho', hmem, ?_, ?_, hphase⟩
    · rw [hfget _ rfl]
      exact s.tookRow_busy hq4
    · rw [hfget _ rfl]
      exact s.tookRow_rows q
  · intro v w hplace
    obtain ⟨hbytes, hhalt, hpend, o', ho', hmem, hphase⟩ := State.exactAdd_spec ho hop he hb hrun hu hroom hp hs hled
    refine ⟨_, o', act_eq_next (f := fun s => s.exactAdd seq elem) hl rfl (hhalt.trans (State.halted_of_live hl)) hpend,
      ho', hmem, ?_, fun a ha => ?_, hphase⟩
    · rw [State.ctxRd_own, hbytes]
      exact State.exactWritten_elem hplace
    · rw [hbytes]
      exact State.exactWritten_byteAt hplace ha

end Sys2Proof.Machine
end

section
/-! Blocks on their way out of a tile: relayed groups that arrive at one, and the terms of the saddlebag lane (R75, R131,
R178). -/

namespace Sys2Proof.Machine

/-! ### Block buffers -/

theorem Tile.mem_of_buf? {t : Tile} {c : Block → Bool} {b : Block} (h : t.buf? c = some b) : b ∈ t.bufs :=
  List.mem_of_find?_eq_some h

/-- What a buffered block has become stands in the buffers. -/
theorem Tile.mem_putBuf {t : Tile} {b b' : Block} (h : b ∈ t.bufs) (hf : b'.front = b.front) : b' ∈ (t.putBuf b').bufs :=
  List.mem_map.mpr ⟨b, h, if_pos hf.symm⟩

theorem Tile.readDrain_cur (t : Tile) : t.readDrain.cur = t.cur := by
  unfold Tile.readDrain
  split
  · split <;> rfl
  · rfl

/-! ### Groups on their way -/

/-- A group taken is no longer on its way. -/
theorem Op.inbound_take (o : Op) (f : Front) (k : Nat) : (o.take f k).inbound f k = none := by
  unfold Op.inbound
  split
  · rfl
  · rename_i r hr
    have hk := List.find?_some hr
    obtain ⟨r₀, -, rfl⟩ := List.mem_map.mp (List.mem_filter.mp (List.mem_of_find?_eq_some hr)).1
    have h₀ : (r₀.plc == f.plc && r₀.key == f.above) = true := by
      by_contra hn
      rw [if_neg hn] at hk
      exact hn hk
    rw [if_pos h₀, Option.map_eq_none_iff, List.find?_eq_none]
    intro g hg
    simpa using (List.mem_filter.mp hg).2

/-- An operation with groups put on their way down from a block. -/
def Op.sent (f : Front) (gs : List (Nat × Grp × Int)) (o : Op) : Op :=
  if o.sends.any fun r => r.plc == f.plc && r.key == f.key then
    { o with sends := o.sends.map fun r => if r.plc == f.plc && r.key == f.key then { r with grps := r.grps ++ gs } else r }
  else { o with sends := o.sends ++ [{ plc := f.plc, key := f.key, grps := gs }] }

theorem Op.sent_seq (f : Front) (gs : List (Nat × Grp × Int)) (o : Op) : (o.sent f gs).seq = o.seq := by
  unfold Op.sent
  split <;> rfl

/-- The groups put on their way are among those that the block has sent. -/
theorem Op.mem_sent (f : Front) (gs : List (Nat × Grp × Int)) (o : Op) :
    ∃ r ∈ (o.sent f gs).sends, r.plc = f.plc ∧ r.key = f.key ∧ ∀ g ∈ gs, g ∈ r.grps := by
  unfold Op.sent
  split
  · rename_i h
    obtain ⟨r, hr, hk⟩ := List.any_eq_true.mp h
    obtain ⟨hp, hq⟩ := Bool.and_eq_true_iff.mp hk
    refine ⟨_, List.mem_map_of_mem hr, ?_⟩
    rw [if_pos hk]
    exact ⟨eq_of_beq hp, eq_of_beq hq, fun g hg => List.mem_append_right _ hg⟩
  · exact ⟨_, List.mem_append_right _ (.head _), rfl, rfl, fun g hg => hg⟩

/-! ### RELAY_ARRIVE -/

/-- A block with a relayed group added to its own group of the same place. -/
def Block.relayed (d : Desc) (k : Nat) (g : Grp × Int) (b : Block) : Block :=
  { b with
    grps := mput {} b.grps k ((mget {} b.grps k).add d.gw g.1)
    sa := if k % 64 = 0 then mput 0 b.sa (k / 64) (mget 0 b.sa (k / 64) + g.2) else b.sa
    relayGot := b.relayGot ++ [k] }

theorem Block.relayed_front (d : Desc) (k : Nat) (g : Grp × Int) (b : Block) : (b.relayed d k g).front = b.front := by
  simp only [Block.relayed]

theorem Block.relayed_relayGot (d : Desc) (k : Nat) (g : Grp × Int) (b : Block) :
    (b.relayed d k g).relayGot = b.relayGot ++ [k] := by
  simp only [Block.relayed]

theorem Block.relayed_grps (d : Desc) (k : Nat) (g : Grp × Int) (b : Block) :
    (b.relayed d k g).grps = mput {} b.grps k ((mget {} b.grps k).add d.gw g.1) := by
  simp only [Block.relayed]

/-- A relayed group taken off its way into a buffered block. -/
def State.relayTaken (s : State) (site k : Nat) (b : Block) (o : Op) (g : Grp × Int) : State :=
  (s.setTile site ((s.tile site).putBuf (b.relayed o.d k g))).setOp b.front.seq fun o => o.take b.front k

section
variable {s : State} {site k : Nat} {b : Block} {o : Op} {g : Grp × Int}
  (hb : (s.tile site).buf? (s.takesRelay k) = some b) (ho : s.op? b.front.seq = some o)
  (hg : o.inbound b.front k = some g)
include hb ho hg

/-- The last tile of a chain keeps the sum for its quench. -/
theorem State.relayIn_last (hl : o.d.partOf b.front.tile + 1 = o.d.parts) :
    s.relayIn site k = s.relayTaken site k b o g := by
  unfold State.relayIn
  dsimp only
  rw [hb]
  dsimp only
  rw [ho]
  dsimp only
  rw [hg]
  exact if_pos hl

/-- Before the last group of a block the sum goes on down. -/
theorem State.relayIn_down (hl : o.d.partOf b.front.tile + 1 ≠ o.d.parts) (hn : b.relayGot.length + 1 ≠ o.d.relayN) :
    s.relayIn site k = (s.relayTaken site k b o g).setOp b.front.seq
      (Op.sent b.front [(k, (mget {} b.grps k).add o.d.gw g.1, (b.relayed o.d k g).saFor k)]) := by
  have hlen : ¬ (b.relayed o.d k g).relayGot.length = o.d.relayN := by
    simpa [Block.relayed] using hn
  unfold State.relayIn
  dsimp only
  rw [hb]
  dsimp only
  rw [ho]
  dsimp only
  rw [hg]
  exact (if_neg hl).trans (if_neg hlen)

end

section
variable (s : State) (site k : Nat) (b : Block) (o : Op) (g : Grp × Int)

theorem State.relayTaken_op? (ho : s.op? b.front.seq = some o) :
    (s.relayTaken site k b o g).op? b.front.seq = some (o.take b.front k) :=
  State.op?_setOp _ ((State.op?_of_ops (State.setTile_ops _ _ _) _).trans ho) fun _ => rfl

theorem State.relayTaken_tile : (s.relayTaken site k b o g).tile site = (s.tile site).putBuf (b.relayed o.d k g) :=
  (State.tile_of_tiles (State.setOp_tiles _ _ _) site).trans (s.tile_setTile_same _ _)

theorem State.relayTaken_tile_ne {j : Nat} (hj : j ≠ site) : (s.relayTaken site k b o g).tile j = s.tile j :=
  (State.tile_of_tiles (State.setOp_tiles _ _ _) j).trans (s.tile_setTile_ne _ _ hj)

theorem State.relayTaken_halted : (s.relayTaken site k b o g).halted = s.halted := by simp [State.relayTaken]

theorem State.relayTaken_pending : (s.relayTaken site k b o g).pending = s.pending := by simp [State.relayTaken]

theorem State.relayTaken_mem : (s.relayTaken site k b o g).mem = s.mem := by simp [State.relayTaken]

/-- A relayed group that arrives at the last tile of its chain (R75, R131). -/
theorem exec_relayArrive_last {s : State} (hl : s.live = true) (h : s.relayIn site k = s.relayTaken site k b o g) :
    exec (.relayArrive site k) s = .next (s.relayTaken site k b o g) :=
  act_eq_next (f := fun s => s.relayIn site k) hl h
    ((s.relayTaken_halted site k b o g).trans (State.halted_of_live hl)) (s.relayTaken_pending site k b o g)

/-- One that goes on down. -/
theorem exec_relayArrive_down {s : State} {seq : Nat} {f : Op → Op} (hl : s.live = true)
    (h : s.relayIn site k = (s.relayTaken site k b o g).setOp seq f) :
    exec (.relayArrive site k) s = .next ((s.relayTaken site k b o g).setOp seq f) :=
  act_eq_next (f := fun s => s.relayIn site k) hl h
    ((State.setOp_halted _ _ _).trans ((s.relayTaken_halted site k b o g).trans (State.halted_of_live hl)))
    ((State.setOp_pending _ _ _).trans (s.relayTaken_pending site k b o g))

end

/-! ### SADDLEBAG_LANE_TERMS -/

/-- Values put under keys: under each key that of its entry, where the key gives the value. -/
theorem mget_foldl_mput {α β : Type} [DecidableEq α] (d : α) (key : β → Nat) (val : β → α) {l : List β} {x : β}
    (hv : ∀ y ∈ l, key y = key x → val y = val x) (m : SMap α) (hx : x ∈ l ∨ mget d m (key x) = val x) :
    mget d (l.foldl (fun m y => mput d m (key y) (val y)) m) (key x) = val x := by
  induction l generalizing m with
  | nil => exact hx.resolve_left (by simp)
  | cons y r ih =>
    refine ih (fun z hz => hv z (.tail _ hz)) _ ?_
    rw [mget_mput]
    by_cases hk : key x = key y
    · rw [if_pos hk]
      exact .inr (hv y (.head _) hk.symm)
    · rw [if_neg hk]
      refine hx.imp_left fun h => ?_
      rcases List.mem_cons.mp h with rfl | h
      · exact absurd rfl hk
      · exact h

/-- The place of a group gives its output. -/
theorem Desc.blockPlaces_inj {d : Desc} {f : Front} {p q : Nat × Nat} (hp : p ∈ d.blockPlaces f)
    (hq : q ∈ d.blockPlaces f) (h : p.1 = q.1) : p = q := by
  have key : ∀ p ∈ d.blockPlaces f, d.outAt f (p.1 / 64) (p.1 % 64) = some p.2 := by
    intro p hp
    obtain ⟨k, -, hk⟩ := List.mem_filterMap.mp hp
    obtain ⟨l, hl, rfl⟩ := Option.map_eq_some_iff.mp hk
    exact hl
  have he := key p hp
  rw [h, key q hq] at he
  exact Prod.ext h (Option.some.inj he).symm

/-- The saddlebag terms of every group of a block. -/
def laneGrps (v : Env) (f : Front) : SMap Grp :=
  (v.d.blockPlaces f).foldl (fun (m : SMap Grp) p =>
    mput {} m p.1 (({} : Grp).addAll v.d.gw (laneTerms v p.2 v.d.gw v.d.ganchor))) []

theorem mget_laneGrps (v : Env) {f : Front} {p : Nat × Nat} (hp : p ∈ v.d.blockPlaces f) :
    mget {} (laneGrps v f) p.1 = ({} : Grp).addAll v.d.gw (laneTerms v p.2 v.d.gw v.d.ganchor) :=
  mget_foldl_mput {} Prod.fst (fun p => ({} : Grp).addAll v.d.gw (laneTerms v p.2 v.d.gw v.d.ganchor))
    (fun q hq h => by rw [Desc.blockPlaces_inj hq hp h]) [] (.inl hp)

theorem State.runEnv_d (s : State) (o : Op) : (s.runEnv o).d = o.d := by
  unfold State.runEnv
  split <;> rfl

section
variable {s : State} {site : Nat} {b : Block} {o : Op}
  (hb : (s.tile site).readDrain.buf? s.wantsLane = some b) (ho : s.op? b.front.seq = some o)
include hb ho

/-- The lane delivers the terms of a buffered block that wants them. -/
theorem State.laneTile_eq : s.laneTile site =
    (s.setTile site ((s.tile site).readDrain.putBuf { b with lane := laneGrps (s.runEnv o) b.front, laneGot := true })).ledger
      b.front.seq ((o.d.blockPlaces b.front).flatMap fun p => laneEvents (s.runEnv o) p.2) := by
  unfold State.laneTile laneGrps
  dsimp only
  rw [hb]
  dsimp only
  rw [ho, State.runEnv_d]

/-- The array after the lane's work: the ledger of its terms leaves it alone. -/
theorem State.laneTile_arrayPart : (s.laneTile site).arrayPart = (s.setTile site ((s.tile site).readDrain.putBuf
    { b with lane := laneGrps (s.runEnv o) b.front, laneGot := true })).arrayPart := by
  rw [State.laneTile_eq hb ho, State.ledger_arrayPart]

theorem State.laneTile_tile : (s.laneTile site).tile site =
    (s.tile site).readDrain.putBuf { b with lane := laneGrps (s.runEnv o) b.front, laneGot := true } :=
  (State.tile_of_tiles (Prod.mk.inj (State.laneTile_arrayPart hb ho)).1 site).trans (s.tile_setTile_same _ _)

theorem State.laneTile_mem (hl : o.d.ledgerEn = false) : (s.laneTile site).mem = s.mem := by
  rw [State.laneTile_eq hb ho, State.ledger_off (s := s.setTile site _) (o := o) ho hl, State.setTile_mem]

theorem exec_saddlebagLaneTerms (hl : s.live = true) : exec (.saddlebagLaneTerms site) s = .next (s.laneTile site) := by
  obtain ⟨hh, hp⟩ := Prod.mk.inj (Prod.mk.inj (State.laneTile_arrayPart hb ho)).2
  exact act_eq_next (f := fun s => s.laneTile site) hl rfl (hh.trans (State.halted_of_live hl)) hp

end

end Sys2Proof.Machine
end

section
/-! The quench of a block that passes its checks: its delivery and what that leaves alone (R94, R96, R156). -/

namespace Sys2Proof.Machine

open Sys2Proof.Safety

/-! ### What an operation reads -/

/-- Every byte of memory, the lines in error, the collectives, the twin's state and the tables are the same. -/
structure SameReads (s t : State) : Prop where
  bytes : t.byteAt = s.byteAt
  hbm : t.hbm = s.hbm
  insts : t.insts = s.insts
  twin : t.twin = s.twin
  tables : t.tables = s.tables

theorem SameReads.trans {s t u : State} (h : SameReads s t) (k : SameReads t u) : SameReads s u :=
  ⟨k.bytes.trans h.bytes, k.hbm.trans h.hbm, k.insts.trans h.insts, k.twin.trans h.twin, k.tables.trans h.tables⟩

theorem sameReads_setTile (s : State) (i : Nat) (x : Tile) : SameReads s (s.setTile i x) := ⟨rfl, rfl, rfl, rfl, rfl⟩

theorem sameReads_setOp (s : State) (n : Nat) (g : Op → Op) : SameReads s (s.setOp n g) := ⟨rfl, rfl, rfl, rfl, rfl⟩

theorem sameReads_fset (s : State) {f : Fld} {i : Nat} (v : Nat) (hi : i < f.reg.place.2.1) (hf : f.reg ≠ .memPswin) :
    SameReads s (s.fset f i v) :=
  ⟨s.byteAt_fset v hi hf, s.fset_hbm f i v, s.fset_insts f i v, s.fset_twin f i v, s.fset_tables f i v⟩

section
variable {s t : State} (h : SameReads s t) {o : Op} (hp : o.partner = false)
include h hp

theorem SameReads.ctxRd : t.ctxRd o.partner = s.ctxRd o.partner := by
  rw [hp, State.ctxRd_own, State.ctxRd_own, h.bytes]

theorem SameReads.envOf : t.envOf o = s.envOf o := by
  unfold State.envOf State.ctxTables
  rw [h.ctxRd hp, h.tables, h.twin]

theorem SameReads.readsOpen : t.readsOpen o = s.readsOpen o := by
  unfold State.readsOpen State.instPartner State.opIns State.inExts
  rw [h.ctxRd hp, h.insts, h.twin]

omit hp in
theorem SameReads.ctxUe : t.ctxUe false = s.ctxUe false := by
  funext x
  unfold State.ctxUe State.ctxExtents State.ueIn
  simp only [Bool.false_eq_true, if_false]
  rw [h.hbm]

omit hp in
theorem SameReads.ueWritten (ws : List BitWrite) : t.ueWritten false ws = s.ueWritten false ws := by
  unfold State.ueWritten State.writtenBytes
  simp only [Bool.false_eq_true, if_false]
  rw [h.hbm]

theorem SameReads.readUe : t.readUe o = s.readUe o := by
  have hx : readExtents t o = readExtents s o := by
    unfold readExtents
    rw [h.ctxRd hp]
  unfold State.readUe
  rw [hx, h.hbm, hp, h.ctxUe]

theorem SameReads.opUe : t.opUe o = s.opUe o := by
  have hw : t.resultWrites o = s.resultWrites o := by
    unfold State.resultWrites
    rw [h.envOf hp]
  unfold State.opUe
  rw [h.readUe hp, hw, h.hbm, hp, h.ueWritten]

end

/-- The own context never lacks room for a write (R350). -/
theorem State.runRoom_own (s : State) {o : Op} (hp : o.partner = false) : s.runRoom o = true := by
  unfold State.runRoom State.ctxRoom
  rw [hp]
  rfl

theorem State.opUe_counted (s : State) (c : Counts) (o : Op) : s.opUe (o.counted c) = s.opUe o := rfl
theorem State.readsOpen_counted (s : State) (c : Counts) (o : Op) : s.readsOpen (o.counted c) = s.readsOpen o := rfl
theorem State.envOf_counted (s : State) (c : Counts) (o : Op) : s.envOf (o.counted c) = s.envOf o := rfl

/-! ### The tile that the quench unit works on -/

/-- A tile whose quench unit has read the drain registers. -/
def State.drained (s : State) (site : Nat) : State := s.setTile site (s.tile site).readDrain

theorem State.drained_tile (s : State) (site : Nat) : (s.drained site).tile site = (s.tile site).readDrain :=
  s.tile_setTile_same _ _

/-- A tile without a front has nothing that could drain without a step. -/
theorem State.drainEmpty_of_idle {s : State} {site : Nat} (h : (s.tile site).cur = none) : s.drainEmpty site = s := by
  unfold State.drainEmpty
  dsimp only
  rw [h]

theorem Tile.struck_nil (t : Tile) (f : Front) : t.struck f [] = [] := ite_self _

/-- The drain registers are free once their block is the only one buffered. -/
theorem Tile.readDrain_drain {t : Tile} {b : Block} (h : t.readDrain.bufs = [b]) : t.readDrain.drain = none := by
  unfold Tile.readDrain at h ⊢
  cases hd : t.drain with
  | none => exact hd
  | some c =>
    rw [hd] at h
    dsimp only at h ⊢
    split at h
    · rename_i hlt
      rw [if_pos hlt]
    · rename_i hlt
      exact absurd (by rw [h]; exact Nat.lt_succ_self 1) hlt

theorem Tile.buf?_single {t : Tile} {b : Block} (h : t.bufs = [b]) : (t.buf? fun x => x.front = b.front) = some b := by
  unfold Tile.buf?
  rw [h]
  simp

/-- Without soft errors the quench unit works on its one block as it stands. -/
theorem State.quenchTile_single {s : State} {site : Nat} {b : Block} (hc : (s.tile site).cur = none)
    (hb : (s.tile site).readDrain.bufs = [b]) :
    s.quenchTile site [] = (s.drained site).quenchBlock site [] b.front := by
  have ht := s.drained_tile site
  have hd : (s.drained site).drainEmpty site = s.drained site := State.drainEmpty_of_idle (by
    rw [ht, Tile.readDrain_cur, hc])
  have hq : s.quenchTile site [] = (((s.drained site).drainEmpty site).tile site).bufs.foldl
      (fun (t : State) b => t.quenchBlock site
        ((((s.drained site).drainEmpty site).tile site).struck b.front []) b.front) ((s.drained site).drainEmpty site) := rfl
  rw [hq, hd, ht, hb, List.foldl_cons, List.foldl_nil, Tile.struck_nil]

/-! ### The checks -/

theorem State.spareRow_of {s t : State} (hr : t.regs = s.regs) (ho : t.ost = s.ost) (site : Nat) :
    t.spareRow site = s.spareRow site := by
  unfold State.spareRow State.repairOf State.rd
  rw [hr, ho]

theorem State.spareCol_of {s t : State} (hr : t.regs = s.regs) (ho : t.ost = s.ost) (site : Nat) :
    t.spareCol site = s.spareCol site := by
  unfold State.spareCol State.repairOf State.rd
  rw [hr, ho]

/-- The checks read the block and the repairs in force. -/
theorem State.checkBlock_of {s t : State} (hr : t.regs = s.regs) (ho : t.ost = s.ost) (site : Nat) (y : Layout)
    (b : Block) : t.checkBlock site y b = s.checkBlock site y b := by
  have hrow : t.physRow site = s.physRow site := by
    unfold State.physRow
    rw [State.spareRow_of hr ho]
  have hcol : t.physCol site = s.physCol site := by
    unfold State.physCol
    rw [State.spareCol_of hr ho]
  unfold State.checkBlock State.gaugeOfRow State.gaugeOfCol
  rw [hrow, hcol]

theorem State.checkBlock_drained (s : State) (site : Nat) (y : Layout) (b : Block) :
    (s.drained site).checkBlock site y b = s.checkBlock site y b :=
  State.checkBlock_of (s.setTile_regs _ _) (s.setTile_ost _ _) site y b

/-- A block as it stands after its checks (R136). -/
def Block.passed (d : Desc) (b : Block) : Block :=
  { b with checked := true, grps := if d.strip then stripSums d b.grps else b.grps }

/-- What the checks count: a block with a SPILL flag is left unchecked (R96). -/
def gaugeCounts (spills : Bool) : Counts := { gaugeRun := (!spills).toNat, gaugeSkip := spills.toNat }

/-- A block noted as passed, and counted. -/
def State.checkNoted (s : State) (site seq : Nat) (b : Block) (spills : Bool) : State :=
  let z := (s.setTile site ((s.tile site).putBuf b)).setOp seq (Op.counted (gaugeCounts spills))
  if spills then z.addUnchecked 1 else z

section
variable (s : State) (site seq : Nat) (b : Block) (spills : Bool)

theorem State.checkNoted_regsOnly : RegsOnly ((s.setTile site ((s.tile site).putBuf b)).setOp seq
    (Op.counted (gaugeCounts spills))) (s.checkNoted site seq b spills) := by
  unfold State.checkNoted
  dsimp only
  split
  · exact regsOnly_fset _ _ _ _
  · exact .refl _

theorem State.checkNoted_sameReads : SameReads s (s.checkNoted site seq b spills) := by
  have h := (sameReads_setTile s site ((s.tile site).putBuf b)).trans
    (sameReads_setOp _ seq (Op.counted (gaugeCounts spills)))
  unfold State.checkNoted
  dsimp only
  split
  · exact h.trans (sameReads_fset _ _ (by decide) (by decide))
  · exact h

theorem State.checkNoted_tile : (s.checkNoted site seq b spills).tile site = (s.tile site).putBuf b :=
  (State.tile_of_tiles ((s.checkNoted_regsOnly site seq b spills).tiles.trans (State.setOp_tiles _ _ _)) site).trans
    (s.tile_setTile_same _ _)

variable {s seq} in
theorem State.checkNoted_op? {o : Op} (ho : s.op? seq = some o) :
    (s.checkNoted site seq b spills).op? seq = some (o.counted (gaugeCounts spills)) :=
  (State.op?_of_ops (s.checkNoted_regsOnly site seq b spills).ops seq).trans
    (State.op?_setOp _ ((State.op?_of_ops (s.setTile_ops _ _) _).trans ho) fun _ => rfl)

theorem State.checkNoted_halted : (s.checkNoted site seq b spills).halted = s.halted :=
  (s.checkNoted_regsOnly site seq b spills).halted.trans ((State.setOp_halted _ _ _).trans (s.setTile_halted _ _))

theorem State.checkNoted_pending : (s.checkNoted site seq b spills).pending = s.pending :=
  (s.checkNoted_regsOnly site seq b spills).pending.trans ((State.setOp_pending _ _ _).trans (s.setTile_pending _ _))

theorem State.fget_setTile_setOp (x : Tile) (g : Op → Op) (f : Fld) (i : Nat) :
    ((s.setTile site x).setOp seq g).fget f i = s.fget f i := State.fget_of_regs rfl f i

theorem State.checkNoted_unchecked : (s.checkNoted site seq b spills).fget Fl.arrGaugeEvtUnchecked 0 =
    (s.fget Fl.arrGaugeEvtUnchecked 0 + spills.toNat) % 2 ^ 24 := by
  unfold State.checkNoted State.addUnchecked
  dsimp only
  rw [State.fget_setTile_setOp]
  cases spills with
  | true =>
    rw [if_pos rfl, State.fget_fset_same _ _ _ _ (by decide)]
    exact Nat.mod_mod _ _
  | false =>
    rw [if_neg (by decide), State.fget_setTile_setOp]
    exact (Nat.mod_eq_of_lt (s.fget_lt Fl.arrGaugeEvtUnchecked 0)).symm

theorem State.checkNoted_count :
    (s.checkNoted site seq b spills).fget Fl.arrGaugeEvtCount 0 = s.fget Fl.arrGaugeEvtCount 0 := by
  unfold State.checkNoted State.addUnchecked
  dsimp only
  split
  · rw [State.fget_fset_field (f := Fl.arrGaugeEvtUnchecked) (g := Fl.arrGaugeEvtCount) _ _ _ (by decide) rfl (by decide),
      State.fget_setTile_setOp]
  · rw [State.fget_setTile_setOp]

end

/-- A block that is not left to its gauges, or matches them, is noted and goes on. -/
theorem State.quenchBlock_passes {s : State} {site : Nat} {b : Block} {o : Op}
    (hb : ((s.tile site).buf? fun x => x.front = b.front) = some b) (ho : s.op? b.front.seq = some o)
    (hc : b.checked = false) (hg : o.gauged b.front = true)
    (hok : b.spills = true ∨ (s.checkBlock site (o.lay b.front) b).ok = true) :
    s.quenchBlock site [] b.front = (s.checkNoted site b.front.seq (b.passed o.d) b.spills).passOn site (b.passed o.d)
      (o.counted (gaugeCounts b.spills)) := by
  have hn : ¬ (o.gauged b.front = true ∧ (!b.spills) = true ∧
      (!(s.checkBlock site (o.lay b.front) b).ok) = true) := by
    rintro ⟨-, hs, hk⟩
    rcases hok with h | h
    · rw [h] at hs
      cases hs
    · rw [h] at hk
      cases hk
  unfold State.quenchBlock
  rw [hb, ho]
  dsimp only [List.foldl_nil]
  rw [if_neg (by simp [hc]), if_neg hn, if_pos hg]
  unfold State.checkNoted
  cases b.spills <;> rfl

/-! ### The delivery -/

/-- The outputs of a block. -/
def blockRun (v : Env) (o : Op) (b : Block) : RunOut := { outs := blockOutputs v o b }

/-- The outputs of a block written, entered in the ledger and counted. -/
def State.blockWritten (s : State) (o : Op) (v : Env) (b : Block) : State :=
  (((s.noteMirror o.partner v.t2).ctxBitsAll o.partner ((blockRun v o b).writes v)).ledger b.front.seq
    ((blockRun v o b).outs.flatMap fun e => e.evs)).setOp b.front.seq (Op.counted ((blockRun v o b).counts v))

theorem State.blockWritten_keepsOp (s : State) (o : Op) (v : Env) (b : Block) :
    KeepsOp b.front.seq s (s.blockWritten o v b) := by
  have hw := (s.noteMirror_storesOnly o.partner v.t2).trans
    (State.ctxBitsAll_storesOnly _ o.partner ((blockRun v o b).writes v))
  exact (hw.keepsOp.trans (State.ledger_keepsOp _ _)).trans (State.count_keepsOp _ _)

/-- Without a ledger the memory is as the block's writes leave it. -/
theorem State.blockWritten_byteAt {s : State} {o : Op} (v : Env) {b : Block} (ho : s.op? b.front.seq = some o)
    (hp : o.partner = false) (hl : o.d.ledgerEn = false) : (s.blockWritten o v b).byteAt =
      ((s.noteMirror false v.t2).ctxBitsAll false ((blockRun v o b).writes v)).byteAt := by
  have hw := (s.noteMirror_storesOnly false v.t2).trans (State.ctxBitsAll_storesOnly _ false ((blockRun v o b).writes v))
  unfold State.blockWritten
  rw [hp, State.ledger_off ((State.op?_of_ops (by rw [hw]) _).trans ho) hl]
  exact (sameReads_setOp _ _ _).bytes

/-- A block of a chain of one tile, without saddlebags, waits for nothing. -/
theorem State.blockWaits_of_alone (s : State) {o : Op} (b : Block) (hparts : o.d.parts = 1) (hbags : o.d.hasBags = false) :
    s.blockWaits o b = false := by
  have hpart : o.d.partOf b.front.tile = 0 := by
    unfold Desc.partOf
    rw [hparts, Nat.mod_one]
  unfold State.blockWaits
  dsimp only
  rw [hpart, hparts, hbags]
  simp

theorem Desc.not_byRows_of_isMat {d : Desc} (h : d.isMat = true) : d.byRows = false := by
  unfold Desc.isMat at h
  unfold Desc.byRows
  rcases Bool.or_eq_true_iff.mp h with h | h <;> rw [of_decide_eq_true h] <;> rfl

/-- A block that holds every sum is delivered, and done. -/
theorem State.passOn_delivers {s : State} {site : Nat} {b : Block} {o : Op} (hm : o.d.isMat = true)
    (hparts : o.d.parts = 1) (hbags : o.d.hasBags = false) (hf : o.fusedPost = false) (hu : s.opUe o = [])
    (hroom : s.runRoom o = true) (hs : s.readsOpen o = []) :
    s.passOn site b o = (s.blockWritten o (s.envOf o) b).blockDone site b.front b.front.seq := by
  have hlast : ¬ (o.d.isMat && decide (o.d.partOf b.front.tile + 1 < o.d.parts)) = true := by
    rw [hparts]
    simp
  unfold State.passOn
  dsimp only
  rw [s.blockWaits_of_alone b hparts hbags, if_neg (by decide), if_neg hlast, hf, Desc.not_byRows_of_isMat hm,
    if_neg (by decide), hu, hroom, State.runEnv_of_sealed hs]
  rfl

/-! ### The block done -/

/-- An operation with a block quenched. -/
def Op.quenched (f : Front) (o : Op) : Op :=
  { o with blocks := o.blocks ++ [(f.plc, f.key)], reruns := o.reruns.filter fun r => r.plc != f.plc || r.key != f.key }

/-- A block's buffer freed, and the block noted as quenched. -/
def State.blockFreed (s : State) (site : Nat) (f : Front) (seq : Nat) : State :=
  (s.setTile site ((s.tile site).dropBuf f)).setOp seq (Op.quenched f)

section
variable (s : State) (site : Nat) (f : Front) (seq : Nat)

theorem State.blockFreed_tile : (s.blockFreed site f seq).tile site = (s.tile site).dropBuf f :=
  (State.tile_of_tiles (State.setOp_tiles _ _ _) site).trans (s.tile_setTile_same _ _)

theorem State.blockFreed_fget (g : Fld) (i : Nat) : (s.blockFreed site f seq).fget g i = s.fget g i :=
  s.fget_setTile_setOp site seq _ _ g i

theorem State.blockFreed_byteAt : (s.blockFreed site f seq).byteAt = s.byteAt :=
  ((sameReads_setTile s site _).trans (sameReads_setOp _ seq _)).bytes

theorem State.blockFreed_halted : (s.blockFreed site f seq).halted = s.halted :=
  (State.setOp_halted _ _ _).trans (s.setTile_halted _ _)

theorem State.blockFreed_pending : (s.blockFreed site f seq).pending = s.pending :=
  (State.setOp_pending _ _ _).trans (s.setTile_pending _ _)

end

section
variable {s : State} {seq : Nat} {o : Op} (ho : s.op? seq = some o) (site : Nat) (f : Front)
include ho

theorem State.blockFreed_op? : (s.blockFreed site f seq).op? seq = some (o.quenched f) :=
  State.op?_setOp _ ((State.op?_of_ops (s.setTile_ops _ _) _).trans ho) fun _ => rfl

/-- A block done frees its buffer, and the last one ends the operation or leaves it to the finishers. -/
theorem State.blockDone_cases : s.blockDone site f seq = s.blockFreed site f seq ∨
    s.blockDone site f seq = (s.blockFreed site f seq).endRun (o.quenched f) := by
  have h := State.blockFreed_op? ho site f
  have he : s.blockDone site f seq = match (s.blockFreed site f seq).op? seq with
    | none => s.blockFreed site f seq
    | some o => if o.tileBlocks.all (fun b => o.blocks.contains b) && !o.d.byRows then
        (s.blockFreed site f seq).endRun o else s.blockFreed site f seq := rfl
  rw [he, h]
  dsimp only
  split
  · exact .inr rfl
  · exact .inl rfl

theorem State.blockDone_keepsOp (hf : o.fusedPost = false) (hr : o.d.retemper = 0) :
    KeepsOp seq (s.blockFreed site f seq) (s.blockDone site f seq) := by
  rcases State.blockDone_cases ho site f with h | h <;> rw [h]
  · exact .refl _
  · obtain rfl := State.seq_of_op? ho
    exact State.endRun_keepsOp _ (o := o.quenched f) hf hr

end

/-- The end of a matrix product's work writes nothing of its own (R147). -/
theorem State.endRun_byteAt {s : State} {o : Op} (ho : s.op? o.seq = some o) (hm : o.d.isMat = true)
    (hf : o.fusedPost = false) (hr : o.d.retemper = 0) (hp : o.partner = false) (hl : o.d.ledgerEn = false) :
    (s.endRun o).byteAt = s.byteAt := by
  have hx : (restOfRun (s.runEnv o)).extra = [] := by
    unfold restOfRun
    rw [State.runEnv_d, if_pos hm]
  obtain ⟨es, cnt, st, h⟩ := s.endRun_eq hf hr
  have hw : (s.ctxBitsAll false []).op? o.seq = some o :=
    (State.op?_of_ops (by rw [s.ctxBitsAll_storesOnly]) _).trans ho
  rw [h, hp, hx, State.ledger_off hw hl]
  exact (sameReads_setOp _ _ _).bytes.trans s.byteAt_ctxBitsAll_nil

theorem State.blockDone_byteAt {s : State} {seq : Nat} {o : Op} (ho : s.op? seq = some o) (site : Nat) (f : Front)
    (hm : o.d.isMat = true) (hf : o.fusedPost = false) (hr : o.d.retemper = 0) (hp : o.partner = false)
    (hl : o.d.ledgerEn = false) : (s.blockDone site f seq).byteAt = s.byteAt := by
  rw [← s.blockFreed_byteAt site f seq]
  rcases State.blockDone_cases ho site f with h | h <;> rw [h]
  have hq := State.blockFreed_op? ho site f
  obtain rfl := State.seq_of_op? ho
  exact State.endRun_byteAt (o := o.quenched f) hq hm hf hr hp hl

end Sys2Proof.Machine
end

section
/-! A block of one tile whose checks match, or are skipped, from the drain registers to memory (R94, R96, R156). -/

namespace Sys2Proof.Machine

open Sys2Proof.Safety

/-- A buffered block read from the drain registers, checked and noted. -/
def State.blockNoted (s : State) (site : Nat) (b : Block) (o : Op) : State :=
  (s.drained site).checkNoted site b.front.seq (b.passed o.d) b.spills

/-- The same block's outputs written. -/
def State.blockOut (s : State) (site : Nat) (b : Block) (o : Op) : State :=
  (s.blockNoted site b o).blockWritten (o.counted (gaugeCounts b.spills)) (s.envOf o) (b.passed o.d)

section
variable (s : State) (site : Nat) (b : Block) (o : Op)

theorem State.blockNoted_sameReads : SameReads s (s.blockNoted site b o) :=
  (sameReads_setTile s site _).trans (State.checkNoted_sameReads _ _ _ _ _)

theorem State.blockOut_keepsOp : KeepsOp b.front.seq (s.blockNoted site b o) (s.blockOut site b o) :=
  State.blockWritten_keepsOp _ _ _ (b.passed o.d)

theorem State.blockOut_halted : (s.blockOut site b o).halted = s.halted :=
  (s.blockOut_keepsOp site b o).halted.trans ((State.checkNoted_halted _ _ _ _ _).trans (s.setTile_halted _ _))

theorem State.blockOut_pending : (s.blockOut site b o).pending = s.pending :=
  (s.blockOut_keepsOp site b o).pending.trans ((State.checkNoted_pending _ _ _ _ _).trans (s.setTile_pending _ _))

theorem State.blockOut_unchecked : (s.blockOut site b o).fget Fl.arrGaugeEvtUnchecked 0 =
    (s.fget Fl.arrGaugeEvtUnchecked 0 + b.spills.toNat) % 2 ^ 24 :=
  ((s.blockOut_keepsOp site b o).fget _ _).trans (State.checkNoted_unchecked (s.drained site) _ _ _ _)

theorem State.blockOut_count : (s.blockOut site b o).fget Fl.arrGaugeEvtCount 0 = s.fget Fl.arrGaugeEvtCount 0 :=
  ((s.blockOut_keepsOp site b o).fget _ _).trans (State.checkNoted_count (s.drained site) _ _ _ _)

theorem State.blockOut_tile : (s.blockOut site b o).tile site = (s.tile site).readDrain.putBuf (b.passed o.d) := by
  rw [State.tile_of_tiles (s.blockOut_keepsOp site b o).tiles, State.blockNoted, State.checkNoted_tile,
    State.drained_tile]

variable {s o} (ho : s.op? b.front.seq = some o)
include ho

theorem State.blockNoted_op? :
    (s.blockNoted site b o).op? b.front.seq = some (o.counted (gaugeCounts b.spills)) :=
  State.checkNoted_op? site _ _ ((State.op?_of_ops (s.setTile_ops _ _) _).trans ho)

theorem State.blockOut_op? : ∃ o', (s.blockOut site b o).op? b.front.seq = some o' ∧ o'.core = o.core := by
  obtain ⟨o', h', hc⟩ := (s.blockOut_keepsOp site b o).find (State.blockNoted_op? site b ho)
  exact ⟨o', h', hc⟩

/-- The memory after the delivery: that of the state before, with the outputs of the block written. -/
theorem State.blockOut_byteAt (hp : o.partner = false) (hl : o.d.ledgerEn = false) :
    ∃ z : State, z.byteAt = s.byteAt ∧ (s.blockOut site b o).byteAt =
      (z.ctxBitsAll false ((blockRun (s.envOf o) o (b.passed o.d)).writes (s.envOf o))).byteAt :=
  ⟨_, (State.noteMirror_byteAt _ _ _).trans (s.blockNoted_sameReads site b o).bytes,
    State.blockWritten_byteAt (b := b.passed o.d) _ (State.blockNoted_op? site b ho) hp hl⟩

variable {b} (hc : (s.tile site).cur = none) (hb : (s.tile site).readDrain.bufs = [b]) (hck : b.checked = false)
  (hm : o.d.isMat = true) (hparts : o.d.parts = 1) (hbags : o.d.hasBags = false) (hf : o.fusedPost = false)
  (hp : o.partner = false) (hs : s.readsOpen o = []) (hu : s.opUe o = [])
  (hok : b.spills = true ∨ (s.checkBlock site (o.lay b.front) b).ok = true)
include hc hb hck hm hparts hbags hf hp hs hu hok

/-- QUENCH_BLOCK of a matrix product's block that stands alone in its chain. -/
theorem State.quenchTile_passes :
    s.quenchTile site [] = (s.blockOut site b o).blockDone site b.front b.front.seq := by
  have hbuf : ((s.drained site).tile site).bufs = [b] := by rw [State.drained_tile, hb]
  have hz := s.blockNoted_sameReads site b o
  have hg : o.gauged b.front = true := by
    unfold Op.gauged
    rw [hm]
    rfl
  rw [State.quenchTile_single hc hb, State.quenchBlock_passes (Tile.buf?_single hbuf)
    ((State.op?_of_ops (s.setTile_ops _ _) _).trans ho) hck hg (by rwa [State.checkBlock_drained])]
  have hpass := State.passOn_delivers (s := s.blockNoted site b o) (site := site) (b := b.passed o.d)
    (o := o.counted (gaugeCounts b.spills)) hm hparts hbags hf
    (by rw [State.opUe_counted, hz.opUe hp, hu]) (State.runRoom_own _ hp)
    (by rw [State.readsOpen_counted, hz.readsOpen hp, hs])
  rw [State.envOf_counted, hz.envOf hp] at hpass
  exact hpass

/-- What QUENCH_BLOCK of such a block leaves. -/
theorem State.quenchTile_passes_spec (hr : o.d.retemper = 0) (hl : o.d.ledgerEn = false) :
    let t := s.quenchTile site []
    KeepsOp b.front.seq ((s.blockOut site b o).blockFreed site b.front b.front.seq) t ∧
      t.byteAt = (s.blockOut site b o).byteAt ∧
      ∃ o', t.op? b.front.seq = some o' ∧ o'.blocks = o.blocks ++ [(b.front.plc, b.front.key)] := by
  rw [State.quenchTile_passes site ho hc hb hck hm hparts hbags hf hp hs hu hok]
  obtain ⟨o₁, h₁, hcore⟩ := State.blockOut_op? site b ho
  have hd : o₁.d = o.d := Op.of_core Op.d (fun _ => rfl) hcore
  have hf₁ : o₁.fusedPost = false := (Op.of_core Op.fusedPost (fun _ => rfl) hcore).trans hf
  have hp₁ : o₁.partner = false := (Op.of_core Op.partner (fun _ => rfl) hcore).trans hp
  have hblocks : o₁.blocks = o.blocks := Op.of_core Op.blocks (fun _ => rfl) hcore
  rw [← hd] at hm hr hl
  have hk := State.blockDone_keepsOp h₁ site b.front hf₁ hr
  obtain ⟨o₂, h₂, hcore₂⟩ := hk.find (State.blockFreed_op? h₁ site b.front)
  have hb₂ : o₂.blocks = o₁.blocks ++ [(b.front.plc, b.front.key)] := Op.of_core Op.blocks (fun _ => rfl) hcore₂
  exact ⟨hk, State.blockDone_byteAt h₁ site b.front hm hf₁ hr hp₁ hl, o₂, h₂, hblocks ▸ hb₂⟩

end

end Sys2Proof.Machine
end

section
/-! A block whose checks fail: the failure counted, the block put back to run again, the site cared for (R95 to R97, R335,
R340, R341). -/

namespace Sys2Proof.Machine

/-! ### Frames of the events and of the remapping -/

/-- The same operations, halt and queue, and the same fields of the registers for which `p` holds. -/
structure Frame (p : Reg → Prop) (s t : State) : Prop where
  ops : t.ops = s.ops
  halted : t.halted = s.halted
  pending : t.pending = s.pending
  fget : ∀ f i, i < f.reg.place.2.1 → p f.reg → t.fget f i = s.fget f i

section
variable {p : Reg → Prop}

theorem Frame.refl (s : State) : Frame p s s := ⟨rfl, rfl, rfl, fun _ _ _ _ => rfl⟩

theorem Frame.trans {s t u : State} (h : Frame p s t) (k : Frame p t u) : Frame p s u :=
  ⟨k.ops.trans h.ops, k.halted.trans h.halted, k.pending.trans h.pending,
    fun f i hi hf => (k.fget f i hi hf).trans (h.fget f i hi hf)⟩

theorem Frame.mono {q : Reg → Prop} {s t : State} (h : Frame p s t) (hq : ∀ r, q r → p r) : Frame q s t :=
  ⟨h.ops, h.halted, h.pending, fun f i hi hf => h.fget f i hi (hq _ hf)⟩

theorem RegsBut.frame {s t : State} (h : RegsBut p s t) : Frame p s t :=
  ⟨h.regs.ops, h.regs.halted, h.regs.pending, h.fget⟩

theorem StoresOnly.frame {s t : State} (h : StoresOnly s t) : Frame p s t := by
  rw [h]
  exact ⟨rfl, rfl, rfl, fun _ _ _ _ => rfl⟩

theorem frame_set_ost (s : State) (x : Ost) : Frame p s { s with ost := x } := ⟨rfl, rfl, rfl, fun _ _ _ _ => rfl⟩

/-- A state kept, or kept but for the Ostler's notes. -/
theorem Frame.ite_ost {s t : State} (h : Frame p s t) (c : Prop) [Decidable c] (x : Ost) :
    Frame p s (if c then t else { t with ost := x }) := by
  split
  · exact h
  · exact h.trans (frame_set_ost t x)

theorem frame_set_mgmt (s : State) (x : Mgmt) : Frame p s { s with mgmt := x } := ⟨rfl, rfl, rfl, fun _ _ _ _ => rfl⟩

theorem Frame.siteState {s t : State} (h : Frame p s t) {site : Nat} (hs : site < 4224) (hp : p .tileState) :
    t.siteState site = s.siteState site := h.fget Fl.tileStateState site hs hp

end

/-- The registers other than those that an event writes: ERR_EVT and MGT_CTL (R329, R378). -/
def notEvent (r : Reg) : Prop := r ≠ .errEvt ∧ r ≠ .mgtCtl

theorem State.alertFor_frame (s : State) (e : Event) : Frame notEvent s (s.alertFor e) := by
  unfold State.alertFor
  split
  · exact (regsBut_fset s (f := Fl.mgtCtlAlert) (i := 0) 1 (by decide) fun h => h.2 rfl).frame.trans (frame_set_mgmt _ _)
  · exact .refl s

theorem State.errEvt_regsBut (s : State) (e : Event) : RegsBut notEvent s (s.errEvt e) := by
  have h : ∀ (t : State) (f : Fld) (v : Nat), f.reg = .errEvt → RegsBut notEvent t (t.fset f 0 v) :=
    fun t f v hf => regsBut_fset t v (by rw [hf]; decide) fun hp => hp.1 hf
  exact (((h _ _ _ rfl).trans (h _ _ _ rfl)).trans (h _ _ _ rfl)).trans (h _ _ _ rfl)

/-- An event that is not FATAL leaves the operations and the other registers alone. -/
theorem State.logEvent_frame (s : State) {e : Event} (he : e.cls ≠ .fatal) : Frame notEvent s (s.logEvent e) := by
  unfold State.logEvent
  dsimp only
  rw [if_neg he]
  exact ((s.alertFor_frame e).trans (State.logEntry_storesOnly _ e).frame).trans (State.errEvt_regsBut _ e).frame

theorem State.alertFor_ost (s : State) (e : Event) : (s.alertFor e).ost = s.ost := by
  unfold State.alertFor
  split <;> simp

theorem State.logEvent_ost (s : State) {e : Event} (he : e.cls ≠ .fatal) : (s.logEvent e).ost = s.ost := by
  have hs : ((s.alertFor e).logEntry e).ost = (s.alertFor e).ost := by rw [(s.alertFor e).logEntry_storesOnly e]
  unfold State.logEvent
  dsimp only
  rw [if_neg he, (State.errEvt_regsBut _ e).regs.ost, hs, State.alertFor_ost]

/-! ### The suspect site -/

section
variable {s : State} {site : Nat} (hs : site < 4224) (h : s.siteState site = stSuspect)
include hs h

/-- A write of another register leaves a site's state as it is. -/
theorem State.fset_suspect {f : Fld} {i : Nat} (v : Nat) (hi : i < f.reg.place.2.1) (hf : f.reg ≠ .tileState) :
    (s.fset f i v).siteState site = stSuspect := (s.fget_fset_ne v hi hs (.inl (Ne.symm hf))).trans h

theorem State.setMap_suspect {n : Nat} (hn : n < 4096) (x : Option Nat) :
    (s.setMap n x).siteState site = stSuspect := by
  cases x with
  | some i => exact State.fset_suspect hs (State.fset_suspect hs h _ hn (by decide)) _ hn (by decide)
  | none => exact State.fset_suspect hs (State.fset_suspect hs h _ hn (by decide)) _ hn (by decide)

/-- A remapping outside a mode boundary takes spares that are SPARE or ACTIVE, and so leaves a SUSPECT site as it is (R410). -/
theorem State.remapTile_suspect {n : Nat} (hn : n < 4096) :
    (State.remapTile false s n).siteState site = stSuspect := by
  unfold State.remapTile
  dsimp only
  split
  · split
    · exact h
    · exact State.setMap_suspect hs h hn none
  · split
    · rename_i hold
      rw [if_pos (hold.2.resolve_right (by decide))]
      exact h
    · split
      · rename_i hsp
        have hne : spareOf (homeSite n) ≠ site := by
          rintro rfl
          rcases hsp with h1 | ⟨-, h1⟩ <;> rw [h] at h1 <;> revert h1 <;> decide
        exact (State.fget_fset_ne _ _ (homeSite_lt hn) hs (.inr hne.symm)).trans (State.setMap_suspect hs h hn _)
      · split
        · exact h
        · exact State.setMap_suspect hs h hn none

end

/-- What every step of a fold keeps, the fold keeps. -/
theorem foldl_invariant {α β : Type} (P : β → Prop) (f : β → α → β) (l : List α) (b : β) (hb : P b)
    (hf : ∀ b, ∀ a ∈ l, P b → P (f b a)) : P (l.foldl f b) := by
  induction l generalizing b with
  | nil => exact hb
  | cons a r ih => exact ih _ (hf b a (.head _) hb) fun c x hx => hf c x (.tail _ hx)

theorem State.redepth_siteState (s : State) {site : Nat} (hs : site < 4224) :
    s.redepth.siteState site = s.siteState site := by
  have h : ∀ (t : State) (f : Fld) (v : Nat), f.reg = .arrDepth → RegsBut (· ≠ .arrDepth) t (t.fset f 0 v) :=
    fun t f v hf => regsBut_fset t v (by rw [hf]; decide) fun hp => hp hf
  have hd : ∀ q, (depthFld q).reg = .arrDepth := fun q => by
    unfold depthFld
    split <;> rfl
  have hb : RegsBut (· ≠ .arrDepth) s s.redepth :=
    ((regsBut_foldl _ _ _ fun t q _ => h t _ _ (hd q)).trans (h _ _ _ rfl)).trans (h _ _ _ rfl)
  exact hb.fget Fl.tileStateState site hs (show Reg.tileState ≠ .arrDepth by decide)

theorem State.remap_suspect {s : State} {site : Nat} (hs : site < 4224) (h : s.siteState site = stSuspect) :
    (s.remap false).siteState site = stSuspect :=
  (State.redepth_siteState _ hs).trans (foldl_invariant (fun t => State.siteState t site = stSuspect) _ _ _ h
    fun _ _ hn ht => State.remapTile_suspect hs ht (List.mem_range.mp hn))

/-! ### The spare assigned (R340, R341) -/

/-- The registers that the care of a site leaves alone: none of an event, of the mapping, or TILE_REPAIR. -/
def notCare (r : Reg) : Prop := notEvent r ∧ notMapped r ∧ r ≠ .tileRepair

theorem State.setRepair_frame (s : State) {site : Nat} (hs : site < 4224) (row col : Nat) :
    Frame (· ≠ .tileRepair) s (s.setRepair site row col) := by
  have h (t : State) (c : Bool) {f : Fld} (v : Nat) (hf : f.reg = .tileRepair) :
      Frame (· ≠ .tileRepair) t (if c = true then t.fset f site v else t) := by
    split
    · exact (regsBut_fset t v (by rw [hf]; exact hs) fun hp => hp hf).frame
    · exact .refl t
  have h2 := (h s ((s.fusedRepair site).1 = 63 && repairOk row) (f := Fl.tileRepairSpareRowFor) row rfl).trans
    (h _ ((s.fusedRepair site).2 = 63 && repairOk col) (f := Fl.tileRepairSpareColFor) col rfl)
  exact h2.ite_ost _ _

/-- A site made SUSPECT, with a spare assigned and its logical tile moved. -/
def State.spareMoved (s : State) (site row col : Nat) : State :=
  ((s.fset Fl.tileStateState site stSuspect).setRepair site row col).remap false

/-- The same with the site counted among the repaired. -/
def State.spareNoted (s : State) (site row col : Nat) : State :=
  let t := s.spareMoved site row col
  { t with ost := { t.ost with repaired := union t.ost.repaired [site] } }

/-- The event of a spare assigned. -/
def spareEvent (site row col seq : Nat) : Event :=
  { code := 0x07, cls := .degraded, quarter := siteQuarter site, seq := seq, loc := site, d4 := col * 256 + row }

section
variable (s : State) {site : Nat} (hs : site < 4224) (row col seq : Nat)

theorem State.assignSpare_eq :
    s.assignSpare site row col seq = (s.spareNoted site row col).logEvent (spareEvent site row col seq) := rfl

theorem State.spareNoted_frame : Frame (fun _ => True) (s.spareMoved site row col) (s.spareNoted site row col) :=
  frame_set_ost _ _

theorem State.assignSpare_logged :
    Frame notEvent (s.spareMoved site row col) (s.assignSpare site row col seq) := by
  rw [State.assignSpare_eq]
  exact ((s.spareNoted_frame row col).mono fun _ _ => trivial).trans
    (State.logEvent_frame _ (e := spareEvent site row col seq) nofun)

include hs

theorem State.spareMoved_frame : Frame (fun r => notMapped r ∧ r ≠ .tileRepair) s (s.spareMoved site row col) :=
  (((s.setSiteState_regsBut hs stSuspect).frame.mono fun _ hr => hr.1).trans
    ((State.setRepair_frame _ hs row col).mono fun _ hr => hr.2)).trans
    ((State.remap_regsBut _ false).frame.mono fun _ hr => hr.1)

theorem State.assignSpare_frame : Frame notCare s (s.assignSpare site row col seq) :=
  ((s.spareMoved_frame hs row col).mono fun _ hr => hr.2).trans
    ((s.assignSpare_logged row col seq).mono fun _ hr => hr.1)

theorem State.assignSpare_suspect : (s.assignSpare site row col seq).siteState site = stSuspect := by
  have h1 : (s.fset Fl.tileStateState site stSuspect).siteState site = stSuspect :=
    (s.fget_fset_same Fl.tileStateState site stSuspect (by decide)).trans (by decide)
  have h2 := ((State.setRepair_frame _ hs row col).siteState hs (by decide)).trans h1
  exact ((s.assignSpare_logged row col seq).siteState hs ⟨nofun, nofun⟩).trans (State.remap_suspect hs h2)

end

end Sys2Proof.Machine
end

section
/-! A block whose checks fail in one cell of a C8 tile, from the drain registers to the care of its site (R95 to R97, R335,
R340, R341). -/

namespace Sys2Proof.Machine

/-! ### The location of the fault -/

theorem clsWidth_eq_128 {c : Nat} (h : clsWidth c = 128) : c = 0 := by
  unfold clsWidth at h
  exact Nat.pow_right_injective (le_refl 2) (show 2 ^ c = 2 ^ 0 by omega)

/-- In a layout of class C8 every group stands in one cell (Table 3.1). -/
theorem Op.lay_single {o : Op} {f : Front} (h : (o.lay f).w = 128) : (o.lay f).rowsPer = 1 ∧ (o.lay f).colsPer = 1 := by
  have hcls (c : Nat) (h : (clsLayout c).w = 128) : (clsLayout c).rowsPer = 1 ∧ (clsLayout c).colsPer = 1 := by
    obtain rfl := clsWidth_eq_128 h
    exact ⟨rfl, rfl⟩
  have hstrip (c : Nat) (h : (stripLayout c).w = 128) : (stripLayout c).rowsPer = 1 ∧ (stripLayout c).colsPer = 1 := by
    obtain rfl := clsWidth_eq_128 h
    exact ⟨rfl, rfl⟩
  unfold Op.lay Desc.lay at h ⊢
  split at h
  · rename_i hm
    rw [if_pos hm]
    split at h
    · rename_i hs
      rw [if_pos hs]
      exact hstrip _ h
    · rename_i hs
      rw [if_neg hs]
      exact hcls _ h
  · rename_i hm
    rw [if_neg hm]
    exact hcls _ h

/-- A group row and a group column that fail in a C8 tile meet in one cell. -/
theorem Op.faultAt_single {o : Op} {f : Front} (h : (o.lay f).w = 128) {l : Nat × Nat × Nat} (hl : l.1 = 0) :
    (o.lay f).faultAt l = .cells [(l.2.1, l.2.2)] := by
  obtain ⟨c, i, j⟩ := l
  obtain rfl : c = 0 := hl
  obtain ⟨hr, hc⟩ := Op.lay_single h
  unfold Layout.faultAt Layout.cells
  rw [hr, hc]
  simp

/-- A site in service, not repaired before, takes its free spare row for a cell that fails (R341). -/
theorem State.careSite_single {s : State} {site : Nat} (hr : s.siteState site ≠ stRetired)
    (hrep : s.ost.repaired.contains site = false) (hrow : s.fget Fl.tileRepairSpareRowFor site = 63) (i j seq : Nat) :
    s.careSite site (.cells [(i, j)]) true seq =
      s.assignSpare site i (s.fget Fl.tileRepairSpareColFor site) seq := by
  unfold State.careSite
  dsimp only
  rw [if_neg hr, hrep, hrow, if_neg (by simp)]
  exact if_pos rfl

/-! ### The failure noted -/

/-- An operation with a block's failure counted, the block left to be run again. -/
def Op.failed (r : Rerun) (o : Op) : Op :=
  { o with gaugeFail := o.gaugeFail + 1, reruns := (o.reruns.filter fun x => x.plc != r.plc || x.key != r.key) ++ [r] }

/-- A block taken out of its buffer, its failure entered in the ledger. -/
def State.failLedgered (s : State) (site : Nat) (f : Front) (seq : Nat) (ev : LEvent) : State :=
  (s.setTile site ((s.tile site).dropBuf f)).ledger seq [ev]

/-- The failure also counted and logged. -/
def State.failNoted (s : State) (site : Nat) (f : Front) (seq : Nat) (ev : LEvent) (e : Event) (r : Rerun) : State :=
  (((s.failLedgered site f seq ev).bump Fl.arrGaugeEvtCount Fl.arrGaugeEvtPend 0).logEvent e).setOp seq (Op.failed r)

/-- The registers that the note of a failure leaves alone. -/
def notNoted (r : Reg) : Prop := notEvent r ∧ r ≠ .arrGaugeEvt

/-- A block that fails for the first time is noted, and its site cared for. -/
theorem State.blockFails_first (s : State) (site : Nat) (f : Front) {o : Op} (c : Checked) (hr : o.reruns = []) :
    ∃ ev e, e.cls = .recovered ∧ s.blockFails site f o c =
      (s.failNoted site f o.seq ev e { plc := f.plc, key := f.key, fails := 1, site := s.rerunSite o site }).careSite site
        ((o.lay f).faultAt c.located) (c.located.1 == 0 && (o.lay f).w == 128) f.seq := by
  have hn : o.rerunOf f.plc f.key = none := by
    unfold Op.rerunOf
    rw [hr]
    rfl
  unfold State.blockFails
  dsimp only
  rw [hn]
  exact ⟨_, _, rfl, rfl⟩

section
variable (s : State) (site : Nat) (f : Front) (seq : Nat) (ev : LEvent)

theorem State.failLedgered_keepsOp :
    KeepsOp seq (s.setTile site ((s.tile site).dropBuf f)) (s.failLedgered site f seq ev) := State.ledger_keepsOp _ _

theorem State.failLedgered_fget (g : Fld) (i : Nat) : (s.failLedgered site f seq ev).fget g i = s.fget g i :=
  ((s.failLedgered_keepsOp site f seq ev).fget g i).trans (State.fget_of_regs (s.setTile_regs _ _) g i)

variable {e : Event} (he : e.cls ≠ .fatal) (r : Rerun)
include he

/-- The count and the log leave the operations and the other registers alone. -/
theorem State.failNoted_logged : Frame notNoted (s.failLedgered site f seq ev)
    (((s.failLedgered site f seq ev).bump Fl.arrGaugeEvtCount Fl.arrGaugeEvtPend 0).logEvent e) := by
  have h (t : State) {g : Fld} (v : Nat) (hg : g.reg = .arrGaugeEvt) : Frame notNoted t (t.fset g 0 v) :=
    (regsBut_fset t v (by rw [hg]; decide) fun hp => hp.2 hg).frame
  exact ((h _ _ rfl).trans (h _ _ rfl)).trans ((State.logEvent_frame _ he).mono fun _ hp => hp.1)

theorem State.failNoted_fget {g : Fld} {i : Nat} (hi : i < g.reg.place.2.1) (hg : notNoted g.reg) :
    (s.failNoted site f seq ev e r).fget g i = s.fget g i :=
  (State.fget_of_regs (State.setOp_regs _ _ _) g i).trans
    (((s.failNoted_logged site f seq ev he).fget g i hi hg).trans (s.failLedgered_fget site f seq ev g i))

theorem State.failNoted_halted : (s.failNoted site f seq ev e r).halted = s.halted :=
  (State.setOp_halted _ _ _).trans ((s.failNoted_logged site f seq ev he).halted.trans
    ((s.failLedgered_keepsOp site f seq ev).halted.trans (s.setTile_halted _ _)))

theorem State.failNoted_pending : (s.failNoted site f seq ev e r).pending = s.pending :=
  (State.setOp_pending _ _ _).trans ((s.failNoted_logged site f seq ev he).pending.trans
    ((s.failLedgered_keepsOp site f seq ev).pending.trans (s.setTile_pending _ _)))

theorem State.failNoted_ost : (s.failNoted site f seq ev e r).ost = s.ost :=
  (State.setOp_ost _ _ _).trans ((State.logEvent_ost _ he).trans ((State.bump_ost _ _ _ _).trans
    ((s.failLedgered_keepsOp site f seq ev).ost.trans (s.setTile_ost _ _))))

/-- The failures counted (R97). -/
theorem State.failNoted_count : (s.failNoted site f seq ev e r).fget Fl.arrGaugeEvtCount 0 =
    (s.fget Fl.arrGaugeEvtCount 0 + 1) % 2 ^ 32 := by
  have hlog := (State.logEvent_frame ((s.failLedgered site f seq ev).bump Fl.arrGaugeEvtCount Fl.arrGaugeEvtPend 0) he).fget
    Fl.arrGaugeEvtCount 0 (by decide) ⟨nofun, nofun⟩
  refine (State.fget_of_regs (State.setOp_regs _ _ _) _ _).trans (hlog.trans ?_)
  unfold State.bump
  rw [State.fget_fset_field (f := Fl.arrGaugeEvtPend) (g := Fl.arrGaugeEvtCount) _ _ _ (by decide) rfl
    (by decide), State.fget_finc_same _ _ _ (by decide), State.failLedgered_fget]
  rfl

theorem State.failNoted_pend : (s.failNoted site f seq ev e r).fget Fl.arrGaugeEvtPend 0 = 1 := by
  have hlog := (State.logEvent_frame ((s.failLedgered site f seq ev).bump Fl.arrGaugeEvtCount Fl.arrGaugeEvtPend 0) he).fget
    Fl.arrGaugeEvtPend 0 (by decide) ⟨nofun, nofun⟩
  exact (State.fget_of_regs (State.setOp_regs _ _ _) _ _).trans
    (hlog.trans (State.fget_fset_same _ Fl.arrGaugeEvtPend 0 1 (by decide)))

/-- The operation with the failure counted. -/
theorem State.failNoted_op? {s : State} {o : Op} (ho : s.op? seq = some o) :
    ∃ o₁ : Op, (s.failNoted site f seq ev e r).op? seq = some (o₁.failed r) ∧ o₁.core = o.core := by
  obtain ⟨o₁, h₁, hc⟩ := (s.failLedgered_keepsOp site f seq ev).find ((State.op?_of_ops (s.setTile_ops _ _) _).trans ho)
  exact ⟨o₁, State.op?_setOp _ ((State.op?_of_ops (s.failNoted_logged site f seq ev he).ops _).trans h₁) fun _ => rfl, hc⟩

end

/-! ### The quench -/

/-- A block whose checks fail is put back. -/
theorem State.quenchBlock_fails {s : State} {site : Nat} {b : Block} {o : Op}
    (hb : ((s.tile site).buf? fun x => x.front = b.front) = some b) (ho : s.op? b.front.seq = some o)
    (hc : b.checked = false) (hg : o.gauged b.front = true) (hs : b.spills = false)
    (hk : (s.checkBlock site (o.lay b.front) b).ok = false) :
    s.quenchBlock site [] b.front =
      s.blockFails site b.front o (s.checkBlock site (o.lay b.front) b) := by
  unfold State.quenchBlock
  rw [hb, ho]
  dsimp only [List.foldl_nil]
  rw [if_neg (by simp [hc]), if_pos ⟨hg, by rw [hs]; rfl, by rw [hk]; rfl⟩]

section
variable {s : State} {site : Nat} {b : Block} {o : Op} (hsite : site < 4224) (hc : (s.tile site).cur = none)
  (hb : (s.tile site).readDrain.bufs = [b]) (ho : s.op? b.front.seq = some o) (hck : b.checked = false)
  (hg : o.gauged b.front = true) (hw : (o.lay b.front).w = 128) (hre : o.reruns = []) (hs : b.spills = false)
  (hk : (s.checkBlock site (o.lay b.front) b).ok = false)
  (hloc : (s.checkBlock site (o.lay b.front) b).located.1 = 0) (hret : s.siteState site ≠ stRetired)
  (hrep : s.ost.repaired.contains site = false) (hrow : s.fget Fl.tileRepairSpareRowFor site = 63)
include hsite hc hb ho hck hg hw hre hs hk hloc hret hrep hrow

/-- QUENCH_BLOCK of a block whose checks fail in one cell: the failure noted, the spare row assigned. -/
theorem State.quenchTile_fails : ∃ ev e st i j, e.cls = .recovered ∧ s.quenchTile site [] =
    ((s.drained site).failNoted site b.front b.front.seq ev e
      { plc := b.front.plc, key := b.front.key, fails := 1, site := st }).assignSpare site i j b.front.seq := by
  have hbuf : ((s.drained site).tile site).bufs = [b] := by rw [State.drained_tile, hb]
  have hseq := State.seq_of_op? ho
  obtain ⟨ev, e, he, hf⟩ := (s.drained site).blockFails_first site b.front (s.checkBlock site (o.lay b.front) b) hre
  have hne : e.cls ≠ .fatal := by rw [he]; decide
  have hfld (g : Fld) (hi : site < g.reg.place.2.1) (hp : notNoted g.reg) (r : Rerun) :
      ((s.drained site).failNoted site b.front b.front.seq ev e r).fget g site = s.fget g site :=
    ((s.drained site).failNoted_fget site b.front b.front.seq ev hne r hi hp).trans
      (State.fget_of_regs (s.setTile_regs _ _) g site)
  rw [State.quenchTile_single hc hb, State.quenchBlock_fails (Tile.buf?_single hbuf)
    ((State.op?_of_ops (s.setTile_ops _ _) _).trans ho) hck hg hs (by rwa [State.checkBlock_drained]),
    State.checkBlock_drained, hf, Op.faultAt_single hw hloc, hloc, hw, hseq]
  refine ⟨ev, e, _, _, _, he, State.careSite_single ?_ ?_ ?_ _ _ _⟩
  · rw [State.siteState, hfld Fl.tileStateState hsite ⟨⟨nofun, nofun⟩, nofun⟩]
    exact hret
  · rw [State.failNoted_ost _ _ _ _ _ hne]
    exact hrep
  · rw [hfld Fl.tileRepairSpareRowFor hsite ⟨⟨nofun, nofun⟩, nofun⟩]
    exact hrow

/-- The failure counted, the block to be run again, and its site SUSPECT (R97, R335, R340, R341). -/
theorem exec_quenchBlock_fails (hl : s.live = true) (hbl : o.blocks = []) :
    ∃ t o' r, exec (.quenchBlock site []) s = .next t ∧ t.op? b.front.seq = some o' ∧ o'.blocks = [] ∧
      r ∈ o'.reruns ∧ r.plc = b.front.plc ∧ r.key = b.front.key ∧ r.fails = 1 ∧ o'.gaugeFail = o.gaugeFail + 1 ∧
      t.fget Fl.arrGaugeEvtCount 0 = (s.fget Fl.arrGaugeEvtCount 0 + 1) % 2 ^ 32 ∧
      t.fget Fl.arrGaugeEvtPend 0 = 1 ∧ t.siteState site = stSuspect := by
  obtain ⟨ev, e, st, i, j, he, ht⟩ :=
    State.quenchTile_fails hsite hc hb ho hck hg hw hre hs hk hloc hret hrep hrow
  have hne : e.cls ≠ .fatal := by rw [he]; decide
  have hd : (s.drained site).op? b.front.seq = some o := (State.op?_of_ops (s.setTile_ops _ _) _).trans ho
  let r : Rerun := { plc := b.front.plc, key := b.front.key, fails := 1, site := st }
  obtain ⟨o₁, h₁, hcore⟩ := State.failNoted_op? site b.front b.front.seq ev hne r hd
  have hcare := ((s.drained site).failNoted site b.front b.front.seq ev e r).assignSpare_frame hsite i j b.front.seq
  have hcount := (hcare.fget Fl.arrGaugeEvtCount 0 (by decide) ⟨⟨nofun, nofun⟩, ⟨nofun, nofun, nofun⟩, nofun⟩).trans
    (State.failNoted_count (s.drained site) site b.front b.front.seq ev hne r)
  rw [State.fget_of_regs (t := s.drained site) (s.setTile_regs _ _)] at hcount
  refine ⟨_, o₁.failed r, r, act_eq_next (f := fun s => s.quenchTile site []) hl ht ?_ ?_,
    (State.op?_of_ops hcare.ops _).trans h₁, (Op.of_core Op.blocks (fun _ => rfl) hcore).trans hbl,
    List.mem_append_right _ (.head _), rfl, rfl, rfl,
    congrArg (· + 1) (Op.of_core Op.gaugeFail (fun _ => rfl) hcore), hcount, ?_, State.assignSpare_suspect _ hsite _ _ _⟩
  · exact hcare.halted.trans ((State.failNoted_halted _ _ _ _ _ hne _).trans
      ((s.setTile_halted _ _).trans (State.halted_of_live hl)))
  · exact hcare.pending.trans ((State.failNoted_pending _ _ _ _ _ hne _).trans (s.setTile_pending _ _))
  · exact (hcare.fget Fl.arrGaugeEvtPend 0 (by decide) ⟨⟨nofun, nofun⟩, ⟨nofun, nofun, nofun⟩, nofun⟩).trans
      (State.failNoted_pend _ _ _ _ _ hne _)

end

end Sys2Proof.Machine
end

section
/-! The blocks of a tile on their way out: relays, saddlebag lanes and the quench (O32). -/

namespace Sys2Proof.Machine

open Sys2Proof.Safety

/-- A buffer freed is no longer among the buffers. -/
theorem Tile.bufs_dropBuf_single {t : Tile} {b c : Block} (h : t.bufs = [b]) (hc : c.front = b.front) :
    ((t.putBuf c).dropBuf b.front).bufs = [] := by
  unfold Tile.putBuf Tile.dropBuf
  rw [h]
  simp [hc]

/-- A relayed group kept at the last tile of its chain (R75, R131). -/
theorem relayArrive_last {s : State} {site k : Nat} {b : Block} {o : Op} {g : Grp × Int} (hl : s.live = true)
    (hb : (s.tile site).buf? (s.takesRelay k) = some b) (ho : s.op? b.front.seq = some o)
    (hg : o.inbound b.front k = some g) (hlast : o.d.partOf b.front.tile + 1 = o.d.parts) :
    ∃ t o' b', exec (.relayArrive site k) s = .next t ∧ b' ∈ (t.tile site).bufs ∧ b'.front = b.front ∧
      mget {} b'.grps k = (mget {} b.grps k).add o.d.gw g.1 ∧ b'.relayGot = b.relayGot ++ [k] ∧
      t.op? b.front.seq = some o' ∧ o'.inbound b.front k = none ∧
      (∀ l, l ≠ k → mget {} b'.grps l = mget {} b.grps l) ∧ (∀ j, j ≠ site → t.tile j = s.tile j) ∧ t.mem = s.mem := by
  have hgrps := b.relayed_grps o.d k g
  refine ⟨s.relayTaken site k b o g, o.take b.front k, b.relayed o.d k g,
    exec_relayArrive_last site k b o g hl (State.relayIn_last hb ho hg hlast), ?_, b.relayed_front _ _ _,
    ?_, b.relayed_relayGot _ _ _, s.relayTaken_op? site k b o g ho, o.inbound_take _ _, fun l hlk => ?_,
    fun j hj => s.relayTaken_tile_ne site k b o g hj, s.relayTaken_mem site k b o g⟩
  · rw [State.relayTaken_tile]
    exact Tile.mem_putBuf (Tile.mem_of_buf? hb) (b.relayed_front _ _ _)
  · rw [hgrps, mget_mput_same]
  · rw [hgrps, mget_mput_ne _ _ _ hlk]

/-- A relayed group that goes on down (R75, R131). -/
theorem relayArrive_down {s : State} {site k : Nat} {b : Block} {o : Op} {g : Grp × Int} (hl : s.live = true)
    (hb : (s.tile site).buf? (s.takesRelay k) = some b) (ho : s.op? b.front.seq = some o)
    (hg : o.inbound b.front k = some g) (hlast : o.d.partOf b.front.tile + 1 ≠ o.d.parts)
    (hn : b.relayGot.length + 1 ≠ o.d.relayN) :
    ∃ t o', exec (.relayArrive site k) s = .next t ∧ t.op? b.front.seq = some o' ∧ t.mem = s.mem ∧
      ∃ r ∈ o'.sends, r.plc = b.front.plc ∧ r.key = b.front.key ∧
        ∃ sa, (k, (mget {} b.grps k).add o.d.gw g.1, sa) ∈ r.grps := by
  obtain ⟨r, hr, hplc, hkey, hin⟩ := Op.mem_sent b.front
    [(k, (mget {} b.grps k).add o.d.gw g.1, (b.relayed o.d k g).saFor k)] (o.take b.front k)
  exact ⟨_, _, exec_relayArrive_down site k b o g hl (State.relayIn_down hb ho hg hlast hn),
    State.op?_setOp _ (s.relayTaken_op? site k b o g ho) (Op.sent_seq _ _),
    (State.setOp_mem _ _ _).trans (s.relayTaken_mem site k b o g), r, hr, hplc, hkey, _, hin _ (.head _)⟩

/-- The terms that the lane delivers to a block (R178). -/
theorem saddlebagLaneTerms_delivers {s : State} {site : Nat} {b : Block} {o : Op} (hl : s.live = true)
    (hb : (s.tile site).readDrain.buf? s.wantsLane = some b) (ho : s.op? b.front.seq = some o) :
    ∃ t b', exec (.saddlebagLaneTerms site) s = .next t ∧ b' ∈ (t.tile site).bufs ∧
      b' = { b with lane := b'.lane, laneGot := true } ∧ (t.tile site).cur = (s.tile site).cur ∧
      (∀ p ∈ o.d.blockPlaces b.front, mget {} b'.lane p.1 =
        ({} : Grp).addAll o.d.gw (laneTerms (s.runEnv o) p.2 o.d.gw o.d.ganchor)) ∧
      (o.d.ledgerEn = false → t.mem = s.mem) := by
  refine ⟨_, { b with lane := laneGrps (s.runEnv o) b.front, laneGot := true }, exec_saddlebagLaneTerms hb ho hl, ?_, rfl,
    ?_, fun p hp => ?_, State.laneTile_mem hb ho⟩
  · rw [State.laneTile_tile hb ho]
    exact Tile.mem_putBuf (Tile.mem_of_buf? hb) rfl
  · rw [State.laneTile_tile hb ho]
    exact (s.tile site).readDrain_cur
  · have hd := s.runEnv_d o
    rw [← hd] at hp ⊢
    exact mget_laneGrps (s.runEnv o) hp

/-- A block of one tile that matches its checks, or skips them, is written, and nothing else is (R94, R96, R156). -/
theorem quenchBlock_delivers {s : State} {site : Nat} {b : Block} {o : Op} (hl : s.live = true)
    (hc : (s.tile site).cur = none) (hb : (s.tile site).readDrain.bufs = [b]) (ho : s.op? b.front.seq = some o)
    (hck : b.checked = false) (hm : o.d.isMat = true) (hparts : o.d.parts = 1) (hbags : o.d.hasBags = false)
    (hf : o.fusedPost = false) (hr : o.d.retemper = 0) (hp : o.partner = false) (hle : o.d.ledgerEn = false)
    (hs : s.readsOpen o = []) (hu : s.opUe o = [])
    (hok : b.spills = true ∨ (s.checkBlock site (o.lay b.front) b).ok = true) :
    let r := blockRun (s.envOf o) o (b.passed o.d)
    ∃ t o', exec (.quenchBlock site []) s = .next t ∧ t.op? b.front.seq = some o' ∧
      o'.blocks = o.blocks ++ [(b.front.plc, b.front.key)] ∧ (t.tile site).drain = none ∧ (t.tile site).bufs = [] ∧
      t.fget Fl.arrGaugeEvtUnchecked 0 = (s.fget Fl.arrGaugeEvtUnchecked 0 + b.spills.toNat) % 2 ^ 24 ∧
      t.fget Fl.arrGaugeEvtCount 0 = s.fget Fl.arrGaugeEvtCount 0 ∧
      (∀ a, (∀ w ∈ r.writes (s.envOf o), ¬ touches w a) → t.byteAt a = s.byteAt a) ∧
      (∀ l m c n x, r.writes (s.envOf o) = l ++ (c, n, x) :: m →
        (∀ w ∈ m, ∀ i < n, ¬ touches w ((c + i) / 8)) → rdBits (t.ctxRd false) c n = x % 2 ^ n) := by
  intro r
  obtain ⟨hk, hbytes, o', ho', hblocks⟩ :=
    State.quenchTile_passes_spec site ho hc hb hck hm hparts hbags hf hp hs hu hok hr hle
  obtain ⟨z, hz, hw⟩ := State.blockOut_byteAt site b ho hp hle
  have hmem := hbytes.trans hw
  have htile : (s.quenchTile site []).tile site = ((s.tile site).readDrain.putBuf (b.passed o.d)).dropBuf b.front := by
    rw [State.tile_of_tiles hk.tiles, State.blockFreed_tile, State.blockOut_tile]
  refine ⟨_, o', act_eq_next (f := fun s => s.quenchTile site []) hl rfl ?_ ?_, ho', hblocks, ?_, ?_, ?_, ?_,
    fun a ha => ?_, fun l m c n x he hlater => ?_⟩
  · exact hk.halted.trans ((State.blockFreed_halted _ _ _ _).trans
      ((s.blockOut_halted site b o).trans (State.halted_of_live hl)))
  · exact hk.pending.trans ((State.blockFreed_pending _ _ _ _).trans (s.blockOut_pending site b o))
  · rw [htile]
    exact Tile.readDrain_drain hb
  · rw [htile]
    exact Tile.bufs_dropBuf_single hb rfl
  · exact (hk.fget _ _).trans ((State.blockFreed_fget _ _ _ _ _ _).trans (s.blockOut_unchecked site b o))
  · exact (hk.fget _ _).trans ((State.blockFreed_fget _ _ _ _ _ _).trans (s.blockOut_count site b o))
  · exact (congrFun hmem a).trans ((z.byteAt_ctxBitsAll ha).trans (congrFun hz a))
  · rw [State.ctxRd_own, hmem]
    exact z.rdBits_ctxBitsAll he hlater

/-- Settles O32: a relayed group is added at its place and kept or sent on down, the lane delivers the terms of a block's
places, and the quench writes a block that passes and puts back one that fails. -/
theorem tileDrains : Obligations.TileDrains := by
  unfold Obligations.TileDrains
  refine ⟨⟨?relay, ?lane, ?pass⟩, ?fail⟩
  case relay =>
    intro s site k b o g hl hb ho hg
    exact ⟨relayArrive_last hl hb ho hg, relayArrive_down hl hb ho hg⟩
  case lane =>
    intro s site b o hl hb ho
    exact saddlebagLaneTerms_delivers hl hb ho
  case pass =>
    intro s site b o hl hc hb ho hck hm hparts hbags hf hr hp hle hs hu _ f hok
    exact quenchBlock_delivers hl hc hb ho hck hm hparts hbags hf hr hp hle hs hu hok
  case fail =>
    intro s site b o hl hsite hc hb ho hck f y hg hw hre hbl hs hk hloc hret hrep hrow
    exact exec_quenchBlock_fails hsite hc hb ho hck hg hw hre hs hk hloc hret hrep hrow hl hbl

end Sys2Proof.Machine
end

section
/-! Writes of TILE_REPAIR and TILE_STATE by the principal hart (R101, R102, Table 14.10). -/

namespace Sys2Proof.Machine

/-! ### TILE_REPAIR -/

/-- A field written where a condition holds takes the value, or stands. -/
theorem State.fget_ite_fset (s : State) (c : Bool) {f : Fld} (i : Nat) {v : Nat} (hw : f.inWord)
    (hv : v < 2 ^ (f.hi + 1 - f.lo)) :
    (if c = true then s.fset f i v else s).fget f i = if c = true then v else s.fget f i := by
  split
  · rw [State.fget_fset_same _ _ _ _ hw, Nat.mod_eq_of_lt hv]
  · rfl

/-- Another field of the register stands, whether the field is written or not. -/
theorem State.fget_ite_fset_field (s : State) (c : Bool) {f g : Fld} (i v : Nat) (hw : f.inWord) (hr : g.reg = f.reg)
    (h : f.hi < g.lo ∨ g.hi < f.lo) : (if c = true then s.fset f i v else s).fget g i = s.fget g i := by
  split
  · exact State.fget_fset_field _ _ _ hw hr h
  · rfl

theorem regsOnly_ite_fset (s : State) (c : Bool) (f : Fld) (i v : Nat) :
    RegsOnly s (if c = true then s.fset f i v else s) := by
  split
  · exact regsOnly_fset s f i v
  · exact .refl s

/-- TILE_REPAIR of a site without fused fields, with the values that the fields accept stored (R101). -/
def State.repairStored (s : State) (site row col : Nat) : State :=
  let t := if repairOk row = true then s.fset Fl.tileRepairSpareRowFor site row else s
  if repairOk col = true then t.fset Fl.tileRepairSpareColFor site col else t

section
variable (s : State) (site : Nat) {row col : Nat}

theorem State.repairStored_row (hr : row < 2 ^ 6) :
    (s.repairStored site row col).fget Fl.tileRepairSpareRowFor site =
      if repairOk row = true then row else s.fget Fl.tileRepairSpareRowFor site :=
  (State.fget_ite_fset_field _ (repairOk col) (f := Fl.tileRepairSpareColFor) (g := Fl.tileRepairSpareRowFor) site col
    (by decide) rfl (by decide)).trans
    (s.fget_ite_fset (repairOk row) site (by decide) hr)

theorem State.repairStored_col (hc : col < 2 ^ 6) :
    (s.repairStored site row col).fget Fl.tileRepairSpareColFor site =
      if repairOk col = true then col else s.fget Fl.tileRepairSpareColFor site := by
  have hrow := s.fget_ite_fset_field (repairOk row) (f := Fl.tileRepairSpareRowFor) (g := Fl.tileRepairSpareColFor) site row
    (by decide) rfl (by decide)
  exact hrow ▸ State.fget_ite_fset _ (repairOk col) site (by decide) hc

theorem State.repairStored_regsOnly : RegsOnly s (s.repairStored site row col) :=
  (regsOnly_ite_fset s (repairOk row) _ site row).trans (regsOnly_ite_fset _ (repairOk col) _ site col)

end

/-- The value of a listed key does not depend on the default. -/
theorem mget_of_any {α : Type} (d d' : α) {m : SMap α} {k : Nat} (h : (m.any fun e => e.1 == k) = true) :
    mget d m k = mget d' m k := by
  induction m with
  | nil => cases h
  | cons e r ih =>
    unfold mget
    split
    · rfl
    · rename_i hne
      exact ih (by simpa [hne] using h)

theorem keys_ne_of_not_any {α : Type} {m : SMap α} {k : Nat} (h : ¬ (m.any fun e => e.1 == k) = true) : ∀ e ∈ m, e.1 ≠ k :=
  fun e he hk => h (List.any_eq_true.mpr ⟨e, he, beq_iff_eq.mpr hk⟩)

/-- The registers of a site with a changed TILE_REPAIR, and its value in force kept until the mode boundary (R102). -/
def State.repairKept (s t : State) (site : Nat) : State :=
  if t.rd .tileRepair site = s.rd .tileRepair site ∨ (s.ost.repairNow.any fun e => e.1 == site) then t
  else { t with ost := { t.ost with repairNow := minsert t.ost.repairNow site (s.rd .tileRepair site).toNat } }

theorem State.repairKept_regs (s t : State) (site : Nat) : (s.repairKept t site).regs = t.regs := by
  unfold State.repairKept
  split <;> rfl

section
variable {s t : State} (h : RegsOnly s t) (site : Nat)
include h

theorem State.repairKept_repairOf : (s.repairKept t site).repairOf site = s.repairOf site := by
  have ho : t.ost = s.ost := h.ost
  unfold State.repairKept State.repairOf
  split
  · rename_i hc
    rw [ho]
    rcases hc with hc | hc
    · rw [hc]
    · exact mget_of_any _ _ hc
  · rename_i hc
    have hk := keys_ne_of_not_any fun ha => hc (.inr ha)
    rw [ho, mget_eq_default hk]
    exact mget_minsert_same _ _ _ _ hk

theorem State.repairKept_halted : (s.repairKept t site).halted = s.halted := by
  unfold State.repairKept
  split
  · exact h.halted
  · exact h.halted

theorem State.repairKept_pending : (s.repairKept t site).pending = s.pending := by
  unfold State.repairKept
  split
  · exact h.pending
  · exact h.pending

end

/-- A write of TILE_REPAIR where nothing is fused (R101, R102). -/
theorem State.setRepair_of_unfused {s : State} {site : Nat} (hf : s.fusedRepair site = (63, 63)) (row col : Nat) :
    s.setRepair site row col = s.repairKept (s.repairStored site row col) site := by
  unfold State.setRepair
  rw [hf]
  rfl

/-! ### TILE_STATE -/

section
variable {s : State} {req : Requester} {site : Nat} (hp : s.isPrincipal req = true)
include hp

/-- A write of TILE_STATE by the principal hart (Table 14.10). -/
theorem State.tileState_of_principal (v : Word64) : s.tileState req site v =
    if v.toNat % 4 = stRetired then s.retireSite site 0x03
    else if v.toNat % 4 = stActive ∧ s.siteState site = stSuspect then s.fset Fl.tileStateState site stActive
    else s := by
  have hx : bitsOf v.toNat 1 0 = v.toNat % 4 := by simp [bitsOf]
  unfold State.tileState
  rw [hp, hx]
  rfl

/-! ### The commands -/

variable (hl : s.live = true)
include hl

/-- TILE_REPAIR_WRITE where nothing is fused: accepted values are stored, and the repair in force stands (R101, R102). -/
theorem exec_tileRepairWrite (hf : s.fusedRepair site = (63, 63)) (v : Word64) :
    exec (.tileRepairWrite req site v) s =
      .next (s.repairKept (s.repairStored site (bitsOf v.toNat 5 0) (bitsOf v.toNat 13 8)) site) := by
  have ht := s.repairStored_regsOnly site (row := bitsOf v.toNat 5 0) (col := bitsOf v.toNat 13 8)
  refine act_eq_next (f := fun s => s.tileRepair req site v) hl ((if_pos hp).trans (State.setRepair_of_unfused hf _ _)) ?_
    (State.repairKept_pending ht site)
  exact (State.repairKept_halted ht site).trans (State.halted_of_live hl)

/-- TILE_STATE_WRITE of ACTIVE over SUSPECT (Table 14.10). -/
theorem exec_tileStateWrite_active {v : Word64} (hv : v.toNat % 4 = stActive) (hs : s.siteState site = stSuspect) :
    exec (.tileStateWrite req site v) s = .next (s.fset Fl.tileStateState site stActive) := by
  refine act_eq_next (f := fun s => s.tileState req site v) hl ?_ (State.halted_of_live hl) rfl
  rw [State.tileState_of_principal hp, hv, if_neg (by decide), if_pos ⟨rfl, hs⟩]

/-- TILE_STATE_WRITE of SPARE changes nothing (Table 14.10). -/
theorem exec_tileStateWrite_spare {v : Word64} (hv : v.toNat % 4 = stSpare) :
    exec (.tileStateWrite req site v) s = .next s := by
  refine act_eq_next (f := fun s => s.tileState req site v) hl ?_ (State.halted_of_live hl) rfl
  rw [State.tileState_of_principal hp, hv, if_neg (by decide), if_neg fun h => absurd h.1 (by decide)]

end

/-- Settles O25: each write is the store of its fields, and the repair in force is kept until the mode boundary. -/
theorem tileRegisters : Obligations.TileRegisters := by
  intro s req i v hl hp hi
  refine ⟨fun hf => ?repair, fun hv hs => ?active, fun hv => exec_tileStateWrite_spare hp hl hv⟩
  case repair =>
    have ht := s.repairStored_regsOnly i (row := bitsOf v.toNat 5 0) (col := bitsOf v.toNat 13 8)
    have hforce := State.repairKept_repairOf ht i
    exact ⟨_, exec_tileRepairWrite hp hl hf v,
      (State.fget_of_regs (s.repairKept_regs _ i) _ _).trans (s.repairStored_row i (bitsOf_lt _ _ _)),
      (State.fget_of_regs (s.repairKept_regs _ i) _ _).trans (s.repairStored_col i (bitsOf_lt _ _ _)),
      congrArg (fun w => bitsOf w 5 0) hforce, congrArg (fun w => bitsOf w 13 8) hforce⟩
  case active =>
    exact ⟨_, exec_tileStateWrite_active hp hl hv hs, s.fget_fset_same Fl.tileStateState i stActive (by decide),
      fun j hj hne => s.fget_fset_ne stActive hi hj (.inr hne), regsOnly_fset s _ i _⟩

end Sys2Proof.Machine
end

section
/-! The start of a proving run, and the march test of a word (R115, R118). -/

namespace Sys2Proof.Machine

/-! ### Frames of a whole register, and of an event -/

/-- The registers that a frame names stand as whole words. -/
theorem Frame.rd {p : Reg → Prop} {s t : State} (h : Frame p s t) {r : Reg} {i : Nat} (hi : i < r.place.2.1) (hp : p r) :
    t.rd r i = s.rd r i := by
  have hf := h.fget ⟨r, 63, 0, .rw, .nobody, 0⟩ i hi hp
  have hw (w : Word64) : bitsOf w.toNat 63 0 = w.toNat := by
    unfold bitsOf
    rw [pow_zero, Nat.div_one]
    exact Nat.mod_eq_of_lt w.isLt
  unfold State.fget at hf
  rw [hw, hw] at hf
  exact BitVec.eq_of_toNat_eq hf

/-- An event that is not FATAL shows its code in ERR_EVT (R329). -/
theorem State.logEvent_code (s : State) {e : Event} (he : e.cls ≠ .fatal) :
    (s.logEvent e).fget Fl.errEvtCode 0 = e.code % 2 ^ 8 := by
  unfold State.logEvent
  dsimp only
  rw [if_neg he]
  exact State.errEvt_code _ e

section
variable (s : State) (off rule : Nat) (v : Word64)

theorem State.refused_frame : Frame notEvent s (s.refused off rule v) := s.logEvent_frame nofun

theorem State.refused_ost : (s.refused off rule v).ost = s.ost := s.logEvent_ost nofun

theorem State.refused_code : (s.refused off rule v).fget Fl.errEvtCode 0 = 0x14 := s.logEvent_code nofun

end

/-! ### ARR_PROVE -/

/-- What a field reads after a write by software is what it reads after a store. -/
theorem State.fget_swset (s : State) (f : Fld) (i v : Nat) (g : Fld) (j : Nat) :
    (s.swset f i v).fget g j = (s.fset f i v).fget g j := rfl

/-- A field that software cannot store takes nothing of a write (Table 0.4). -/
theorem State.fieldWrite_of_unstored (req : Requester) (i : Nat) (v : Word64) (s : State) {f : Fld}
    (h : f.acc = .wo ∨ f.acc = .ro) : State.fieldWrite req i v s f = s := by
  unfold State.fieldWrite
  dsimp only
  split
  · rfl
  · rcases h with h | h <;> rw [h]

section
variable {s : State} {req : Requester} {v : Word64}

/-- ARR_PROVE with QUARTER stored. -/
def State.proveNamed (s : State) (q : Nat) : State := s.swset Fl.arrProveQuarter 0 q

/-- Of the fields of ARR_PROVE the principal's write stores QUARTER alone (Table 4.10). -/
theorem State.storeFields_arrProve (hp : s.isPrincipal req = true) :
    s.storeFields req 0 v (Reg.fields .arrProve) = s.proveNamed (bitsOf v.toNat 61 60) := by
  have hq : State.fieldWrite req 0 v s Fl.arrProveQuarter = s.proveNamed (bitsOf v.toNat 61 60) := by
    have hw : s.mayWrite req Fl.arrProveQuarter.who = true := by
      unfold State.mayWrite
      exact hp
    unfold State.fieldWrite
    dsimp only
    rw [hw]
    rfl
  have hskip (t : State) (f : Fld) (h : f.acc = .wo ∨ f.acc = .ro) := State.fieldWrite_of_unstored req 0 v t h
  simp only [State.storeFields, Reg.fields, List.foldl_cons, List.foldl_nil]
  rw [hskip s Fl.arrProveStart (.inl rfl), hskip s Fl.arrProveBusy (.inr rfl), hq, hskip _ Fl.arrProveResult (.inr rfl),
    hskip _ Fl.arrProveRepaired (.inr rfl), hskip _ Fl.arrProveRetired (.inr rfl)]

theorem State.halted_set_ost (s : State) (x : Ost) : State.halted { s with ost := x } = s.halted := rfl

theorem State.pending_set_ost (s : State) (x : Ost) : State.pending { s with ost := x } = s.pending := rfl

/-- A run on a quarter begun. -/
def State.proveBegun (s : State) (q : Nat) : State :=
  { s.fset Fl.arrProveBusy 0 1 with ost := { s.ost with proving := some q } }

section
variable (s : State) (q : Nat)

theorem State.proveNamed_halted : (s.proveNamed q).halted = s.halted := s.swset_halted _ _ _

theorem State.proveNamed_pending : (s.proveNamed q).pending = s.pending := s.swset_pending _ _ _

theorem State.proveNamed_ost : (s.proveNamed q).ost = s.ost := s.swset_ost _ _ _

theorem State.proveNamed_fget (f : Fld) (i : Nat) :
    (s.proveNamed q).fget f i = (s.fset Fl.arrProveQuarter 0 q).fget f i := s.fget_swset _ _ _ f i

theorem State.proveNamed_quarter {q : Nat} (hq : q < 4) : (s.proveNamed q).fget Fl.arrProveQuarter 0 = q := by
  rw [State.proveNamed_fget, State.fget_fset_same _ _ _ _ (by decide)]
  exact Nat.mod_eq_of_lt hq

theorem State.proveNamed_busy : (s.proveNamed q).fget Fl.arrProveBusy 0 = s.fget Fl.arrProveBusy 0 := by
  rw [State.proveNamed_fget]
  exact State.fget_fset_field _ (f := Fl.arrProveQuarter) (g := Fl.arrProveBusy) 0 q (by decide) rfl (by decide)

theorem State.proveBegun_halted : (s.proveBegun q).halted = s.halted :=
  (State.halted_set_ost _ _).trans (s.fset_halted _ _ _)

theorem State.proveBegun_pending : (s.proveBegun q).pending = s.pending :=
  (State.pending_set_ost _ _).trans (s.fset_pending _ _ _)

theorem State.proveBegun_busy : (s.proveBegun q).fget Fl.arrProveBusy 0 = 1 :=
  (State.fget_set_ost _ _ _ _).trans (State.fget_fset_same _ Fl.arrProveBusy 0 1 (by decide))

theorem State.proveBegun_quarter : (s.proveBegun q).fget Fl.arrProveQuarter 0 = s.fget Fl.arrProveQuarter 0 :=
  (State.fget_set_ost _ _ _ _).trans
    (State.fget_fset_field _ (f := Fl.arrProveBusy) (g := Fl.arrProveQuarter) 0 1 (by decide) rfl (by decide))

end

/-- START by the principal hart: a run begins, or the write is refused (R118). -/
theorem State.arrProve_of_principal (hp : s.isPrincipal req = true) (hv : v.getLsbD 63 = true) :
    s.arrProve req v =
      if bitsOf s.testQ (bitsOf v.toNat 61 60) (bitsOf v.toNat 61 60) = 1 ∧ s.ost.proving.isNone then
        (s.proveNamed (bitsOf v.toNat 61 60)).proveBegun (bitsOf v.toNat 61 60)
      else (s.proveNamed (bitsOf v.toNat 61 60)).refused (Reg.off .arrProve 0) 0x06 v := by
  unfold State.arrProve
  dsimp only
  rw [hp, State.storeFields_arrProve hp, hv, Bool.not_true, if_neg Bool.false_ne_true, if_neg Bool.false_ne_true]
  generalize s.proveNamed (bitsOf v.toNat 61 60) = t
  unfold State.proveBegun
  rfl

/-- START by another hart is refused (R118). -/
theorem State.arrProve_of_other (hp : s.isPrincipal req = false) (hw : s.mayWrite req .hart = true)
    (hv : v.getLsbD 63 = true) : s.arrProve req v = s.refused (Reg.off .arrProve 0) 0x06 v := by
  unfold State.arrProve
  dsimp only
  rw [hp, Bool.not_false, if_pos rfl, if_pos ⟨hv, hw⟩]

theorem exec_arrProveStart_begins (hl : s.live = true) (hp : s.isPrincipal req = true) (hv : v.getLsbD 63 = true)
    (ht : bitsOf s.testQ (bitsOf v.toNat 61 60) (bitsOf v.toNat 61 60) = 1) (hn : s.ost.proving = none) :
    exec (.arrProveStart req v) s =
      .next ((s.proveNamed (bitsOf v.toNat 61 60)).proveBegun (bitsOf v.toNat 61 60)) :=
  act_eq_next (f := fun s => s.arrProve req v) hl
    ((State.arrProve_of_principal hp hv).trans (if_pos ⟨ht, Option.isNone_iff_eq_none.mpr hn⟩))
    ((State.proveBegun_halted _ _).trans ((s.proveNamed_halted _).trans (State.halted_of_live hl)))
    ((State.proveBegun_pending _ _).trans (s.proveNamed_pending _))

theorem exec_arrProveStart_refused (hl : s.live = true) (hp : s.isPrincipal req = true) (hv : v.getLsbD 63 = true)
    (h : bitsOf s.testQ (bitsOf v.toNat 61 60) (bitsOf v.toNat 61 60) = 0 ∨ s.ost.proving.isSome = true) :
    exec (.arrProveStart req v) s =
      .next ((s.proveNamed (bitsOf v.toNat 61 60)).refused (Reg.off .arrProve 0) 0x06 v) := by
  have hf := (s.proveNamed (bitsOf v.toNat 61 60)).refused_frame (Reg.off .arrProve 0) 0x06 v
  refine act_eq_next (f := fun s => s.arrProve req v) hl ?_
    (hf.halted.trans ((s.proveNamed_halted _).trans (State.halted_of_live hl)))
    (hf.pending.trans (s.proveNamed_pending _))
  refine (State.arrProve_of_principal hp hv).trans (if_neg ?_)
  rintro ⟨h1, hn⟩
  rcases h with h | h
  · rw [h] at h1
    cases h1
  · rw [Option.isNone_iff_eq_none.mp hn] at h
    cases h

theorem exec_arrProveStart_other (hl : s.live = true) (hp : s.isPrincipal req = false)
    (hw : s.mayWrite req .hart = true) (hv : v.getLsbD 63 = true) :
    exec (.arrProveStart req v) s = .next (s.refused (Reg.off .arrProve 0) 0x06 v) := by
  have hf := s.refused_frame (Reg.off .arrProve 0) 0x06 v
  exact act_eq_next (f := fun s => s.arrProve req v) hl (State.arrProve_of_other hp hw hv)
    (hf.halted.trans (State.halted_of_live hl)) hf.pending

end

/-- A hart that is not the principal one does not act as it (R289). -/
theorem State.isPrincipal_of_ne {s : State} {h : Nat} (hne : h ≠ s.principalHart) : s.isPrincipal (.hart h) = false := by
  unfold State.isPrincipal
  simp [hne]

/-! ### The march test (R115) -/

/-- A word passes exactly if it holds both backgrounds after their writes. -/
theorem marchPasses_eq (ones zeros : BitVec 520) : marchPasses ones zeros =
    (stuckWord ones zeros (background false) == background false &&
      stuckWord ones zeros (background true) == background true) := by
  simp only [marchPasses, marchTest, marchStep, List.foldl_cons, List.foldl_nil]
  cases stuckWord ones zeros (background false) == background false <;>
    cases stuckWord ones zeros (background true) == background true <;> rfl

theorem stuckWord_zeros (ones zeros : BitVec 520) : stuckWord ones zeros (background true) = ~~~zeros := by
  unfold stuckWord background
  rw [if_pos rfl, BitVec.allOnes_or, BitVec.allOnes_and]

theorem stuckWord_ones (ones : BitVec 520) : stuckWord ones 0 (background false) = ones := by
  unfold stuckWord background
  rw [if_neg (by decide)]
  exact (congrArg₂ (· &&& ·) BitVec.zero_or BitVec.not_zero).trans BitVec.and_allOnes

theorem marchPasses_iff (ones zeros : BitVec 520) : marchPasses ones zeros = true ↔ ones = 0 ∧ zeros = 0 := by
  rw [marchPasses_eq, Bool.and_eq_true, beq_iff_eq, beq_iff_eq, stuckWord_zeros]
  have hz : ~~~zeros = background true ↔ zeros = 0 := by
    rw [show background true = ~~~(0 : BitVec 520) from BitVec.not_zero.symm, BitVec.not_inj]
  rw [hz]
  refine and_congr_left fun h => ?_
  rw [h, stuckWord_ones]
  rfl

end Sys2Proof.Machine
end

section
/-! A proving run in which nothing is at fault (R116 to R118). -/

namespace Sys2Proof.Machine

/-! ### The sites of a quarter that are RETIRED -/

section
variable {α β : Type} {g : Nat × α → Option β} {k : Nat} (hg : ∀ v, g (k, v) = none)
include hg

theorem filterMap_merase (m : SMap α) : (merase m k).filterMap g = m.filterMap g := by
  unfold merase
  induction m with
  | nil => rfl
  | cons e r ih =>
    obtain ⟨j, w⟩ := e
    by_cases hj : j = k
    · subst hj
      rw [List.filter_cons_of_neg (by simp), ih, List.filterMap_cons_none (hg w)]
    · rw [List.filter_cons_of_pos (by simpa using hj), List.filterMap_cons, List.filterMap_cons, ih]

theorem filterMap_minsert (m : SMap α) (v : α) : (minsert m k v).filterMap g = m.filterMap g := by
  induction m with
  | nil => exact List.filterMap_cons_none (hg v)
  | cons e r ih =>
    obtain ⟨j, w⟩ := e
    unfold minsert
    split
    · exact List.filterMap_cons_none (hg v)
    · rw [List.filterMap_cons, List.filterMap_cons, ih]

/-- A key that a filter drops changes nothing of what the filter keeps of a map. -/
theorem filterMap_mput [DecidableEq α] (d v : α) (m : SMap α) : (mput d m k v).filterMap g = m.filterMap g := by
  unfold mput
  split
  · exact filterMap_merase hg m
  · exact (filterMap_minsert hg _ v).trans (filterMap_merase hg m)

end

/-- The number of a register of a kind that an offset names. -/
def Reg.numberAt (r : Reg) (off : Nat) : Option Nat :=
  if r.place.1 ≤ off ∧ (off - r.place.1) % r.place.2.2 = 0 ∧ (off - r.place.1) / r.place.2.2 < r.place.2.1 then
    some ((off - r.place.1) / r.place.2.2)
  else none

theorem State.listed_eq (s : State) (r : Reg) : s.listed r = s.regs.filterMap fun e => r.numberAt e.1 := rfl

theorem Reg.off_of_numberAt {r : Reg} {off i : Nat} (h : r.numberAt off = some i) :
    i < r.place.2.1 ∧ off = r.off i := by
  unfold Reg.numberAt at h
  split at h
  · rename_i hc
    obtain ⟨hle, hmod, hlt⟩ := hc
    obtain rfl := Option.some.inj h
    refine ⟨hlt, ?_⟩
    unfold Reg.off
    have := Nat.div_add_mod (off - r.place.1) r.place.2.2
    omega
  · cases h

theorem State.lt_of_mem_listed {s : State} {r : Reg} {i : Nat} (h : i ∈ s.listed r) : i < r.place.2.1 := by
  rw [State.listed_eq] at h
  obtain ⟨e, -, he⟩ := List.mem_filterMap.mp h
  exact (Reg.off_of_numberAt he).1

/-- A write lists no other register. -/
theorem State.listed_wr_ne (s : State) {r r' : Reg} {i : Nat} (v : Word64) (hi : i < r.place.2.1) (hr : r' ≠ r) :
    (s.wr r i v).listed r' = s.listed r' := by
  have hn : r'.numberAt (r.off i) = none := by
    rw [Option.eq_none_iff_forall_ne_some]
    intro j hj
    obtain ⟨hlt, ho⟩ := Reg.off_of_numberAt hj
    exact Reg.off_ne hi hlt (.inl (Ne.symm hr)) ho
  exact filterMap_mput (fun _ => hn) _ v s.regs

/-- A write of another register retires no site. -/
theorem State.retiredIn_fset (s : State) {f : Fld} {i : Nat} (v q : Nat) (hi : i < f.reg.place.2.1)
    (hf : f.reg ≠ .tileState) : (s.fset f i v).retiredIn q = s.retiredIn q := by
  have hl : (s.fset f i v).listed .tileState = s.listed .tileState := s.listed_wr_ne _ hi (Ne.symm hf)
  unfold State.retiredIn
  rw [hl]
  refine congrArg List.length (List.filter_congr fun j hj => ?_)
  have hs : (s.fset f i v).siteState j = s.siteState j :=
    s.fget_fset_ne v hi (State.lt_of_mem_listed hj) (.inl (Ne.symm hf))
  rw [hs]

theorem State.retiredIn_of_regs {s t : State} (h : t.regs = s.regs) (q : Nat) : t.retiredIn q = s.retiredIn q := by
  have hs (i : Nat) : t.siteState i = s.siteState i := State.fget_of_regs h _ i
  unfold State.retiredIn State.listed
  simp only [hs, h]

/-! ### The mapping retires nothing (R410) -/

section
variable {s : State} {i : Nat} (hi : i < 4224)
include hi

theorem State.setMap_siteState (s : State) {n : Nat} (hn : n < 4096) (x : Option Nat) :
    (s.setMap n x).siteState i = s.siteState i := by
  have h (t : State) {f : Fld} (v : Nat) (hf : f.reg = .tileMap) : (t.fset f n v).siteState i = t.siteState i :=
    t.fget_fset_ne v (by rw [hf]; exact hn) hi (.inl (by rw [hf]; decide))
  cases x with
  | some j => exact (h _ _ rfl).trans (h _ _ rfl)
  | none => exact (h _ _ rfl).trans (h _ _ rfl)

/-- A state other than RETIRED, given to a site that is not RETIRED, leaves the RETIRED sites as they are. -/
theorem State.fset_siteState_retired {j v : Nat} (hj : j < 4224) (hs : s.siteState j ≠ stRetired) (hv : v < stRetired) :
    (s.fset Fl.tileStateState j v).siteState i = stRetired ↔ s.siteState i = stRetired := by
  unfold stRetired at hv hs
  by_cases h : i = j
  · subst h
    have he : (s.fset Fl.tileStateState i v).siteState i = v % 4 := s.fget_fset_same _ _ _ (by decide)
    unfold stRetired
    constructor
    · intro h
      omega
    · exact fun h => absurd h hs
  · rw [show (s.fset Fl.tileStateState j v).siteState i = s.siteState i from s.fget_fset_ne v hj hi (.inr h)]

theorem State.remapTile_retired (b : Bool) (s : State) {n : Nat} (hn : n < 4096) :
    (State.remapTile b s n).siteState i = stRetired ↔ s.siteState i = stRetired := by
  have hm (x : Option Nat) : (s.setMap n x).siteState i = stRetired ↔ s.siteState i = stRetired := by
    rw [State.setMap_siteState hi s hn x]
  have hspare := homeSite_lt hn
  unfold State.remapTile
  dsimp only
  split
  · split
    · exact .rfl
    · exact hm _
  · split
    · split
      · exact .rfl
      · split
        · rename_i hsp
          refine (State.fset_siteState_retired hi hspare ?_ (by decide)).trans (hm _)
          rw [hsp.1]
          decide
        · exact hm _
    · split
      · rename_i hsp
        refine (State.fset_siteState_retired hi hspare ?_ (by decide)).trans (hm _)
        rw [State.setMap_siteState hspare s hn]
        rcases hsp with h | ⟨-, h⟩ <;> rw [h] <;> decide
      · split
        · exact .rfl
        · exact hm _

theorem State.remap_retired (s : State) (b : Bool) :
    (s.remap b).siteState i = stRetired ↔ s.siteState i = stRetired := by
  unfold State.remap
  rw [State.redepth_siteState _ hi]
  exact foldl_invariant (fun t => State.siteState t i = stRetired ↔ s.siteState i = stRetired) _ _ _ .rfl
    fun t _ hn ht => (State.remapTile_retired hi b t (List.mem_range.mp hn)).trans ht

end

/-! ### Results -/

/-- A quarter's panel stores with the groups of the last pass, for every site. -/
def State.panelsProved (s : State) (q : Nat) : State :=
  { s with
    panel := s.panel.filter fun e => siteQuarter (e.1 / 2 ^ 19) ≠ q
    ost := { s.ost with proofed := (s.ost.proofed.filter fun x => siteQuarter x ≠ q) ++ quarterSites q } }

/-- The results of a run in ARR_PROVE (Table 4.10). -/
def State.proveReported (s : State) (result repaired retired : Nat) : State :=
  ((s.fset Fl.arrProveResult 0 result).fset Fl.arrProveRepaired 0 repaired).fset Fl.arrProveRetired 0 retired

section
variable (s : State)

theorem State.retiredIn_panelsProved (q q' : Nat) : (s.panelsProved q).retiredIn q' = s.retiredIn q' :=
  State.retiredIn_of_regs rfl q'

theorem State.proveReported_result {result : Nat} (h : result < 2 ^ 8) (a b : Nat) :
    (s.proveReported result a b).fget Fl.arrProveResult 0 = result := by
  unfold State.proveReported
  rw [State.fget_fset_field _ (f := Fl.arrProveRetired) (g := Fl.arrProveResult) _ _ (by decide) rfl (by decide),
    State.fget_fset_field _ (f := Fl.arrProveRepaired) (g := Fl.arrProveResult) _ _ (by decide) rfl (by decide),
    State.fget_fset_same _ _ _ _ (by decide)]
  exact Nat.mod_eq_of_lt h

theorem State.proveReported_repaired (a b : Nat) :
    (s.proveReported a 0 b).fget Fl.arrProveRepaired 0 = 0 := by
  unfold State.proveReported
  rw [State.fget_fset_field _ (f := Fl.arrProveRetired) (g := Fl.arrProveRepaired) _ _ (by decide) rfl (by decide),
    State.fget_fset_same _ _ _ _ (by decide)]
  rfl

theorem State.proveReported_retired (a b : Nat) :
    (s.proveReported a b 0).fget Fl.arrProveRetired 0 = 0 := by
  unfold State.proveReported
  rw [State.fget_fset_same _ _ _ _ (by decide)]
  rfl

theorem State.proveReported_regsBut (a b c : Nat) : RegsBut (· ≠ .arrProve) s (s.proveReported a b c) := by
  have h (t : State) {f : Fld} (v : Nat) (hf : f.reg = .arrProve) : RegsBut (· ≠ .arrProve) t (t.fset f 0 v) :=
    regsBut_fset t v (by rw [hf]; decide) fun hp => hp hf
  exact ((h _ _ rfl).trans (h _ _ rfl)).trans (h _ _ rfl)

end

/-! ### Sites without a defect -/

theorem first_mem_quarterSites (q : Nat) : 1056 * q ∈ quarterSites q :=
  List.mem_map.mpr ⟨0, List.mem_range.mpr (by decide), rfl⟩

section
variable {defs : List SiteDefects} (hd : ∀ x ∈ defs, x.defects = [])
include hd

theorem defectsAt_of_none (site : Nat) : defectsAt defs site = [] := by
  unfold defectsAt
  rw [List.flatMap_eq_nil_iff]
  exact fun x hx => hd x (List.mem_filter.mp hx).1

theorem State.cellErrs_of_none (s : State) (site p : Nat) : s.cellErrs site (defectsAt defs site) [] p = [] := by
  rw [defectsAt_of_none hd]
  rfl

/-- Each pass passes at every site (R116). -/
theorem State.passOf_of_none (s : State) (site p : Nat) : s.passOf defs [] site p = {} := by
  have hown := State.cellErrs_of_none hd s site p
  have hchain : ((chainOf site).any fun x => !(s.cellErrs x (defectsAt defs x) [] 5).isEmpty) = false := by
    simp [State.cellErrs_of_none hd]
  unfold State.passOf
  dsimp only
  rw [hown, hchain]
  exact if_pos (.inl ⟨rfl, by cases p == 5 <;> cases site % 33 == 31 <;> rfl⟩)

theorem State.proveSite_of_none (s : State) (site : Nat) : s.proveSite defs [] site = {} := by
  have hb : s.bist site (defectsAt defs site) = {} := by rw [defectsAt_of_none hd]; rfl
  unfold State.proveSite
  rw [hb]
  refine foldl_invariant (fun a => a = ({} : SiteFound)) _ _ _ rfl fun a p _ ha => ?_
  rw [ha, State.passOf_of_none hd]
  rfl

/-- No site is repaired or given up in the first run (R117, step 1). -/
theorem State.foldl_proofSite_of_none (s : State) (l : List Nat) :
    l.foldl (State.proofSite defs []) (s, []) = (s, []) := by
  refine foldl_invariant (fun a => a = (s, [])) _ _ _ rfl fun a site _ ha => ?_
  unfold State.proofSite
  dsimp only
  rw [State.proveSite_of_none hd]
  exact ha

/-- The fault does not lie outside the sites either (R117, step 3). -/
theorem State.faultOutside_of_none (s : State) (q : Nat) : s.faultOutside defs [] q = false := by
  have hcol : ((List.range 32).any fun col =>
      ((chainOf (1056 * q + 33 * col)).any fun x => (s.passOf defs [] x 5).fails) &&
        (chainOf (1056 * q + 33 * col)).all fun x => (List.range 5).all fun p => !(s.passOf defs [] x p).fails) = false := by
    rw [List.any_eq_false]
    intro col _
    simp [State.passOf_of_none hd]
  have hall : ((quarterSites q).all fun x => (s.passOf defs [] x 4).fails) = false := by
    rw [List.all_eq_false]
    exact ⟨_, first_mem_quarterSites q, by rw [State.passOf_of_none hd]; decide⟩
  exact congrArg₂ (· || ·) hcol hall

/-- The run leaves its last groups in the panel stores of every site (R116). -/
theorem State.leavePanels_of_none (s : State) (q : Nat) : s.leavePanels defs [] q = s.panelsProved q := by
  have hspoilt (x : Nat) : (!(defectsAt defs x).isEmpty || !([] : List OutsideDefect).isEmpty ||
      (x % 33 == 31 && (chainOf x).any fun y => !(defectsAt defs y).isEmpty)) = false := by
    simp [defectsAt_of_none hd]
  unfold State.leavePanels State.panelsProved
  simp only [hspoilt, Bool.not_false, List.filter_true, List.filter_false, List.foldl_nil]

/-- The run reports that every site passed, or that too many were RETIRED before it (R117, R118). -/
theorem State.proofEnd_of_none (s : State) (q : Nat) : s.proofEnd q [] defs =
    ((s.panelsProved q).proveReported (if 64 ≤ s.retiredIn q then 2 else 1) 0 0).remap false := by
  have hretired (r : Nat) : (((s.panelsProved q).fset Fl.arrProveResult 0 r).fset Fl.arrProveRepaired 0 0).retiredIn q =
      s.retiredIn q := by
    rw [State.retiredIn_fset _ _ _ (by decide) (by decide), State.retiredIn_fset _ _ _ (by decide) (by decide),
      State.retiredIn_panelsProved]
  unfold State.proofEnd
  dsimp only
  rw [State.foldl_proofSite_of_none hd, State.faultOutside_of_none hd]
  simp only [List.map_nil, List.foldl_nil, List.filter_nil, List.length_nil]
  rw [State.leavePanels_of_none hd, State.retiredIn_panelsProved, if_neg Bool.false_ne_true, if_neg Bool.false_ne_true,
    hretired, Nat.sub_self]
  rfl

end

/-! ### PROVING_RUN_END -/

/-- A run that ARR_PROVE started is over. -/
def State.proveOver (s : State) : State :=
  let t := s.fset Fl.arrProveBusy 0 0
  { t with ost := { t.ost with proving := none } }

section
variable (s : State)

theorem State.proveOver_halted : s.proveOver.halted = s.halted := (State.halted_set_ost _ _).trans (s.fset_halted _ _ _)

theorem State.proveOver_pending : s.proveOver.pending = s.pending :=
  (State.pending_set_ost _ _).trans (s.fset_pending _ _ _)

theorem State.proveOver_busy : s.proveOver.fget Fl.arrProveBusy 0 = 0 :=
  (State.fget_set_ost _ _ _ _).trans (State.fget_fset_same _ Fl.arrProveBusy 0 0 (by decide))

/-- The end of a run leaves what the fields above and below BUSY report. -/
theorem State.proveOver_fget {g : Fld} (hr : g.reg = .arrProve) (h : g.hi < 62) : s.proveOver.fget g 0 = s.fget g 0 :=
  (State.fget_set_ost _ _ _ _).trans (State.fget_fset_field _ (f := Fl.arrProveBusy) 0 0 (by decide) hr (.inr h))

theorem State.proveOver_siteState {i : Nat} (hi : i < 4224) : s.proveOver.siteState i = s.siteState i :=
  (State.fget_set_ost _ _ _ _).trans (State.fget_fset_ne _ (f := Fl.arrProveBusy) 0 (by decide) hi (.inl (by decide)))

end

theorem State.provingEnd_of_started {s : State} {q : Nat} (h : s.ost.proving = some q) (out : List OutsideDefect)
    (defs : List SiteDefects) : s.provingEnd q out defs = (s.proofEnd q out defs).proveOver := by
  unfold State.provingEnd
  rw [if_pos h]
  rfl

/-- The module after a run on a quarter in which nothing was at fault. -/
def State.provedClean (s : State) (q : Nat) : State :=
  (((s.panelsProved q).proveReported (if 64 ≤ s.retiredIn q then 2 else 1) 0 0).remap false).proveOver

section
variable (s : State) (q : Nat)

/-- What the remapping that follows a run, and its end, leave of the results. -/
theorem State.provedClean_fget {g : Fld} (hr : g.reg = .arrProve) (h : g.hi < 62) : (s.provedClean q).fget g 0 =
    ((s.panelsProved q).proveReported (if 64 ≤ s.retiredIn q then 2 else 1) 0 0).fget g 0 :=
  (State.proveOver_fget _ hr h).trans
    ((State.remap_regsBut _ false).fget g 0 (by rw [hr]; decide) (by rw [hr]; exact ⟨nofun, nofun, nofun⟩))

theorem State.provedClean_regsOnly : RegsOnly (s.panelsProved q)
    (((s.panelsProved q).proveReported (if 64 ≤ s.retiredIn q then 2 else 1) 0 0).remap false) :=
  (State.proveReported_regsBut _ _ _ _).regs.trans (State.remap_regsBut _ false).regs

theorem State.provedClean_siteState {i : Nat} (hi : i < 4224) :
    (s.provedClean q).siteState i = stRetired ↔ s.siteState i = stRetired := by
  have hreport := (State.proveReported_regsBut (s.panelsProved q) (if 64 ≤ s.retiredIn q then 2 else 1) 0 0).fget
    Fl.tileStateState i hi nofun
  have hpanels : (s.panelsProved q).fget Fl.tileStateState i = s.fget Fl.tileStateState i := State.fget_of_regs rfl _ _
  unfold State.provedClean
  rw [State.proveOver_siteState _ hi, State.remap_retired hi, State.siteState, hreport, hpanels]
  rfl

end

theorem exec_provingRunEnd_clean {s : State} {q : Nat} {defs : List SiteDefects} (hl : s.live = true)
    (hs : s.ost.proving = some q) (hd : ∀ x ∈ defs, x.defects = []) :
    exec (.provingRunEnd q [] defs) s = .next (s.provedClean q) := by
  have ht : s.provingEnd q [] defs = s.provedClean q := by
    rw [State.provingEnd_of_started hs, State.proofEnd_of_none hd]
    rfl
  have hr := s.provedClean_regsOnly q
  exact act_eq_next (f := fun s => s.provingEnd q [] defs) hl ht
    ((State.proveOver_halted _).trans (hr.halted.trans (State.halted_of_live hl)))
    ((State.proveOver_pending _).trans hr.pending)

/-! ### The obligation -/

/-- Settles O27: START begins a run or is refused, the march test reads both backgrounds back, and a run without a fault
reports that, and retires no site. -/
theorem proving : Obligations.Proving := by
  unfold Obligations.Proving
  refine ⟨?principal, ?other, marchPasses_iff, ?clean⟩
  case principal =>
    intro s req v hl hp hv
    dsimp only
    refine ⟨fun ht hn => ?begins, fun h => ?refused⟩
    case begins =>
      have hq : bitsOf v.toNat 61 60 < 4 := bitsOf_lt _ _ _
      exact ⟨_, exec_arrProveStart_begins hl hp hv ht hn, State.proveBegun_busy _ _,
        (State.proveBegun_quarter _ _).trans (s.proveNamed_quarter hq), rfl⟩
    case refused =>
      have hf := (s.proveNamed (bitsOf v.toNat 61 60)).refused_frame (Reg.off .arrProve 0) 0x06 v
      exact ⟨_, exec_arrProveStart_refused hl hp hv h,
        (hf.fget Fl.arrProveBusy 0 (by decide) ⟨nofun, nofun⟩).trans (s.proveNamed_busy _),
        congrArg Ost.proving ((State.refused_ost _ _ _ _).trans (s.proveNamed_ost _)), State.refused_code _ _ _ _⟩
  case other =>
    intro s h v hl hpres hne hv
    have hf := s.refused_frame (Reg.off .arrProve 0) 0x06 v
    exact ⟨_, exec_arrProveStart_other hl (State.isPrincipal_of_ne hne) hpres hv, hf.rd (by decide) ⟨nofun, nofun⟩,
      congrArg Ost.proving (s.refused_ost _ _ _), s.refused_code _ _ _⟩
  case clean =>
    intro s q sites hl hs hd
    have hresult : (if 64 ≤ s.retiredIn q then 2 else 1) < 2 ^ 8 := by split <;> decide
    exact ⟨_, exec_provingRunEnd_clean hl hs hd, State.proveOver_busy _, rfl,
      (s.provedClean_fget q (g := Fl.arrProveResult) rfl (by decide)).trans (State.proveReported_result _ hresult 0 0),
      (s.provedClean_fget q (g := Fl.arrProveRepaired) rfl (by decide)).trans (State.proveReported_repaired _ _ 0),
      (s.provedClean_fget q (g := Fl.arrProveRetired) rfl (by decide)).trans (State.proveReported_retired _ _ 0),
      fun i hi => s.provedClean_siteState q hi⟩

end Sys2Proof.Machine
end

section
/-! Fills of a bellows from its panel store, and the product tables of a strip step (R90, R182). -/

namespace Sys2Proof.Machine

/-! ### Bellows of a tile -/

/-- A row bellows, or a column bellows, of a tile. -/
def Tile.bellows (t : Tile) (row : Bool) (idx : Nat) : Bellows := mget {} (if row then t.rowB else t.colB) idx

/-- A tile with one bellows set. -/
def Tile.putBellows (t : Tile) (row : Bool) (idx : Nat) (b : Bellows) : Tile :=
  if row then { t with rowB := mput {} t.rowB idx b } else { t with colB := mput {} t.colB idx b }

section
variable (t : Tile) (row : Bool) (idx : Nat) (b : Bellows)

theorem Tile.bellows_putBellows : (t.putBellows row idx b).bellows row idx = b := by
  cases row
  · exact mget_mput_same _ t.colB idx b
  · exact mget_mput_same _ t.rowB idx b

theorem Tile.putBellows_cur : (t.putBellows row idx b).cur = t.cur := by cases row <;> rfl

theorem Tile.putBellows_grps : (t.putBellows row idx b).grps = t.grps := by cases row <;> rfl

end

section
variable (t : Tile) (d : Desc) (f : Front) (isB : Bool) (used : List Nat)

/-- Chunk buffers given up are all that changes in a tile whose bellows have passed them (R124). -/
theorem Tile.dropPassed_eq : ∃ ps, t.dropPassed d f isB used = { t with panels := ps } := by
  unfold Tile.dropPassed
  dsimp only
  split
  · exact ⟨t.panels, rfl⟩
  · exact ⟨_, rfl⟩

theorem Tile.dropPassed_cur : (t.dropPassed d f isB used).cur = t.cur := by
  obtain ⟨ps, h⟩ := t.dropPassed_eq d f isB used
  rw [h]

theorem Tile.dropPassed_grps : (t.dropPassed d f isB used).grps = t.grps := by
  obtain ⟨ps, h⟩ := t.dropPassed_eq d f isB used
  rw [h]

theorem Tile.dropPassed_bellows (row : Bool) (idx : Nat) :
    (t.dropPassed d f isB used).bellows row idx = t.bellows row idx := by
  obtain ⟨ps, h⟩ := t.dropPassed_eq d f isB used
  rw [h]
  rfl

end

/-! ### BELLOWS_FILL -/

/-- The next fill of a bellows that runs logical row or column `r` of a front. -/
def State.nextFill (s : State) (site : Nat) (row : Bool) (idx r : Nat) (f : Front) (o : Op) : Fill :=
  o.d.fillOf (o.d.partKs (o.d.partOf f.tile)) row r ((s.tile site).bellows row idx).pos f.sub

/-- The bellows with that fill placed behind what it holds. -/
def State.filledBellows (s : State) (site : Nat) (row : Bool) (idx r : Nat) (f : Front) (o : Op) : Bellows :=
  let b := (s.tile site).bellows row idx
  let x := s.nextFill site row idx r f o
  { q := b.q ++ x.entries.map (s.makeEntry site (s.runEnv o) f row r), pos := b.pos + x.adv }

/-- The tile with that bellows, and with the chunk buffers that it needs no more given up. -/
def State.filledTile (s : State) (site : Nat) (row : Bool) (idx r : Nat) (f : Front) (o : Op) : Tile :=
  ((s.tile site).putBellows row idx (s.filledBellows site row idx r f o)).dropPassed o.d f (!row)
    (s.usedBellows site o.d f row)

section
variable {s : State} {site : Nat} {row : Bool} {idx r : Nat} {f : Front} {o : Op}

theorem State.filledTile_cur : (s.filledTile site row idx r f o).cur = (s.tile site).cur :=
  (Tile.dropPassed_cur _ _ _ _ _).trans (Tile.putBellows_cur _ _ _ _)

theorem State.filledTile_grps : (s.filledTile site row idx r f o).grps = (s.tile site).grps :=
  (Tile.dropPassed_grps _ _ _ _ _).trans (Tile.putBellows_grps _ _ _ _)

theorem State.filledTile_bellows :
    (s.filledTile site row idx r f o).bellows row idx = s.filledBellows site row idx r f o :=
  (Tile.dropPassed_bellows _ _ _ _ _ _ _).trans (Tile.bellows_putBellows _ _ _ _)

variable (hc : (s.tile site).cur = some f) (ho : s.op? f.seq = some o) (hm : o.d.isMat = true)
  (hr : logicalOf (if row then s.spareRow site else s.spareCol site) idx = some r)
  (hu : (if row then o.d.usesRow f r else o.d.usesCol f r) = true)
  (hwords : ∀ p, some p ∈ (s.nextFill site row idx r f o).picks →
    (s.tile site).hasWord f (!row) p.chunk (wordNo (o.d.panelPos (!row) p.line p.x)) = true)
  (hplace : (if o.d.strip then ((s.tile site).bellows row idx).pos
      else if o.d.cls ≤ 1 then ((s.tile site).bellows row idx).pos / 2
      else ((s.tile site).bellows row idx).pos * o.d.perTerm) < o.d.tileSteps f.tile * o.d.entriesPerStep row)
  (hroom : ((s.tile site).bellows row idx).q.length + (s.nextFill site row idx r f o).entries.length ≤ 64)
include hc ho hm hr hu hwords hplace hroom

/-- A bellows in use fills where its words have arrived, entries are left to place, and it has room (R90). -/
theorem State.fillBellows_eq :
    s.fillBellows site row idx = s.setTile site (s.filledTile site row idx r f o) := by
  unfold State.fillBellows
  dsimp only
  rw [hc]
  dsimp only
  rw [ho]
  dsimp only
  rw [hm, if_neg (by decide), hr]
  dsimp only
  rw [hu, if_neg (by decide)]
  refine (if_neg ?_).trans (by rw [← hc]; rfl)
  rintro (hmissing | hdone | hfull)
  · refine absurd hmissing ?_
    rw [Bool.not_eq_true', Bool.not_eq_false, List.all_eq_true]
    intro p hp
    cases p with
    | none => rfl
    | some p => exact hwords p hp
  · exact Nat.not_le_of_lt hplace hdone
  · exact Nat.not_lt_of_le hroom hfull

theorem exec_bellowsFill (hl : s.live = true) :
    exec (.bellowsFill site row idx) s = .next (s.setTile site (s.filledTile site row idx r f o)) :=
  act_eq_next (f := fun s => s.fillBellows site row idx) hl
    (State.fillBellows_eq hc ho hm hr hu hwords hplace hroom) (State.halted_of_live hl) rfl

end

/-! ### PRODUCT_TABLE_BUILD -/

/-- Two logical rows run on two physical ones (R101). -/
theorem physOf_inj {spare r r' : Nat} (hr : r < 32) (hr' : r' < 32) (h : physOf spare r = physOf spare r') : r = r' := by
  unfold physOf at h
  split at h <;> split at h <;> omega

/-- The row entry from which the tables of the next step are formed. -/
def State.tableEntry (s : State) (site r : Nat) : Option Entry :=
  (mget {} (s.tile site).rowB (s.physRow site r)).q[(s.tile site).ptabStep - (s.tile site).steps]?

/-- The activation of a logical row for the next step of the table builder. -/
def State.tableVal (s : State) (site : Nat) (f : Front) (o : Op) (r : Nat) : Val :=
  match o.d.stepK (o.d.partKs (o.d.partOf f.tile)) r (s.tile site).ptabStep 0, s.tableEntry site r with
  | some k, some en => ((rowElem (s.runEnv o) f r k en 0).map fun e => e.val).getD (.zero false)
  | _, _ => .zero false

/-- Where the table of a logical row for the next step lies in the ring of four steps (R182). -/
def State.tableKey (s : State) (site r : Nat) : Nat := 64 * ((s.tile site).ptabStep % 4) + s.physRow site r

/-- The tile with the tables of every row for the next step. -/
def State.tabledTile (s : State) (site : Nat) (f : Front) (o : Op) : Tile :=
  { s.tile site with
    ptab := (List.range 32).foldl
      (fun m r => mput [] m (s.tableKey site r) (prodTable (s.tableVal site f o r))) (s.tile site).ptab
    ptabStep := (s.tile site).ptabStep + 1 }

section
variable {s : State} {site : Nat} {f : Front} {o : Op}

theorem State.tableVal_of_elem {r k : Nat} {en : Entry} {x : Elem}
    (hk : o.d.stepK (o.d.partKs (o.d.partOf f.tile)) r (s.tile site).ptabStep 0 = some k)
    (he : s.tableEntry site r = some en) (hx : rowElem (s.runEnv o) f r k en 0 = some x) :
    s.tableVal site f o r = x.val := by
  unfold State.tableVal
  rw [hk, he]
  dsimp only
  rw [hx]
  rfl

theorem State.tabledTile_grps : (s.tabledTile site f o).grps = (s.tile site).grps := rfl

/-- The table of a row holds the products of its activation. -/
theorem State.tabledTile_ptab {r : Nat} (hr : r < 32) :
    mget [] (s.tabledTile site f o).ptab (s.tableKey site r) = prodTable (s.tableVal site f o r) := by
  refine mget_foldl_mput [] (s.tableKey site) (fun r => prodTable (s.tableVal site f o r)) (fun y hy h => ?_) _
    (.inl (List.mem_range.mpr hr))
  rw [physOf_inj (List.mem_range.mp hy) hr (Nat.add_left_cancel h)]

variable (hc : (s.tile site).cur = some f) (ho : s.op? f.seq = some o) (hd : o.d.prodTables = true)
  (hsteps : (s.tile site).ptabStep < o.d.tileSteps f.tile)
  (hring : (s.tile site).ptabStep - (s.tile site).steps < 4)
  (hentry : ∀ r < 32, (s.tableEntry site r).isSome = true)
include hc ho hd hsteps hring hentry

/-- The builder forms the tables of a step where the ring has room for it and every row has its entry (R182). -/
theorem State.buildTables_eq : s.buildTables site = s.setTile site (s.tabledTile site f o) := by
  unfold State.buildTables
  dsimp only
  rw [hc]
  dsimp only
  rw [ho]
  refine (if_neg ?_).trans (by rw [← hc]; rfl)
  rintro (h | h | h | h)
  · rw [hd] at h
    cases h
  · exact Nat.not_le_of_lt hsteps h
  · exact Nat.not_le_of_lt hring h
  · refine absurd h ?_
    rw [Bool.not_eq_true', Bool.not_eq_false, List.all_eq_true]
    exact fun r hr => hentry r (List.mem_range.mp hr)

theorem exec_productTableBuild (hl : s.live = true) :
    exec (.productTableBuild site) s = .next (s.setTile site (s.tabledTile site f o)) :=
  act_eq_next (f := fun s => s.buildTables site) hl (State.buildTables_eq hc ho hd hsteps hring hentry)
    (State.halted_of_live hl) rfl

end

end Sys2Proof.Machine
end

section
/-! Words of an operand on their way to the panel stores of its tiles (R90, R123 to R126). -/

namespace Sys2Proof.Machine

/-! ### One panel store -/

/-- Only the Ostler's notes, the bytes of a site's panel store and its tile differ. -/
structure InSite (site : Nat) (s t : State) : Prop where
  rest : t = { s with panel := t.panel, ost := t.ost, tiles := t.tiles }
  panel : ∀ a, a / 2 ^ 19 ≠ site → mget 0 t.panel a = mget 0 s.panel a
  tile : ∀ j, j ≠ site → t.tile j = s.tile j

section
variable {site : Nat} {s t u : State}

theorem InSite.refl (site : Nat) (s : State) : InSite site s s := ⟨rfl, fun _ _ => rfl, fun _ _ => rfl⟩

theorem InSite.trans (h : InSite site s t) (k : InSite site t u) : InSite site s u where
  rest := by rw [k.rest, h.rest]
  panel a ha := (k.panel a ha).trans (h.panel a ha)
  tile j hj := (k.tile j hj).trans (h.tile j hj)

theorem InSite.ops (h : InSite site s t) : t.ops = s.ops := by rw [h.rest]
theorem InSite.mem (h : InSite site s t) : t.mem = s.mem := by rw [h.rest]
theorem InSite.halted (h : InSite site s t) : t.halted = s.halted := by rw [h.rest]
theorem InSite.pending (h : InSite site s t) : t.pending = s.pending := by rw [h.rest]

end

theorem inSite_setTile (s : State) (site : Nat) (x : Tile) : InSite site s (s.setTile site x) :=
  ⟨rfl, fun _ _ => rfl, fun _ hj => s.tile_setTile_ne site x hj⟩

theorem inSite_set_ost (s : State) (site : Nat) (x : Ost) : InSite site s { s with ost := x } :=
  ⟨rfl, fun _ _ => rfl, fun _ _ => rfl⟩

/-- Locations of a panel store are keys of its site alone. -/
theorem panelKey_div {site a : Nat} (h : a < 2 ^ 19) : (site * 2 ^ 19 + a) / 2 ^ 19 = site := by
  rw [Nat.mul_comm, Nat.mul_add_div (Nat.two_pow_pos 19), Nat.div_eq_of_lt h, Nat.add_zero]

/-! ### Bytes put into a panel store -/

section
variable (s : State)

theorem State.panelPoke_eq (a : Nat) (bs : List Byte) :
    s.panelPoke a bs = { s with panel := (s.panelPoke a bs).panel } := by
  induction bs generalizing s a with
  | nil => rfl
  | cons b r ih =>
    rw [State.panelPoke, ih]

/-- Bytes put change those bytes and no other. -/
theorem State.mget_panelPoke (a c : Nat) (bs : List Byte) : mget 0 (s.panelPoke a bs).panel c =
    if a ≤ c ∧ c < a + bs.length then bs.getD (c - a) 0 else mget 0 s.panel c := by
  induction bs generalizing s a with
  | nil =>
    rw [if_neg (by simp)]
    rfl
  | cons b r ih =>
    rw [State.panelPoke, ih, List.length_cons]
    by_cases h : c = a
    · subst h
      rw [if_neg (by omega), if_pos (by omega), Nat.sub_self]
      exact mget_mput_same _ _ _ _
    · by_cases hr : a + 1 ≤ c ∧ c < a + 1 + r.length
      · obtain ⟨k, rfl⟩ : ∃ k, c = a + 1 + k := ⟨c - (a + 1), by omega⟩
        rw [if_pos hr, if_pos (by omega), Nat.add_sub_cancel_left, show a + 1 + k - a = k + 1 by omega,
          List.getD_cons_succ]
      · rw [if_neg hr, if_neg (by omega)]
        exact mget_mput_ne _ _ _ h

/-- The bytes just put, read back. -/
theorem State.panel_panelPoke (a : Nat) (bs : List Byte) :
    ((List.range bs.length).map fun k => mget 0 (s.panelPoke a bs).panel (a + k)) = bs := by
  refine List.ext_getElem (by simp) fun k h₁ h₂ => ?_
  rw [List.getElem_map, List.getElem_range, State.mget_panelPoke, if_pos (by omega), Nat.add_sub_cancel_left,
    List.getD_eq_getElem]

/-- Bytes put within a panel store stay in it. -/
theorem State.panelPoke_inSite (site : Nat) {a : Nat} {bs : List Byte} (h : a + bs.length ≤ 2 ^ 19) :
    InSite site s (s.panelPoke (site * 2 ^ 19 + a) bs) where
  rest := by
    conv_lhs => rw [State.panelPoke_eq]
    rw [show (s.panelPoke (site * 2 ^ 19 + a) bs).ost = s.ost by rw [State.panelPoke_eq],
      show (s.panelPoke (site * 2 ^ 19 + a) bs).tiles = s.tiles by rw [State.panelPoke_eq]]
  panel c hc := by
    rw [State.mget_panelPoke, if_neg]
    intro hr
    obtain ⟨k, rfl⟩ : ∃ k, c = site * 2 ^ 19 + k := ⟨c - site * 2 ^ 19, by omega⟩
    exact hc (panelKey_div (by omega))
  tile j _ := State.tile_of_tiles (by rw [State.panelPoke_eq]) j

end

/-! ### The image of a proving run -/

theorem flatMap_leBytes_length {α : Type} (l : List α) (n : Nat) (f : α → Nat) :
    (l.flatMap fun x => leBytes n (f x)).length = l.length * n := by
  induction l with
  | nil => simp
  | cons x r ih => rw [List.flatMap_cons, List.length_append, ih, leBytes_length, List.length_cons]; ring

theorem proveGroups_length (p times : Nat) (err : Nat → Nat → Int) :
    (proveGroups p times err).length = (proveLay p).places.length := List.length_map _

theorem provedBytes_length (p times : Nat) (err : Nat → Nat → Int) :
    (provedBytes p (proveGroups p times err)).length = (proveLay p).places.length * ((proveLay p).w / 8) := by
  unfold provedBytes
  rw [flatMap_leBytes_length, proveGroups_length]

theorem Layout.places_length (y : Layout) : y.places.length = y.rows * y.cols := by
  unfold Layout.places
  simp [List.length_flatMap]

/-- The image fills 16 KiB (Table 5.3). -/
theorem provedImage_length (site : Nat) : (provedImage site).length = 16384 := by
  unfold provedImage
  split
  · rw [provedBytes_length, Layout.places_length]
    decide
  · rw [provedBytes_length, Layout.places_length]
    decide

/-- Bytes staged in blocks 32 and up of a panel store stay in it (Table 5.3). -/
theorem State.stageSave_inSite (s : State) (site : Nat) {bs : List Byte} (h : bs.length ≤ 2 ^ 18) :
    InSite site s (s.stageSave site bs) := by
  unfold State.stageSave
  refine (inSite_set_ost s site _).trans
    (foldl_invariant (InSite site _) _ _ _ (.refl site _) fun t n hn ht => ht.trans ?_)
  have hn : n < 2 ^ 15 := by
    have := List.mem_range.mp hn
    unfold ceilDiv at this
    omega
  refine State.panelPoke_inSite t site ?_
  have hplace := panelPlace_lt (b := 32 + n / 1024) (i := n / 32 % 32) (j := n % 32) (t := 7) (by omega) (by omega) (by omega)
  have hlen : ((bs.drop (8 * n)).take 8).length ≤ 8 := List.length_take_le _ _
  omega

theorem State.unproof_inSite (s : State) (site : Nat) : InSite site s (s.unproof site) := by
  unfold State.unproof
  split
  · exact s.stageSave_inSite site (by rw [provedImage_length]; decide)
  · exact .refl site s

/-! ### Words noted -/

theorem mem_union_of_mem {α : Type} [DecidableEq α] {l : List α} {x : α} (h : x ∈ l) (new : List α) :
    x ∈ union l new := List.mem_append_left _ h

theorem mem_union_single {α : Type} [DecidableEq α] (l : List α) (x : α) : x ∈ union l [x] := by
  unfold union
  by_cases h : x ∈ l
  · exact List.mem_append_left _ h
  · exact List.mem_append_right _ (by simp [h])

/-- A chunk buffer holds the chunk of an operand's tile. -/
def Panel.holds (isB : Bool) (seq plc tile chunk : Nat) (p : Panel) : Bool :=
  p.isB == isB && p.seq == seq && p.plc == plc && p.tile == tile && p.chunk == chunk

/-- A word noted in a chunk buffer. -/
def Panel.note (w : Nat) (p : Panel) : Panel := { p with words := union p.words [w] }

section
variable {isB : Bool} {seq plc tile chunk w : Nat}

theorem Tile.gotWord_iff {t : Tile} : t.gotWord isB seq plc tile chunk w = true ↔
    ∃ p ∈ t.panels, p.holds isB seq plc tile chunk = true ∧ w ∈ p.words := by
  unfold Tile.gotWord
  rw [List.any_eq_true]
  refine exists_congr fun p => and_congr_right fun _ => ?_
  rw [Bool.and_eq_true, List.contains_iff_mem]
  rfl

/-- A word noted has arrived. -/
theorem Tile.gotWord_noteWord (t : Tile) :
    (t.noteWord isB seq plc tile chunk w).gotWord isB seq plc tile chunk w = true := by
  rw [Tile.gotWord_iff]
  unfold Tile.noteWord
  dsimp only
  split
  · rename_i h
    obtain ⟨p, hp, hmine⟩ := List.any_eq_true.mp h
    exact ⟨p.note w, List.mem_map.mpr ⟨p, hp, if_pos hmine⟩, hmine, mem_union_single _ _⟩
  · exact ⟨_, List.mem_append_right _ (.head _), by simp [Panel.holds], .head _⟩

/-- Words that have arrived stay when another one is noted. -/
theorem Tile.gotWord_noteWord_of (t : Tile) (isB' : Bool) (seq' plc' tile' chunk' w' : Nat)
    (h : t.gotWord isB seq plc tile chunk w = true) :
    (t.noteWord isB' seq' plc' tile' chunk' w').gotWord isB seq plc tile chunk w = true := by
  rw [Tile.gotWord_iff] at h ⊢
  obtain ⟨p, hp, hmine, hw⟩ := h
  unfold Tile.noteWord
  dsimp only
  split
  · by_cases hother : p.holds isB' seq' plc' tile' chunk' = true
    · exact ⟨p.note w', List.mem_map.mpr ⟨p, hp, if_pos hother⟩, hmine, mem_union_of_mem hw _⟩
    · exact ⟨p, List.mem_map.mpr ⟨p, hp, if_neg hother⟩, hmine, hw⟩
  · exact ⟨p, List.mem_append_left _ hp, hmine, hw⟩

/-- The chunk buffers of an operation that is not yet out of the array are kept. -/
theorem State.gotWord_livePanels {s : State} {o : Op} (ho : s.op? seq = some o) (hn : o.notOut = true) {t : Tile}
    (h : t.gotWord isB seq plc tile chunk w = true) : (s.livePanels t).gotWord isB seq plc tile chunk w = true := by
  rw [Tile.gotWord_iff] at h ⊢
  obtain ⟨p, hp, hmine, hw⟩ := h
  refine ⟨p, List.mem_filter.mpr ⟨hp, ?_⟩, hmine, hw⟩
  have hseq : p.seq = seq := by
    unfold Panel.holds at hmine
    simp only [Bool.and_eq_true, beq_iff_eq] at hmine
    obtain ⟨⟨⟨⟨-, hs⟩, -⟩, -⟩, -⟩ := hmine
    exact hs
  rw [hseq, ho]
  exact hn

end

/-! ### A word that arrives at one tile -/

/-- A word of an operand's chunk for the tiles of a placement: the operation, what it reads, and the word's place. -/
structure OperandWord where
  o : Op
  v : Env
  plc : Nat
  chunk : Nat
  isB : Bool
  pos : Cellpos

/-- The word as it is read for a tile (R122, R148). -/
def OperandWord.val (w : OperandWord) (tile : Nat) : Nat :=
  panelWord w.v (frontOf w.o w.plc tile) w.isB w.chunk w.pos.block w.pos.i w.pos.j

/-- Where the word lies in a site's panel store (R125). -/
def OperandWord.key (w : OperandWord) (site : Nat) : Nat := panelByte site w.isB w.o.d.nbuf w.chunk w.pos

/-- The word has arrived at a site for a tile. -/
def OperandWord.arrivedAt (w : OperandWord) (s : State) (x : Nat × Nat) : Prop :=
  (s.tile x.1).gotWord w.isB w.o.seq w.plc x.2 w.chunk (wordNo w.pos) = true

/-- The word arrives at a site, given with the logical tile that it runs. -/
def OperandWord.arrive (w : OperandWord) (s : State) (x : Nat × Nat) : State :=
  ((s.unproof x.1).panelPoke (w.key x.1) (leBytes 8 (w.val x.2))).setTile x.1
    ((s.livePanels (s.tile x.1)).noteWord w.isB w.o.seq w.plc x.2 w.chunk (wordNo w.pos))

/-- The bytes of the word, where it has arrived. -/
theorem OperandWord.arrive_panel (w : OperandWord) (s : State) (x : Nat × Nat) :
    leNat ((List.range 8).map fun k => mget 0 (w.arrive s x).panel (w.key x.1 + k)) = w.val x.2 % 2 ^ 64 := by
  have h := (s.unproof x.1).panel_panelPoke (w.key x.1) (leBytes 8 (w.val x.2))
  rw [leBytes_length] at h
  exact (congrArg leNat h).trans (leNat_leBytes 8 _)

/-- The word has arrived where it arrives. -/
theorem OperandWord.arrivedAt_arrive (w : OperandWord) (s : State) (x : Nat × Nat) : w.arrivedAt (w.arrive s x) x := by
  unfold OperandWord.arrivedAt OperandWord.arrive
  rw [State.tile_setTile_same]
  exact Tile.gotWord_noteWord _

/-- The word's place lies in a chunk buffer (Table 5.3). -/
def OperandWord.inBlocks (w : OperandWord) : Prop := w.pos.block < 8 ∧ w.pos.i < 32

section
variable {w : OperandWord} (hw : w.inBlocks)
include hw

/-- Every byte of the word lies in the panel store. -/
theorem OperandWord.key_eq (site : Nat) : ∃ a, w.key site = site * 2 ^ 19 + a ∧ a + 8 ≤ 2 ^ 19 := by
  obtain ⟨hb, hi⟩ := hw
  have hbuf : w.chunk % w.o.d.nbuf < 4 := by
    unfold Desc.nbuf
    split <;> omega
  have hside : (if w.isB then 0 else 1) ≤ 1 := by split <;> omega
  have hplace := panelPlace_lt (b := 16 * (w.chunk % w.o.d.nbuf) + 2 * w.pos.block + (if w.isB then 0 else 1))
    (i := w.pos.i) (j := w.pos.j) (t := 7) (by omega) hi (by omega)
  exact ⟨_, rfl, by omega⟩

theorem OperandWord.arrive_inSite (s : State) (x : Nat × Nat) : InSite x.1 s (w.arrive s x) := by
  obtain ⟨a, ha, hlt⟩ := OperandWord.key_eq hw x.1
  have hpoke := State.panelPoke_inSite (s.unproof x.1) x.1 (a := a) (bs := leBytes 8 (w.val x.2))
    (by rw [leBytes_length]; exact hlt)
  rw [← ha] at hpoke
  exact ((s.unproof_inSite x.1).trans hpoke).trans (inSite_setTile _ _ _)

/-- A word that has arrived at a tile stays when it arrives at another, of the same site or not. -/
theorem OperandWord.arrivedAt_arrive_of {s : State} (ho : s.op? w.o.seq = some w.o) (hn : w.o.notOut = true) {x : Nat × Nat}
    (h : w.arrivedAt s x) (y : Nat × Nat) : w.arrivedAt (w.arrive s y) x := by
  unfold OperandWord.arrivedAt at h ⊢
  by_cases hxy : x.1 = y.1
  · unfold OperandWord.arrive
    rw [hxy, State.tile_setTile_same]
    rw [hxy] at h
    exact Tile.gotWord_noteWord_of _ _ _ _ _ _ _ (State.gotWord_livePanels ho hn h)
  · rw [(OperandWord.arrive_inSite hw s y).tile x.1 hxy]
    exact h

/-- The bytes of a word stay when it arrives at another site. -/
theorem OperandWord.arrive_panel_of {s : State} {x y : Nat × Nat} (hne : x.1 ≠ y.1) {k : Nat} (hk : k < 8) :
    mget 0 (w.arrive s y).panel (w.key x.1 + k) = mget 0 s.panel (w.key x.1 + k) := by
  obtain ⟨a, ha, hlt⟩ := OperandWord.key_eq hw x.1
  refine (OperandWord.arrive_inSite hw s y).panel _ ?_
  rw [ha, Nat.add_assoc, panelKey_div (by omega)]
  exact hne

end

/-! ### A word that arrives at every tile that wants it -/

/-- What the arrivals leave alone of the state before them. -/
structure Arriving (s t : State) : Prop where
  ops : t.ops = s.ops
  mem : t.mem = s.mem
  halted : t.halted = s.halted
  pending : t.pending = s.pending

theorem Arriving.step {s t u : State} {site : Nat} (h : Arriving s t) (k : InSite site t u) : Arriving s u :=
  ⟨k.ops.trans h.ops, k.mem.trans h.mem, k.halted.trans h.halted, k.pending.trans h.pending⟩

section
variable {w : OperandWord} (hw : w.inBlocks) {s : State}
include hw

theorem OperandWord.arrivals (l : List (Nat × Nat)) : Arriving s (l.foldl w.arrive s) :=
  foldl_invariant (Arriving s) _ _ _ ⟨rfl, rfl, rfl, rfl⟩ fun t x _ ht => ht.step (OperandWord.arrive_inSite hw t x)

/-- The word has arrived at each of the tiles. -/
theorem OperandWord.arrivedAt_arrivals (ho : s.op? w.o.seq = some w.o) (hn : w.o.notOut = true) {l : List (Nat × Nat)}
    {x : Nat × Nat} (hx : x ∈ l) : w.arrivedAt (l.foldl w.arrive s) x := by
  obtain ⟨before, after, rfl⟩ := List.append_of_mem hx
  rw [List.foldl_append, List.foldl_cons]
  have hfirst := (OperandWord.arrivals hw (s := s) before).step (OperandWord.arrive_inSite hw _ x)
  refine (foldl_invariant (fun t => Arriving s t ∧ w.arrivedAt t x) _ after _ ⟨hfirst, w.arrivedAt_arrive _ x⟩ ?_).2
  rintro t y - ⟨hkept, hat⟩
  exact ⟨hkept.step (OperandWord.arrive_inSite hw t y),
    OperandWord.arrivedAt_arrive_of hw ((State.op?_of_ops hkept.ops _).trans ho) hn hat y⟩

/-- Its bytes stand in the panel store of each of the sites, where no site takes it for two tiles. -/
theorem OperandWord.arrivals_panel {l : List (Nat × Nat)} (hl : (l.map Prod.fst).Nodup) {x : Nat × Nat} (hx : x ∈ l) :
    leNat ((List.range 8).map fun k => mget 0 (l.foldl w.arrive s).panel (w.key x.1 + k)) = w.val x.2 % 2 ^ 64 := by
  obtain ⟨before, after, rfl⟩ := List.append_of_mem hx
  rw [List.foldl_append, List.foldl_cons]
  rw [List.map_append, List.map_cons] at hl
  have hafter : ∀ y ∈ after, x.1 ≠ y.1 := by
    intro y hy he
    exact (List.nodup_cons.mp hl.of_append_right).1 (he ▸ List.mem_map_of_mem hy)
  refine foldl_invariant (fun t => leNat ((List.range 8).map fun k => mget 0 (State.panel t) (w.key x.1 + k)) =
    w.val x.2 % 2 ^ 64) _ after _ (w.arrive_panel _ x) fun t y hy ht => ?_
  rw [← ht]
  exact congrArg leNat (List.map_congr_left fun k hk =>
    OperandWord.arrive_panel_of hw (hafter y hy) (List.mem_range.mp hk))

end

/-! ### PANEL_FILL -/

/-- The word that PANEL_FILL delivers. -/
def State.operandWord (s : State) (o : Op) (plc chunk : Nat) (isB : Bool) (block i j : Nat) : OperandWord :=
  { o := o, v := s.runEnv o, plc := plc, chunk := chunk, isB := isB, pos := { block := block, i := i, j := j, slot := 0 } }

/-- A fill goes to logical tiles. -/
theorem State.fillTiles_mod {s : State} {o : Op} {plc chunk n : Nat} {isB : Bool} {x : Nat × Nat}
    (hx : x ∈ s.fillTiles o plc isB chunk n) : x.2 % 4096 = x.2 := by
  obtain ⟨a, -, rfl⟩ := List.mem_map.mp hx
  exact Nat.mod_mod _ _

section
variable {s : State} {seq plc chunk block i j : Nat} {isB : Bool} {o : Op} (ho : s.op? seq = some o)
  (hm : o.d.isMat = true) (hn : o.notOut = true) (hs : o.stopping = false) (hp : o.preempted = false)
  (hg : s.gatherReady o = true) (hu : s.readUe o = []) (hb : block < 8) (hi : i < 32) (hj : j < 32)
  (hf : s.fillFree o plc chunk isB (wordNo { block := block, i := i, j := j, slot := 0 }) = true)
include ho hm hn hs hp hg hu hb hi hj hf

/-- The word arrives at every tile that wants it (R123). -/
theorem State.fillPanel_eq : s.fillPanel seq plc chunk isB block i j =
    (s.fillTiles o plc isB chunk (wordNo { block := block, i := i, j := j, slot := 0 })).foldl
      (s.operandWord o plc chunk isB block i j).arrive s := by
  obtain rfl := State.seq_of_op? ho
  unfold State.fillPanel
  rw [ho]
  dsimp only
  rw [if_neg (by simp [hm, hn, hs, hp, hg, hf, hb, hi, hj]), hu, if_neg (by decide)]
  rfl

theorem exec_panelFill (hl : s.live = true) : exec (.panelFill seq plc chunk isB block i j) s =
    .next ((s.fillTiles o plc isB chunk (wordNo { block := block, i := i, j := j, slot := 0 })).foldl
      (s.operandWord o plc chunk isB block i j).arrive s) := by
  have h := OperandWord.arrivals (w := s.operandWord o plc chunk isB block i j) ⟨hb, hi⟩ (s := s)
    (s.fillTiles o plc isB chunk (wordNo { block := block, i := i, j := j, slot := 0 }))
  exact act_eq_next (f := fun s => s.fillPanel seq plc chunk isB block i j) hl
    (State.fillPanel_eq ho hm hn hs hp hg hu hb hi hj hf) (h.halted.trans (State.halted_of_live hl)) h.pending

end

/-! ### The obligation -/

/-- Settles O31: a bellows takes the next entries behind those that it holds, a word arrives at one tile after another, each
arrival within its own site, and the builder puts the table of each row at a place of its own. -/
theorem tileFills : Obligations.TileFills := by
  unfold Obligations.TileFills
  refine ⟨?bellows, ?panel, ?tables⟩
  case bellows =>
    intro s site row idx r f o hl hc ho hm hr hu d b x hwords hplace hroom
    exact ⟨_, exec_bellowsFill hc ho hm hr hu hwords hplace hroom hl,
      (congrArg (Tile.bellows · row idx) (s.tile_setTile_same _ _)).trans State.filledTile_bellows,
      (congrArg Tile.cur (s.tile_setTile_same _ _)).trans (State.filledTile_cur.trans hc),
      (congrArg Tile.grps (s.tile_setTile_same _ _)).trans State.filledTile_grps,
      fun j hj => s.tile_setTile_ne site _ hj, rfl, rfl, rfl⟩
  case panel =>
    intro s seq plc chunk isB block i j o hl ho hm hn hs hp hg hu hb hi hj p tiles hf
    have hw : (s.operandWord o plc chunk isB block i j).inBlocks := ⟨hb, hi⟩
    have hkept := OperandWord.arrivals hw (s := s) tiles
    have ho' : s.op? o.seq = some o := (State.seq_of_op? ho).symm ▸ ho
    refine ⟨_, exec_panelFill ho hm hn hs hp hg hu hb hi hj hf hl, hkept.ops, hkept.mem, fun x hx => ?_,
      fun hnodup x hx => OperandWord.arrivals_panel hw hnodup hx⟩
    have harrived := OperandWord.arrivedAt_arrivals hw ho' hn hx
    have htile : (frontOf o plc x.2).tile = x.2 := State.fillTiles_mod hx
    unfold Tile.hasWord
    rw [htile]
    exact harrived
  case tables =>
    intro s site f o hl hc ho hd hsteps hring n entry hentry
    refine ⟨_, exec_productTableBuild hc ho hd hsteps hring hentry hl,
      congrArg Tile.ptabStep (s.tile_setTile_same site (s.tabledTile site f o)),
      fun r hr k en x hk he hx => ?_,
      (congrArg Tile.grps (s.tile_setTile_same _ _)).trans State.tabledTile_grps, rfl, rfl⟩
    rw [State.tile_setTile_same, ← State.tableVal_of_elem hk he hx]
    exact State.tabledTile_ptab hr

end Sys2Proof.Machine
end

section
/-! Operations that run whole: the finishers taken up, the run, and what each leaves in memory and in the operation
(R82, R120, R162, R165). -/

namespace Sys2Proof.Machine

open Sys2Proof.Safety

/-! ### Other operations -/

/-- An operation changed leaves the others as they are. -/
theorem State.op?_setOp_ne (s : State) {seq n : Nat} {g : Op → Op} (hg : ∀ o, (g o).seq = o.seq) (h : n ≠ seq) :
    (s.setOp seq g).op? n = s.op? n := by
  unfold State.op? State.setOp
  induction s.ops with
  | nil => rfl
  | cons o r ih =>
    rw [List.map_cons, List.find?_cons, List.find?_cons, ih]
    by_cases ho : o.seq = seq
    · have hn : ¬ seq = n := Ne.symm h
      rw [if_pos ho, hg, ho, decide_eq_false hn]
    · rw [if_neg ho]

/-! ### The finishers taken up -/

/-- Only the Ostler's notes and QCH_FIN differ. -/
structure FinishersOnly (s t : State) : Prop where
  rest : RegsOst s t
  fget : ∀ f i, i < f.reg.place.2.1 → f.reg ≠ .qchFin → t.fget f i = s.fget f i

theorem FinishersOnly.refl (s : State) : FinishersOnly s s := ⟨.refl s, fun _ _ _ _ => rfl⟩

theorem FinishersOnly.trans {s t u : State} (h : FinishersOnly s t) (k : FinishersOnly t u) : FinishersOnly s u :=
  ⟨h.rest.trans k.rest, fun f i hi hf => (k.fget f i hi hf).trans (h.fget f i hi hf)⟩

theorem finishersOnly_fset (s : State) {f : Fld} (v : Nat) (hf : f.reg = .qchFin) : FinishersOnly s (s.fset f 0 v) :=
  ⟨(regsOnly_fset s f 0 v).regsOst, fun _ _ hi hg => s.fget_fset_ne v (by rw [hf]; decide) hi (.inl (hf ▸ hg))⟩

theorem State.useFinisher_finishersOnly (s : State) (q n : Nat) : FinishersOnly s (s.useFinisher q n) where
  rest := s.useFinisher_regsOst q n
  fget f i hi hf := (s.useFinisher_fget q n f i).trans ((finishersOnly_fset s _ rfl).fget f i hi hf)

theorem State.takeRows_finishersOnly (s : State) (o : Op) : FinishersOnly s (s.takeRows o) :=
  (foldl_invariant (FinishersOnly s) _ _ s (.refl s) fun t x _ ht =>
    ht.trans (t.useFinisher_finishersOnly x.1 x.2)).trans (finishersOnly_fset _ _ rfl)

section
variable {s t : State} (h : FinishersOnly s t)
include h

theorem FinishersOnly.byteAt : t.byteAt = s.byteAt := by
  funext a
  exact State.byteAt_eq (by rw [h.rest]) (by rw [h.rest]) (h.fget Fl.memPswinSpare 0 (by decide) (by decide)) a

/-- Either context reads the same bytes. -/
theorem FinishersOnly.ctxRd (p : Bool) : t.ctxRd p = s.ctxRd p := by
  have htwin : t.twin = s.twin := by rw [h.rest]
  unfold State.ctxRd State.ctxByte State.xlate State.resBase
  rw [htwin, h.byteAt, h.fget Fl.twnCtlResBaseGb 0 (by decide) (by decide)]

theorem FinishersOnly.envOf (o : Op) : t.envOf o = s.envOf o := by
  have htwin : t.twin = s.twin := by rw [h.rest]
  have htables : t.tables = s.tables := by rw [h.rest]
  unfold State.envOf State.ctxTables
  rw [h.ctxRd, htwin, htables]

theorem FinishersOnly.readsOpen (o : Op) : t.readsOpen o = s.readsOpen o := by
  have htwin : t.twin = s.twin := by rw [h.rest]
  have hinsts : t.insts = s.insts := by rw [h.rest]
  unfold State.readsOpen State.instPartner State.opIns State.inExts
  rw [h.ctxRd, htwin, hinsts]

end

/-! ### The bank that a product-table pass takes (R182) -/

/-- Only registers, tables and the twin's part differ. -/
abbrev TablesOnly (s t : State) : Prop := t = { s with regs := t.regs, tables := t.tables, twin := t.twin }

theorem TablesOnly.trans {s t u : State} (h : TablesOnly s t) (k : TablesOnly t u) : TablesOnly s u := by
  unfold TablesOnly at *
  rw [k, h]

theorem RegsOnly.tablesOnly {s t : State} (h : RegsOnly s t) : TablesOnly s t := by
  unfold TablesOnly
  rw [h]

theorem State.setOther_tablesOnly (s : State) (f : NodeCtx → NodeCtx) : TablesOnly s (s.setOther f) := rfl

theorem State.setTblState_tablesOnly (s : State) (p : Bool) (w : Word64) : TablesOnly s (s.setTblState p w) := by
  unfold State.setTblState
  split
  · exact s.setOther_tablesOnly _
  · exact (regsOnly_wr s _ _ _).tablesOnly

theorem State.setTables_tablesOnly (s : State) (p : Bool) (t : Tables) : TablesOnly s (s.setTables p t) := by
  unfold State.setTables
  split <;> rfl

theorem State.takeProd_tablesOnly (s : State) (o : Op) : TablesOnly s (s.takeProd o) := by
  unfold State.takeProd
  split
  · exact (s.setTables_tablesOnly _ _).trans (State.setTblState_tablesOnly _ _ _)
  · rfl

/-! ### The row of an operation that can run -/

/-- The state in which an operation's run begins: its finishers taken up, and the bank of its product tables. -/
def State.begun (s : State) (o : Op) : State := (s.takeRows o).takeProd o

theorem State.begun_sameStores (s : State) (o : Op) : SameStores s (s.begun o) := by
  have h := s.takeRows_finishersOnly o
  refine SameStores.trans ⟨h.byteAt, h.rest.ops, ?_, ?_, h.rest.halted, h.rest.pending⟩ (State.takeProd_sameStores _ o)
  · rw [h.rest]
  · rw [h.rest]

theorem State.begun_mem (s : State) (o : Op) : (s.begun o).mem = s.mem := by
  unfold State.begun
  rw [State.takeProd_tablesOnly, (s.takeRows_finishersOnly o).rest]

theorem State.begun_instsOf (s : State) (o : Op) (n : Nat) : (s.begun o).instsOf n = s.instsOf n := by
  unfold State.begun State.instsOf
  rw [State.takeProd_tablesOnly, (s.takeRows_finishersOnly o).rest]

section
variable {s : State} {seq : Nat} {o : Op} (ho : s.op? seq = some o) (hrun : s.runnable o = true)
  (hfin : s.finishersFree o = true) (hue : s.opUe o = []) (hroom : s.runRoom o = true) (hreads : s.readsOpen o = [])

include ho in
theorem State.begun_op? : (s.begun o).op? seq = some o :=
  (State.op?_of_ops (s.begun_sameStores o).ops seq).trans ho

include hreads in
/-- A run that reads nothing unsealed runs on memory as the command finds it (R229). -/
theorem State.runDo_takeRows : (s.takeRows o).runDo o =
    if o.fusedPost then
      if ((s.begun o).instsOf o.seq).any fun i => i.isReduce then (s.begun o).runContrib o (s.envOf o)
      else (s.begun o).setOp o.seq fun o => { o with phase := .written, inArray := false }
    else (s.begun o).runOp o (s.envOf o) := by
  have h := s.takeRows_finishersOnly o
  have hopen : (s.takeRows o).readsOpen o = [] := (h.readsOpen o).trans hreads
  unfold State.runDo
  rw [State.runEnv_of_sealed hopen, h.envOf, hopen]
  rfl

include ho hrun hfin hue hroom in
/-- The row of an operation that can run, with no line in error before it. -/
theorem State.opRow_eq : s.opRow seq o.d.opcode o.d.subop = (s.takeRows o).runDo o := by
  unfold State.opRow
  rw [ho]
  dsimp only
  rw [if_neg (by simp [hrun, hfin]), hue, hroom]
  rfl

end

/-! ### A run that writes its outputs -/

/-- An operation whose run has written its outputs. -/
def Op.outputsWritten (v : Env) (r : RunOut) (o : Op) : Op :=
  { o with cnt := r.counts v, status := if r.index v then 0x24 else o.status, phase := .written, inArray := false }

/-- A run's outputs in memory, with its MIRROR extent noted. -/
def State.runWritten (s : State) (v : Env) (r : RunOut) : State :=
  (s.noteMirror false (r.target v)).ctxBitsAll false (r.writes v)

theorem State.runWritten_storesOnly (s : State) (v : Env) (r : RunOut) : StoresOnly s (s.runWritten v r) :=
  (s.noteMirror_storesOnly _ _).trans (State.ctxBitsAll_storesOnly _ _ _)

theorem State.runWritten_byteAt (s : State) {v : Env} {r : RunOut} {a : Nat} (h : ∀ w ∈ r.writes v, ¬ touches w a) :
    (s.runWritten v r).byteAt a = s.byteAt a :=
  (State.byteAt_ctxBitsAll _ h).trans (congrFun (s.noteMirror_byteAt _ _) a)

theorem State.setOp_byteAt (s : State) (n : Nat) (g : Op → Op) : (s.setOp n g).byteAt = s.byteAt := rfl

theorem State.addUnchecked_regsOnly (s : State) (n : Nat) : RegsOnly s (s.addUnchecked n) := regsOnly_fset s _ _ _

theorem State.addUnchecked_byteAt (s : State) (n : Nat) : (s.addUnchecked n).byteAt = s.byteAt :=
  s.byteAt_fset _ (by decide) (by decide)

/-- A run of the own context, without a ledger and without a retemper. -/
theorem State.runOp_eq {s : State} {o : Op} {v : Env} (ho : s.op? o.seq = some o) (hp : o.partner = false)
    (hl : o.d.ledgerEn = false) (hr : (runWithRetemper v).2 = none) :
    s.runOp o v = ((s.runWritten v (runWithRetemper v).1).addUnchecked (runWithRetemper v).1.gaugeSkip).setOp o.seq
      (Op.outputsWritten v (runWithRetemper v).1) := by
  have hw : (s.runWritten v (runWithRetemper v).1).op? o.seq = some o :=
    (State.op?_of_ops (by rw [s.runWritten_storesOnly]) _).trans ho
  unfold State.runOp State.applyRun
  rw [hp]
  dsimp only
  rw [hr]
  dsimp only
  have hled := State.ledger_off hw hl ((runWithRetemper v).1.events v)
  unfold State.runWritten at hled ⊢
  rw [hled]
  rfl

section
variable {s : State} {o : Op} {v : Env} (ho : s.op? o.seq = some o) (hp : o.partner = false)
  (hl : o.d.ledgerEn = false) (hr : (runWithRetemper v).2 = none)
include ho hp hl hr

/-- What a run leaves: memory with its outputs, the operation written, the others as they were. -/
theorem State.runOp_spec :
    (s.runOp o v).byteAt = (s.runWritten v (runWithRetemper v).1).byteAt ∧ (s.runOp o v).halted = s.halted ∧
      (s.runOp o v).pending = s.pending ∧
      (s.runOp o v).op? o.seq = some (o.outputsWritten v (runWithRetemper v).1) ∧
      ∀ n, n ≠ o.seq → (s.runOp o v).op? n = s.op? n := by
  rw [State.runOp_eq ho hp hl hr]
  generalize (runWithRetemper v).1 = r
  have hstores := s.runWritten_storesOnly v r
  have hregs := (s.runWritten v r).addUnchecked_regsOnly r.gaugeSkip
  have hops : ((s.runWritten v r).addUnchecked r.gaugeSkip).ops = s.ops := by rw [hregs.ops, hstores]
  have hself := State.op?_setOp (Op.outputsWritten v r) ((State.op?_of_ops hops _).trans ho) fun _ => rfl
  refine ⟨(State.setOp_byteAt _ _ _).trans (State.addUnchecked_byteAt _ _), ?_, ?_, hself, fun n hn => ?_⟩
  · rw [State.setOp_halted, hregs.halted, hstores]
  · rw [State.setOp_pending, hregs.pending, hstores]
  · exact (State.op?_setOp_ne _ (g := Op.outputsWritten v r) (fun _ => rfl) hn).trans (State.op?_of_ops hops n)

end

/-! ### A run that ends in contributions -/

/-- An operation whose run has formed its contributions. -/
def Op.contributed (c : Counts) (gs : List Grp) (codes : List Nat) (o : Op) : Op :=
  { o with cnt := c, contrib := gs, codes := codes, phase := .computed, inArray := false }

theorem State.runContrib_eq (s : State) (o : Op) (v : Env) : ∃ es n c codes,
    s.runContrib o v = ((s.ledger o.seq es).addUnchecked n).setOp o.seq (Op.contributed c (contribOf v) codes) :=
  ⟨_, _, _, _, rfl⟩

/-- What a run for a fused reduction leaves: the contributions in the operation, and memory as it was where there is no
ledger (R220). -/
theorem State.runContrib_spec {s : State} {o : Op} (v : Env) (ho : s.op? o.seq = some o) :
    (s.runContrib o v).halted = s.halted ∧ (s.runContrib o v).pending = s.pending ∧
      (∃ o', (s.runContrib o v).op? o.seq = some o' ∧ o'.phase = .computed ∧ o'.contrib = contribOf v) ∧
      (o.d.ledgerEn = false → (s.runContrib o v).mem = s.mem) := by
  obtain ⟨es, n, c, codes, heq⟩ := s.runContrib_eq o v
  have hk := State.ledger_keepsOp (seq := o.seq) s es
  have hregs := (s.ledger o.seq es).addUnchecked_regsOnly n
  obtain ⟨o₁, h₁, -⟩ := hk.find ho
  rw [heq]
  refine ⟨?_, ?_, ⟨_, State.op?_setOp _ ((State.op?_of_ops hregs.ops _).trans h₁) fun _ => rfl, rfl, rfl⟩, fun hl => ?_⟩
  · rw [State.setOp_halted, hregs.halted, hk.halted]
  · rw [State.setOp_pending, hregs.pending, hk.pending]
  · rw [State.setOp_mem, hregs.mem, State.ledger_off ho hl]

/-! ### The obligation -/

/-- A command is the row of the operations with one opcode and one sub-operation. -/
def IsOpRow (r : (Nat → Instr) × Nat × Nat) : Prop := ∀ seq s, exec (r.1 seq) s = act s fun s => s.opRow seq r.2.1 r.2.2

section
variable {r : (Nat → Instr) × Nat × Nat} {s : State} {seq : Nat} {o : Op} (hrow : IsOpRow r) (hl : s.live = true)
  (ho : s.op? seq = some o) (hop : o.d.opcode = r.2.1) (hsub : o.d.subop = r.2.2) (hrun : s.runnable o = true)
  (hfin : s.finishersFree o = true) (hue : s.opUe o = []) (hroom : s.runRoom o = true) (hreads : s.readsOpen o = [])
include hrow hl ho hop hsub hrun hfin hue hroom hreads

/-- A row that delivers its own outputs is the run of its operation. -/
theorem exec_opRow_runOp (hf : o.fusedPost = false) (hh : ((s.begun o).runOp o (s.envOf o)).halted = s.halted)
    (hp : ((s.begun o).runOp o (s.envOf o)).pending = s.pending) :
    exec (r.1 seq) s = .next ((s.begun o).runOp o (s.envOf o)) := by
  rw [hrow seq s]
  refine act_eq_next hl ?_ (hh.trans (State.halted_of_live hl)) hp
  rw [← hop, ← hsub, State.opRow_eq ho hrun hfin hue hroom, State.runDo_takeRows hreads, hf]
  rfl

/-- A row whose reduction is fused ends in the contributions of its operation. -/
theorem exec_opRow_runContrib (hf : o.fusedPost = true) (hinst : ((s.instsOf seq).any fun i => i.isReduce) = true)
    (hh : ((s.begun o).runContrib o (s.envOf o)).halted = s.halted)
    (hp : ((s.begun o).runContrib o (s.envOf o)).pending = s.pending) :
    exec (r.1 seq) s = .next ((s.begun o).runContrib o (s.envOf o)) := by
  rw [hrow seq s]
  refine act_eq_next hl ?_ (hh.trans (State.halted_of_live hl)) hp
  rw [← hop, ← hsub, State.opRow_eq ho hrun hfin hue hroom, State.runDo_takeRows hreads, hf, State.begun_instsOf,
    State.seq_of_op? ho, hinst]
  rfl

end

/-- Settles O37: each row is the run of its operation, whose only stores are the writes that the run formed; a run for a
fused reduction stores nothing but its ledger. -/
theorem operationsRun : Obligations.OperationsRun := by
  intro r hr s seq o hl ho hop hsub hrun hfin hue hroom hreads v out
  have hrow : IsOpRow r := by fin_cases hr <;> exact fun _ _ => rfl
  have hstart := s.begun_sameStores o
  have hbegun : (s.begun o).op? o.seq = some o := State.begun_op? ((State.seq_of_op? ho).symm ▸ ho)
  refine ⟨fun hf hp hled hret => ?_, fun hf hinst => ?_⟩
  · obtain ⟨hbytes, hhalt, hpend, hself, hothers⟩ := State.runOp_spec hbegun hp hled hret
    rw [State.seq_of_op? ho] at hself hothers
    refine ⟨_, _, exec_opRow_runOp hrow hl ho hop hsub hrun hfin hue hroom hreads hf (hhalt.trans hstart.halted)
      (hpend.trans hstart.pending), hself, rfl, rfl, rfl, fun n hn => ?_, fun a ha => ?_, fun l m b n x hw hlast => ?_⟩
    · exact (hothers n hn).trans (State.op?_of_ops hstart.ops n)
    · rw [hbytes, State.runWritten_byteAt _ ha, hstart.bytes]
    · rw [State.ctxRd_own, hbytes]
      exact State.rdBits_ctxBitsAll _ hw hlast
  · obtain ⟨hhalt, hpend, ⟨o', hself, hphase, hcontrib⟩, hmem⟩ := State.runContrib_spec (s.envOf o) hbegun
    rw [State.seq_of_op? ho] at hself
    exact ⟨_, o', exec_opRow_runContrib hrow hl ho hop hsub hrun hfin hue hroom hreads hf hinst
      (hhalt.trans hstart.halted) (hpend.trans hstart.pending), hself, hphase, hcontrib,
      fun hled => (hmem hled).trans (s.begun_mem o)⟩

end Sys2Proof.Machine
end

section
/-! What an event, a dropped front and an abort leave: the groups discarded, the operation to run again (R329, R336). -/

namespace Sys2Proof.Machine

/-! ### Operations by number -/

/-- Where no two operations have the same number, each is the one that its number finds. -/
theorem State.op?_of_mem {s : State} {o : Op} (hn : (s.ops.map (·.seq)).Nodup) (h : o ∈ s.ops) :
    s.op? o.seq = some o := by
  unfold State.op?
  generalize s.ops = l at hn h
  induction l with
  | nil => exact absurd h List.not_mem_nil
  | cons x r ih =>
    rw [List.map_cons, List.nodup_cons] at hn
    rcases List.mem_cons.mp h with rfl | h
    · exact List.find?_cons_of_pos (decide_eq_true rfl)
    · have hx : x.seq ≠ o.seq := fun he => hn.1 (he ▸ List.mem_map_of_mem h)
      rw [List.find?_cons_of_neg (by simpa using hx)]
      exact ih hn.2 h

/-! ### An event that does not halt the module -/

/-- Only registers, the messages to the management controller and the memories differ. -/
abbrev EventOnly (s t : State) : Prop :=
  t = { s with regs := t.regs, mgmt := t.mgmt, mem := t.mem, panel := t.panel, hbm := t.hbm, twin := t.twin }

theorem EventOnly.trans {s t u : State} (h : EventOnly s t) (k : EventOnly t u) : EventOnly s u := by
  unfold EventOnly at *
  rw [k, h]

theorem RegsOnly.eventOnly {s t : State} (h : RegsOnly s t) : EventOnly s t := by
  unfold EventOnly
  rw [h]

theorem StoresOnly.eventOnly {s t : State} (h : StoresOnly s t) : EventOnly s t := by
  unfold EventOnly
  rw [h]

theorem eventOnly_set_mgmt (s : State) (x : Mgmt) : EventOnly s { s with mgmt := x } := rfl

theorem State.alertFor_eventOnly (s : State) (e : Event) : EventOnly s (s.alertFor e) := by
  unfold State.alertFor
  split
  · exact (regsOnly_fset s _ _ _).eventOnly.trans (eventOnly_set_mgmt _ _)
  · rfl

theorem State.logEvent_eventOnly (s : State) {e : Event} (he : e.cls ≠ .fatal) : EventOnly s (s.logEvent e) := by
  unfold State.logEvent
  dsimp only
  rw [if_neg he]
  exact ((s.alertFor_eventOnly e).trans (State.logEntry_storesOnly _ e).eventOnly).trans
    (State.errEvt_regsBut _ e).regs.eventOnly

section
variable {s t : State} (h : EventOnly s t)
include h

theorem EventOnly.ops : t.ops = s.ops := by rw [h]
theorem EventOnly.tiles : t.tiles = s.tiles := by rw [h]
theorem EventOnly.domains : t.domains = s.domains := by rw [h]
theorem EventOnly.halted : t.halted = s.halted := by rw [h]
theorem EventOnly.pending : t.pending = s.pending := by rw [h]

end

/-! ### Fronts dropped -/

/-- A tile keeps its front unless that is one of the operation's. -/
theorem Tile.without_cur (t : Tile) (seq : Nat) : (t.without seq).cur = t.cur.filter fun f => f.seq != seq := by
  unfold Tile.without
  dsimp only
  cases t.cur with
  | none => rfl
  | some f =>
    by_cases hf : f.seq = seq
    · rw [if_pos (beq_iff_eq.mpr hf), Option.filter_some_neg (by simpa using hf)]
      rfl
    · rw [if_neg (by simpa using hf), Option.filter_some_pos (by simpa using hf)]

/-- The groups of an operation's front are discarded (R336). -/
theorem Tile.without_grps {t : Tile} {f : Front} (hc : t.cur = some f) : (t.without f.seq).grps = [] := by
  unfold Tile.without
  dsimp only
  rw [hc, if_pos (beq_self_eq_true f.seq)]
  rfl

/-- Each entry of a map in order of key is the one that its key reads. -/
theorem mget_of_mem {α : Type} {d : α} {m : SMap α} (hm : m.Pairwise fun a b => a.1 < b.1) {e : Nat × α} (he : e ∈ m) :
    mget d m e.1 = e.2 := by
  induction m with
  | nil => exact absurd he List.not_mem_nil
  | cons x r ih =>
    obtain ⟨hx, hr⟩ := List.pairwise_cons.mp hm
    unfold mget
    rcases List.mem_cons.mp he with rfl | he
    · exact if_pos rfl
    · rw [if_neg (Nat.ne_of_lt (hx e he)), ih hr he]

section
variable {s : State} (seq : Nat)

theorem State.dropFronts_tilesOnly : TilesOnly s (s.dropFronts seq) :=
  tilesOnly_foldl _ (fun t _ => tilesOnly_setTile t _ _) _ s

variable (hc : Canonical {} s.tiles)
include hc

theorem State.dropFronts_canonical : Canonical {} (s.dropFronts seq).tiles :=
  foldl_invariant (fun t : State => Canonical {} t.tiles) _ _ s hc fun _ _ _ ht => ht.mput _ _

/-- Fronts dropped are dropped in every tile. -/
theorem State.dropFronts_tile (site : Nat) : (s.dropFronts seq).tile site = (s.tile site).without seq := by
  by_cases hm : ∃ e ∈ s.tiles, e.1 = site
  · obtain ⟨e, he, rfl⟩ := hm
    have hread : ∀ x ∈ s.tiles, s.tile x.1 = x.2 := fun x hx => mget_of_mem hc.1 hx
    have hval : ∀ x ∈ s.tiles, x.1 = e.1 → x.2.without seq = e.2.without seq := fun x hx hk => by
      rw [← hread x hx, ← hread e he, hk]
    have htiles : (s.dropFronts seq).tiles = s.tiles.foldl (fun m e => mput {} m e.1 (e.2.without seq)) s.tiles :=
      (List.foldl_hom State.tiles fun _ _ => rfl).symm
    unfold State.tile
    rw [htiles, mget_foldl_mput {} Prod.fst (fun x : Nat × Tile => x.2.without seq) hval _ (.inl he)]
    exact congrArg (Tile.without · seq) (hread e he).symm
  · have hne : ∀ e ∈ s.tiles, e.1 ≠ site := fun e he h => hm ⟨e, he, h⟩
    have hempty : s.tile site = {} := mget_eq_default hne
    have hkeep : (s.dropFronts seq).tile site = s.tile site :=
      foldl_keeps (fun t => State.tile t site) _ _ s fun t e he => t.tile_setTile_ne _ _ (hne e he).symm
    rw [hkeep, hempty]
    rfl

end

/-! ### An operation aborted and run again (R336) -/

/-- State `t` differs from `s` by the aborts of the operations numbered in `l`, each to be run again: their groups are
discarded, and the other operations and their fronts stand. -/
structure Aborted (l : List Nat) (s t : State) : Prop where
  again : ∀ n ∈ l, t.op? n = (s.op? n).map Op.fresh
  others : ∀ n, n ∉ l → t.op? n = s.op? n
  canonical : Canonical {} s.tiles → Canonical {} t.tiles
  fronts : Canonical {} s.tiles → ∀ site f, (t.tile site).cur = some f → (s.tile site).cur = some f ∧ f.seq ∉ l
  domains : t.domains = s.domains
  halted : t.halted = s.halted
  pending : t.pending = s.pending

theorem Aborted.nil (s : State) : Aborted [] s s :=
  ⟨nofun, fun _ _ => rfl, id, fun _ _ _ h => ⟨h, List.not_mem_nil⟩, rfl, rfl, rfl⟩

theorem Aborted.cons {q : Nat} {l : List Nat} {s t u : State} (hq : q ∉ l) (h : Aborted [q] s t) (k : Aborted l t u) :
    Aborted (q :: l) s u where
  again n hn := by
    rcases List.mem_cons.mp hn with rfl | hn
    · rw [k.others n hq, h.again n (.head _)]
    · have hne : n ∉ [q] := fun hm => hq (List.mem_singleton.mp hm ▸ hn)
      rw [k.again n hn, h.others n hne]
  others n hn := by
    obtain ⟨hne, hl⟩ := List.ne_and_not_mem_of_not_mem_cons hn
    rw [k.others n hl, h.others n fun hm => hne (List.mem_singleton.mp hm)]
  canonical hc := k.canonical (h.canonical hc)
  fronts hc site f hf := by
    obtain ⟨hf, hl⟩ := k.fronts (h.canonical hc) site f hf
    obtain ⟨hf, hne⟩ := h.fronts hc site f hf
    exact ⟨hf, List.not_mem_cons_of_ne_of_not_mem (fun he => hne (he ▸ .head _)) hl⟩
  domains := k.domains.trans h.domains
  halted := k.halted.trans h.halted
  pending := k.pending.trans h.pending

/-- The entry of an operation's abort (Table 14.19). -/
def abortEvent (seq cause : Nat) (o : Op) : Event :=
  { code := 0x11, cls := .recovered, seq := seq, loc := o.room, d4 := cause, d5 := o.attempt }

/-- A state with an operation's abort logged, its groups discarded and the operation to be run again. -/
def State.rerunFrom (s : State) (seq cause : Nat) (o : Op) : State :=
  ((s.logEvent (abortEvent seq cause o)).dropFronts seq).setOp seq Op.fresh

section
variable {s : State} {seq : Nat} (cause : Nat) {o : Op} (ho : s.op? seq = some o)

/-- The operation's front is gone from every tile. -/
theorem State.rerunFrom_tile (o : Op) (hc : Canonical {} s.tiles) (site : Nat) :
    (s.rerunFrom seq cause o).tile site = (s.tile site).without seq := by
  have he := s.logEvent_eventOnly (e := abortEvent seq cause o) nofun
  unfold State.rerunFrom
  rw [State.tile_of_tiles (State.setOp_tiles _ _ _), State.dropFronts_tile seq (he.tiles.symm ▸ hc),
    State.tile_of_tiles he.tiles]

section
include ho

/-- An idempotent operation with an attempt left is run again. -/
theorem State.abortOp_eq (ha : o.again = true) : s.abortOp seq cause = s.rerunFrom seq cause o := by
  unfold State.abortOp
  rw [ho]
  exact if_pos ha

theorem State.rerunFrom_aborted : Aborted [seq] s (s.rerunFrom seq cause o) := by
  have he := s.logEvent_eventOnly (e := abortEvent seq cause o) nofun
  have hd : TilesOnly _ ((s.logEvent (abortEvent seq cause o)).dropFronts seq) := State.dropFronts_tilesOnly seq
  have hops := hd.ops.trans he.ops
  constructor
  case again =>
    intro n hn
    rw [List.mem_singleton.mp hn, ho]
    exact State.op?_setOp _ ((State.op?_of_ops hops _).trans ho) fun _ => rfl
  case others =>
    intro n hn
    exact (State.op?_setOp_ne _ (g := Op.fresh) (fun _ => rfl) fun h => hn (List.mem_singleton.mpr h)).trans
      (State.op?_of_ops hops n)
  case canonical =>
    intro hc
    exact State.dropFronts_canonical seq (he.tiles.symm ▸ hc)
  case fronts =>
    intro hc site f hf
    rw [State.rerunFrom_tile cause o hc, Tile.without_cur, Option.filter_eq_some_iff] at hf
    exact ⟨hf.1, fun hm => by simp [List.mem_singleton.mp hm] at hf⟩
  case domains => exact (State.setOp_domains _ _ _).trans (Eq.trans (by rw [hd]) he.domains)
  case halted => exact (State.setOp_halted _ _ _).trans (hd.halted.trans he.halted)
  case pending => exact (State.setOp_pending _ _ _).trans (hd.pending.trans he.pending)

end

/-- ERR_EVT shows the abort. -/
theorem State.rerunFrom_code (s : State) (seq : Nat) (o : Op) :
    (s.rerunFrom seq cause o).fget Fl.errEvtCode 0 = 0x11 := by
  have hd : TilesOnly (s.logEvent (abortEvent seq cause o)) ((s.logEvent (abortEvent seq cause o)).dropFronts seq) :=
    State.dropFronts_tilesOnly seq
  have hregs : (s.rerunFrom seq cause o).regs = (s.logEvent (abortEvent seq cause o)).regs := by
    unfold State.rerunFrom
    rw [State.setOp_regs, hd]
  exact (State.fget_of_regs hregs _ _).trans (s.logEvent_code nofun)

end

/-- Operations that are all to be run again, aborted one after another. -/
theorem State.foldl_abortOp_aborted (cause : Nat) {l : List Nat} (hl : l.Nodup) (s : State)
    (h : ∀ n ∈ l, ∃ o, s.op? n = some o ∧ o.again = true) : Aborted l s (l.foldl (fun t n => t.abortOp n cause) s) := by
  induction l generalizing s with
  | nil => exact .nil s
  | cons q r ih =>
    obtain ⟨hq, hr⟩ := List.nodup_cons.mp hl
    obtain ⟨o, ho, ha⟩ := h q (.head _)
    have hfirst := State.rerunFrom_aborted cause ho
    rw [List.foldl_cons, State.abortOp_eq cause ho ha]
    refine .cons hq hfirst (ih hr _ fun n hn => ?_)
    rw [hfirst.others n fun hm => hq (List.mem_singleton.mp hm ▸ hn)]
    exact h n (.tail _ hn)

/-! ### The array's timeouts (R332) -/

theorem State.mem_inDomain {s : State} {dom : Nat} {o : Op} (h : o ∈ s.ops) (ha : o.inArray = true) (hd : o.dom = dom) :
    o.seq ∈ s.inDomain dom :=
  List.mem_map_of_mem (List.mem_filter.mpr ⟨h, by simp [ha, hd]⟩)

theorem State.inDomain_nodup {s : State} (hn : (s.ops.map (·.seq)).Nodup) (dom : Nat) : (s.inDomain dom).Nodup :=
  hn.sublist (List.filter_sublist.map _)

/-- A state with an event logged and a domain's run of hold cycles ended. -/
def State.runEnded (s : State) (dom : Nat) (e : Event) : State :=
  { s.logEvent e with domains := mput {} (s.logEvent e).domains dom {} }

/-- The hold watchdog at its limit aborts what is in the array of its domain. -/
theorem State.holdWdog_eq {s : State} {dom : Nat} (hlim : s.fget Fl.toLimitLimit 0 ≤ (mget {} s.domains dom).run)
    (hlast : s.now ≤ (mget {} s.domains dom).last) :
    ∃ e, e.cls ≠ .fatal ∧ s.holdWdog dom = (s.runEnded dom e).abortDomain dom 0x01 :=
  ⟨_, by nofun, if_neg (by omega)⟩

section
variable {s : State} {dom : Nat} (hn : (s.ops.map (·.seq)).Nodup)
  (hagain : ∀ o ∈ s.ops, o.inArray = true → o.dom = dom → o.again = true)
include hn hagain

theorem State.runEnded_aborted {e : Event} (he : e.cls ≠ .fatal) :
    Aborted (s.inDomain dom) (s.runEnded dom e) ((s.runEnded dom e).abortDomain dom 0x01) := by
  have hops : (s.runEnded dom e).ops = s.ops := (s.logEvent_eventOnly he).ops
  have hin : (s.runEnded dom e).inDomain dom = s.inDomain dom := by
    unfold State.inDomain
    rw [hops]
  unfold State.abortDomain
  rw [hin]
  refine State.foldl_abortOp_aborted 0x01 (State.inDomain_nodup hn dom) _ fun n hm => ?_
  obtain ⟨o, ho, rfl⟩ := List.mem_map.mp hm
  obtain ⟨ho, hp⟩ := List.mem_filter.mp ho
  obtain ⟨ha, hd⟩ := Bool.and_eq_true_iff.mp hp
  exact ⟨o, (State.op?_of_ops hops _).trans (State.op?_of_mem hn ho), hagain o ho ha (of_decide_eq_true hd)⟩

end

/-- The hold watchdog expires: what is in the array of its domain is run again, and a new run of hold cycles begins. -/
theorem holdWatchdogExpire_reruns {s : State} {dom : Nat} (hl : s.live = true) (hn : (s.ops.map (·.seq)).Nodup)
    (hlim : s.fget Fl.toLimitLimit 0 ≤ (mget {} s.domains dom).run) (hlast : s.now ≤ (mget {} s.domains dom).last)
    (hagain : ∀ o ∈ s.ops, o.inArray = true → o.dom = dom → o.again = true) :
    ∃ t, exec (.holdWatchdogExpire dom) s = .next t ∧ mget {} t.domains dom = {} ∧
      (∀ o ∈ s.ops, o.inArray = true → o.dom = dom → t.op? o.seq = some o.fresh) ∧
      (Canonical {} s.tiles → ∀ site f, (t.tile site).cur = some f → ∀ o ∈ s.ops, o.inArray = true → o.dom = dom →
        f.seq ≠ o.seq) := by
  obtain ⟨e, he, heq⟩ := State.holdWdog_eq hlim hlast
  have hlog := s.logEvent_eventOnly he
  have hab := State.runEnded_aborted hn hagain he
  refine ⟨_, act_eq_next (f := fun s => s.holdWdog dom) hl heq ?_ ?_, ?_, fun o ho ha hd => ?_,
    fun hc site f hf o ho ha hd => ?_⟩
  · exact hab.halted.trans (hlog.halted.trans (State.halted_of_live hl))
  · exact hab.pending.trans hlog.pending
  · rw [hab.domains]
    exact mget_mput_same {} (s.logEvent e).domains dom {}
  · have hop : (s.runEnded dom e).op? o.seq = some o := (State.op?_of_ops hlog.ops _).trans (State.op?_of_mem hn ho)
    rw [hab.again _ (State.mem_inDomain ho ha hd), hop]
    rfl
  · have hc : Canonical {} (s.runEnded dom e).tiles := hlog.tiles.symm ▸ hc
    exact fun h => (hab.fronts hc site f hf).2 (h ▸ State.mem_inDomain ho ha hd)

/-- A fetch for a bellows is out of time: the operation of the tile's front is aborted. -/
theorem State.fetchTimeout_eq {s : State} {site addr : Nat} {f : Front} (hc : (s.tile site).cur = some f) :
    ∃ e, e.cls ≠ .fatal ∧ s.fetchTimeout site addr = (s.logEvent e).abortOp f.seq 0x02 := by
  unfold State.fetchTimeout
  rw [hc]
  exact ⟨_, by nofun, rfl⟩

/-- A fetch timeout empties the tile and has the operation run again. -/
theorem bellowsFetchTimeout_reruns {s : State} {site addr : Nat} {f : Front} {o : Op} (hl : s.live = true)
    (hcan : Canonical {} s.tiles) (hc : (s.tile site).cur = some f) (ho : s.op? f.seq = some o) (ha : o.again = true) :
    ∃ t, exec (.bellowsFetchTimeout site addr) s = .next t ∧ t.op? f.seq = some o.fresh ∧ (t.tile site).cur = none ∧
      (t.tile site).grps = [] ∧ t.fget Fl.errEvtCode 0 = 0x11 := by
  obtain ⟨e, he, heq⟩ := s.fetchTimeout_eq (addr := addr) hc
  have hlog := s.logEvent_eventOnly he
  have hop : (s.logEvent e).op? f.seq = some o := (State.op?_of_ops hlog.ops _).trans ho
  have hab := State.rerunFrom_aborted 0x02 hop
  have htile := State.rerunFrom_tile 0x02 o (seq := f.seq) (hlog.tiles.symm ▸ hcan) site
  rw [State.tile_of_tiles hlog.tiles] at htile
  refine ⟨_, act_eq_next (f := fun s => s.fetchTimeout site addr) hl (heq.trans (State.abortOp_eq 0x02 hop ha)) ?_ ?_,
    ?_, ?_, ?_, State.rerunFrom_code _ _ _ _⟩
  · exact hab.halted.trans (hlog.halted.trans (State.halted_of_live hl))
  · exact hab.pending.trans hlog.pending
  · rw [hab.again _ (.head _), hop]
    rfl
  · rw [htile, Tile.without_cur, hc, Option.filter_some_neg (by simp)]
  · rw [htile, Tile.without_grps hc]

end Sys2Proof.Machine
end

section
/-! Pre-emption: the operation marked to stop, and its save at a chunk boundary (R140, R303). -/

namespace Sys2Proof.Machine

/-! ### PREEMPT_DECISION -/

/-- An operation that is to stop at its next boundary. -/
def Op.toStop (o : Op) : Op := { o with stopping := true }

section
variable {s : State} {dom : Nat}

theorem State.preemptWhere_eq {o : Op} (hidle : ∀ x ∈ s.ops, x.preempted = false ∧ x.stopping = false)
    (hfind : s.ops.find? (fun o => o.dom == dom && o.preemptible && s.boundaryAhead o && s.strictWaits o) = some o)
    (hen : s.fget Fl.ostCtlPreemptEn 0 = 1) (hfits : s.saveFits = true) :
    s.preemptWhere dom = s.setOp o.seq Op.toStop := by
  have hg : ¬ ((!s.fon Fl.ostCtlPreemptEn 0) = true ∨ (!s.saveFits) = true ∨
      (s.ops.any fun o => o.preempted || o.stopping) = true) := by
    simpa [State.fon, hen, hfits] using hidle
  unfold State.preemptWhere
  rw [if_neg hg, hfind]
  rfl

/-- Without PREEMPT_EN, or without room for the save, nothing is pre-empted. -/
theorem State.preemptWhere_of_disabled (h : s.fget Fl.ostCtlPreemptEn 0 = 0 ∨ s.saveFits = false) :
    s.preemptWhere dom = s :=
  if_pos (h.imp (fun h => by simp [State.fon, h]) fun h => .inl (by simp [h]))

end

/-! ### One tile saved -/

/-- What the checks of a block read of the state: the repairs in force. -/
theorem State.checkBlock_of_repairs {s t : State} (hr : t.regs = s.regs) (ho : t.ost.repairNow = s.ost.repairNow)
    (site : Nat) (y : Layout) (b : Block) : t.checkBlock site y b = s.checkBlock site y b := by
  have h : t.repairOf = s.repairOf := by
    funext i
    unfold State.repairOf State.rd
    rw [hr, ho]
  unfold State.checkBlock State.gaugeOfRow State.gaugeOfCol State.physRow State.physCol State.spareRow State.spareCol
  rw [h]

/-- An operation without what has been saved of it. -/
def Op.unsaved (o : Op) : Op := { o with saved := [] }

/-- A tile's block can be saved, where it is the operation's: it has issued no step, or spills, or its checks match. -/
def State.savesTile (s : State) (o : Op) (site : Nat) : Prop :=
  ∀ f, (s.tile site).cur = some f → f.seq = o.seq → (s.tile site).steps = 0 ∨ ((s.tile site).block f).spills = true ∨
    (s.checkBlock site (o.lay f) ((s.tile site).block f)).ok = true

/-- State `t` differs from `s` by the saves of one operation's blocks in the tiles of `l`, whose cells are then free of
it. -/
structure TilesSaved (seq : Nat) (l : List Nat) (s t : State) : Prop where
  op : (t.op? seq).map Op.unsaved = (s.op? seq).map Op.unsaved
  others : ∀ n, n ≠ seq → t.op? n = s.op? n
  tile : ∀ j, j ∉ l → t.tile j = s.tile j
  free : ∀ j ∈ l, ∀ f, (t.tile j).cur = some f → f.seq ≠ seq
  regs : t.regs = s.regs
  repairs : t.ost.repairNow = s.ost.repairNow
  halted : t.halted = s.halted
  pending : t.pending = s.pending

section
variable {seq : Nat} {l : List Nat} {s t u : State}

theorem TilesSaved.nil (s : State) : TilesSaved seq [] s s :=
  ⟨rfl, fun _ _ => rfl, fun _ _ => rfl, nofun, rfl, rfl, rfl, rfl⟩

theorem TilesSaved.cons {site : Nat} (hs : site ∉ l) (h : TilesSaved seq [site] s t) (k : TilesSaved seq l t u) :
    TilesSaved seq (site :: l) s u where
  op := k.op.trans h.op
  others n hn := (k.others n hn).trans (h.others n hn)
  tile j hj := by
    obtain ⟨hne, hl⟩ := List.ne_and_not_mem_of_not_mem_cons hj
    rw [k.tile j hl, h.tile j fun hm => hne (List.mem_singleton.mp hm)]
  free j hj f hf := by
    rcases List.mem_cons.mp hj with rfl | hj
    · exact h.free j (.head _) f (k.tile j hs ▸ hf)
    · exact k.free j hj f hf
  regs := k.regs.trans h.regs
  repairs := k.repairs.trans h.repairs
  halted := k.halted.trans h.halted
  pending := k.pending.trans h.pending

/-- The operation is found again, alike but for what has been saved of it. -/
theorem TilesSaved.find (h : TilesSaved seq l s t) {o : Op} (ho : s.op? seq = some o) :
    ∃ o', t.op? seq = some o' ∧ o'.unsaved = o.unsaved := by
  have hm := h.op
  rw [ho] at hm
  exact Option.map_eq_some_iff.mp hm

/-- Tiles not yet saved are as they were, and pass the same checks. -/
theorem TilesSaved.savesTile (h : TilesSaved seq l s t) {o o' : Op} (ho : o'.unsaved = o.unsaved) {site : Nat}
    (hs : site ∉ l) (hsaves : s.savesTile o site) : t.savesTile o' site := by
  have hseq : o'.seq = o.seq := (congrArg Op.seq ho).trans rfl
  have hlay : o'.lay = o.lay := (congrArg Op.lay ho).trans rfl
  unfold State.savesTile
  rw [h.tile site hs, hseq, hlay]
  simpa only [State.savesTile, State.checkBlock_of_repairs h.regs h.repairs] using hsaves

end

/-- Only the memories, the lines in error, the twin's granules and the sites whose panel store holds the image of a
proving run differ. -/
abbrev SaveOnly (s t : State) : Prop := t = { s with
  mem := t.mem, panel := t.panel, hbm := t.hbm, twin := t.twin, ost := { s.ost with proofed := t.ost.proofed } }

theorem SaveOnly.trans {s t u : State} (h : SaveOnly s t) (k : SaveOnly t u) : SaveOnly s u := by
  unfold SaveOnly at *
  rw [k, h]

theorem StoresOnly.saveOnly {s t : State} (h : StoresOnly s t) : SaveOnly s t := by
  unfold SaveOnly
  rw [h]

theorem saveOnly_set_proofed (s : State) (l : List Nat) : SaveOnly s { s with ost := { s.ost with proofed := l } } :=
  rfl

theorem State.panelPoke_storesOnly (s : State) (a : Nat) (bs : List Byte) : StoresOnly s (s.panelPoke a bs) := by
  unfold StoresOnly
  rw [State.panelPoke_eq]

theorem State.stageSave_saveOnly (s : State) (site : Nat) (bs : List Byte) : SaveOnly s (s.stageSave site bs) :=
  (saveOnly_set_proofed s _).trans (storesOnly_foldl _ (fun t _ => t.panelPoke_storesOnly _ _) _ _).saveOnly

theorem State.memWrite_storesOnly (s : State) (a : Nat) (bs : List Byte) : StoresOnly s (s.memWrite a bs) :=
  s.memWrite_fields a bs

/-- A tile that an operation's front has left: its cells and the operation's chunk buffers are free. -/
def Tile.vacated (t : Tile) (seq : Nat) : Tile := { t.freed with panels := t.panels.filter fun p => p.seq != seq }

/-- An operation with one more block saved. -/
def Op.withSave (x : Saved) (o : Op) : Op := { o with saved := o.saved ++ [x] }

section
variable {s : State} {seq site : Nat}

/-- A tile without the operation's front is left as it is. -/
theorem tilesSaved_of_free (h : ∀ f, (s.tile site).cur = some f → f.seq ≠ seq) : TilesSaved seq [site] s s where
  op := rfl
  others _ _ := rfl
  tile _ _ := rfl
  free _ hj := List.mem_singleton.mp hj ▸ h
  regs := rfl
  repairs := rfl
  halted := rfl
  pending := rfl

/-- A tile that its front has left, with no more than a save made beside. -/
theorem tilesSaved_of_vacated {z : State} (hz : SaveOnly (s.setTile site ((s.tile site).vacated seq)) z) :
    TilesSaved seq [site] s z where
  op := congrArg (Option.map Op.unsaved) (State.op?_of_ops (by rw [hz]; rfl) seq)
  others n _ := State.op?_of_ops (by rw [hz]; rfl) n
  tile j hj := (State.tile_of_tiles (by rw [hz]) j).trans
    (s.tile_setTile_ne site _ fun h => hj (List.mem_singleton.mpr h))
  free j hj f hf := by
    have hj := List.mem_singleton.mp hj
    subst hj
    rw [State.tile_of_tiles (t := z) (s := s.setTile j ((s.tile j).vacated seq)) (by rw [hz]),
      State.tile_setTile_same] at hf
    exact nomatch hf
  regs := by rw [hz]; rfl
  repairs := by rw [hz]; rfl
  halted := by rw [hz]; rfl
  pending := by rw [hz]; rfl

/-- A save noted in the operation. -/
theorem TilesSaved.noted {l : List Nat} {z : State} (h : TilesSaved seq l s z) (x : Saved) :
    TilesSaved seq l s (z.setOp seq (Op.withSave x)) where
  op := (z.op?_map_setOp (g := Op.withSave x) Op.unsaved (fun _ => rfl) fun _ => rfl).trans h.op
  others n hn := (z.op?_setOp_ne (g := Op.withSave x) (fun _ => rfl) hn).trans (h.others n hn)
  tile := h.tile
  free := h.free
  regs := h.regs
  repairs := h.repairs
  halted := h.halted
  pending := h.pending

/-- The three ends of a tile whose block passes its checks: no front of the operation, nothing to save, or a save. -/
theorem State.saveTile_tilesSaved {o : Op} (ho : s.op? seq = some o) (hs : s.savesTile o site) :
    TilesSaved seq [site] s (State.saveTile seq s site) := by
  obtain rfl := State.seq_of_op? ho
  unfold State.saveTile
  dsimp only
  cases hc : (s.tile site).cur with
  | none => exact tilesSaved_of_free (by simp [hc])
  | some f =>
    rw [ho]
    dsimp only
    by_cases hf : f.seq = o.seq
    · rw [if_neg (not_not_intro hf)]
      by_cases hn : (s.tile site).steps = 0
      · rw [if_pos hn]
        exact tilesSaved_of_vacated rfl
      · have hok : ¬ ((!((s.tile site).block f).spills) = true ∧
            (!(s.checkBlock site (o.lay f) ((s.tile site).block f)).ok) = true) := by
          rcases (hs f hc hf).resolve_left hn with h | h <;> simp [h]
        rw [if_neg hn, if_neg hok]
        exact (tilesSaved_of_vacated
          ((State.stageSave_saveOnly _ _ _).trans (State.memWrite_storesOnly _ _ _).saveOnly)).noted _
    · rw [if_pos hf]
      exact tilesSaved_of_free fun g hg => Option.some.inj (hc.symm.trans hg) ▸ hf

end

/-! ### PREEMPT_SAVE -/

theorem State.foldl_saveTile_tilesSaved {l : List Nat} (hl : l.Nodup) {s : State} {seq : Nat} {o : Op}
    (ho : s.op? seq = some o) (hs : ∀ site ∈ l, s.savesTile o site) :
    TilesSaved seq l s (l.foldl (State.saveTile seq) s) := by
  induction l generalizing s o with
  | nil => exact .nil s
  | cons site r ih =>
    obtain ⟨hr, hn⟩ := List.nodup_cons.mp hl
    have hfirst := State.saveTile_tilesSaved ho (hs site (.head _))
    obtain ⟨o₁, ho₁, hu⟩ := hfirst.find ho
    refine .cons hr hfirst (ih hn ho₁ fun j hj => ?_)
    exact hfirst.savesTile hu (fun hm => hr (List.mem_singleton.mp hm ▸ hj)) (hs j (.tail _ hj))

/-- An operation whose blocks have been saved. -/
def Op.putAside (o : Op) : Op := { o with stopping := false, preempted := true, inArray := false }

theorem State.preemptSave_eq {s : State} {seq : Nat} {o : Op} (ho : s.op? seq = some o) (hs : o.stopping = true)
    (ha : o.inArray = true) (hr : s.readyToSave o = true) :
    s.preemptSave seq = ((s.tiles.map fun e => e.1).foldl (State.saveTile seq) s).setOp seq Op.putAside := by
  unfold State.preemptSave
  rw [ho]
  exact if_neg (by simp [hs, ha, hr])

/-- A front stands in a tile of the map. -/
theorem State.mem_tiles_of_cur {s : State} {site : Nat} {f : Front} (hc : (s.tile site).cur = some f) :
    (site, s.tile site) ∈ s.tiles :=
  mem_of_mget_ne fun h => by
    have hn : (s.tile site).cur = none := congrArg Tile.cur h
    rw [hc] at hn
    exact nomatch hn

/-- The save of a stopping operation takes it out of the array (R140, R303). -/
theorem preemptSave_saves {s : State} {seq : Nat} {o : Op} (hl : s.live = true) (ho : s.op? seq = some o)
    (hstop : o.stopping = true) (ha : o.inArray = true) (hready : s.readyToSave o = true) (hcan : Canonical {} s.tiles)
    (hchecks : ∀ e ∈ s.tiles, ∀ f, e.2.cur = some f → f.seq = seq →
      e.2.steps = 0 ∨ (e.2.block f).spills = true ∨ (s.checkBlock e.1 (o.lay f) (e.2.block f)).ok = true) :
    ∃ t o', exec (.preemptSave seq) s = .next t ∧ t.op? seq = some o' ∧ o'.stopping = false ∧ o'.preempted = true ∧
      o'.inArray = false ∧ o'.phase = o.phase ∧ (∀ n, n ≠ seq → t.op? n = s.op? n) ∧
      ∀ site f, (t.tile site).cur = some f → f.seq ≠ seq := by
  have hnodup : (s.tiles.map fun e => e.1).Nodup := List.pairwise_map.mpr (hcan.1.imp Nat.ne_of_lt)
  have hsaves (site : Nat) : s.savesTile o site := fun f hc hf =>
    hchecks _ (State.mem_tiles_of_cur hc) f hc (hf.trans (State.seq_of_op? ho))
  have h := State.foldl_saveTile_tilesSaved hnodup ho fun site _ => hsaves site
  obtain ⟨o₁, ho₁, hu⟩ := h.find ho
  have hphase : o₁.phase = o.phase := (congrArg Op.phase hu).trans rfl
  refine ⟨_, o₁.putAside, act_eq_next (f := fun s => s.preemptSave seq) hl
    (State.preemptSave_eq ho hstop ha hready) ?_ ?_, State.op?_setOp _ ho₁ fun _ => rfl, rfl, rfl, rfl,
    hphase, fun n hn => ?_, fun site f hf => ?_⟩
  · exact (State.setOp_halted _ _ _).trans (h.halted.trans (State.halted_of_live hl))
  · exact (State.setOp_pending _ _ _).trans h.pending
  · exact (State.op?_setOp_ne _ (g := Op.putAside) (fun _ => rfl) hn).trans (h.others n hn)
  · rw [State.tile_of_tiles (State.setOp_tiles _ _ _)] at hf
    by_cases hm : site ∈ s.tiles.map fun e => e.1
    · exact h.free site hm f hf
    · rw [h.tile site hm] at hf
      exact absurd (List.mem_map_of_mem (State.mem_tiles_of_cur hf)) hm

/-- Settles O29: a decision marks one operation; a save and an abort each empty the tiles of the operation's fronts, and
leave it to be resumed or to be run again. -/
theorem interrupted : Obligations.Interrupted := by
  refine ⟨⟨fun s dom o hl hn hidle hfind => ⟨fun hen hfits => ?_, fun hoff => ?_⟩,
      fun s seq o hl ho hstop ha hready hcan hchecks => preemptSave_saves hl ho hstop ha hready hcan hchecks⟩,
    fun s dom hl hn hlim hlast hagain => holdWatchdogExpire_reruns hl hn hlim hlast hagain,
    fun s site addr f o hl hcan hc ho ha => bellowsFetchTimeout_reruns hl hcan hc ho ha⟩
  · have ho := State.op?_of_mem hn (List.mem_of_find?_eq_some hfind)
    exact ⟨_, act_eq_next (f := fun s => s.preemptWhere dom) hl (State.preemptWhere_eq hidle hfind hen hfits)
      (State.halted_of_live hl) rfl, State.op?_setOp Op.toStop ho fun _ => rfl,
      fun n hne => State.op?_setOp_ne s (g := Op.toStop) (fun _ => rfl) hne, rfl⟩
  · exact act_eq_next (f := fun s => s.preemptWhere dom) hl (State.preemptWhere_of_disabled hoff)
      (State.halted_of_live hl) rfl

end Sys2Proof.Machine
end

section
/-! Releases and loads that a hart writes: the trap, LOOSE_SWAP, ERR_LOG_BASE and the access lists (R167, R200, R295, R296,
R329). -/

namespace Sys2Proof.Machine

/-! ### The trap (R167) -/

section
variable {s : State} {req : Requester}

theorem State.trapClear_principal (hp : s.isPrincipal req = true) :
    s.trapClear req = { s with ost := { s.ost with trapped := false } } := if_pos hp

theorem State.trapClear_other (hp : s.isPrincipal req = false) : s.trapClear req = s :=
  if_neg (by rw [hp]; exact Bool.false_ne_true)

theorem exec_trapClr (hl : s.live = true) : exec (.trapClr req) s = .next (s.trapClear req) := by
  refine act_eq_next (f := fun s => s.trapClear req) hl rfl ?_ ?_ <;> cases hp : s.isPrincipal req
  · rw [State.trapClear_other hp]
    exact State.halted_of_live hl
  · rw [State.trapClear_principal hp]
    exact State.halted_of_live hl
  · rw [State.trapClear_other hp]
  · rw [State.trapClear_principal hp]

end

/-! ### LOOSE_SWAP (R200) -/

/-- A hart that is present writes what any hart may write (R405). -/
theorem State.mayWrite_hart {s : State} {h : Nat} (hp : s.present (.hart h) = true) :
    s.mayWrite (.hart h) .hart = true := hp

theorem State.looseSwap_free {s : State} {h : Nat} (hp : s.present (.hart h) = true)
    (hd : s.fget Fl.detStrictStrict 0 = 0) : s.looseSwap (.hart h) = s.swset Fl.tblGenLooseSwap 0 1 := by
  unfold State.looseSwap State.fon
  rw [State.mayWrite_hart hp, hd]
  rfl

theorem State.looseSwap_strict {s : State} {h : Nat} (hp : s.present (.hart h) = true)
    (hd : s.fget Fl.detStrictStrict 0 = 1) :
    s.looseSwap (.hart h) = (s.fset Fl.tblGenLooseSwap 0 0).refused (Reg.off .tblGen 0) 0x03 2 := by
  unfold State.looseSwap State.fon
  rw [State.mayWrite_hart hp, hd]
  rfl

theorem looseSwap_sets {s : State} {h : Nat} (hl : s.live = true) (hp : s.present (.hart h) = true)
    (hd : s.fget Fl.detStrictStrict 0 = 0) :
    ∃ t, exec (.looseSwap (.hart h)) s = .next t ∧ t.fget Fl.tblGenLooseSwap 0 = 1 ∧ t.tables = s.tables ∧
      (∀ (r : Reg) (j : Nat), j < r.place.2.1 → r ≠ .tblGen → t.rd r j = s.rd r j) := by
  refine ⟨_, act_eq_next (f := fun s => s.looseSwap (.hart h)) hl (State.looseSwap_free hp hd) ?_ rfl, ?_, rfl,
    fun r j hj hr => ?_⟩
  · exact (s.swset_halted _ _ _).trans (State.halted_of_live hl)
  · exact State.fget_fset_same s Fl.tblGenLooseSwap 0 1 (by decide)
  · exact s.rd_fset_ne Fl.tblGenLooseSwap 1 (by decide) hj (.inl hr)

theorem State.refused_eventOnly (s : State) (off rule : Nat) (v : Word64) : EventOnly s (s.refused off rule v) :=
  s.logEvent_eventOnly nofun

theorem EventOnly.tables {s t : State} (h : EventOnly s t) : t.tables = s.tables := by rw [h]

theorem looseSwap_refused {s : State} {h : Nat} (hl : s.live = true) (hp : s.present (.hart h) = true)
    (hd : s.fget Fl.detStrictStrict 0 = 1) :
    ∃ t, exec (.looseSwap (.hart h)) s = .next t ∧ t.fget Fl.tblGenLooseSwap 0 = 0 ∧ t.tables = s.tables ∧
      t.fget Fl.errEvtCode 0 = 0x14 := by
  have hf := (s.fset Fl.tblGenLooseSwap 0 0).refused_frame (Reg.off .tblGen 0) 0x03 2
  refine ⟨_, act_eq_next (f := fun s => s.looseSwap (.hart h)) hl (State.looseSwap_strict hp hd)
    (hf.halted.trans (State.halted_of_live hl)) hf.pending, ?_, ?_, State.refused_code _ _ _ _⟩
  · rw [hf.fget Fl.tblGenLooseSwap 0 (by decide) ⟨by decide, by decide⟩]
    exact State.fget_fset_same s Fl.tblGenLooseSwap 0 0 (by decide)
  · exact (State.refused_eventOnly _ _ _ _).tables

/-! ### ERR_LOG_BASE (R329) -/

/-- A field of class rw that every value may enter is stored by who may write it (Table 0.4). -/
theorem State.fieldWrite_rw {s : State} {req : Requester} {i : Nat} {v : Word64} {f : Fld} (ha : f.acc = .rw)
    (hw : s.mayWrite req f.who = true) (ht : s.takes f i (bitsOf v.toNat f.hi f.lo) = true) :
    State.fieldWrite req i v s f = s.swset f i (bitsOf v.toNat f.hi f.lo) := by
  unfold State.fieldWrite
  dsimp only
  rw [hw, ha, ht]
  rfl

/-- Only registers, and the note of the fields that software wrote in this array cycle, differ. -/
abbrev SwOnly (s t : State) : Prop := t = { s with regs := t.regs, swFields := t.swFields }

theorem SwOnly.trans {s t u : State} (h : SwOnly s t) (k : SwOnly t u) : SwOnly s u := by
  unfold SwOnly at *
  rw [k, h]

theorem swOnly_swset (s : State) (f : Fld) (i v : Nat) : SwOnly s (s.swset f i v) := rfl

/-- ERR_LOG_BASE with both fields stored. -/
def State.logPlaced (s : State) (v : Word64) : State :=
  (s.swset Fl.errLogBaseSize 0 (bitsOf v.toNat 58 56)).swset Fl.errLogBaseAddr 0 (bitsOf v.toNat 39 0)

section
variable {s : State} {h : Nat} {v : Word64}

/-- A store outside GLB_LIFE leaves a hart present. -/
theorem State.present_swset (hp : s.present (.hart h) = true) {f : Fld} (x : Nat) (hi : 0 < f.reg.place.2.1)
    (hf : Fl.glbLifeState.reg ≠ f.reg) : (s.swset f 0 x).present (.hart h) = true := by
  have hlife : (s.swset f 0 x).fget Fl.glbLifeState 0 = s.fget Fl.glbLifeState 0 :=
    (s.fget_swset f 0 x _ _).trans (s.fget_fset_ne x hi (by decide) (.inl hf))
  have hh : (s.swset f 0 x).hart h = s.hart h := rfl
  unfold State.present at hp ⊢
  dsimp only at hp ⊢
  rw [hlife, hh]
  exact hp

theorem State.storeFields_errLogBase (hp : s.present (.hart h) = true) :
    s.storeFields (.hart h) 0 v (Reg.fields .errLogBase) = s.logPlaced v := by
  have hp' := State.present_swset hp (f := Fl.errLogBaseSize)
    (bitsOf v.toNat Fl.errLogBaseSize.hi Fl.errLogBaseSize.lo) (by decide) (by decide)
  simp only [State.storeFields, Reg.fields, List.foldl_cons, List.foldl_nil]
  rw [State.fieldWrite_rw (f := Fl.errLogBaseSize) rfl (State.mayWrite_hart hp) rfl,
    State.fieldWrite_rw (f := Fl.errLogBaseAddr) rfl (State.mayWrite_hart hp') rfl]
  rfl

theorem State.errLogBase_placed (hp : s.present (.hart h) = true)
    (ha : bitsOf v.toNat 39 0 = 0 ∨ (bitsOf v.toNat 39 0 % 64 = 0 ∧
      s.populated (bitsOf v.toNat 39 0) (64 * 2 ^ (10 + bitsOf v.toNat 58 56)) = true)) :
    s.errLogBase (.hart h) v = s.logPlaced v := by
  rw [← State.storeFields_errLogBase hp]
  unfold State.errLogBase State.placed
  dsimp only
  rw [State.mayWrite_hart hp]
  rcases ha with ha | ⟨ha, hpop⟩
  · rw [ha]
    rfl
  · rw [ha, hpop, beq_self_eq_true, Bool.and_self, Bool.or_true]
    rfl

theorem State.errLogBase_unplaced (ha : bitsOf v.toNat 39 0 ≠ 0)
    (hpop : s.populated (bitsOf v.toNat 39 0) (64 * 2 ^ (10 + bitsOf v.toNat 58 56)) = false) :
    s.errLogBase (.hart h) v = s := by
  unfold State.errLogBase State.placed
  dsimp only
  rw [hpop, beq_false_of_ne ha, Bool.and_false, Bool.or_self, Bool.and_false]
  rfl

theorem State.logPlaced_addr (s : State) (v : Word64) :
    (s.logPlaced v).fget Fl.errLogBaseAddr 0 = bitsOf v.toNat 39 0 := by
  unfold State.logPlaced
  rw [State.fget_swset, State.fget_fset_same _ _ _ _ (by decide)]
  exact Nat.mod_eq_of_lt (bitsOf_lt _ _ _)

theorem State.logPlaced_size (s : State) (v : Word64) :
    (s.logPlaced v).fget Fl.errLogBaseSize 0 = bitsOf v.toNat 58 56 := by
  unfold State.logPlaced
  rw [State.fget_swset, State.fget_fset_field (f := Fl.errLogBaseAddr) (g := Fl.errLogBaseSize) _ _ _ (by decide) rfl (by decide),
    State.fget_swset, State.fget_fset_same _ _ _ _ (by decide)]
  exact Nat.mod_eq_of_lt (bitsOf_lt _ _ _)

theorem State.logPlaced_swOnly (s : State) (v : Word64) : SwOnly s (s.logPlaced v) :=
  (swOnly_swset s _ _ _).trans (swOnly_swset _ _ _ _)

theorem exec_errLogBaseWrite (hl : s.live = true) {t : State} (ht : s.errLogBase (.hart h) v = t) (hs : SwOnly s t) :
    exec (.errLogBaseWrite (.hart h) v) s = .next t :=
  act_eq_next (f := fun s => s.errLogBase (.hart h) v) hl ht (by rw [hs]; exact State.halted_of_live hl) (by rw [hs])

end

/-! ### ACL_LOAD (R295, R296) -/

theorem leNat_lt (bs : List Byte) : leNat bs < 256 ^ bs.length := by
  induction bs with
  | nil => exact Nat.one_pos
  | cons b r ih =>
    have hb : b.toNat < 256 := b.isLt
    rw [leNat, List.length_cons, pow_succ]
    omega

theorem State.peekNat_lt (s : State) (a n : Nat) : s.peekNat a n < 256 ^ n := by
  have h := leNat_lt (s.peek a n)
  rwa [State.peek, List.length_map, List.length_range] at h

/-- Entry `k` of the table of access lists at `a`. -/
def State.aclEntry (s : State) (a k : Nat) : Nat := s.peekNat (a + 8 * k) 8

/-- The lists that a table holds: its valid entries, 256 to a list. -/
def State.aclTable (s : State) (a : Nat) : List AclEntry :=
  (List.range 4096).filterMap fun k =>
    let w := BitVec.ofNat 64 (s.aclEntry a k)
    if w.getLsbD 63 then some (k / 256, w) else none

theorem State.aclLoad_eq {s : State} {h : Nat} (hp : s.present (.hart h) = true)
    (ha : inCommons (s.fget Fl.ostCtlAcl64k 0 * 65536) 32768 = true) :
    s.aclLoad (.hart h) = { s with acl := s.aclTable (s.fget Fl.ostCtlAcl64k 0 * 65536) } := by
  unfold State.aclLoad
  dsimp only
  rw [State.mayWrite_hart hp, ha]
  rfl

theorem exec_aclLoad {s : State} {h : Nat} (hl : s.live = true) (hp : s.present (.hart h) = true)
    (ha : inCommons (s.fget Fl.ostCtlAcl64k 0 * 65536) 32768 = true) :
    exec (.aclLoad (.hart h)) s = .next { s with acl := s.aclTable (s.fget Fl.ostCtlAcl64k 0 * 65536) } := by
  generalize hx : s.aclTable (s.fget Fl.ostCtlAcl64k 0 * 65536) = x
  have he : s.aclLoad (.hart h) = { s with acl := x } := hx ▸ State.aclLoad_eq hp ha
  exact act_eq_next (f := fun s => s.aclLoad (.hart h)) hl he (State.halted_of_live hl) rfl

/-- An entry of a loaded list is a valid entry of that list's part of the table. -/
theorem State.mem_aclTable {s : State} {a : Nat} {e : AclEntry} :
    e ∈ s.aclTable a ↔ ∃ k < 4096, bitsOf (s.aclEntry a k) 63 63 = 1 ∧ e.1 = k / 256 ∧ e.2.toNat = s.aclEntry a k := by
  have hw (k : Nat) : (BitVec.ofNat 64 (s.aclEntry a k)).toNat = s.aclEntry a k :=
    Nat.mod_eq_of_lt (s.peekNat_lt _ 8)
  have hv (k : Nat) : (BitVec.ofNat 64 (s.aclEntry a k)).getLsbD 63 = true ↔ bitsOf (s.aclEntry a k) 63 63 = 1 := by
    rw [bitsOf_one_eq_testBit, BitVec.getLsbD, hw, Bool.toNat_eq_one]
  unfold State.aclTable
  rw [List.mem_filterMap]
  refine exists_congr fun k => ?_
  rw [List.mem_range]
  refine and_congr_right fun _ => ?_
  dsimp only
  by_cases hk : bitsOf (s.aclEntry a k) 63 63 = 1
  · rw [if_pos ((hv k).mpr hk), Option.some.injEq]
    refine ⟨fun h => ⟨hk, by rw [← h], by rw [← h]; exact hw k⟩, fun ⟨_, h1, h2⟩ => ?_⟩
    exact Prod.ext h1.symm (BitVec.eq_of_toNat_eq ((hw k).trans h2.symm))
  · rw [if_neg fun h => hk ((hv k).mp h)]
    exact ⟨nofun, fun h => absurd h.1 hk⟩

/-- After a load a node holds a right exactly by a valid entry of the table. -/
theorem rightIn_aclTable {s : State} {a l node : Nat} {r : Right} (hl : l < 16) :
    rightIn (s.aclTable a) l r node = true ↔
      ∃ k < 256,
        let w := s.aclEntry a (256 * l + k)
        bitsOf w 63 63 = 1 ∧ bitsOf w r.bit r.bit = 1 ∧ bitsOf w 17 0 ≤ node ∧ node ≤ bitsOf w 35 18 := by
  unfold rightIn
  rw [List.any_eq_true]
  simp only [Bool.and_eq_true, decide_eq_true_eq]
  constructor
  · rintro ⟨e, he, ⟨⟨⟨h1, hv⟩, hr⟩, hlo⟩, hhi⟩
    obtain ⟨k, hk, -, hlist, hword⟩ := State.mem_aclTable.mp he
    have hkl : 256 * l + k % 256 = k := by omega
    rw [hword] at hv hr hlo hhi
    exact ⟨k % 256, by omega, by rw [hkl]; exact ⟨hv, hr, hlo, hhi⟩⟩
  · rintro ⟨k, hk, hv, hr, hlo, hhi⟩
    have hw : (BitVec.ofNat 64 (s.aclEntry a (256 * l + k))).toNat = s.aclEntry a (256 * l + k) :=
      Nat.mod_eq_of_lt (s.peekNat_lt _ 8)
    refine ⟨(l, BitVec.ofNat 64 (s.aclEntry a (256 * l + k))),
      State.mem_aclTable.mpr ⟨256 * l + k, by omega, hv, by dsimp only; omega, hw⟩, ?_⟩
    dsimp only
    rw [hw]
    exact ⟨⟨⟨⟨rfl, hv⟩, hr⟩, hlo⟩, hhi⟩

theorem State.hasRight_acl (s : State) (x : List AclEntry) (l : Nat) (r : Right) (node : Nat) :
    State.hasRight { s with acl := x } l r node = rightIn x l r node := rfl

theorem State.hasRight_loaded (s : State) (a : Nat) {l : Nat} (r : Right) (node : Nat) (hl : l < 16) :
    State.hasRight { s with acl := s.aclTable a } l r node = true ↔
      ∃ k < 256,
        let w := s.peekNat (a + 8 * (256 * l + k)) 8
        bitsOf w 63 63 = 1 ∧ bitsOf w r.bit r.bit = 1 ∧ bitsOf w 17 0 ≤ node ∧ node ≤ bitsOf w 35 18 := by
  rw [State.hasRight_acl]
  exact rightIn_aclTable hl

/-! ### The obligation -/

/-- Settles O18: each write by its own lemma; a load of the lists makes a right out of every valid entry that gives it. -/
theorem controlWrites : Obligations.ControlWrites := by
  refine ⟨⟨fun s req hl => ⟨fun hp => ?_, fun hp => ?_⟩,
    fun s h hl hp => ⟨looseSwap_sets hl hp, looseSwap_refused hl hp⟩,
    fun s h v hl hp => ⟨fun ha => ?_, fun ha hpop => ?_⟩⟩, fun s h hl hp ha => ?_⟩
  · rw [exec_trapClr hl, State.trapClear_principal hp]
  · rw [exec_trapClr hl, State.trapClear_other hp]
  · exact ⟨_, exec_errLogBaseWrite hl (State.errLogBase_placed hp ha) (s.logPlaced_swOnly v), s.logPlaced_addr v,
      s.logPlaced_size v, s.logPlaced_swOnly v⟩
  · exact exec_errLogBaseWrite hl (State.errLogBase_unplaced ha hpop) rfl
  · exact ⟨_, exec_aclLoad hl hp ha, fun l r node hlt => State.hasRight_loaded s _ r node hlt⟩

end Sys2Proof.Machine
end

section
/-! The end of an operation: its record, what goes with it, and the write of NOTIFY (R155, R158, R162, R167). -/

namespace Sys2Proof.Machine

open Sys2Proof.Safety

/-! ### Transactions issued -/

/-- Only the ports' channels and the requests under way differ. -/
abbrev LinkOnly (s t : State) : Prop :=
  t = { s with ports := t.ports, reqs := t.reqs, waitTxns := t.waitTxns, nextTag := t.nextTag }

theorem LinkOnly.refl (s : State) : LinkOnly s s := rfl

theorem LinkOnly.trans {s t u : State} (h : LinkOnly s t) (k : LinkOnly t u) : LinkOnly s u := by
  unfold LinkOnly at *
  rw [k, h]

/-- A transaction that is issued waits, goes to a port, or is given back where no port reaches its destination (R261,
R262). -/
theorem State.issueOn_cases (s : State) (t : Txn) (stream : Nat) (who : Option Waiter) (planesOnly : Bool) :
    s.issueOn t stream who planesOnly = s.unrouted t who ∨ LinkOnly s (s.issueOn t stream who planesOnly) := by
  unfold State.issueOn
  dsimp only
  split
  · exact .inl rfl
  · right
    split
    · rfl
    · split <;> rfl

/-- A write of an operation that no port carries is not made again (R158, R261). -/
theorem State.sendWrite_linkOnly (s : State) (dst addr : Nat) (data : List Byte) (seq : Nat) :
    LinkOnly s (s.sendWrite dst addr data (.op seq)) := by
  have htag : LinkOnly s s.tagNext := rfl
  unfold State.sendWrite State.issue
  rcases State.issueOn_cases s.tagNext _ 0 (some (.op seq)) false with h | h
  · rw [h]
    exact htag
  · exact htag.trans h

/-- Only the memories, the lines in error, the twin's granules and what is on its way over the ports differ. -/
abbrev DeliverOnly (s t : State) : Prop :=
  t = { s with
    mem := t.mem, panel := t.panel, hbm := t.hbm, twin := t.twin, ports := t.ports, reqs := t.reqs,
    waitTxns := t.waitTxns, nextTag := t.nextTag }

theorem StoresOnly.deliverOnly {s t : State} (h : StoresOnly s t) : DeliverOnly s t := by
  unfold DeliverOnly
  rw [h]

theorem LinkOnly.deliverOnly {s t : State} (h : LinkOnly s t) : DeliverOnly s t := by
  unfold DeliverOnly
  rw [h]

section
variable {s t : State} (h : DeliverOnly s t)
include h

theorem DeliverOnly.regs : t.regs = s.regs := by rw [h]
theorem DeliverOnly.ops : t.ops = s.ops := by rw [h]
theorem DeliverOnly.ost : t.ost = s.ost := by rw [h]
theorem DeliverOnly.tiles : t.tiles = s.tiles := by rw [h]
theorem DeliverOnly.halted : t.halted = s.halted := by rw [h]
theorem DeliverOnly.pending : t.pending = s.pending := by rw [h]

end

theorem State.notify_deliverOnly (s : State) (o : Op) (w : Nat) : DeliverOnly s (s.notify o w) := by
  unfold State.notify
  dsimp only
  split
  · rfl
  · split
    · split
      · exact (s.ctxWrite_storesOnly _ _ _).deliverOnly
      · rfl
    · exact (s.sendWrite_linkOnly _ _ _ _).deliverOnly

theorem State.notify_none (s : State) {o : Op} (w : Nat) (h : o.d.notify = 0) : s.notify o w = s := if_pos h

/-! ### The end of an operation -/

/-- The Ostler's notes once an operation has ended: its limits go with it, and the trap may be set (R162, R167). -/
def Ost.ended (x : Ost) (seq : Nat) (trap : Bool) : Ost :=
  { x with
    fence := if x.fence = some seq then none else x.fence,
    trapNan := if x.trapNan = some seq then none else x.trapNan,
    trapped := x.trapped || trap }

/-- The state with an operation ended. -/
def State.endOp (s : State) (seq : Nat) (trap : Bool) : State :=
  { s with ops := s.ops.filter fun o => o.seq ≠ seq, ost := s.ost.ended seq trap }

theorem State.endOp_byteAt (s : State) (seq : Nat) (trap : Bool) : (s.endOp seq trap).byteAt = s.byteAt := rfl

/-- An operation ends with its record, then leaves, then NOTIFY is sent (R158, R162, R167). -/
theorem State.finish_eq (s : State) (o : Op) (trap : Bool) (w : Nat) :
    s.finish o trap w = ((s.writeRecord o trap w s.now).endOp o.seq trap).notify o (recordHead o trap w) := by
  have hx : (s.writeRecord o trap w s.now).endOp o.seq trap =
      if trap then { (s.writeRecord o trap w s.now).dropOp o.seq with
        ost := { ((s.writeRecord o trap w s.now).dropOp o.seq).ost with trapped := true } }
      else (s.writeRecord o trap w s.now).dropOp o.seq := by
    generalize s.writeRecord o trap w s.now = u
    unfold State.endOp State.dropOp Ost.ended
    cases trap
    · rw [Bool.or_false]
      rfl
    · rw [Bool.or_true]
      rfl
  rw [hx]
  rfl

theorem State.writeRecord_storesOnly (s : State) (o : Op) (trap : Bool) (w bell : Nat) :
    StoresOnly s (s.writeRecord o trap w bell) :=
  (s.ctxWrite_storesOnly _ _ _).trans (State.ctxWrite_storesOnly _ _ _ _)

section
variable (s : State) (o : Op) (trap : Bool) (w : Nat)

theorem State.finish_deliverOnly : DeliverOnly (s.endOp o.seq trap) (s.finish o trap w) := by
  have hn := ((s.writeRecord o trap w s.now).endOp o.seq trap).notify_deliverOnly o (recordHead o trap w)
  have hr := s.writeRecord_storesOnly o trap w s.now
  have he : DeliverOnly (s.endOp o.seq trap) ((s.writeRecord o trap w s.now).endOp o.seq trap) := by
    unfold State.endOp
    rw [hr]
  rw [State.finish_eq]
  unfold DeliverOnly at *
  rw [hn, he]

theorem State.finish_regs : (s.finish o trap w).regs = s.regs := (s.finish_deliverOnly o trap w).regs

theorem State.finish_tiles : (s.finish o trap w).tiles = s.tiles := (s.finish_deliverOnly o trap w).tiles

theorem State.finish_halted : (s.finish o trap w).halted = s.halted := (s.finish_deliverOnly o trap w).halted

theorem State.finish_pending : (s.finish o trap w).pending = s.pending := (s.finish_deliverOnly o trap w).pending

theorem State.finish_ost : (s.finish o trap w).ost = s.ost.ended o.seq trap := (s.finish_deliverOnly o trap w).ost

theorem State.finish_ops : (s.finish o trap w).ops = s.ops.filter fun p => p.seq ≠ o.seq :=
  (s.finish_deliverOnly o trap w).ops

theorem State.finish_op?_same : (s.finish o trap w).op? o.seq = none := by
  unfold State.op?
  rw [State.finish_ops, List.find?_filter, List.find?_eq_none]
  simp

theorem State.finish_op?_ne {n : Nat} (h : n ≠ o.seq) : (s.finish o trap w).op? n = s.op? n := by
  unfold State.op?
  rw [State.finish_ops, List.find?_filter]
  congr 1
  funext p
  by_cases hp : p.seq = n
  · simp [hp, h]
  · simp [hp]

end

/-! ### The record (R162) -/

theorem wordsBytes_length (l : List Nat) : (wordsBytes l).length = 8 * l.length :=
  (flatMap_leBytes_length l 8 id).trans (Nat.mul_comm _ _)

theorem recordRest_length (o : Op) (bell : Nat) : (recordRest o bell).length = 15 := by
  simp [recordRest]

/-- Bytes that a write does not reach are read as before. -/
theorem State.peek_memWrite_apart (s : State) {a c n : Nat} {bs : List Byte} (h : c + n ≤ a ∨ a + bs.length ≤ c) :
    (s.memWrite a bs).peek c n = s.peek c n := by
  unfold State.peek
  refine List.map_congr_left fun i hi => ?_
  have hi := List.mem_range.mp hi
  rw [State.byteAt_memWrite, if_neg (by omega)]

section
variable (s : State) {o : Op} (trap : Bool) (w : Nat) (hp : o.partner = false)
include hp

/-- A record in this module's own context is two writes of memory, words 1 to 15 first. -/
theorem State.writeRecord_own (bell : Nat) :
    s.writeRecord o trap w bell =
      (s.memWrite (o.d.cplAddr + 8) (wordsBytes (recordRest o bell))).memWrite o.d.cplAddr
        (wordsBytes [recordHead o trap w]) := by
  unfold State.writeRecord State.ctxWrite
  rw [hp]
  rfl

variable (hn : o.d.notify = 0)
include hn

/-- Without NOTIFY nothing is written but the record. -/
theorem State.finish_byteAt : (s.finish o trap w).byteAt =
    ((s.memWrite (o.d.cplAddr + 8) (wordsBytes (recordRest o s.now))).memWrite o.d.cplAddr
      (wordsBytes [recordHead o trap w])).byteAt := by
  rw [State.finish_eq, State.notify_none _ _ hn, State.writeRecord_own s trap w hp, State.endOp_byteAt]

theorem State.finish_peek (c n : Nat) : (s.finish o trap w).peek c n =
    ((s.memWrite (o.d.cplAddr + 8) (wordsBytes (recordRest o s.now))).memWrite o.d.cplAddr
      (wordsBytes [recordHead o trap w])).peek c n := by
  unfold State.peek
  rw [State.finish_byteAt s trap w hp hn]

/-- Word 0 of the record stands at CPL_ADDR. -/
theorem State.finish_head : (s.finish o trap w).peek o.d.cplAddr 8 = wordsBytes [recordHead o trap w] := by
  have hlen : (wordsBytes [recordHead o trap w]).length = 8 := wordsBytes_length _
  rw [State.finish_peek s trap w hp hn, ← hlen, State.peek_memWrite]

/-- Words 1 to 15 of the record stand behind it. -/
theorem State.finish_rest : (s.finish o trap w).peek (o.d.cplAddr + 8) 120 = wordsBytes (recordRest o s.now) := by
  have hhead : (wordsBytes [recordHead o trap w]).length = 8 := wordsBytes_length _
  have hrest : (wordsBytes (recordRest o s.now)).length = 120 := by rw [wordsBytes_length, recordRest_length]
  rw [State.finish_peek s trap w hp hn, State.peek_memWrite_apart _ (.inr (by rw [hhead])), ← hrest, State.peek_memWrite]

/-- No byte outside the record changes. -/
theorem State.finish_byteAt_outside {a : Nat} (h : a < o.d.cplAddr ∨ o.d.cplAddr + 128 ≤ a) :
    (s.finish o trap w).byteAt a = s.byteAt a := by
  have hhead : (wordsBytes [recordHead o trap w]).length = 8 := wordsBytes_length _
  have hrest : (wordsBytes (recordRest o s.now)).length = 120 := by rw [wordsBytes_length, recordRest_length]
  rw [State.finish_byteAt s trap w hp hn, State.byteAt_memWrite, hhead, State.byteAt_memWrite, hrest, if_neg (by omega),
    if_neg (by omega)]

end

/-- An operation of the own context without NOTIFY ends with its record at CPL_ADDR. -/
theorem State.finish_recorded (s : State) {o : Op} (trap : Bool) (hp : o.partner = false) (hn : o.d.notify = 0) :
    Recorded s (s.finish o trap 0) o trap :=
  ⟨s.finish_op?_same o trap 0, congrArg Ost.trapped (s.finish_ost o trap 0), s.finish_head trap 0 hp hn,
    s.finish_rest trap 0 hp hn, fun _ ha => s.finish_byteAt_outside trap 0 hp hn ha,
    fun _ hne => s.finish_op?_ne o trap 0 hne, s.finish_tiles o trap 0⟩

/-! ### COMPLETION_RECORD, NOP and FENCE -/

/-- A command whose effect is the end of an operation. -/
theorem act_finish {s : State} {f : State → State} {o : Op} {trap : Bool} (hl : s.live = true)
    (hf : f s = s.finish o trap 0) : act s f = .next (s.finish o trap 0) :=
  act_eq_next hl hf ((s.finish_halted o trap 0).trans (State.halted_of_live hl)) (s.finish_pending o trap 0)

section
variable {s : State} {seq : Nat} {o : Op} (hl : s.live = true) (ho : s.op? seq = some o)
include hl ho

theorem exec_completionRecord (hw : o.phase = .written ∨ s.partSent o = true)
    (hs : ¬ (o.specUsed = true ∧ s.readsOpen o ≠ [])) (hst : o.status ≠ 0x22) :
    exec (.completionRecord seq) s = .next (s.finish o o.nanTrap 0) := by
  show execCompletionRecord seq s = _
  unfold execCompletionRecord
  refine act_finish hl ?_
  have hopen : ¬ ((o.phase ≠ .written ∧ (!s.partSent o) = true) ∨
      (o.specUsed = true ∧ (!(s.readsOpen o).isEmpty) = true)) := by
    rintro (⟨h1, h2⟩ | ⟨h1, h2⟩)
    · rcases hw with hw | hw
      · exact h1 hw
      · rw [hw] at h2
        exact nomatch h2
    · refine hs ⟨h1, fun he => ?_⟩
      rw [he] at h2
      exact nomatch h2
  rw [ho]
  exact (if_neg hopen).trans (if_neg hst)

theorem exec_nop (hop : o.d.opcode = opNop) : exec (.nop seq) s = .next (s.finish o false 0) := by
  show execNop seq s = _
  unfold execNop
  refine act_finish hl ?_
  rw [ho]
  exact if_pos hop

theorem exec_fence_met (hop : o.d.opcode = opFence) (hm : s.fenceMet o = true) :
    exec (.fence seq) s = .next (s.finish o false 0) := by
  show execFence seq s = _
  unfold execFence
  refine act_finish hl ?_
  rw [ho]
  exact if_pos ⟨hop, hm⟩

theorem exec_fence_waits (hm : s.fenceMet o = false) : exec (.fence seq) s = .next s := by
  show execFence seq s = _
  unfold execFence
  refine act_eq_next hl ?_ (State.halted_of_live hl) rfl
  rw [ho]
  exact if_neg fun h => Bool.false_ne_true (hm.symm.trans h.2)

end

/-- The FENCE that has ended holds back nothing any more (R155). -/
theorem Ost.ended_fence (x : Ost) (seq : Nat) (trap : Bool) : (x.ended seq trap).fence ≠ some seq := by
  unfold Ost.ended
  dsimp only
  split
  · nofun
  · assumption

/-- Settles O35: each of the three commands is the end of its operation, which leaves its record and nothing else. -/
theorem records : Obligations.Records := by
  intro s seq o hl ho hp hn
  refine ⟨fun hw hs hst => ⟨_, exec_completionRecord hl ho hw hs hst, s.finish_recorded _ hp hn⟩,
    fun hop => ⟨_, exec_nop hl ho hop, s.finish_recorded _ hp hn⟩,
    fun hop hm => ⟨_, exec_fence_met hl ho hop hm, s.finish_recorded _ hp hn, ?_⟩,
    fun _ hm => exec_fence_waits hl ho hm⟩
  rw [State.finish_ost, State.seq_of_op? ho]
  exact s.ost.ended_fence seq false

end Sys2Proof.Machine
end

section
/-! An operation lost to its budget: its fronts and instances discarded, OP_LOST logged, and its record with status BUDGET
(R166, R338). -/

namespace Sys2Proof.Machine

open Sys2Proof.Safety

/-! ### Instances dropped -/

/-- A register at another offset stands, whatever instance is written. -/
theorem State.rd_wr_off (s : State) {r r' : Reg} {i j : Nat} (v : Word64) (h : r'.off j ≠ r.off i) :
    (s.wr r i v).rd r' j = s.rd r' j := mget_mput_ne _ s.regs v h

/-- No GRP_STAT lies on ERR_EVT, in the map or past its end: the two differ modulo the stride of 32. -/
theorem grpStat_off_ne_errEvt (i : Nat) : Reg.errEvt.off 0 ≠ Reg.grpStat.off i := by
  show 0x70108 + 0x8 * 0 ≠ 0x62010 + 0x20 * i
  omega

/-- Only the instances and registers differ, and of those not ERR_EVT. -/
structure InstsDropped (s t : State) : Prop where
  only : t = { s with regs := t.regs, insts := t.insts }
  errEvt : t.rd .errEvt 0 = s.rd .errEvt 0

theorem InstsDropped.trans {s t u : State} (h : InstsDropped s t) (k : InstsDropped t u) : InstsDropped s u where
  only := by rw [k.only, h.only]
  errEvt := k.errEvt.trans h.errEvt

theorem State.dropInst_dropped (s : State) (i : Inst) : InstsDropped s (s.dropInst i) := by
  unfold State.dropInst
  dsimp only
  split
  · exact ⟨rfl, rfl⟩
  · exact ⟨rfl, State.rd_wr_off _ _ (grpStat_off_ne_errEvt _)⟩

theorem State.dropInsts_dropped (s : State) (seq : Nat) : InstsDropped s (s.dropInsts seq) := by
  unfold State.dropInsts
  exact foldl_invariant (InstsDropped s) _ _ s ⟨rfl, rfl⟩ fun t i _ h => h.trans (t.dropInst_dropped i)

/-! ### OP_LOST (R338) -/

/-- ERR_EVT.COUNT advances with an event, and wraps (R326, R329). -/
theorem State.logEvent_count (s : State) {e : Event} (he : e.cls ≠ .fatal) :
    (s.logEvent e).fget Fl.errEvtCount 0 = (s.fget Fl.errEvtCount 0 + 1) % 2 ^ 32 := by
  have halert : (s.alertFor e).fget Fl.errEvtCount 0 = s.fget Fl.errEvtCount 0 := by
    unfold State.alertFor
    split
    · exact s.fget_fset_ne (f := Fl.mgtCtlAlert) (i := 0) 1 (by decide) (by decide) (.inl (by decide))
    · rfl
  have hentry : ((s.alertFor e).logEntry e).fget Fl.errEvtCount 0 = s.fget Fl.errEvtCount 0 :=
    ((State.logEntry_storesOnly (s.alertFor e) e).frame (p := fun _ => True)).fget _ _ (by decide) trivial |>.trans halert
  unfold State.logEvent
  dsimp only
  rw [if_neg he]
  unfold State.errEvt State.bump State.finc
  rw [State.fget_fset_field (f := Fl.errEvtClass) (g := Fl.errEvtCount) _ _ _ (by decide) rfl (by decide),
    State.fget_fset_field (f := Fl.errEvtCode) (g := Fl.errEvtCount) _ _ _ (by decide) rfl (by decide),
    State.fget_fset_field (f := Fl.errEvtPend) (g := Fl.errEvtCount) _ _ _ (by decide) rfl (by decide),
    State.fget_fset_same _ _ _ _ (by decide), hentry]
  exact Nat.mod_mod _ _

/-- An event that is not FATAL shows its class in ERR_EVT (R329). -/
theorem State.logEvent_class (s : State) {e : Event} (he : e.cls ≠ .fatal) :
    (s.logEvent e).fget Fl.errEvtClass 0 = e.cls.code := by
  unfold State.logEvent
  dsimp only
  rw [if_neg he]
  exact State.errEvt_class _ e

/-- The entry of a lost operation (Table 14.19). -/
def lostEvent (o : Op) (status : Nat) : Event :=
  { code := 0x12, cls := .lost, seq := o.seq, loc := o.room, d4 := status }

theorem lostEvent_not_fatal (o : Op) (status : Nat) : (lostEvent o status).cls ≠ .fatal :=
  show Cls.lost ≠ Cls.fatal from nofun

/-- An operation with the status that it ends with. -/
def Op.withStatus (o : Op) (status : Nat) : Op := { o with status := status }

section
variable (s : State) (o : Op) (status : Nat)

theorem State.opLost_eq :
    s.opLost o status = (s.logEvent (lostEvent o status)).finish (o.withStatus status) true 0 := rfl

theorem State.opLost_op? : (s.opLost o status).op? o.seq = none := State.finish_op?_same _ (o.withStatus status) true 0

theorem State.opLost_trapped : (s.opLost o status).ost.trapped = true := by
  rw [State.opLost_eq, State.finish_ost]
  exact Bool.or_true _

theorem State.opLost_fget (f : Fld) (i : Nat) :
    (s.opLost o status).fget f i = (s.logEvent (lostEvent o status)).fget f i :=
  State.fget_of_regs (State.finish_regs _ _ _ _) f i

theorem State.opLost_code : (s.opLost o status).fget Fl.errEvtCode 0 = 0x12 :=
  (s.opLost_fget o status _ _).trans (s.logEvent_code (lostEvent_not_fatal o status))

theorem State.opLost_class : (s.opLost o status).fget Fl.errEvtClass 0 = 5 :=
  (s.opLost_fget o status _ _).trans (s.logEvent_class (lostEvent_not_fatal o status))

theorem State.opLost_count : (s.opLost o status).fget Fl.errEvtCount 0 = (s.fget Fl.errEvtCount 0 + 1) % 2 ^ 32 :=
  (s.opLost_fget o status _ _).trans (s.logEvent_count (lostEvent_not_fatal o status))

theorem State.opLost_tiles : (s.opLost o status).tiles = s.tiles :=
  (State.finish_tiles _ _ _ _).trans (s.logEvent_eventOnly (lostEvent_not_fatal o status)).tiles

theorem State.opLost_halted : (s.opLost o status).halted = s.halted :=
  (State.finish_halted _ _ _ _).trans (s.logEvent_eventOnly (lostEvent_not_fatal o status)).halted

theorem State.opLost_pending : (s.opLost o status).pending = s.pending :=
  (State.finish_pending _ _ _ _).trans (s.logEvent_eventOnly (lostEvent_not_fatal o status)).pending

end

/-- The status is the lowest byte of a record (Table 6.12). -/
theorem recordHead_status (o : Op) (trap : Bool) (w : Nat) : recordHead o trap w % 256 = o.status % 256 := by
  unfold recordHead
  omega

/-- The first byte of a record in the own context without NOTIFY is its status. -/
theorem State.finish_status (s : State) {o : Op} (trap : Bool) (w : Nat) (hp : o.partner = false) (hn : o.d.notify = 0) :
    (s.finish o trap w).byteAt o.d.cplAddr = BitVec.ofNat 8 o.status := by
  have hlen : (wordsBytes [recordHead o trap w]).length = 8 := wordsBytes_length _
  have hfirst : (wordsBytes [recordHead o trap w]).getD 0 0 = BitVec.ofNat 8 (recordHead o trap w) := rfl
  have hstat : recordHead o trap w % 2 ^ 8 = o.status % 2 ^ 8 := recordHead_status o trap w
  rw [State.finish_byteAt s trap w hp hn, State.byteAt_memWrite, hlen, if_pos (by omega), Nat.sub_self, hfirst]
  exact BitVec.eq_of_toNat_eq (by rw [BitVec.toNat_ofNat, BitVec.toNat_ofNat, hstat])

theorem State.opLost_status (s : State) {o : Op} (status : Nat) (hp : o.partner = false) (hn : o.d.notify = 0) :
    (s.opLost o status).byteAt o.d.cplAddr = BitVec.ofNat 8 status :=
  State.finish_status (o := o.withStatus status) _ true 0 hp hn

/-! ### BUDGET_EXPIRE (R166) -/

section
variable {s : State} {seq : Nat} {o : Op} (hl : s.live = true) (ho : s.op? seq = some o)
include hl ho

theorem exec_budgetExpire_early (h : s.now < o.startBell + 800000 * s.budgetMs o) :
    exec (.budgetExpire seq) s = .next s := by
  show execBudgetExpire seq s = _
  unfold execBudgetExpire
  refine act_eq_next hl ?_ (State.halted_of_live hl) rfl
  rw [ho]
  exact if_pos h

/-- An operation in progress when its budget runs out is aborted with status BUDGET. -/
theorem budgetExpire_aborts (h : o.startBell + 800000 * s.budgetMs o ≤ s.now) :
    ∃ t, exec (.budgetExpire seq) s = .next t ∧ t.op? seq = none ∧ t.ost.trapped = true ∧
      t.fget Fl.errEvtCode 0 = 0x12 ∧ t.fget Fl.errEvtClass 0 = 5 ∧
      t.fget Fl.errEvtCount 0 = (s.fget Fl.errEvtCount 0 + 1) % 2 ^ 32 ∧
      (∀ site f, (t.tile site).cur = some f → Canonical {} s.tiles → f.seq ≠ seq) ∧
      (o.partner = false → o.d.notify = 0 → t.byteAt o.d.cplAddr = 0x20) := by
  have hf : TilesOnly s (s.dropFronts seq) := State.dropFronts_tilesOnly seq
  have hi := (s.dropFronts seq).dropInsts_dropped seq
  generalize hu : (s.dropFronts seq).dropInsts seq = u at hi
  have htiles : u.tiles = (s.dropFronts seq).tiles := by rw [hi.only]
  have hrun : u.halted = false := Eq.trans (by rw [hi.only]) (hf.halted.trans (State.halted_of_live hl))
  have hqueue : u.pending = s.pending := Eq.trans (by rw [hi.only]) hf.pending
  have hcount : u.fget Fl.errEvtCount 0 = s.fget Fl.errEvtCount 0 := by
    have hd : s.rd .errEvt 0 = (s.dropFronts seq).rd .errEvt 0 := by rw [hf]; rfl
    unfold State.fget
    exact congrArg (fun w : Word64 => bitsOf w.toNat Fl.errEvtCount.hi Fl.errEvtCount.lo) (hi.errEvt.trans hd.symm)
  have hexec : exec (.budgetExpire seq) s = .next (u.opLost o 0x20) := by
    show execBudgetExpire seq s = _
    unfold execBudgetExpire
    refine act_eq_next hl ?_ ((u.opLost_halted o _).trans hrun) ((u.opLost_pending o _).trans hqueue)
    rw [ho, ← hu]
    exact if_neg (Nat.not_lt.mpr h)
  have hgone := u.opLost_op? o 0x20
  rw [State.seq_of_op? ho] at hgone
  refine ⟨_, hexec, hgone, u.opLost_trapped o _, u.opLost_code o _, u.opLost_class o _,
    (u.opLost_count o _).trans (by rw [hcount]), fun site f hc hcan => ?_, fun hp hn => u.opLost_status 0x20 hp hn⟩
  rw [State.tile_of_tiles (u.opLost_tiles o _), State.tile_of_tiles htiles, State.dropFronts_tile seq hcan,
    Tile.without_cur, Option.filter_eq_some_iff] at hc
  exact bne_iff_ne.mp hc.2

end

/-- Settles O36: the budget is the one of the model's own count, before it the command has no subject, and a replay starts
from the operation's own START_BELL. -/
theorem budgetEnds : Obligations.BudgetEnds :=
  ⟨fun _ _ _ hl ho => ⟨exec_budgetExpire_early hl ho, budgetExpire_aborts hl ho⟩, fun _ => rfl⟩

end Sys2Proof.Machine
end

section
/-! Deficit round robin over one member: it is always selected in the end, however the level stands (R300, R301). -/

namespace Sys2Proof.Machine

/-! ### Moves of the pointer over one member -/

/-- The pointer stands on member `k`, which has no credit yet: the next move credits it. -/
def Drr.settled (x : Drr) (k : Nat) : Prop := x.ptr = k + 1 ∧ k ∉ x.cred

/-- The level with the member under the pointer credited once. -/
def Drr.credited (x : Drr) (k q : Nat) : Drr :=
  if x.cred.contains k then x else { x with d := mput 0 x.d k (mget 0 x.d k + q), cred := x.cred ++ [k] }

/-- The level as the pointer leaves its only member and comes back to it. -/
def Drr.passed (x : Drr) (k : Nat) : Drr := { x with cred := x.cred.filter (· ≠ k), ptr := k + 1 }

theorem Drr.passed_settled (x : Drr) (k : Nat) : (x.passed k).settled k := by
  refine ⟨rfl, ?_⟩
  unfold Drr.passed
  simp [List.mem_filter]

/-- Without credit the member's deficit grows by its quantum. -/
theorem Drr.credited_of_settled {x : Drr} {k : Nat} (h : x.settled k) (q : Nat) :
    mget 0 (x.credited k q).d k = mget 0 x.d k + q := by
  have hc : ¬ x.cred.contains k = true := by simpa using h.2
  unfold Drr.credited
  rw [if_neg hc]
  exact mget_mput_same _ _ _ _

theorem nextMember_single (k ptr : Nat) : nextMember [k] ptr = k := by
  unfold nextMember
  by_cases h : ptr ≤ k <;> simp [h]

section
variable {k : Nat} {quantum cost : Nat → Nat}

/-- A move from a place that is no member's leads to the member. -/
theorem drrMoves_off {x : Drr} (h : ¬ (x.ptr ≠ 0 ∧ [k].contains (x.ptr - 1) = true)) (f : Nat) :
    ∃ y : Drr, y.ptr = k + 1 ∧ drrMoves [k] quantum cost (f + 1) x = drrMoves [k] quantum cost f y := by
  refine ⟨_, ?_, (drrMoves.eq_2 ..).trans (if_neg h)⟩
  dsimp only
  rw [nextMember_single]

/-- On its member a level credits it, and selects it once the deficit covers the cost. -/
theorem drrMoves_on {x : Drr} (h : x.ptr = k + 1) (f : Nat) :
    drrMoves [k] quantum cost (f + 1) x =
      if cost k ≤ mget 0 (x.credited k (quantum k)).d k then
        (some k, { x.credited k (quantum k) with
          d := mput 0 (x.credited k (quantum k)).d k (mget 0 (x.credited k (quantum k)).d k - cost k) })
      else drrMoves [k] quantum cost f ((x.credited k (quantum k)).passed k) := by
  have hk : x.ptr - 1 = k := by omega
  have hon : x.ptr ≠ 0 ∧ [k].contains (x.ptr - 1) = true := ⟨by omega, by rw [hk]; simp⟩
  rw [drrMoves.eq_2]
  dsimp only
  rw [if_pos hon, hk, nextMember_single]
  rfl

/-- What moves over one member come to: the member, or a settled level. -/
def Drr.Comes (k : Nat) (r : Option Nat × Drr) : Prop := r.1 = some k ∨ (r.1 = none ∧ r.2.settled k)

theorem drrMoves_of_settled {x : Drr} (h : x.settled k) (f : Nat) : Drr.Comes k (drrMoves [k] quantum cost f x) := by
  induction f generalizing x with
  | zero => exact .inr ⟨rfl, h⟩
  | succ f ih =>
    rw [drrMoves_on h.1]
    split
    · exact .inl rfl
    · exact ih (Drr.passed_settled _ _)

theorem drrMoves_of_on {x : Drr} (h : x.ptr = k + 1) (f : Nat) : Drr.Comes k (drrMoves [k] quantum cost (f + 1) x) := by
  rw [drrMoves_on h]
  split
  · exact .inl rfl
  · exact drrMoves_of_settled (Drr.passed_settled _ _) f

/-- Two moves select the member or settle the level, wherever it starts. -/
theorem drrMoves_comes (x : Drr) (f : Nat) : Drr.Comes k (drrMoves [k] quantum cost (f + 2) x) := by
  by_cases hon : x.ptr = k + 1
  · exact drrMoves_of_on hon _
  · have hoff : ¬ (x.ptr ≠ 0 ∧ [k].contains (x.ptr - 1) = true) := by
      rintro ⟨h0, hm⟩
      have hm : x.ptr - 1 = k := by simpa using hm
      exact hon (by omega)
    obtain ⟨y, hy, he⟩ := drrMoves_off (quantum := quantum) (cost := cost) hoff (f + 1)
    rw [he]
    exact drrMoves_of_on hy f

/-- A settled level selects its member when one more quantum covers the cost. -/
theorem drrMoves_selects {x : Drr} (h : x.settled k) (hd : cost k ≤ mget 0 x.d k + quantum k) (f : Nat) :
    (drrMoves [k] quantum cost (f + 1) x).1 = some k := by
  rw [drrMoves_on h.1, Drr.credited_of_settled h, if_pos hd]

end

/-! ### The procedure -/

theorem le_ceilDiv_mul (a : Nat) {b : Nat} (hb : b ≠ 0) : a ≤ ceilDiv a b * b := by
  unfold ceilDiv
  have h := Nat.div_add_mod (a + b - 1) b
  have hlt := Nat.mod_lt (a + b - 1) (Nat.pos_of_ne_zero hb)
  rw [Nat.mul_comm] at h
  omega

/-- The passes that are resolved at once leave the deficit one quantum short of the cost at the most. -/
theorem skip_covers (c d : Nat) {q : Nat} (hq : q ≠ 0) : c ≤ d + (ceilDiv (c - d) q - 1) * q + q := by
  have h := le_ceilDiv_mul (c - d) hq
  rcases Nat.eq_zero_or_pos (ceilDiv (c - d) q) with h0 | h0
  · rw [h0, Nat.zero_mul] at h
    omega
  · have hs : (ceilDiv (c - d) q - 1) * q + q = ceilDiv (c - d) q * q := by
      rw [← Nat.succ_mul, Nat.succ_eq_add_one, Nat.sub_add_cancel h0]
    omega

/-- The only member is selected, whatever deficit, credit and pointer the level starts from. -/
theorem drr_single (k c : Nat) {quantum : Nat → Nat} (hq : quantum k ≠ 0) (x : Drr) :
    (drr [(k, c)] quantum x).1 = some k := by
  have hlook : (List.lookup k [(k, c)]).getD 0 = c := by simp
  have hfilter : [(k, c)].filter (fun e => decide (quantum e.1 ≠ 0)) = [(k, c)] := by simp [hq]
  unfold drr
  dsimp only
  rw [List.map_cons, List.map_nil, hfilter]
  rcases drrMoves_comes (k := k) (quantum := quantum) (cost := fun j => (List.lookup j [(k, c)]).getD 0) x
    (2 * [(k, c)].length) with h | ⟨hn, hp, hc⟩
  · rw [h]
    exact h
  · rw [hn, if_neg (by simp)]
    refine drrMoves_selects ?_ ?_ _
    · exact ⟨hp, hc⟩
    · dsimp only [List.foldl_cons, List.foldl_nil]
      rw [hlook, mget_mput_same, List.map_singleton, List.headD_cons, List.foldl_cons, List.foldl_nil, Nat.min_self]
      exact skip_covers _ _ hq

theorem drrMoves_nil (quantum cost : Nat → Nat) (f : Nat) (x : Drr) : (drrMoves [] quantum cost f x).1 = none := by
  induction f generalizing x with
  | zero => rfl
  | succ f ih =>
    rw [drrMoves.eq_2]
    dsimp only
    rw [if_neg fun h => by simp at h]
    exact ih _

/-- Without a member nothing is selected. -/
theorem drr_nil (quantum : Nat → Nat) (x : Drr) : (drr [] quantum x).1 = none := by
  unfold drr
  dsimp only
  split
  · exact drrMoves_nil _ _ _ _
  · exact drrMoves_nil _ _ _ _

end Sys2Proof.Machine
end

section
/-! What the input log and a counted detour leave alone (R316 to R320). -/

namespace Sys2Proof.Machine

/-! ### Frames of the queue of descriptors -/

/-- A register written whole leaves the other registers alone. -/
theorem regsBut_wr {p : Reg → Prop} (s : State) {r : Reg} {i : Nat} (v : Word64) (hi : i < r.place.2.1) (hr : ¬ p r) :
    RegsBut p s (s.wr r i v) := by
  refine ⟨regsOnly_wr s r i v, fun f j hj hp => ?_⟩
  unfold State.fget
  rw [s.rd_wr_ne v hi hj (.inl fun h => hr (h ▸ hp))]

/-- The same HEADs of the rooms, next SEQ, operations and tiles, in a module that halts no more than before. -/
structure SameQueue (s t : State) : Prop where
  frame : Frame (· = .roomHead) s t
  seq : t.ost.seq = s.ost.seq
  tiles : t.tiles = s.tiles

namespace SameQueue

theorem refl (s : State) : SameQueue s s := ⟨.refl s, rfl, rfl⟩

theorem trans {s t u : State} (h : SameQueue s t) (k : SameQueue t u) : SameQueue s u :=
  ⟨h.frame.trans k.frame, k.seq.trans h.seq, k.tiles.trans h.tiles⟩

theorem of_regsBut {s t : State} (h : RegsBut (· = .roomHead) s t) : SameQueue s t :=
  ⟨h.frame, congrArg Ost.seq h.regs.ost, h.regs.tiles⟩

theorem of_stores {s t : State} (h : StoresOnly s t) : SameQueue s t :=
  ⟨h.frame, by rw [h], by rw [h]⟩

theorem of_deliver {s t : State} (h : DeliverOnly s t) : SameQueue s t :=
  ⟨⟨h.ops, h.halted, h.pending, fun f i _ _ => State.fget_of_regs h.regs f i⟩, congrArg Ost.seq h.ost, h.tiles⟩

theorem of_event {s : State} {e : Event} (he : e.cls ≠ .fatal) : SameQueue s (s.logEvent e) :=
  ⟨(s.logEvent_frame he).mono fun r hr => by rw [hr]; exact ⟨by decide, by decide⟩,
    congrArg Ost.seq (s.logEvent_ost he), (s.logEvent_eventOnly he).tiles⟩

theorem of_fset (s : State) {f : Fld} {i : Nat} (v : Nat) (hi : i < f.reg.place.2.1) (hf : f.reg ≠ .roomHead) :
    SameQueue s (s.fset f i v) := .of_regsBut (regsBut_fset s v hi hf)

theorem of_wr (s : State) {r : Reg} {i : Nat} (v : Word64) (hi : i < r.place.2.1) (hr : r ≠ .roomHead) :
    SameQueue s (s.wr r i v) := .of_regsBut (regsBut_wr s v hi hr)

theorem set_twin (s : State) (x : Twin) : SameQueue s { s with twin := x } :=
  ⟨⟨rfl, rfl, rfl, fun _ _ _ _ => rfl⟩, rfl, rfl⟩

theorem set_log (s : State) (x : Log) : SameQueue s { s with log := x } :=
  ⟨⟨rfl, rfl, rfl, fun _ _ _ _ => rfl⟩, rfl, rfl⟩

theorem set_insts (s : State) (x : List Inst) : SameQueue s { s with insts := x } :=
  ⟨⟨rfl, rfl, rfl, fun _ _ _ _ => rfl⟩, rfl, rfl⟩

theorem set_ost (s : State) {x : Ost} (hx : x.seq = s.ost.seq) : SameQueue s { s with ost := x } :=
  ⟨⟨rfl, rfl, rfl, fun _ _ _ _ => rfl⟩, hx, rfl⟩

end SameQueue

/-- The same queue, and the same instances with the chunks and messages that wait for them. -/
structure Aside (s t : State) : Prop where
  queue : SameQueue s t
  insts : t.insts = s.insts
  early : t.early = s.early

namespace Aside

theorem refl (s : State) : Aside s s := ⟨.refl s, rfl, rfl⟩

theorem trans {s t u : State} (h : Aside s t) (k : Aside t u) : Aside s u :=
  ⟨h.queue.trans k.queue, k.insts.trans h.insts, k.early.trans h.early⟩

theorem of_stores {s t : State} (h : StoresOnly s t) : Aside s t := ⟨.of_stores h, by rw [h], by rw [h]⟩

theorem of_event {s : State} {e : Event} (he : e.cls ≠ .fatal) : Aside s (s.logEvent e) :=
  ⟨.of_event he, by rw [s.logEvent_eventOnly he], by rw [s.logEvent_eventOnly he]⟩

theorem of_fset (s : State) {f : Fld} {i : Nat} (v : Nat) (hi : i < f.reg.place.2.1) (hf : f.reg ≠ .roomHead) :
    Aside s (s.fset f i v) := ⟨.of_fset s v hi hf, rfl, rfl⟩

theorem of_wr (s : State) {r : Reg} {i : Nat} (v : Word64) (hi : i < r.place.2.1) (hr : r ≠ .roomHead) :
    Aside s (s.wr r i v) := ⟨.of_wr s v hi hr, rfl, rfl⟩

theorem set_twin (s : State) (x : Twin) : Aside s { s with twin := x } := ⟨.set_twin s x, rfl, rfl⟩

theorem set_log (s : State) (x : Log) : Aside s { s with log := x } := ⟨.set_log s x, rfl, rfl⟩

end Aside

section
variable (s : State) (p : Bool)

theorem State.setLog_aside (f : Log → Log) : Aside s (s.setLog p f) := by
  cases p
  · exact .set_log s _
  · exact .set_twin s _

theorem State.setWay_aside {f : Fld} (v : Nat) (hf : f.reg = .waymarkCtl) : Aside s (s.setWay p f v) := by
  cases p
  · exact .of_fset s v (by rw [hf]; decide) (by rw [hf]; decide)
  · exact .set_twin s _

theorem State.ctxWrite_aside (a : Nat) (bs : List Byte) : Aside s (s.ctxWrite p a bs) :=
  .of_stores (s.ctxWrite_storesOnly p a bs)

theorem State.logHeader_aside : Aside s (s.logHeader p) := s.ctxWrite_aside p _ _

theorem State.logBytes_aside (pos : Nat) (bs : List Byte) : Aside s (s.logBytes p pos bs) := by
  unfold State.logBytes
  dsimp only
  split
  · exact (s.ctxWrite_aside p _ _).trans (State.ctxWrite_aside _ p _ _)
  · exact s.ctxWrite_aside p _ _

theorem State.logPut_aside (kind : Nat) (payload : List Byte) : Aside s (s.logPut p kind payload) := by
  unfold State.logPut
  exact ((s.logBytes_aside p _ _).trans (State.setLog_aside _ p _)).trans (State.logHeader_aside _ p)

theorem State.logBreak_aside : Aside s (s.logBreak p) := by
  unfold State.logBreak
  exact (((s.setWay_aside p 1 rfl).trans (.of_event (by exact nofun))).trans (State.setLog_aside _ p _)).trans
    (State.logPut_aside _ p _ _)

theorem State.logAppend_aside (kind : Nat) (payload : List Byte) : Aside s (s.logAppend p kind payload) := by
  unfold State.logAppend
  dsimp only
  split
  · split
    · exact (s.logBreak_aside p).trans (State.logPut_aside _ p _ _)
    · exact s.logPut_aside p _ _
  · exact .refl s

theorem State.countDetour_aside (cause : Nat) : Aside s (s.countDetour p cause) := by
  cases p
  · exact ((Aside.of_fset s (f := Fl.detCountCount) (i := 0) _ (by decide) (by decide)).trans
      (Aside.of_fset _ (f := Fl.detCauseStep) (i := 0) _ (by decide) (by decide))).trans
      (Aside.of_fset _ (f := Fl.detCauseEver) (i := 0) _ (by decide) (by decide))
  · exact .set_twin s _

theorem State.detour_aside (cause seq : Nat) (outcome : List Byte) :
    Aside s (s.detour p cause seq outcome) :=
  (s.countDetour_aside p cause).trans (State.logAppend_aside _ p _ _)

/-! ### The tables swapped (R199, R200) -/

theorem State.setTblGen_aside (w : Word64) : Aside s (s.setTblGen p w) := by
  cases p
  · exact .of_wr s _ (by decide) (by decide)
  · exact .set_twin s _

theorem State.setTblState_aside (w : Word64) : Aside s (s.setTblState p w) := by
  cases p
  · exact .of_wr s _ (by decide) (by decide)
  · exact .set_twin s _

theorem State.swapTables_aside : Aside s (s.swapTables p) := by
  unfold State.swapTables State.setBank State.showValid State.setTblBits
  exact (((s.setTblGen_aside p _).trans (State.setTblState_aside _ p _)).trans
    (State.setTblState_aside _ p _)).trans (State.setTblState_aside _ p _)

theorem State.looseClear_aside : Aside s (s.looseClear p) := by
  unfold State.looseClear
  split
  · exact .refl s
  · exact s.setTblGen_aside p _

end

/-- What a selection does for a LOOSE swap: nothing, or a swap that counts as a detour of the operation (R200, R319). -/
theorem State.looseApply_cases (s : State) (o : Op) :
    s.looseApply o = (s, o) ∨
      ∃ t b, SameQueue s t ∧ s.looseApply o = (t, { o.detour 3 with bank := b }) := by
  have hswap := (s.swapTables_aside o.partner).trans (State.looseClear_aside _ o.partner)
  unfold State.looseApply
  dsimp only
  split
  · exact .inl rfl
  · split
    · exact .inr ⟨_, _, (hswap.trans (State.setLog_aside _ _ _)).queue, rfl⟩
    · split
      · exact .inr ⟨_, _, (hswap.trans (State.detour_aside _ _ _ _ _)).queue, rfl⟩
      · exact .inl rfl

end Sys2Proof.Machine
end

section
/-! The selection of the only eligible room of a stream (R163, R297, R300). -/

namespace Sys2Proof.Machine

/-! ### The room that is picked -/

/-- Only ROOM_ATTR and the Ostler's notes differ, SEQ apart. -/
structure Picked (s t : State) : Prop where
  only : RegsOst s t
  seq : t.ost.seq = s.ost.seq
  fget : ∀ f i, i < f.reg.place.2.1 → f.reg ≠ .roomAttr → t.fget f i = s.fget f i

theorem Picked.trans {s t u : State} (h : Picked s t) (k : Picked t u) : Picked s u :=
  ⟨h.only.trans k.only, k.seq.trans h.seq, fun f i hi hf => (k.fget f i hi hf).trans (h.fget f i hi hf)⟩

theorem Picked.of_regsBut {s t : State} (h : RegsBut (· ≠ .roomAttr) s t) : Picked s t :=
  ⟨h.regs.regsOst, congrArg Ost.seq h.regs.ost, h.fget⟩

theorem picked_set_ost (s : State) {x : Ost} (hx : x.seq = s.ost.seq) : Picked s { s with ost := x } :=
  ⟨rfl, hx, fun _ _ _ _ => rfl⟩

theorem Picked.sameQueue {s t : State} (h : Picked s t) : SameQueue s t :=
  ⟨⟨h.only.ops, h.only.halted, h.only.pending, fun f i hi hf => h.fget f i hi (by rw [hf]; decide)⟩, h.seq,
    by rw [h.only]⟩

theorem State.keepRoomDrr_picked (s : State) (dom c : Nat) {el : List Nat} (hel : ∀ n ∈ el, n < 4096) (x : Drr) :
    Picked s (s.keepRoomDrr dom c el x) := by
  have h : RegsBut (· ≠ .roomAttr) s ((el.filter fun n => s.roomClass n == c).foldl (fun (t : State) n =>
      t.fset Fl.roomAttrDeficit n (mget 0 x.d n)) s) :=
    regsBut_foldl _ _ _ fun t n hn => regsBut_fset t _ (hel n (List.mem_filter.mp hn).1) fun hr => hr rfl
  exact (Picked.of_regsBut h).trans (picked_set_ost _ rfl)

section
variable {s : State} {dom n : Nat}

/-- The room level of the class of its only room takes that room. -/
theorem State.roomDrr_single (hq : s.fget Fl.roomAttrQuantum n ≠ 0) :
    (s.roomDrr dom (s.roomClass n) [n]).1 = some n := by
  have hf : [n].filter (fun m => s.roomClass m == s.roomClass n) = [n] := by simp
  unfold State.roomDrr
  dsimp only
  rw [hf]
  exact drr_single n _ hq _

theorem State.roomClass_lt (s : State) (n : Nat) : s.roomClass n < 8 := s.fget_lt Fl.roomAttrClass n

/-- The class level takes the class of the only room. -/
theorem State.classDrr_single (hs : s.strictClass (s.roomClass n) = false)
    (hw : s.fget Fl.ostClassWtWt (s.roomClass n) ≠ 0) :
    (s.classDrr dom [n]).1 = some (8 * dom + s.roomClass n) := by
  have hlt := s.roomClass_lt n
  have hf : (List.range 8).filter (fun c => !s.strictClass c && [n].any fun m => s.roomClass m == c) =
      [s.roomClass n] := by
    have hp : ∀ c, (!s.strictClass c && [n].any fun m => s.roomClass m == c) = decide (c = s.roomClass n) := by
      intro c
      by_cases hc : c = s.roomClass n
      · subst hc
        simp [hs]
      · simp [hc, Ne.symm hc]
    rw [List.filter_congr fun c _ => hp c]
    have hm : s.roomClass n ∈ List.range 8 := List.mem_range.mpr hlt
    generalize s.roomClass n = k at hlt
    interval_cases k <;> rfl
  unfold State.classDrr
  dsimp only
  rw [hf]
  refine drr_single _ _ ?_ _
  rw [show (8 * dom + s.roomClass n) % 8 = s.roomClass n by omega]
  exact hw

/-- The only eligible room is picked, by the level of its class alone or after that of the classes (R300). -/
theorem State.pick_single (hn : n < 4096) (hq : s.fget Fl.roomAttrQuantum n ≠ 0)
    (hw : s.fget Fl.ostClassWtWt (s.roomClass n) ≠ 0) : ∃ t, s.pick dom [n] = some (n, t) ∧ Picked s t := by
  have hel : ∀ m ∈ [n], m < 4096 := fun m hm => List.mem_singleton.mp hm ▸ hn
  unfold State.pick
  dsimp only
  split
  · rename_i c hc
    have hp := List.find?_some hc
    have hcls : s.roomClass n = c := by simpa using (Bool.and_eq_true_iff.mp hp).2
    subst hcls
    rw [State.roomDrr_single hq]
    exact ⟨_, rfl, s.keepRoomDrr_picked dom _ hel _⟩
  · rename_i hnone
    have hp := List.find?_eq_none.mp hnone (s.roomClass n)
      (List.mem_reverse.mpr (List.mem_range.mpr (s.roomClass_lt n)))
    have hs : s.strictClass (s.roomClass n) = false := by simpa using hp
    rw [State.classDrr_single hs hw]
    dsimp only
    rw [show (8 * dom + s.roomClass n) % 8 = s.roomClass n by have := s.roomClass_lt n; omega]
    have hset := picked_set_ost s (x := { s.ost with
      clsDeficit := (s.classDrr dom [n]).2.d, clsCredit := (s.classDrr dom [n]).2.cred,
      clsPtr := mput 0 s.ost.clsPtr dom (s.classDrr dom [n]).2.ptr }) rfl
    generalize hu : ({ s with ost := _ } : State) = u at hset ⊢
    have hclass : u.roomClass n = s.roomClass n := by rw [← hu]; rfl
    have hquantum : u.fget Fl.roomAttrQuantum n ≠ 0 := by rw [← hu]; exact hq
    rw [← hclass, State.roomDrr_single hquantum]
    exact ⟨_, rfl, hset.trans (u.keepRoomDrr_picked dom _ hel _)⟩

end

/-- Without an eligible room none is picked. -/
theorem State.pick_nil (s : State) (dom : Nat) : s.pick dom [] = none := by
  have hclasses : (List.range 8).filter (fun c => !s.strictClass c && [].any fun n => s.roomClass n == c) = [] := by
    simp
  have hclass : (s.classDrr dom []).1 = none := by
    unfold State.classDrr
    dsimp only
    rw [hclasses]
    exact drr_nil _ _
  have hstrict : (List.range 8).reverse.find? (fun c => s.strictClass c && [].any fun n => s.roomClass n == c) = none := by
    simp
  unfold State.pick
  dsimp only
  rw [hstrict, hclass]

/-! ### The descriptor at HEAD -/

/-- A module that serves no second context reads the descriptor of a room from its own memory. -/
theorem State.headOp_words {s t : State} {n : Nat} (dom : Nat) (h : Picked s t) (hserves : s.twin.serves = none)
    (hn : n < 4096) : (t.headOp dom n).words = (s.headOp dom n).words := by
  have htwin : t.twin = s.twin := by rw [h.only]
  have hmem : t.mem = s.mem := by rw [h.only]
  have hpanel : t.panel = s.panel := by rw [h.only]
  have hp (u : State) (hu : u.twin.serves = none) : u.isPartnerRoom n = false := by
    unfold State.isPartnerRoom
    rw [hu]
    rfl
  have hrd (u : State) : u.ctxRd false = u.byteAt := rfl
  have hbytes : t.byteAt = s.byteAt :=
    funext fun a => State.byteAt_eq hmem hpanel (h.fget Fl.memPswinSpare 0 (by decide) (by decide)) a
  have hbase : t.ringBase n = s.ringBase n := congrArg (· * 256) (h.fget Fl.roomBaseBase n hn (by decide))
  have hslots : t.ringSlots n = s.ringSlots n := congrArg (2 ^ ·) (h.fget Fl.roomSizeLog2 n hn (by decide))
  unfold State.headOp
  dsimp only
  rw [hp t (htwin ▸ hserves), hp s hserves, hrd, hrd, hbytes, hbase, hslots,
    h.fget Fl.roomHeadHead n hn (by decide)]

/-! ### HEAD and SEQ advance (R163) -/

theorem State.dropDeficits_sameQueue (s : State) (dom : Nat) {n : Nat} (hn : n < 4096) :
    SameQueue s (s.dropDeficits dom n) := by
  unfold State.dropDeficits State.dropClass
  split
  · exact .refl s
  · have h := SameQueue.of_fset s (f := Fl.roomAttrDeficit) (i := n) 0 hn (by decide)
    split
    · exact h
    · exact h.trans (.set_ost _ rfl)

/-- HEAD of room `n` and SEQ have advanced; the operations and tiles stand. -/
structure Advanced (n : Nat) (s t : State) : Prop where
  head : t.fget Fl.roomHeadHead n = (s.fget Fl.roomHeadHead n + 1) % 2 ^ 17
  seq : t.ost.seq = (s.ost.seq + 1) % 2 ^ 48
  ops : t.ops = s.ops
  tiles : t.tiles = s.tiles
  halted : t.halted = s.halted
  pending : t.pending = s.pending

section
variable {n : Nat} (hn : n < 4096)
include hn

theorem SameQueue.head {s t : State} (h : SameQueue s t) : t.fget Fl.roomHeadHead n = s.fget Fl.roomHeadHead n :=
  h.frame.fget Fl.roomHeadHead n hn rfl

theorem SameQueue.advanced {s t u : State} (h : SameQueue s t) (k : Advanced n t u) : Advanced n s u where
  head := k.head.trans (by rw [h.head hn])
  seq := k.seq.trans (by rw [h.seq])
  ops := k.ops.trans h.frame.ops
  tiles := k.tiles.trans h.tiles
  halted := k.halted.trans h.frame.halted
  pending := k.pending.trans h.frame.pending

theorem Advanced.sameQueue {s t u : State} (h : Advanced n s t) (k : SameQueue t u) : Advanced n s u where
  head := (k.head hn).trans h.head
  seq := k.seq.trans h.seq
  ops := k.frame.ops.trans h.ops
  tiles := k.tiles.trans h.tiles
  halted := k.frame.halted.trans h.halted
  pending := k.frame.pending.trans h.pending

theorem State.takeHead_advanced (s : State) {o : Op} (ho : o.room = n) : Advanced n s (s.takeHead o) := by
  subst ho
  have hhead : Advanced o.room s
      { s.fset Fl.roomHeadHead o.room ((s.fget Fl.roomHeadHead o.room + 1) % 2 ^ 17) with
        ost := { s.ost with seq := (s.ost.seq + 1) % 2 ^ 48 } } :=
    ⟨(State.fget_fset_same s Fl.roomHeadHead o.room _ (by decide)).trans (Nat.mod_mod _ _), rfl, rfl, rfl, rfl, rfl⟩
  have hlog (u : State) (f : Log → Log) (x : Ost) :
      SameQueue { u with ost := x } { u.setLog o.partner f with ost := x } := by
    cases o.partner
    · exact ⟨⟨rfl, rfl, rfl, fun _ _ _ _ => rfl⟩, rfl, rfl⟩
    · exact ⟨⟨rfl, rfl, rfl, fun _ _ _ _ => rfl⟩, rfl, rfl⟩
  have host (u : State) (f : Log → Log) : (u.setLog o.partner f).ost = u.ost := by cases o.partner <;> rfl
  unfold State.takeHead
  dsimp only
  rw [host]
  exact hhead.sameQueue hn (((hlog _ _ _).trans ((SameQueue.of_fset _ (f := Fl.ostCurLastRoom) (i := 0) _ (by decide)
    (by decide)).trans (.of_fset _ (f := Fl.ostCurLastSeq) (i := 0) _ (by decide) (by decide)))).trans
    (State.dropDeficits_sameQueue _ _ hn))

end

/-! ### The descriptor accepted or rejected -/

/-- Without a line in error a read of any extent meets none. -/
theorem State.headUe_none {s : State} (h : s.hbm.ueLines = []) (o : Op) : s.headUe o = [] := by
  have hue : ∀ e, s.ctxUe o.partner e = [] := fun e => by
    unfold State.ctxUe
    rw [h]
    rfl
  unfold State.headUe
  simp [hue]

theorem State.ueNotes_nil (s : State) (seq : Nat) : s.ueNotes seq [] = s := rfl

theorem State.noteHead_nil (s : State) (seq : Nat) : s.noteHead seq [] = s := rfl

theorem State.addInst_sameQueue (s : State) {o : Op} (kind : Nat) (hc : o.ctxNo < 1024) :
    SameQueue s (State.addInst o s kind) := by
  have hset (x : List Inst) : SameQueue s (({ s with insts := x } : State).finc Fl.grpStatSeq o.ctxNo) :=
    (SameQueue.set_insts s x).trans (.of_fset _ (f := Fl.grpStatSeq) _ hc (by decide))
  have hstate (u : State) (h : SameQueue s u) : SameQueue s
      (if u.fget Fl.grpStatState o.ctxNo = gsIdle then u.fset Fl.grpStatState o.ctxNo gsActive else u) := by
    split
    · exact h.trans (.of_fset u (f := Fl.grpStatState) _ hc (by decide))
    · exact h
  unfold State.addInst
  exact hstate _ (hset _)

/-- The instances of an operation touch the registers of its group context alone. -/
theorem State.addInsts_sameQueue (s : State) {o : Op} (hc : o.ctxNo < 1024) : SameQueue s (s.addInsts o) :=
  foldl_invariant (SameQueue s) _ _ s (.refl s) fun t k _ h => h.trans (t.addInst_sameQueue k hc)

theorem Op.ctxNo_lt {o : Op} (h : o.partner = false) : o.ctxNo < 1024 := by
  unfold Op.ctxNo
  rw [h]
  exact bitsOf_lt _ _ _

/-- An operation as it is accepted (R161, R299). -/
def State.accepted (s : State) (o : Op) : Op :=
  { o with idem := s.idempotent o, tongs := o.d.tongs, tongWait := s.tongWaits o, inst := s.fget Fl.grpStatSeq o.ctxNo }

theorem State.accepted_keeps (s : State) (o : Op) : (s.accepted o).seq = o.seq ∧ (s.accepted o).room = o.room ∧
    (s.accepted o).words = o.words ∧ (s.accepted o).phase = o.phase := ⟨rfl, rfl, rfl, rfl⟩

/-- An operation put behind the others. -/
def State.queue (s : State) (o : Op) : State := { s with ops := s.ops ++ [o] }

theorem State.queue_set_ost_sameQueue (s : State) (o : Op) {x : Ost} (hx : x.seq = s.ost.seq) :
    SameQueue (s.queue o) { s.queue o with ost := x } := .set_ost _ hx

/-- A descriptor that is accepted becomes the last of the operations. -/
theorem State.accept_sameQueue (s : State) {o : Op} (hp : o.partner = false) :
    SameQueue (s.queue (s.accepted o)) (s.accept o) := by
  have hc : (s.accepted o).ctxNo < 1024 := Op.ctxNo_lt hp
  have hadd (x : Ost) (hx : x.seq = s.ost.seq) : SameQueue (s.queue (s.accepted o))
      (State.addInsts { s.queue (s.accepted o) with ost := x } (s.accepted o)) :=
    (s.queue_set_ost_sameQueue _ hx).trans (State.addInsts_sameQueue _ hc)
  exact hadd { s.ost with
    fence := if o.d.opcode = opFence then some o.seq else s.ost.fence,
    trapNan := if o.d.trapNan then some o.seq else s.ost.trapNan,
    lastArray := if isArrayOp o.d.opcode then mput 0 s.ost.lastArray o.dom (o.seq + 1) else s.ost.lastArray } rfl

/-- A rejection leaves a record or an event, and no operation (R159). -/
theorem State.reject_sameQueue (s : State) {o : Op} (hr : o.room < 4096) (ho : ∀ p ∈ s.ops, p.seq ≠ o.seq)
    (code word head : Nat) : SameQueue s (s.reject o code word head) := by
  have hstop : SameQueue s (if s.fon Fl.roomAttrStopOnErr o.room then s.hwset Fl.roomAttrEnable o.room 0 else s) := by
    unfold State.hwset
    split
    · split
      · exact .refl s
      · exact .of_fset s 0 hr (by decide)
    · exact .refl s
  unfold State.reject
  dsimp only
  generalize (if s.fon Fl.roomAttrStopOnErr o.room then s.hwset Fl.roomAttrEnable o.room 0 else s) = u at hstop ⊢
  split
  · exact hstop.trans (.of_event (by exact nofun))
  · have hops : u.ops.filter (fun p => p.seq ≠ o.seq) = u.ops :=
      List.filter_eq_self.mpr fun p hp => by simpa using ho p (hstop.frame.ops ▸ hp)
    have hend : SameQueue u (u.endOp o.seq false) :=
      ⟨⟨hops, rfl, rfl, fun _ _ _ _ => rfl⟩, rfl, rfl⟩
    exact hstop.trans (hend.trans (.of_deliver (u.finish_deliverOnly (o.withStatus code) false word)))

/-! ### The selection -/

/-- A selection from room `n`: HEAD and SEQ advance, and the descriptor is rejected or becomes the last operation. -/
structure Selected (n : Nat) (words : Desc) (s t : State) : Prop where
  head : t.fget Fl.roomHeadHead n = (s.fget Fl.roomHeadHead n + 1) % 2 ^ 17
  seq : t.ost.seq = (s.ost.seq + 1) % 2 ^ 48
  ops : t.ops = s.ops ∨ ∃ o', t.ops = s.ops ++ [o'] ∧ o'.seq = s.ost.seq ∧ o'.room = n ∧ o'.words = words ∧
    o'.phase = .selected
  tiles : t.tiles = s.tiles
  halted : t.halted = s.halted
  pending : t.pending = s.pending

section
variable {n : Nat} {words : Desc} {s t : State}

theorem Advanced.selected (h : Advanced n s t) : Selected n words s t :=
  ⟨h.head, h.seq, .inl h.ops, h.tiles, h.halted, h.pending⟩

/-- HEAD and SEQ advance, and an operation is put behind the others. -/
theorem Advanced.queued (hn : n < 4096) (h : Advanced n s t) {o : Op} (hseq : o.seq = s.ost.seq) (hroom : o.room = n)
    (hwords : o.words = words) (hphase : o.phase = .selected) {u : State} (hu : SameQueue (t.queue o) u) :
    Selected n words s u where
  head := (hu.head hn).trans h.head
  seq := hu.seq.trans h.seq
  ops := .inr ⟨o, hu.frame.ops.trans (congrArg (· ++ [o]) h.ops), hseq, hroom, hwords, hphase⟩
  tiles := hu.tiles.trans h.tiles
  halted := hu.frame.halted.trans h.halted
  pending := hu.frame.pending.trans h.pending

end

/-- What a LOOSE swap leaves of an operation: its descriptor, room, context and number. -/
theorem State.looseApply_keeps (s : State) (o : Op) :
    SameQueue s (s.looseApply o).1 ∧ (s.looseApply o).2.seq = o.seq ∧ (s.looseApply o).2.room = o.room ∧
      (s.looseApply o).2.words = o.words ∧ (s.looseApply o).2.phase = o.phase ∧
      (s.looseApply o).2.partner = o.partner := by
  rcases s.looseApply_cases o with h | ⟨t, b, ht, h⟩
  · rw [h]
    exact ⟨.refl s, rfl, rfl, rfl, rfl, rfl⟩
  · rw [h]
    exact ⟨ht, rfl, rfl, rfl, rfl, rfl⟩

/-- The selection of an operation formed from the descriptor at the HEAD of room `n`. -/
def State.selectOp (s : State) (n : Nat) (o : Op) : State :=
  let r := s.looseApply o
  let t := r.1.takeHead r.2
  match r.1.check r.2 with
  | some e => (t.ueNotes r.2.seq (s.headUe o)).reject r.2 e.1 e.2 (s.fget Fl.roomHeadHead n)
  | none => (t.accept r.2).noteHead r.2.seq (s.headUe o)

/-- An operation with the attempts that came before its selection (R322). -/
def Op.tried (o : Op) (a : Nat) : Op := { o with base := a, attempt := a }

theorem State.selectRoom_eq (s : State) (dom n : Nat) :
    s.selectRoom dom n = s.selectOp n ((s.headOp dom n).tried (s.attempts (s.headOp dom n))) := rfl

theorem State.selectOp_selected {s : State} {n : Nat} {o : Op} (hn : n < 4096) (hue : s.hbm.ueLines = [])
    (hfresh : ∀ p ∈ s.ops, p.seq ≠ s.ost.seq) (hseq : o.seq = s.ost.seq) (hroom : o.room = n)
    (hphase : o.phase = .selected) (hown : o.partner = false) : Selected n o.words s (s.selectOp n o) := by
  obtain ⟨hloose, kseq, kroom, kwords, kphase, kpartner⟩ := s.looseApply_keeps o
  have htake := hloose.advanced hn (State.takeHead_advanced hn (s.looseApply o).1 (kroom.trans hroom))
  unfold State.selectOp
  dsimp only
  rw [State.headUe_none hue, State.ueNotes_nil, State.noteHead_nil]
  split
  · have hops : ∀ p ∈ ((s.looseApply o).1.takeHead (s.looseApply o).2).ops, p.seq ≠ (s.looseApply o).2.seq := by
      rw [htake.ops, kseq, hseq]
      exact hfresh
    exact (htake.sameQueue hn
      (State.reject_sameQueue _ (by rw [kroom, hroom]; exact hn) hops _ _ _)).selected
  · have hacc := State.accept_sameQueue ((s.looseApply o).1.takeHead (s.looseApply o).2) (kpartner.trans hown)
    obtain ⟨aseq, aroom, awords, aphase⟩ :=
      State.accepted_keeps ((s.looseApply o).1.takeHead (s.looseApply o).2) (s.looseApply o).2
    exact htake.queued hn (aseq.trans (kseq.trans hseq)) (aroom.trans (kroom.trans hroom)) (awords.trans kwords)
      (aphase.trans (kphase.trans hphase)) hacc

theorem State.headOp_partner {s : State} (h : s.twin.serves = none) (dom n : Nat) : (s.headOp dom n).partner = false := by
  show s.isPartnerRoom n = false
  unfold State.isPartnerRoom
  rw [h]
  rfl

section
variable {s : State} {dom n : Nat} (hn : n < 4096) (hserves : s.twin.serves = none) (hue : s.hbm.ueLines = [])
  (hfresh : ∀ o ∈ s.ops, o.seq ≠ s.ost.seq)
include hn hserves hue hfresh

theorem State.selectRoom_selected : Selected n (s.headOp dom n).words s (s.selectRoom dom n) := by
  rw [State.selectRoom_eq]
  exact State.selectOp_selected (o := (s.headOp dom n).tried (s.attempts (s.headOp dom n))) hn hue hfresh rfl rfl rfl
    (State.headOp_partner hserves dom n)

variable (hel : s.eligible dom = [n]) (hpre : s.preempted dom = none) (hq : s.fget Fl.roomAttrQuantum n ≠ 0)
  (hw : s.fget Fl.ostClassWtWt (s.roomClass n) ≠ 0)
include hel hpre hq hw

/-- The only eligible room of a stream gives up its descriptor (R300). -/
theorem State.selectNext_selected : Selected n (s.headOp dom n).words s (s.selectNext dom) := by
  obtain ⟨t, hpick, ht⟩ := State.pick_single (dom := dom) hn hq hw
  have hallows (c : Nat) : s.ctxAllows c = true := by
    unfold State.ctxAllows
    rw [hserves]
    rfl
  have hcharge (u : State) (c : Nat) : SameQueue u (u.ctxCharge c) := by
    unfold State.ctxCharge
    split
    · exact .refl u
    · exact .set_twin u _
  have hsel := State.selectRoom_selected (s := t) (dom := dom) hn (by rw [ht.only]; exact hserves)
    (by rw [ht.only]; exact hue) (by rw [ht.only.ops, ht.seq]; exact hfresh)
  have hsame := ht.sameQueue
  unfold State.selectNext
  dsimp only
  rw [hpre, hel, hpick]
  dsimp only
  rw [if_pos (hallows _)]
  have hc := hcharge (t.selectRoom dom n) (s.headOp dom n).cost
  rw [State.headOp_words dom ht hserves hn] at hsel
  exact ⟨((hc.head hn).trans hsel.head).trans (by rw [hsame.head hn]),
    (hc.seq.trans hsel.seq).trans (by rw [hsame.seq]),
    by rw [hc.frame.ops, ← hsame.seq, ← hsame.frame.ops]; exact hsel.ops,
    (hc.tiles.trans hsel.tiles).trans hsame.tiles, (hc.frame.halted.trans hsel.halted).trans hsame.frame.halted,
    (hc.frame.pending.trans hsel.pending).trans hsame.frame.pending⟩

end

/-- With RUN at 0 no room is eligible and none is resumed (R297). -/
theorem State.selectNext_stopped {s : State} {dom : Nat} (h : s.fget Fl.ostCtlRun 0 = 0) : s.selectNext dom = s := by
  have hheld : s.streamHeld dom = true := by
    unfold State.streamHeld State.stopped State.fon
    rw [h]
    rfl
  have hel : s.eligible dom = [] := by
    unfold State.eligible
    rw [hheld]
    exact if_neg (by simp)
  have hpick : s.pick dom [] = none := s.pick_nil dom
  unfold State.selectNext
  dsimp only
  rw [hel, hpick, hheld]
  split
  · exact if_neg (by simp)
  · rfl

/-- Settles O34: the level over one member selects it, and its descriptor is then accepted or rejected, with HEAD and SEQ
advanced in both cases. -/
theorem selection : Obligations.Selection := by
  refine ⟨fun s dom hl hrun => ?_, fun s dom n hl hn hwipe hue hel hpre hserves hq hw hfresh => ?_⟩
  · show execOstlerSelect dom s = _
    unfold execOstlerSelect
    refine act_eq_next hl ?_ (State.halted_of_live hl) rfl
    rw [State.selectNext_stopped hrun]
    exact ite_self _
  · have hsel := State.selectNext_selected hn hserves hue hfresh hel hpre hq hw
    refine ⟨s.selectNext dom, ?_, hsel.head, hsel.seq, hsel.ops, hsel.tiles⟩
    show execOstlerSelect dom s = _
    unfold execOstlerSelect
    refine act_eq_next hl ?_ (hsel.halted.trans (State.halted_of_live hl)) hsel.pending
    rw [hwipe]
    rfl

end Sys2Proof.Machine
end

section
/-! What the traffic of collectives leaves alone: the phases of the operations, and of each instance all but what it holds,
sends and delivers (R219, R225, R234). -/

namespace Sys2Proof.Machine

/-! ### What the traffic leaves alone -/

/-- What a member holds of the chunks of an instance, by 2^20 stage + chunk. -/
abbrev Held := SMap (Option (List Byte))

/-- An instance without what its traffic changes. -/
def Inst.core (i : Inst) : Inst :=
  { i with firstK := 0, held := [], added := [], sent := [], got := [], result := [], parts := [] }

/-- The operations with their phases, the instances with some reading of what they hold, what waits for an instance, the
halt and the queue. -/
structure Sight (α : Type) where
  ops : List (Nat × Phase)
  insts : List (Inst × α)
  early : List Early
  halted : Bool
  pending : List Instr

def State.sight {α : Type} (q : Held → α) (s : State) : Sight α :=
  ⟨s.ops.map fun o => (o.seq, o.phase), s.insts.map fun i => (i.core, q i.held), s.early, s.halted, s.pending⟩

section
variable {α : Type} {q : Held → α} {s t : State}

theorem Aside.sight (h : Aside s t) : t.sight q = s.sight q := by
  unfold State.sight
  rw [h.queue.frame.ops, h.insts, h.early, h.queue.frame.halted, h.queue.frame.pending]

theorem RegsOnly.sight (h : RegsOnly s t) : t.sight q = s.sight q := by
  rw [h]
  rfl

theorem LinkOnly.sight (h : LinkOnly s t) : t.sight q = s.sight q := by
  rw [h]
  rfl

theorem StoresOnly.sight (h : StoresOnly s t) : t.sight q = s.sight q := by
  rw [h]
  rfl

theorem State.sight_insts (s : State) {g : Inst → Inst}
    (hg : ∀ i, (g i).core = i.core ∧ q (g i).held = q i.held) :
    State.sight q { s with insts := s.insts.map g } = s.sight q := by
  have h : (s.insts.map g).map (fun i => (i.core, q i.held)) = s.insts.map fun i => (i.core, q i.held) := by
    rw [List.map_map]
    exact List.map_congr_left fun i _ => Prod.ext (hg i).1 (hg i).2
  unfold State.sight
  dsimp only
  rw [h]

/-- An instance changed in what its traffic may change. -/
theorem State.setInst_sight (s : State) (c no : Nat) {g : Inst → Inst}
    (hg : ∀ i, (g i).core = i.core ∧ q (g i).held = q i.held) : (s.setInst c no g).sight q = s.sight q := by
  refine s.sight_insts fun i => ?_
  split
  · exact hg i
  · exact ⟨rfl, rfl⟩

/-- An operation changed in its counts and notes. -/
theorem State.setOp_sight (s : State) (seq : Nat) {g : Op → Op}
    (hg : ∀ o, (g o).seq = o.seq ∧ (g o).phase = o.phase) : (s.setOp seq g).sight q = s.sight q := by
  have h : (s.ops.map fun o => if o.seq = seq then g o else o).map (fun o => (o.seq, o.phase)) =
      s.ops.map fun o => (o.seq, o.phase) := by
    rw [List.map_map]
    refine List.map_congr_left fun o _ => ?_
    dsimp only [Function.comp]
    split
    · exact Prod.ext (hg o).1 (hg o).2
    · rfl
  unfold State.sight State.setOp
  dsimp only
  rw [h]

/-! ### What is read from it -/

theorem State.inst?_map_sight (s : State) (c no : Nat) :
    (s.inst? c no).map (fun i => (i.core, q i.held)) =
      (s.sight q).insts.find? fun x => x.1.ctx == c && x.1.no == no := by
  unfold State.inst? State.sight
  dsimp only
  rw [List.find?_map]
  rfl

/-- Operations of the same phases: one is found again in its phase. -/
theorem op?_of_phases {s t : State} (h : t.ops.map (fun o => (o.seq, o.phase)) = s.ops.map fun o => (o.seq, o.phase))
    {n : Nat} {o : Op} (ho : s.op? n = some o) : ∃ o', t.op? n = some o' ∧ o'.phase = o.phase := by
  have hmap (u : State) : (u.op? n).map (fun o => (o.seq, o.phase)) =
      (u.ops.map fun o => (o.seq, o.phase)).find? fun x => x.1 = n := by
    unfold State.op?
    rw [List.find?_map]
    rfl
  have hm := hmap t
  rw [h, ← hmap s, ho] at hm
  obtain ⟨o', ho', he⟩ := Option.map_eq_some_iff.mp hm
  exact ⟨o', ho', (Prod.ext_iff.mp he).2⟩

/-- An instance is found again, alike but for its traffic. -/
theorem inst?_of_sight (h : t.sight q = s.sight q) {c no : Nat} {i : Inst} (hi : s.inst? c no = some i) :
    ∃ i', t.inst? c no = some i' ∧ i'.core = i.core ∧ q i'.held = q i.held := by
  have hm := t.inst?_map_sight (q := q) c no
  rw [h, ← s.inst?_map_sight, hi] at hm
  obtain ⟨i', hi', he⟩ := Option.map_eq_some_iff.mp hm
  exact ⟨i', hi', (Prod.ext_iff.mp he).1, (Prod.ext_iff.mp he).2⟩

theorem inst?_none_of_sight (h : t.sight q = s.sight q) {c no : Nat} (hi : s.inst? c no = none) :
    t.inst? c no = none := by
  have hm := t.inst?_map_sight (q := q) c no
  rw [h, ← s.inst?_map_sight, hi] at hm
  exact Option.map_eq_none_iff.mp hm

theorem op?_of_sight (h : t.sight q = s.sight q) {n : Nat} {o : Op} (ho : s.op? n = some o) :
    ∃ o', t.op? n = some o' ∧ o'.phase = o.phase := op?_of_phases (congrArg Sight.ops h) ho

/-- What the core of an instance keeps is alike in instances with the same core. -/
theorem Inst.of_core {β : Type} (p : Inst → β) (hp : ∀ i : Inst, p i.core = p i) {i j : Inst} (h : j.core = i.core) :
    p j = p i := by rw [← hp j, h, hp]

end

/-! ### Transactions and retained chunks -/

section
variable {α : Type} (q : Held → α) (s : State)

theorem State.chunkBack_sight (t : Txn) : (s.chunkBack t).sight q = s.sight q :=
  s.sight_insts fun _ => ⟨rfl, rfl⟩

theorem State.mirrorBack_sight (t : Txn) : (s.mirrorBack t).sight q = s.sight q := by
  unfold State.mirrorBack State.redirty
  dsimp only
  split
  · split <;> rfl
  · split
    · rfl
    · split <;> rfl

theorem State.unrouted_sight (t : Txn) (who : Option Waiter) : (s.unrouted t who).sight q = s.sight q := by
  unfold State.unrouted
  split
  · exact ((Aside.of_fset s (f := Fl.twnAdoptGo) (i := 0) 0 (by decide) (by decide)).trans
      (.of_event (by exact nofun))).sight
  · exact s.mirrorBack_sight q t
  · split
    · exact s.chunkBack_sight q t
    · rfl
  · rfl

theorem State.issueOn_sight (t : Txn) (stream : Nat) (who : Option Waiter) (planesOnly : Bool) :
    (s.issueOn t stream who planesOnly).sight q = s.sight q := by
  rcases s.issueOn_cases t stream who planesOnly with h | h
  · rw [h]
    exact s.unrouted_sight q t who
  · exact h.sight

theorem State.issueFrom_sight (src : Nat) (t : Txn) (stream : Nat) (who : Option Waiter) :
    (s.issueFrom src t stream who).sight q = s.sight q := by
  unfold State.issueFrom
  exact (State.issueOn_sight q _ _ _ _ _).trans rfl

theorem State.sendChunk_sight (src : Nat) (x : Sent) : (s.sendChunk src x).sight q = s.sight q := by
  unfold State.sendChunk
  exact foldl_keeps (State.sight q) _ _ _ fun t p _ => t.issueFrom_sight q _ _ _ _

theorem State.pumpOne_sight (i : Inst) (x : Sent) : (State.pumpOne i s x).sight q = s.sight q := by
  unfold State.pumpOne
  split
  · exact (State.sendChunk_sight q _ _ _).trans (s.setInst_sight _ _ fun _ => ⟨rfl, rfl⟩)
  · rfl

/-- Chunks sent in their turn change no instance but in what it has sent (R225). -/
theorem State.pump_sight : s.pump.sight q = s.sight q := by
  unfold State.pump
  exact foldl_keeps (State.sight q) _ _ _ fun t i _ => foldl_keeps (State.sight q) _ _ _ fun u x _ => u.pumpOne_sight q i x

theorem State.postMsg_sight (c : Nat) (x : Sent) : (s.postMsg c x).sight q = s.sight q := by
  unfold State.postMsg State.sendMsg
  exact (State.issueFrom_sight q _ _ _ _ _).trans rfl

/-! ### Chunks and messages on their way through the stages -/

theorem State.toRank_sight (i : Inst) (x : Stg) (rank chunk : Nat) (out resend : Bool) (bs : List Byte) :
    (s.toRank i x rank chunk out resend bs).sight q = s.sight q := by
  unfold State.toRank
  dsimp only
  split
  · exact s.postMsg_sight q _ _
  · exact s.setInst_sight _ _ fun _ => ⟨rfl, rfl⟩

theorem State.toRanks_sight (i : Inst) (x : Stg) (ranks : List Nat) (chunk : Nat) (out resend : Bool) (bs : List Byte) :
    (s.toRanks i x ranks chunk out resend bs).sight q = s.sight q := by
  unfold State.toRanks
  exact foldl_keeps (State.sight q) _ _ _ fun t r _ => t.toRank_sight q i x r chunk out resend bs

theorem State.outBelow_sight (i : Inst) (stg : List Stg) (chunk : Nat) (resend : Bool) (bs : List Byte) (j : Nat) :
    (s.outBelow i stg chunk resend bs j).sight q = s.sight q := by
  induction j generalizing s with
  | zero => rfl
  | succ j ih =>
    unfold State.outBelow
    dsimp only
    rw [ih]
    split
    · rfl
    · exact s.toRanks_sight q _ _ _ _ _ _ _

theorem State.placeDirect_sight (c no chunk : Nat) : (s.placeDirect c no chunk).sight q = s.sight q := by
  unfold State.placeDirect
  split
  · rfl
  · split
    · exact (s.ctxBitsAll_storesOnly _ _).sight
    · rfl

theorem State.logCollIn_sight (p : Bool) (tag0 tag1 : Word64) (data : List Byte) :
    (s.logCollIn p tag0 tag1 data).sight q = s.sight q := (s.logAppend_aside p _ _).sight

theorem State.takeResult_sight (i : Inst) (tag0 tag1 : Word64) (chunk : Nat) (bs : List Byte) :
    (s.takeResult i tag0 tag1 chunk bs).sight q = s.sight q := by
  unfold State.takeResult
  split
  · exact ((State.placeDirect_sight q _ _ _ _).trans (State.logCollIn_sight q _ _ _ _ _)).trans
      (s.setInst_sight _ _ fun _ => ⟨rfl, rfl⟩)
  · rfl

theorem State.total_sight (i : Inst) (chunk : Nat) (resend : Bool) (bs : List Byte) :
    (s.total i chunk resend bs).sight q = s.sight q := by
  unfold State.total
  exact (State.outBelow_sight q _ _ _ _ _ _ _).trans (s.takeResult_sight q _ _ _ _ _)

/-- A reading of what is held that no entry of stage `k` or a later one for a chunk changes. -/
def Held.Blind (q : Held → α) (chunk k : Nat) : Prop :=
  ∀ (m : Held) (j : Nat) (b : Option (List Byte)), k ≤ j → q (mput none m (2 ^ 20 * j + chunk) b) = q m

variable {q}

/-- A chunk held as it enters a stage. -/
def Inst.holds (k chunk : Nat) (bs : List Byte) (i : Inst) : Inst :=
  { i with held := mput none i.held (2 ^ 20 * k + chunk) (some bs) }

theorem State.holds_sight (c no chunk : Nat) {k : Nat} (hq : Held.Blind q chunk k) (bs : List Byte) :
    (s.setInst c no (Inst.holds k chunk bs)).sight q = s.sight q :=
  s.setInst_sight c no fun i => ⟨rfl, hq i.held k (some bs) (Nat.le_refl k)⟩

/-- A chunk that enters a stage is held there; what follows, in the stages after it too, changes only the traffic. -/
theorem State.enterStage_step (c no chunk : Nat) (resend : Bool) (f k : Nat) (bs : List Byte)
    (ih : ∀ t : State, (State.enterStage c no chunk resend f t (k + 1) bs).sight q = t.sight q) {i : Inst}
    (hi : s.inst? c no = some i) : (State.enterStage c no chunk resend (f + 1) s k bs).sight q =
      (s.setInst c no (Inst.holds k chunk bs)).sight q := by
  have hown (i : Inst) (x : Stg) (ranks : List Nat) :=
    State.toRanks_sight q (s.setInst c no (Inst.holds k chunk bs)) i x ranks chunk false resend bs
  unfold State.enterStage
  rw [hi]
  dsimp only
  split
  · split
    · rfl
    · exact State.total_sight q _ _ _ _ _
  · split
    · split
      · exact (ih _).trans ((State.toRanks_sight q _ _ _ _ _ _ _ _).trans (hown _ _ _))
      · exact (State.toRanks_sight q _ _ _ _ _ _ _ _).trans (hown _ _ _)
    · exact hown _ _ _

/-- A chunk that enters a stage is held there and sent on; nothing else of its instance changes. -/
theorem State.enterStage_sight (c no chunk : Nat) (resend : Bool) (f : Nat) {k : Nat} (hq : Held.Blind q chunk k)
    (bs : List Byte) : (State.enterStage c no chunk resend f s k bs).sight q = s.sight q := by
  induction f generalizing s k with
  | zero => rfl
  | succ f ih =>
    cases hi : s.inst? c no with
    | none =>
      unfold State.enterStage
      rw [hi]
    | some i =>
      exact (s.enterStage_step c no chunk resend f k bs
        (fun t => ih t fun m j b hj => hq m j b (Nat.le_of_succ_le hj)) hi).trans (s.holds_sight c no chunk hq bs)

end

/-! ### Instances without regard to what they hold -/

/-- No regard to what an instance holds. -/
def Held.unread (_ : Held) : Unit := ()

section
variable (s : State)

theorem Held.unread_blind (chunk k : Nat) : Held.Blind Held.unread chunk k := fun _ _ _ _ => rfl

theorem State.addDone_sight (i : Inst) (k : Nat) (x : Stg) (chunk : Nat) (bs : List Byte) :
    (s.addDone i k x chunk bs).sight Held.unread = s.sight Held.unread := by
  have hadded := (State.toRanks_sight Held.unread
    (s.setInst i.ctx i.no fun j => { j with added := j.added ++ [2 ^ 20 * k + chunk] }) i x
    (x.sumDests (x.set.idxOf chunk)) chunk false false bs).trans (s.setInst_sight i.ctx i.no fun _ => ⟨rfl, rfl⟩)
  unfold State.addDone
  dsimp only
  split
  · exact (State.enterStage_sight _ _ _ _ _ _ (Held.unread_blind _ _) _).trans hadded
  · exact hadded

theorem State.gatherFrom_sight (i : Inst) (f : Fmt) (stg : List Stg) (resend : Bool) (j chunk : Nat) :
    (s.gatherFrom i f stg resend j chunk).sight Held.unread = s.sight Held.unread := by
  unfold State.gatherFrom
  split
  · rfl
  · dsimp only
    split
    · rfl
    · exact s.toRanks_sight _ _ _ _ _ _ _ _

theorem State.gatherStart_sight (c no chunk : Nat) (resend : Bool) :
    (s.gatherStart c no chunk resend).sight Held.unread = s.sight Held.unread := by
  unfold State.gatherStart
  split
  · rfl
  · refine foldl_keeps (State.sight Held.unread) _ _ _ fun t k _ => ?_
    split
    · exact t.gatherFrom_sight _ _ _ _ _ _
    · rfl

theorem Inst.noteParts_core (i : Inst) : i.noteParts.core = i.core := by
  unfold Inst.noteParts
  split <;> rfl

theorem Inst.putPieces_core (i : Inst) (f : Fmt) (parts : List Nat) (chunk : Nat) (bs : List Byte) :
    (i.putPieces f parts chunk bs).core = i.core := by
  unfold Inst.putPieces
  dsimp only
  rw [Inst.noteParts_core]
  exact foldl_keeps (fun x : Inst × List Nat => x.1.core) _ _ _ fun _ _ _ => rfl

/-- A member's own part of a chunk enters an instance, of which it changes the traffic alone. -/
theorem State.enterOwn_sight (c no chunk : Nat) (resend : Bool) (bs : List Byte) :
    (s.enterOwn c no chunk resend bs).sight Held.unread = s.sight Held.unread := by
  unfold State.enterOwn
  split
  · rfl
  · split
    · dsimp only
      split
      · exact (State.gatherStart_sight _ _ _ _ _).trans
          (s.setInst_sight c no fun i => ⟨i.putPieces_core _ _ _ _, rfl⟩)
      · rfl
    · exact s.enterStage_sight _ _ _ _ _ (Held.unread_blind _ _) _

end

/-! ### The ledger and the results of a run -/

section
variable {α : Type} (q : Held → α) (s : State)

theorem State.ledger_sight (seq : Nat) (es : List LEvent) : (s.ledger seq es).sight q = s.sight q := by
  unfold State.ledger
  refine foldl_keeps (State.sight q) _ _ _ fun t e _ => ?_
  unfold State.ledgerOne
  split
  · rfl
  · split
    · refine (State.setOp_sight _ _ ?_).trans (t.ctxWrite_storesOnly _ _ _).sight
      exact fun _ => ⟨rfl, rfl⟩
    · rfl

theorem State.applyRun_sight (o : Op) (v : Env) (r : RunOut) : (s.applyRun o v r).sight q = s.sight q := by
  unfold State.applyRun
  exact (State.ledger_sight q _ _ _).trans
    ((s.noteMirror_storesOnly _ _).trans (State.ctxBitsAll_storesOnly _ _ _)).sight

theorem State.retemperAdd_sight (o : Op) (v : Env) (r : RunOut) : (s.retemperAdd o v r).sight q = s.sight q := by
  unfold State.retemperAdd
  refine (State.setOp_sight _ _ ?_).trans ((State.applyRun_sight q _ _ _ _).trans (s.ledger_sight q _ _))
  exact fun _ => ⟨rfl, rfl⟩

end

end Sys2Proof.Machine
end

section
/-! The start of an instance outside a replay (R221, R222, R236, R321). -/

namespace Sys2Proof.Machine

open Sys2Proof.Safety

/-! ### The logs of the contexts -/

/-- The input logs of both contexts are as they were. -/
abbrev SameLogs (s t : State) : Prop := t.ctxLog = s.ctxLog

theorem SameLogs.of_twin {s t : State} (hl : t.log = s.log) (ht : t.twin.other = s.twin.other) : SameLogs s t := by
  funext p
  unfold State.ctxLog
  rw [hl, ht]

theorem RegsOnly.sameLogs {s t : State} (h : RegsOnly s t) : SameLogs s t := by
  rw [h]
  rfl

section
variable (s : State)

theorem State.memWrite_sameLogs (a : Nat) (bs : List Byte) : SameLogs s (s.memWrite a bs) := by
  refine .of_twin ?_ ?_
  · rw [State.memWrite_fields]
  · unfold State.memWrite State.clearUe State.markDirty
    split <;> rw [State.poke_fields]

theorem State.mapGranule_sameLogs (g : Nat) : SameLogs s (s.mapGranule g) := by
  unfold State.mapGranule
  split <;> rfl

theorem State.xpoke_sameLogs (a : Nat) (b : Byte) : SameLogs s (s.xpoke a b) := by
  unfold State.xpoke
  split
  · rw [State.pokeByte_fields]
    rfl
  · rfl

theorem State.xpokes_sameLogs (a : Nat) (bs : List Byte) : SameLogs s (s.xpokes a bs) := by
  induction bs generalizing s a with
  | nil => rfl
  | cons b r ih => exact (ih _ _).trans (s.xpoke_sameLogs a b)

theorem State.ctxWrite_sameLogs (p : Bool) (a : Nat) (bs : List Byte) : SameLogs s (s.ctxWrite p a bs) := by
  unfold State.ctxWrite
  split
  · exact (State.xpokes_sameLogs _ a bs).trans
      (foldl_keeps State.ctxLog _ _ _ fun t g _ => t.mapGranule_sameLogs g)
  · exact s.memWrite_sameLogs a bs

theorem State.logEvent_sameLogs {e : Event} (he : e.cls ≠ .fatal) : SameLogs s (s.logEvent e) := by
  have halert : SameLogs s (s.alertFor e) := by
    unfold State.alertFor
    split
    · exact (regsOnly_fset s Fl.mgtCtlAlert 0 1).sameLogs
    · rfl
  have hentry (t : State) : SameLogs t (t.logEntry e) := by
    unfold State.logEntry
    dsimp only
    split
    · rfl
    · exact t.memWrite_sameLogs _ _
  unfold State.logEvent
  dsimp only
  rw [if_neg he]
  exact ((State.errEvt_regsBut _ e).regs.sameLogs.trans (hentry _)).trans halert

/-! ### Events of collectives -/

theorem State.collEvent_aside (c cause : Nat) {cls : Cls} (hc : cls ≠ .fatal) (tag0 tag1 : Nat) :
    Aside s (s.collEvent c cause cls tag0 tag1) := by
  unfold State.collEvent State.collEventAt State.bump State.finc
  exact ((((Aside.of_fset s (f := Fl.colFaultEvtCount) (i := 0) _ (by decide) (by decide)).trans
    (Aside.of_fset _ (f := Fl.colFaultEvtPend) (i := 0) _ (by decide) (by decide))).trans
    (Aside.of_fset _ (f := Fl.colFaultEvtGroup) (i := 0) _ (by decide) (by decide))).trans
    (Aside.of_fset _ (f := Fl.colFaultEvtCause) (i := 0) _ (by decide) (by decide))).trans (.of_event hc)

theorem State.collEvent_sameLogs (c cause : Nat) {cls : Cls} (hc : cls ≠ .fatal) (tag0 tag1 : Nat) :
    SameLogs s (s.collEvent c cause cls tag0 tag1) := by
  unfold State.collEvent State.collEventAt State.bump State.finc
  exact (State.logEvent_sameLogs _ hc).trans ((((regsOnly_fset s _ _ _).trans (regsOnly_fset _ _ _ _)).trans
    (regsOnly_fset _ _ _ _)).trans (regsOnly_fset _ _ _ _)).sameLogs

theorem State.noteSpec_sight {α : Type} (q : Held → α) (o : Op) : (s.noteSpec o).sight q = s.sight q := by
  unfold State.noteSpec
  split
  · refine s.setOp_sight _ ?_
    exact fun _ => ⟨rfl, rfl⟩
  · rfl

end

/-! ### Without a replay -/

section
variable {s t : State} (h : NoReplay s)
include h

theorem noReplay_of_same (he : t.early = s.early) (hl : SameLogs s t) : NoReplay t := by
  obtain ⟨hearly, hlog⟩ := h
  exact ⟨he.trans hearly, fun p => by rw [hl]; exact hlog p⟩

theorem loggedDetour_noReplay (o : Op) (cause : Nat) : s.loggedDetour o cause = none := by
  unfold State.loggedDetour
  dsimp only
  rw [(h.2 o.partner).2]
  rfl

theorem sealedBefore_noReplay (i : Inst) : s.sealedBefore i = false := by
  unfold State.sealedBefore
  dsimp only
  rw [(h.2 (s.instPartner i)).1]
  rfl

theorem reformStart_noReplay (i : Inst) : s.reformStart i = s := by
  unfold State.reformStart
  dsimp only
  rw [loggedDetour_noReplay h]

theorem msgLogged_noReplay (c no : Nat) : s.msgLogged c no = s := by
  unfold State.msgLogged
  split
  · rfl
  · exact if_pos (.inr (.inr (by rw [sealedBefore_noReplay h]; rfl)))

/-- Outside a replay FIRST_K under DET_STRICT is refused, and otherwise nothing happens before a start (R223). -/
theorem firstKStart_noReplay (i : Inst) : s.firstKStart i = s ∨
    s.firstKStart i = ((s.setInst i.ctx i.no fun j => { j with firstK := 0 }).setOp (s.instOp i).seq
      fun o => { o with status := 0x22 }).collEvent i.ctx 0x0A .lost 0 0 := by
  unfold State.firstKStart
  dsimp only
  rw [loggedDetour_noReplay h]
  dsimp only
  split
  · exact .inl rfl
  · split
    · exact .inr rfl
    · exact .inl rfl

theorem firstKStart_sight {α : Type} (q : Held → α) (i : Inst) :
    (s.firstKStart i).sight q = s.sight q := by
  rcases firstKStart_noReplay h i with he | he
  · rw [he]
  · rw [he, (State.collEvent_aside _ _ _ (by exact nofun) _ _).sight]
    refine (State.setOp_sight _ _ ?_).trans (State.setInst_sight _ _ _ ?_)
    · exact fun _ => ⟨rfl, rfl⟩
    · exact fun _ => ⟨rfl, rfl⟩

theorem firstKStart_sameLogs (i : Inst) : SameLogs s (s.firstKStart i) := by
  rcases firstKStart_noReplay h i with he | he
  · rw [he]
  · rw [he]
    refine (State.collEvent_sameLogs _ _ _ ?_ _ _).trans ?_
    · exact nofun
    · rfl

theorem noReplay_firstKStart (i : Inst) : NoReplay (s.firstKStart i) :=
  noReplay_of_same h (congrArg Sight.early (firstKStart_sight h Held.unread i)) (firstKStart_sameLogs h i)

end

/-- Where nothing has come early there is nothing to deliver (R236). -/
theorem drainEarly_sight {α : Type} {s : State} (q : Held → α) (c no : Nat) (h : s.early = []) :
    (s.drainEarly c no).sight q = s.sight q := by
  unfold State.drainEarly State.sight
  dsimp only
  rw [h]
  rfl

/-! ### An instance starts -/

/-- An instance as it starts. -/
def Inst.begun (bell : Nat) (i : Inst) : Inst := { i with started := true, since := bell }

theorem State.inst?_setInst (s : State) {c no : Nat} {i : Inst} (g : Inst → Inst) (h : s.inst? c no = some i)
    (hg : ∀ j, (g j).ctx = j.ctx ∧ (g j).no = j.no) : (s.setInst c no g).inst? c no = some (g i) := by
  have hi : i.ctx = c ∧ i.no = no := by simpa using List.find?_some h
  have hp : ((fun j : Inst => j.ctx == c && j.no == no) ∘ fun j => if j.ctx = c ∧ j.no = no then g j else j) =
      fun j => j.ctx == c && j.no == no := by
    funext j
    dsimp only [Function.comp]
    split
    · rw [(hg j).1, (hg j).2]
    · rfl
  unfold State.inst? at h
  unfold State.inst? State.setInst
  dsimp only
  rw [List.find?_map, hp, h]
  exact congrArg some (if_pos hi)

section
variable {s : State} (h : NoReplay s)
include h

/-- Outside a replay an instance is marked as started, and this member's own bytes enter it, chunk by chunk (R221). -/
theorem startInst_noReplay {c no : Nat} {i j : Inst} (own : Nat → List Byte) (hi : s.inst? c no = some i)
    (hst : i.started = false) (hj : (s.firstKStart i).inst? c no = some j) :
    s.startInst c no own = (j.live.foldl (fun t n => t.enterOwn c no n false (own n))
      ((s.firstKStart i).setInst c no (Inst.begun (s.firstKStart i).now))).pump := by
  have hq := noReplay_firstKStart h i
  have hnot : ¬ (i.started ∨ (i.isMsg ∧ s.sealedBefore i)) := by
    rw [hst, sealedBefore_noReplay h]
    simp
  have hbegun := (s.firstKStart i).inst?_setInst (Inst.begun (s.firstKStart i).now) hj fun _ => ⟨rfl, rfl⟩
  unfold State.startInst
  rw [hi]
  dsimp only
  rw [if_neg hnot, reformStart_noReplay hq, sealedBefore_noReplay hq]
  rw [if_neg Bool.false_ne_true, hj]
  dsimp only
  rw [Bool.false_and, if_neg Bool.false_ne_true]
  unfold Inst.begun at hbegun ⊢
  rw [hbegun]
  rfl

end

end Sys2Proof.Machine
end

section
/-! Collectives and fused operations start their instance (R157, R221, R222). -/

namespace Sys2Proof.Machine

open Sys2Proof.Safety

/-! ### What an instance that has started is -/

/-- `t` is `s` with instance `i` started, but for the traffic of collectives. -/
structure Begun (i : Inst) (s t : State) : Prop where
  inst : ∃ n j, t.inst? i.ctx i.no = some j ∧ j.core = (i.begun n).core
  ops : t.ops.map (fun o => (o.seq, o.phase)) = s.ops.map fun o => (o.seq, o.phase)
  halted : t.halted = s.halted
  pending : t.pending = s.pending

section
variable {i : Inst} {s t : State}

theorem Begun.of_sight {α : Type} {q : Held → α} {u : State} (h : Begun i s t) (hu : u.sight q = t.sight q) :
    Begun i s u := by
  obtain ⟨n, j, hj, hc⟩ := h.inst
  obtain ⟨j', hj', hc', -⟩ := inst?_of_sight hu hj
  exact ⟨⟨n, j', hj', hc'.trans hc⟩, (congrArg Sight.ops hu).trans h.ops, (congrArg Sight.halted hu).trans h.halted,
    (congrArg Sight.pending hu).trans h.pending⟩

theorem Begun.started (h : Begun i s t) :
    ∃ j, t.inst? i.ctx i.no = some j ∧ j.started = true ∧ j.op = i.op ∧ j.isMsg = i.isMsg := by
  obtain ⟨n, j, hj, hc⟩ := h.inst
  exact ⟨j, hj, Inst.of_core (i := i.begun n) Inst.started (fun _ => rfl) hc,
    Inst.of_core (i := i.begun n) Inst.op (fun _ => rfl) hc,
    Inst.of_core (i := i.begun n) Inst.isMsg (fun _ => rfl) hc⟩

/-- A command that comes to the start of an instance answers with it. -/
theorem Begun.act_eq {f : State → State} {u : State} (h : Begun i u t) (hl : s.live = true) (hf : f s = t)
    (hh : u.halted = s.halted) (hp : u.pending = s.pending) : act s f = .next t :=
  act_eq_next hl hf ((h.halted.trans hh).trans (State.halted_of_live hl)) (h.pending.trans hp)

end

/-! ### This member's own bytes -/

theorem foldl_enterOwn_sight (c no : Nat) (own : Nat → List Byte) (l : List Nat) (s : State) :
    (l.foldl (fun t n => t.enterOwn c no n false (own n)) s).sight Held.unread = s.sight Held.unread :=
  foldl_keeps (State.sight Held.unread) _ _ _ fun t n _ => t.enterOwn_sight c no n false (own n)

/-- What is held of a chunk as it comes from this member. -/
def Held.first (chunk : Nat) (m : Held) : Option (List Byte) := mget none m chunk

/-- The entries of the other chunks, and those of later stages, say nothing of it (R216: chunk numbers have 20 bits). -/
theorem Held.first_blind {chunk n k : Nat} (hc : chunk < 2 ^ 20) (hn : n ≠ chunk ∨ 0 < k) :
    Held.Blind (Held.first chunk) n k := by
  intro m j b hj
  exact mget_mput_ne none m b (by omega)

section
variable {c no : Nat} {i : Inst}

theorem State.enterOwn_reduce (s : State) (n : Nat) (bs : List Byte) (hi : s.inst? c no = some i)
    (hg : i.isGather = false) :
    s.enterOwn c no n false bs = State.enterStage c no n false ((s.stages i).length + 1) s 0 bs := by
  unfold State.enterOwn
  rw [hi]
  dsimp only
  rw [hg]
  exact if_neg Bool.false_ne_true

/-- This member's part of a chunk of a reduction is held as it comes. -/
theorem State.enterOwn_held (s : State) {n : Nat} (bs : List Byte) (hi : s.inst? c no = some i) (hn : n < 2 ^ 20)
    (hg : i.isGather = false) :
    ∃ j, (s.enterOwn c no n false bs).inst? c no = some j ∧ j.core = i.core ∧ mget none j.held n = some bs := by
  have hstep := s.enterStage_step (q := Held.first n) c no n false (s.stages i).length 0 bs
    (fun t => t.enterStage_sight c no n false _ (Held.first_blind hn (.inr Nat.one_pos)) bs) hi
  have hheld := s.inst?_setInst (Inst.holds 0 n bs) hi fun _ => ⟨rfl, rfl⟩
  obtain ⟨j, hj, hc, hq⟩ := inst?_of_sight hstep hheld
  rw [s.enterOwn_reduce n bs hi hg]
  refine ⟨j, hj, hc, hq.trans ?_⟩
  unfold Held.first Inst.holds
  rw [Nat.mul_zero, Nat.zero_add]
  exact mget_mput_same none i.held n (some bs)

/-- Of a chunk other than the one that enters, nothing changes. -/
theorem State.enterOwn_other (s : State) {n m : Nat} (bs : List Byte) (hi : s.inst? c no = some i) (hm : m < 2 ^ 20)
    (hn : n ≠ m) (hg : i.isGather = false) :
    (s.enterOwn c no n false bs).sight (Held.first m) = s.sight (Held.first m) := by
  rw [s.enterOwn_reduce n bs hi hg]
  exact s.enterStage_sight c no n false _ (Held.first_blind hm (.inl hn)) bs

/-- Once all chunks have entered, each of them is held. -/
theorem foldl_enterOwn_held (own : Nat → List Byte) (l : List Nat) (hl : ∀ n ∈ l, n < 2 ^ 20) (hg : i.isGather = false)
    (s : State) {j : Inst} (hj : s.inst? c no = some j) (hc : j.core = i.core) (m : Nat)
    (hm : m ∈ l ∨ m < 2 ^ 20 ∧ mget none j.held m = some (own m)) :
    ∃ k, (l.foldl (fun t n => t.enterOwn c no n false (own n)) s).inst? c no = some k ∧
      mget none k.held m = some (own m) := by
  induction l generalizing s j with
  | nil =>
    rcases hm with hm | hm
    · exact absurd hm List.not_mem_nil
    · exact ⟨j, hj, hm.2⟩
  | cons n r ih =>
    have hgj : j.isGather = false := (Inst.of_core Inst.isGather (fun _ => rfl) hc).trans hg
    have hn : n < 2 ^ 20 := hl n List.mem_cons_self
    have hr : ∀ x ∈ r, x < 2 ^ 20 := fun x hx => hl x (List.mem_cons_of_mem n hx)
    obtain ⟨k, hk, hck, hown⟩ := s.enterOwn_held (own n) hj hn hgj
    refine ih hr _ hk (hck.trans hc) ?_
    rcases hm with hm | ⟨hlt, hheld⟩
    · rcases List.mem_cons.mp hm with rfl | hm
      · exact .inr ⟨hn, hown⟩
      · exact .inl hm
    · refine .inr ⟨hlt, ?_⟩
      by_cases he : n = m
      · exact he ▸ hown
      · obtain ⟨k', hk', -, hq⟩ := inst?_of_sight (s.enterOwn_other (own n) hj hlt he hgj) hj
        rw [hk] at hk'
        cases hk'
        exact hq.trans hheld

end

/-! ### The start -/

section
variable {s : State} (h : NoReplay s) {i : Inst} (own : Nat → List Byte) (hi : s.inst? i.ctx i.no = some i)
  (hst : i.started = false)
include h hi hst

/-- This member's own bytes enter an instance that has started. -/
theorem startInst_from : ∃ u : State, Begun i s u ∧ u.early = s.early ∧
    s.startInst i.ctx i.no own = (i.live.foldl (fun t n => t.enterOwn i.ctx i.no n false (own n)) u).pump := by
  have hk := firstKStart_sight h Held.unread i
  obtain ⟨j, hj, hc, -⟩ := inst?_of_sight hk hi
  have hlive : j.live = i.live := Inst.of_core Inst.live (fun _ => rfl) hc
  have hbegun := State.inst?_setInst _ (Inst.begun (s.firstKStart i).now) hj fun _ => ⟨rfl, rfl⟩
  exact ⟨_, ⟨⟨_, _, hbegun, congrArg (Inst.begun _) hc⟩, congrArg Sight.ops hk, congrArg Sight.halted hk,
    congrArg Sight.pending hk⟩, congrArg Sight.early hk, hlive ▸ startInst_noReplay h own hi hst hj⟩

theorem startInst_begun : Begun i s (s.startInst i.ctx i.no own) ∧ (s.startInst i.ctx i.no own).early = s.early := by
  obtain ⟨u, hu, he, heq⟩ := startInst_from h own hi hst
  have hsight := (State.pump_sight Held.unread _).trans (foldl_enterOwn_sight i.ctx i.no own i.live u)
  rw [heq]
  exact ⟨hu.of_sight hsight, (congrArg Sight.early hsight).trans he⟩

/-- Once a reduction has started, this member holds its contribution to every chunk that it runs (R221). -/
theorem startInst_held (hn : i.chunks ≤ 2 ^ 20) (hg : i.isGather = false) {c : Nat} (hc : c ∈ i.live) :
    ∃ j, (s.startInst i.ctx i.no own).inst? i.ctx i.no = some j ∧ mget none j.held c = some (own c) := by
  obtain ⟨u, hu, -, heq⟩ := startInst_from h own hi hst
  obtain ⟨n, j, hj, hcore⟩ := hu.inst
  have hlive : ∀ m ∈ i.live, m < 2 ^ 20 := fun m hm =>
    Nat.lt_of_lt_of_le (List.mem_range.mp (List.mem_filter.mp hm).1) hn
  have hgb : (i.begun n).isGather = false := hg
  obtain ⟨k, hk, hheld⟩ := foldl_enterOwn_held own i.live hlive hgb u hj hcore c (.inl hc)
  obtain ⟨k', hk', -, hq⟩ := inst?_of_sight (State.pump_sight (Held.first c) _) hk
  rw [heq]
  exact ⟨k', hk', hq.trans hheld⟩

end

/-! ### Collectives and fused operations -/

/-- An instance that is no barrier or scalar reduction is not driven by messages (R231). -/
theorem State.msgStep_other (s : State) {c no : Nat} {i : Inst} (f : Nat) (hi : s.inst? c no = some i)
    (hm : i.isMsg = false) : State.msgStep c no f s = s := by
  cases f with
  | zero => rfl
  | succ f =>
    have hnone : (s.inst? c no).filter Inst.isMsg = none := by
      rw [hi, Option.filter_some, hm]
      rfl
    unfold State.msgStep
    rw [hnone]

section
variable {s : State} (h : NoReplay s) {i : Inst} (own : Nat → List Byte) (hi : s.inst? i.ctx i.no = some i)
  (hst : i.started = false)
include h hi hst

/-- Outside a replay an instance has what its start gives it, and what has come early: nothing. -/
theorem beginInst_noReplay : ∃ u : State, Begun i s u ∧
    (∀ {α : Type} (q : Held → α), u.sight q = (s.startInst i.ctx i.no own).sight q) ∧
    s.beginInst i.ctx i.no own = (State.msgStep i.ctx i.no 8 u).pump := by
  obtain ⟨hb, he⟩ := startInst_begun h own hi hst
  have hdrain {α : Type} (q : Held → α) := drainEarly_sight q i.ctx i.no (he.trans h.1)
  refine ⟨_, hb.of_sight (hdrain Held.unread), hdrain, ?_⟩
  unfold State.beginInst
  rw [msgLogged_noReplay h]

section
variable (hm : i.isMsg = false)
include hm

/-- A collective starts its instance (R221). -/
theorem beginInst_sight {α : Type} (q : Held → α) :
    (s.beginInst i.ctx i.no own).sight q = (s.startInst i.ctx i.no own).sight q := by
  obtain ⟨u, hb, hu, heq⟩ := beginInst_noReplay h own hi hst
  obtain ⟨j, hj, -, -, hjm⟩ := hb.started
  rw [heq, State.msgStep_other _ 8 hj (hjm.trans hm)]
  exact (State.pump_sight q _).trans (hu q)

theorem beginInst_begun : Begun i s (s.beginInst i.ctx i.no own) :=
  (startInst_begun h own hi hst).1.of_sight (beginInst_sight h own hi hst hm Held.unread)

/-- A reduction starts with this member's contribution held, chunk by chunk. -/
theorem beginInst_held (hn : i.chunks ≤ 2 ^ 20) (hg : i.isGather = false) {j : Inst}
    (hj : (s.beginInst i.ctx i.no own).inst? i.ctx i.no = some j) {c : Nat} (hc : c ∈ i.live) :
    mget none j.held c = some (own c) := by
  obtain ⟨k, hk, hheld⟩ := startInst_held h own hi hst hn hg hc
  obtain ⟨k', hk', -, hq⟩ := inst?_of_sight (beginInst_sight h own hi hst hm (Held.first c)) hk
  cases hj.symm.trans hk'
  exact hq.trans hheld

end

end

/-! ### What goes before a start -/

/-- Only the operations, the memories and the lines in error differ, and the logs are as they were. -/
structure Readied (s u : State) : Prop where
  insts : u.insts = s.insts
  early : u.early = s.early
  logs : SameLogs s u
  halted : u.halted = s.halted
  pending : u.pending = s.pending

namespace Readied

theorem refl (s : State) : Readied s s := ⟨rfl, rfl, rfl, rfl, rfl⟩

theorem trans {s t u : State} (h : Readied s t) (k : Readied t u) : Readied s u :=
  ⟨k.insts.trans h.insts, k.early.trans h.early, k.logs.trans h.logs, k.halted.trans h.halted,
    k.pending.trans h.pending⟩

theorem setOp (s : State) (seq : Nat) (g : Op → Op) : Readied s (s.setOp seq g) := ⟨rfl, rfl, rfl, rfl, rfl⟩

theorem ctxWrite (s : State) (p : Bool) (a : Nat) (bs : List Byte) : Readied s (s.ctxWrite p a bs) := by
  have hs := s.ctxWrite_storesOnly p a bs
  exact ⟨by rw [hs], by rw [hs], s.ctxWrite_sameLogs p a bs, by rw [hs], by rw [hs]⟩

theorem foldl {α : Type} (f : State → α → State) (hf : ∀ s x, Readied s (f s x)) (l : List α) (s : State) :
    Readied s (l.foldl f s) := by
  induction l generalizing s with
  | nil => exact refl s
  | cons x r ih => exact (hf s x).trans (ih _)

theorem ledger (s : State) (seq : Nat) (es : List LEvent) : Readied s (s.ledger seq es) := by
  refine foldl _ (fun t e => ?_) _ _
  unfold State.ledgerOne
  split
  · exact refl t
  · split
    · exact (ctxWrite t _ _ _).trans (setOp _ _ _)
    · exact refl t

theorem noteSpec (s : State) (o : Op) : Readied s (s.noteSpec o) := by
  unfold State.noteSpec
  split
  · exact setOp s _ _
  · exact refl s

section
variable {s u : State} (h : Readied s u)
include h

theorem noReplay (hs : NoReplay s) : NoReplay u := noReplay_of_same hs h.early h.logs

theorem inst? (c no : Nat) : u.inst? c no = s.inst? c no := by
  unfold State.inst?
  rw [h.insts]

end

end Readied

/-! ### The operation -/

/-- An operation whose outputs are left to its collective. -/
def Op.awaits (o : Op) : Op := { o with phase := .computed }

/-- An operation that reads no unsealed instance but its own gather is ready (R229). -/
theorem State.openReady_own {s : State} {o : Op} (h : ∀ j ∈ s.readsOpen o, j.op = o.seq) : s.openReady o = true :=
  List.all_eq_true.mpr fun j hj => by rw [h j hj, beq_self_eq_true, Bool.true_or]

section
variable {s : State} {seq : Nat} {o : Op} {i : Inst} (hl : s.live = true) (h : NoReplay s) (ho : s.op? seq = some o)
  (hi : s.inst? i.ctx i.no = some i) (hst : i.started = false) (hm : i.isMsg = false)
include hl h ho hi hst hm

/-- The phase that a fused gather leaves its operation in: at a member other than ROOT a GATHER only sends its part
(R222). -/
theorem fusedGather_starts (kind : Nat) (hk : (s.instsOf seq).find? (fun i => i.kind == kind) = some i)
    (hcode : o.d.opcode ≠ opColl) (hp : o.partner = s.twin.running) (hturn : s.turnOf o = true)
    (hreads : ∀ j ∈ s.readsOpen o, j.op = seq) (hue : s.readUe o = []) :
    ∃ t i' o', act s (fun s => s.fusedGather seq kind) = .next t ∧ t.inst? i.ctx i.no = some i' ∧
      i'.started = true ∧ i'.op = i.op ∧ t.op? seq = some o' ∧
      (kind = kdGather → s.selfName i ≠ i.d.root → o'.phase = .computed) := by
  have hseq : o.seq = seq := by simpa using List.find?_some ho
  have hopen := State.openReady_own fun j hj => (hreads j hj).trans hseq.symm
  have hgo : ¬ (o.d.opcode = opColl ∨ i.started ∨ o.partner ≠ s.twin.running ∨ !s.turnOf o ∨ !s.openReady o) := by
    rw [hst, hturn, hopen]
    simp [hcode, hp]
  obtain ⟨t, ht, hready, o₁, ho₁, hphase⟩ : ∃ t,
      t = (if kind = kdGather ∧ s.selfName i ≠ i.d.root then s.setOp seq Op.awaits else s) ∧ Readied s t ∧
      ∃ o₁, t.op? seq = some o₁ ∧ (kind = kdGather → s.selfName i ≠ i.d.root → o₁.phase = .computed) := by
    refine ⟨_, rfl, ?_⟩
    split
    · exact ⟨.setOp s seq _, _, State.op?_setOp Op.awaits ho fun _ => rfl, fun _ _ => rfl⟩
    · rename_i hnot
      exact ⟨.refl s, o, ho, fun hk hroot => absurd ⟨hk, hroot⟩ hnot⟩
  have hu : Readied s (t.noteSpec o) := hready.trans (.noteSpec t o)
  obtain ⟨o₂, ho₂, hp₂⟩ := op?_of_sight (t.noteSpec_sight Held.unread o) ho₁
  have heq : s.fusedGather seq kind = (t.noteSpec o).beginInst i.ctx i.no
      (i.ownPart (s.selfName i) (i.srcFmt o) (wholeCodes i (s.selfName i) (s.runEnv o).rd)) := by
    unfold State.fusedGather
    rw [ho]
    dsimp only
    rw [hk]
    dsimp only
    rw [if_neg hgo, hue, ht]
    rfl
  have hb := beginInst_begun (hu.noReplay h)
    (i.ownPart (s.selfName i) (i.srcFmt o) (wholeCodes i (s.selfName i) (s.runEnv o).rd)) ((hu.inst? i.ctx i.no).trans hi) hst hm
  obtain ⟨j, hj, hjs, hjo, -⟩ := hb.started
  obtain ⟨o₃, ho₃, hp₃⟩ := op?_of_phases hb.ops ho₂
  exact ⟨_, j, o₃, hb.act_eq hl heq hu.halted hu.pending, hj, hjs, hjo, ho₃,
    fun hk hroot => hp₃.trans (hp₂.trans (hphase hk hroot))⟩

/-- A fused reduction starts with the operation's groups (R221). -/
theorem fusedReduce_starts (kind : Nat) (hk : (s.instsOf seq).find? (fun i => i.kind == kind) = some i)
    (hcode : o.d.opcode ≠ opColl) (hphase : o.phase = .computed) :
    ∃ t i', act s (fun s => s.fusedReduce seq kind) = .next t ∧ t.inst? i.ctx i.no = some i' ∧ i'.started = true ∧
      i'.op = i.op ∧
      (i.chunks ≤ 2 ^ 20 → i.isGather = false → ∀ c ∈ i.live, mget none i'.held c = some (i.ownSum o c)) := by
  have hgo : ¬ (o.d.opcode = opColl ∨ i.started ∨ o.phase ≠ .computed) := by
    rw [hst, hphase]
    simp [hcode]
  have heq : s.fusedReduce seq kind = s.beginInst i.ctx i.no (i.ownSum o) := by
    unfold State.fusedReduce
    rw [ho]
    dsimp only
    rw [hk]
    exact if_neg hgo
  have hb := beginInst_begun h (i.ownSum o) hi hst hm
  obtain ⟨j, hj, hjs, hjo, -⟩ := hb.started
  exact ⟨_, j, hb.act_eq hl heq rfl rfl, hj, hjs, hjo,
    fun hn hg c hc => beginInst_held h (i.ownSum o) hi hst hm hn hg hj hc⟩

/-- A COLLECTIVE starts its instance, and its operation waits for the seal (R222). -/
theorem collRow_starts (hk : (s.instsOf seq).head? = some i) (hcode : o.d.opcode = opColl)
    (hp : o.partner = s.twin.running) (hturn : s.turnOf o = true) (hstream : s.stream o.dom = true)
    (hphase : o.phase ≠ .written) (hreads : ∀ j ∈ s.readsOpen o, j.op = seq) (hue : s.opUe o = [])
    (hroom : s.runRoom o = true) :
    ∃ t i' o', act s (fun s => s.collRow seq) = .next t ∧ t.inst? i.ctx i.no = some i' ∧ i'.started = true ∧
      i'.op = i.op ∧ t.op? seq = some o' ∧ o'.phase = .computed := by
  have hseq : o.seq = seq := by simpa using List.find?_some ho
  have hopen := State.openReady_own fun j hj => (hreads j hj).trans hseq.symm
  obtain ⟨own, u, hu, ⟨o₁, ho₁, hp₁⟩, heq⟩ : ∃ own u, Readied s u ∧
      (∃ o₁, u.op? seq = some o₁ ∧ o₁.phase = .computed) ∧ s.collRow seq = u.beginInst i.ctx i.no own := by
    have hready (es : List LEvent) (g : Op → Op) (hg : ∀ o, (g o).seq = o.seq ∧ (g o).phase = .computed) :
        Readied s (((s.noteSpec o).ledger seq es).setOp seq g) ∧
          ∃ o₁, (((s.noteSpec o).ledger seq es).setOp seq g).op? seq = some o₁ ∧ o₁.phase = .computed := by
      obtain ⟨o₁, ho₁, -⟩ := op?_of_sight
        ((State.ledger_sight Held.unread _ seq es).trans (s.noteSpec_sight Held.unread o)) ho
      exact ⟨((Readied.noteSpec s o).trans (.ledger _ _ _)).trans (.setOp _ _ _), _,
        State.op?_setOp g ho₁ fun o => (hg o).1, (hg o₁).2⟩
    have hnot : ¬ (o.d.opcode ≠ opColl ∨ (i.started ∧ o.phase = .computed) ∨
        !(s.turnOf o && o.partner == s.twin.running && s.stream o.dom && o.phase != .written && s.openReady o)) := by
      rw [hst, hturn, hopen, hstream]
      simp [hcode, hp, hphase]
    have hnoUe : ¬ (!(s.opUe o).isEmpty) = true := by
      rw [hue]
      simp
    have hroomy : ¬ (!s.runRoom o) = true := by
      rw [hroom]
      simp
    unfold State.collRow
    rw [ho]
    dsimp only
    rw [hk]
    dsimp only
    rw [if_neg hnot, if_neg hnoUe, if_neg hroomy]
    split <;> exact ⟨_, _, (hready _ _ (by exact fun _ => ⟨rfl, rfl⟩)).1,
      (hready _ _ (by exact fun _ => ⟨rfl, rfl⟩)).2, rfl⟩
  have hb := beginInst_begun (hu.noReplay h) own ((hu.inst? i.ctx i.no).trans hi) hst hm
  obtain ⟨j, hj, hjs, hjo, -⟩ := hb.started
  obtain ⟨o₂, ho₂, hp₂⟩ := op?_of_phases hb.ops ho₁
  exact ⟨_, j, o₂, hb.act_eq hl heq hu.halted hu.pending, hj, hjs, hjo, ho₂, hp₂.trans hp₁⟩

end

end Sys2Proof.Machine
end

section
/-! Barriers and scalar reductions start their instance, or have it done (R231, R232). -/

namespace Sys2Proof.Machine

open Sys2Proof.Safety

/-! ### A message instance ends -/

/-- Instance `i` has left, and its operation waits for its record. -/
structure MsgDone (i : Inst) (s t : State) : Prop where
  inst : t.inst? i.ctx i.no = none
  op : ∃ o, t.op? i.op = some o ∧ o.phase = .written
  halted : t.halted = s.halted
  pending : t.pending = s.pending

theorem MsgDone.of_sight {α : Type} {q : Held → α} {i : Inst} {s t u : State} (h : MsgDone i s t)
    (hu : u.sight q = t.sight q) : MsgDone i s u := by
  obtain ⟨o, ho, hp⟩ := h.op
  obtain ⟨o', ho', hp'⟩ := op?_of_sight hu ho
  exact ⟨inst?_none_of_sight hu h.inst, ⟨o', ho', hp'.trans hp⟩, (congrArg Sight.halted hu).trans h.halted,
    (congrArg Sight.pending hu).trans h.pending⟩

/-- What leaves the operations and instances alone may go before an end. -/
theorem MsgDone.since {α : Type} {q : Held → α} {i : Inst} {s u t : State} (h : MsgDone i u t)
    (hu : u.sight q = s.sight q) : MsgDone i s t :=
  ⟨h.inst, h.op, h.halted.trans (congrArg Sight.halted hu), h.pending.trans (congrArg Sight.pending hu)⟩

theorem MsgDone.of_core {i j : Inst} {s t : State} (h : MsgDone j s t) (hc : j.core = i.core) : MsgDone i s t := by
  obtain ⟨hi, ho, hh, hp⟩ := h
  rw [Inst.of_core Inst.ctx (fun _ => rfl) hc, Inst.of_core Inst.no (fun _ => rfl) hc] at hi
  rw [Inst.of_core Inst.op (fun _ => rfl) hc] at ho
  exact ⟨hi, ho, hh, hp⟩

/-- The state without an instance. -/
def State.withoutInst (s : State) (i : Inst) : State :=
  { s with insts := s.insts.filter fun j => !(j.ctx == i.ctx && j.no == i.no) }

theorem State.dropInst_regsOnly (s : State) (i : Inst) : RegsOnly (s.withoutInst i) (s.dropInst i) := by
  unfold State.dropInst
  dsimp only
  split
  · rfl
  · exact regsOnly_fset (s.withoutInst i) _ _ _

theorem State.withoutInst_inst? (s : State) (i : Inst) : (s.withoutInst i).inst? i.ctx i.no = none := by
  refine List.find?_eq_none.mpr fun j hj => ?_
  have hne := (List.mem_filter.mp hj).2
  rw [Bool.not_eq_true'] at hne
  exact ne_true_of_eq_false hne

/-- An operation with its outputs written. -/
def Op.wrote (o : Op) : Op := { o with phase := .written, inArray := false }

/-- The operation of a message instance waits for its record once the instance is done. -/
def Op.msgDone (o : Op) : Op := if o.phase = .rerun then o else o.wrote

theorem State.instDone_msg (s : State) {i : Inst} (hm : i.isMsg = true) :
    s.instDone i = (s.setOp i.op Op.msgDone).dropInst i := by
  have hkind : i.kind = kdBarrier ∨ i.kind = kdScalar := by simpa [Inst.isMsg] using hm
  have hg : i.isGather = false := by
    unfold Inst.isGather
    rcases hkind with hk | hk <;> rw [hk] <;> rfl
  unfold State.instDone State.opProgress
  dsimp only
  rw [hm, hg]
  rfl

section
variable {i : Inst} {s : State} {o : Op} (hm : i.isMsg = true) (ho : s.op? i.op = some o) (hp : o.phase = .computed)
include hm ho hp

theorem State.instDone_done : MsgDone i s (s.instDone i) := by
  have hregs := (s.setOp i.op Op.msgDone).dropInst_regsOnly i
  have hop : (s.setOp i.op Op.msgDone).op? i.op = some o.wrote := by
    rw [State.op?_setOp Op.msgDone ho fun o => by unfold Op.msgDone; split <;> rfl]
    unfold Op.msgDone
    rw [if_neg (by rw [hp]; decide)]
  rw [s.instDone_msg hm]
  have hgone : MsgDone i s ((s.setOp i.op Op.msgDone).withoutInst i) :=
    ⟨State.withoutInst_inst? _ i, ⟨o.wrote, hop, rfl⟩, rfl, rfl⟩
  exact hgone.of_sight (q := Held.unread) hregs.sight

/-- After what leaves the operations and instances alone, an instance ends as it would have before. -/
theorem MsgDone.after {u : State} (hu : u.sight Held.unread = s.sight Held.unread) : MsgDone i s (u.instDone i) := by
  obtain ⟨o', ho', hp'⟩ := op?_of_sight hu ho
  exact (u.instDone_done hm ho' (hp'.trans hp)).since hu

end

/-! ### Releases and results -/

section
variable {α : Type} (q : Held → α) (s : State)

theorem State.depart_sight (c stamp d : Nat) : (s.depart c stamp d).sight q = s.sight q := by
  unfold State.depart
  dsimp only
  split
  · rfl
  · split
    · exact (s.collEvent_aside c 0x0B (by exact nofun) 0 0).sight
    · rfl

theorem State.rootBell_sight (c : Nat) : (s.rootBell c).sight q = s.sight q := by
  unfold State.rootBell
  dsimp only
  split
  · rfl
  · exact (regsOnly_fset s Fl.grpBellOffset c 0).sight

end

section
variable {i : Inst} {s : State} {o : Op} (hm : i.isMsg = true) (ho : s.op? i.op = some o) (hp : o.phase = .computed)
include hm ho hp

theorem State.rootRelease_done : MsgDone i s (s.rootRelease i) := by
  unfold State.rootRelease
  exact MsgDone.after hm ho hp ((State.depart_sight _ _ _ _ _).trans ((State.outBelow_sight _ _ _ _ _ _ _ _).trans
    ((State.logCollIn_sight _ _ _ _ _ _).trans (s.rootBell_sight _ i.ctx))))

theorem State.scalarWrite_done (bs : List Byte) : MsgDone i s (s.scalarWrite i bs) := by
  unfold State.scalarWrite
  rw [ho]
  dsimp only
  refine MsgDone.after hm ho hp ?_
  split
  · exact (State.retemperAdd_sight _ _ _ _ _).trans
      ((State.setOp_sight _ _ (by exact fun _ => ⟨rfl, rfl⟩)).trans (s.applyRun_sight _ _ _ _))
  · exact (State.setOp_sight _ _ (by exact fun _ => ⟨rfl, rfl⟩)).trans (s.applyRun_sight _ _ _ _)

theorem State.scalarDone_done (tag0 tag1 : Word64) (bs : List Byte) : MsgDone i s (s.scalarDone i tag0 tag1 bs) := by
  have hlog := s.logCollIn_sight Held.unread (s.instPartner i) tag0 tag1 bs
  obtain ⟨o', ho', hp'⟩ := op?_of_sight hlog ho
  exact (State.scalarWrite_done hm ho' (hp'.trans hp) bs).since hlog

end

/-! ### The messages of an instance, as far as they go -/

/-- As before but for the traffic, or done. -/
def MsgGoes (i : Inst) (s t : State) : Prop := t.sight Held.unread = s.sight Held.unread ∨ MsgDone i s t

theorem MsgGoes.after {i : Inst} {s u t : State} (hu : u.sight Held.unread = s.sight Held.unread) (h : MsgGoes i u t) :
    MsgGoes i s t := by
  rcases h with h | h
  · exact .inl (h.trans hu)
  · exact .inr (h.since hu)

/-- A message instance goes as far as it can (R219, R231): it is left as it was but for its traffic, or is done. -/
theorem State.msgStep_goes {i : Inst} (hm : i.isMsg = true) (f : Nat) {s : State} {j : Inst} {o : Op}
    (hj : s.inst? i.ctx i.no = some j) (hc : j.core = i.core) (ho : s.op? i.op = some o) (hp : o.phase = .computed) :
    MsgGoes i s (State.msgStep i.ctx i.no f s) := by
  induction f generalizing s j o with
  | zero => exact .inl rfl
  | succ f ih =>
    have hjm : j.isMsg = true := (Inst.of_core Inst.isMsg (fun _ => rfl) hc).trans hm
    have hsome : (s.inst? i.ctx i.no).filter Inst.isMsg = some j := by
      rw [hj, Option.filter_some, hjm]
      rfl
    have hjo : s.op? j.op = some o := by rw [Inst.of_core Inst.op (fun _ => rfl) hc, ho]
    unfold State.msgStep
    rw [hsome]
    dsimp only
    split
    · rename_i k x ins _
      have hadd := s.addDone_sight j k x 0 (j.combine (fun k c => (s.scalarVal j k c).val) ins)
      obtain ⟨j', hj', hc', -⟩ := inst?_of_sight hadd hj
      obtain ⟨o', ho', hp'⟩ := op?_of_sight hadd ho
      exact .after hadd (ih hj' (hc'.trans hc) ho' (hp'.trans hp))
    · split
      · exact .inl rfl
      · split
        · split
          · exact .inr ((s.rootRelease_done hjm hjo hp).of_core hc)
          · exact .inl rfl
        · rename_i bs _ _
          have hout := s.outBelow_sight Held.unread j (s.stages j) 0 false bs (s.stages j).length
          obtain ⟨o', ho', hp'⟩ := op?_of_sight hout hjo
          exact .inr (((State.scalarDone_done hjm ho' (hp'.trans hp) _ _ bs).since hout).of_core hc)

/-! ### The start of a message instance -/

/-- A message instance has started with its operation waiting for it, or is done. -/
def MsgStarts (i : Inst) (seq : Nat) (t : State) : Prop :=
  ∃ o, t.op? seq = some o ∧
    ((∃ j, t.inst? i.ctx i.no = some j ∧ j.started = true ∧ o.phase = .computed) ∨
      (t.inst? i.ctx i.no = none ∧ o.phase = .written))

section
variable {s : State} (h : NoReplay s) {i : Inst} (own : Nat → List Byte) (hi : s.inst? i.ctx i.no = some i)
  (hst : i.started = false) (hm : i.isMsg = true) {o : Op} (ho : s.op? i.op = some o) (hp : o.phase = .computed)
include h hi hst hm ho hp

theorem beginInst_msg : MsgStarts i i.op (s.beginInst i.ctx i.no own) ∧
    (s.beginInst i.ctx i.no own).halted = s.halted ∧ (s.beginInst i.ctx i.no own).pending = s.pending := by
  obtain ⟨u, hu, -, heq⟩ := beginInst_noReplay h own hi hst
  obtain ⟨n, j, hj, hc⟩ := hu.inst
  obtain ⟨o₁, ho₁, hp₁⟩ := op?_of_phases hu.ops ho
  have hpump := State.pump_sight Held.unread (State.msgStep i.ctx i.no 8 u)
  rw [heq]
  rcases State.msgStep_goes (i := i.begun n) hm 8 hj hc ho₁ (hp₁.trans hp) with hgo | hdone
  · have hb := (hu.of_sight hgo).of_sight hpump
    obtain ⟨k, hk, hks, -, -⟩ := hb.started
    obtain ⟨o₂, ho₂, hp₂⟩ := op?_of_phases hb.ops ho
    exact ⟨⟨o₂, ho₂, .inl ⟨k, hk, hks, hp₂.trans hp⟩⟩, hb.halted, hb.pending⟩
  · have hd := hdone.of_sight hpump
    obtain ⟨o₂, ho₂, hp₂⟩ := hd.op
    exact ⟨⟨o₂, ho₂, .inr ⟨hd.inst, hp₂⟩⟩, hd.halted.trans hu.halted, hd.pending.trans hu.pending⟩

end

section
variable {s : State} {seq : Nat} {o : Op} {i : Inst} (hl : s.live = true) (h : NoReplay s) (ho : s.op? seq = some o)
  (hi : s.inst? i.ctx i.no = some i) (hst : i.started = false) (hm : i.isMsg = true)
  (hhead : (s.instsOf seq).head? = some i)
include hl h ho hi hst hm hhead

/-- A row that sets its operation waiting and begins its message instance. -/
theorem act_beginInst_msg {f : State → State} {u : State} {own : Nat → List Byte} (hu : Readied s u)
    (hop : ∃ o, u.op? seq = some o ∧ o.phase = .computed) (hf : f s = u.beginInst i.ctx i.no own) :
    ∃ t, act s f = .next t ∧ MsgStarts i seq t := by
  have hseq : i.op = seq := by
    have hmem := List.mem_of_mem_head? hhead
    simpa using (List.mem_filter.mp hmem).2
  subst hseq
  obtain ⟨o₁, ho₁, hp₁⟩ := hop
  obtain ⟨hs, hh, hp⟩ := beginInst_msg (hu.noReplay h) own ((hu.inst? i.ctx i.no).trans hi) hst hm ho₁ hp₁
  exact ⟨_, act_eq_next hl hf (hh.trans (hu.halted.trans (State.halted_of_live hl))) (hp.trans hu.pending), hs⟩

/-- BARRIER: this member arrives (R231). -/
theorem barrierRow_starts (hcode : o.d.opcode = opBarrier) (hpart : o.partner = s.twin.running) :
    ∃ t, act s (fun s => s.barrierRow seq) = .next t ∧ MsgStarts i seq t := by
  have hgo : ¬ (o.d.opcode ≠ opBarrier ∨ i.started ∨ o.partner ≠ s.twin.running) := by
    rw [hst]
    simp [hcode, hpart]
  refine act_beginInst_msg hl h ho hi hst hm hhead (.setOp s seq Op.awaits)
    ⟨_, State.op?_setOp Op.awaits ho fun _ => rfl, rfl⟩ (own := fun _ => []) ?_
  unfold State.barrierRow
  rw [ho]
  dsimp only
  rw [hhead]
  exact if_neg hgo

/-- SCALAR_REDUCE: the values of this member go out (R231). -/
theorem scalarRow_starts (subop : Nat) (hcode : o.d.opcode = opScalar) (hsub : o.d.subop = subop)
    (hpart : o.partner = s.twin.running) (hturn : s.turnOf o = true) (hreads : s.readsOpen o = [])
    (hue : s.opUe o = []) (hroom : s.runRoom o = true) :
    ∃ t, act s (fun s => s.scalarRow seq subop) = .next t ∧ MsgStarts i seq t := by
  obtain ⟨own, u, hu, hop, heq⟩ : ∃ own u, Readied s u ∧ (∃ o, u.op? seq = some o ∧ o.phase = .computed) ∧
      s.scalarRow seq subop = u.beginInst i.ctx i.no own := by
    have hready (es : List LEvent) (g : Op → Op) (hg : ∀ o, (g o).seq = o.seq ∧ (g o).phase = .computed) :
        Readied s ((s.ledger seq es).setOp seq g) ∧
          ∃ o₁, ((s.ledger seq es).setOp seq g).op? seq = some o₁ ∧ o₁.phase = .computed := by
      obtain ⟨o₁, ho₁, -⟩ := op?_of_sight (State.ledger_sight Held.unread _ seq es) ho
      exact ⟨(Readied.ledger s _ _).trans (.setOp _ _ _), _, State.op?_setOp g ho₁ fun o => (hg o).1, (hg o₁).2⟩
    have hnot : ¬ (o.d.opcode ≠ opScalar ∨ o.d.subop ≠ subop ∨ i.started ∨
        !(o.partner == s.twin.running && s.turnOf o && (s.readsOpen o).isEmpty)) := by
      rw [hst, hturn, hreads]
      simp [hcode, hsub, hpart]
    have hnoUe : ¬ (!(s.opUe o).isEmpty) = true := by
      rw [hue]
      simp
    have hroomy : ¬ (!s.runRoom o) = true := by
      rw [hroom]
      simp
    unfold State.scalarRow
    rw [ho]
    dsimp only
    rw [hhead]
    dsimp only
    rw [if_neg hnot, if_neg hnoUe, if_neg hroomy]
    refine ⟨_, _, (hready _ _ ?_).1, (hready _ _ ?_).2, rfl⟩ <;> exact fun _ => ⟨rfl, rfl⟩
  exact act_beginInst_msg hl h ho hi hst hm hhead hu hop heq

end

/-- Settles O39: a start marks the instance, this member's own bytes enter it, and a message instance that lacks nothing is
done at once. -/
theorem collectiveStarts : Obligations.CollectiveStarts := by
  unfold Obligations.CollectiveStarts
  refine ⟨fun s seq o i hl h ho hi hst hm => ⟨?gathers, ?reductions, ?collective⟩,
    fun s seq o i hl h ho hi hst hm hhead hpart => ?messages⟩
  case gathers =>
    exact List.forall_mem_cons.mpr ⟨fusedGather_starts hl h ho hi hst hm kdGather,
      List.forall_mem_singleton.mpr (fusedGather_starts hl h ho hi hst hm kdAllGather)⟩
  case reductions =>
    exact List.forall_mem_cons.mpr ⟨fusedReduce_starts hl h ho hi hst hm kdReduce,
      List.forall_mem_cons.mpr ⟨fusedReduce_starts hl h ho hi hst hm kdAllReduce,
        List.forall_mem_singleton.mpr (fusedReduce_starts hl h ho hi hst hm kdReduceScatter)⟩⟩
  case collective => exact collRow_starts hl h ho hi hst hm
  case messages =>
    have hbarrier : o.d.opcode = opBarrier → ∃ t, exec (.barrier seq) s = .next t ∧ MsgStarts i seq t :=
      fun hcode => barrierRow_starts hl h ho hi hst hm hhead hcode hpart
    have hscalar (subop : Nat) (hcode : o.d.opcode = opScalar)
        (hready : o.d.opcode = opScalar → o.d.subop = subop ∧ s.turnOf o = true ∧ s.readsOpen o = [] ∧ s.opUe o = [] ∧
          s.runRoom o = true) : ∃ t, act s (fun s => s.scalarRow seq subop) = .next t ∧ MsgStarts i seq t := by
      obtain ⟨hsub, hturn, hreads, hue, hroom⟩ := hready hcode
      exact scalarRow_starts hl h ho hi hst hm hhead subop hcode hsub hpart hturn hreads hue hroom
    have hstart {x : Instr} (hx : ∃ t, exec x s = .next t ∧ MsgStarts i seq t) : ∃ t o', exec x s = .next t ∧
        t.op? seq = some o' ∧ ((∃ i', t.inst? i.ctx i.no = some i' ∧ i'.started = true ∧ o'.phase = .computed) ∨
          (t.inst? i.ctx i.no = none ∧ o'.phase = .written)) := by
      obtain ⟨t, ht, o', ho', hs⟩ := hx
      exact ⟨t, o', ht, ho', hs⟩
    simp only [List.forall_mem_cons, List.not_mem_nil, false_implies, implies_true, and_true]
    exact ⟨fun hcode _ => hstart (hbarrier hcode), fun hcode hr => hstart (hscalar 0 hcode hr),
      fun hcode hr => hstart (hscalar 2 hcode hr), fun hcode hr => hstart (hscalar 3 hcode hr)⟩

end Sys2Proof.Machine
end

section
/-! TABLE_LOAD and TABLE_SWAP: the words of TBL_GEN and TBL_STATE and the two banks of a context (R197, R199). -/

namespace Sys2Proof.Machine

/-! ### A word kept field by field -/

/-- The fields of a list do not meet. -/
abbrev FieldsApart (fs : List Fld) : Prop := fs.Pairwise fun f g => f.hi < g.lo ∨ g.hi < f.lo

theorem bitsOf_foldl_setBits_apart (g : Fld → Nat) {fs : List Fld} (w : Nat) {f : Fld}
    (h : ∀ e ∈ fs, f.hi < e.lo ∨ e.hi < f.lo) :
    bitsOf (fs.foldl (fun w e => setBits w e.hi e.lo (g e)) w) f.hi f.lo = bitsOf w f.hi f.lo :=
  foldl_keeps (fun w => bitsOf w f.hi f.lo) _ fs w fun v e he => bitsOf_setBits_disjoint v (g e) (h e he).symm

/-- Of fields put one after another that do not meet, each holds what was put into it. -/
theorem bitsOf_foldl_setBits (g : Fld → Nat) {fs : List Fld} (w : Nat) {f : Fld} (hf : f ∈ fs) (ha : FieldsApart fs) :
    bitsOf (fs.foldl (fun w e => setBits w e.hi e.lo (g e)) w) f.hi f.lo = g f % 2 ^ (f.hi + 1 - f.lo) := by
  induction fs generalizing w with
  | nil => exact nomatch hf
  | cons e r ih =>
    obtain ⟨he, hr⟩ := List.pairwise_cons.mp ha
    rw [List.foldl_cons]
    rcases List.mem_cons.mp hf with rfl | hf
    · rw [bitsOf_foldl_setBits_apart g _ he, bitsOf_setBits_same]
    · exact ih _ hf hr

/-- A word with its RSVD bits at zero has every field as it was (R6). -/
theorem Reg.bitsOf_keep {r : Reg} {f : Fld} (hf : f ∈ r.fields) (ha : FieldsApart r.fields)
    (hw : ∀ e ∈ r.fields, e.inWord) (v : Word64) :
    bitsOf (r.keep v).toNat f.hi f.lo = bitsOf v.toNat f.hi f.lo := by
  have hlt : r.fields.foldl (fun w e => setBits w e.hi e.lo (bitsOf v.toNat e.hi e.lo)) 0 < 2 ^ 64 :=
    foldl_invariant (· < 2 ^ 64) _ _ 0 (by decide) fun w e he h => setBits_lt _ h (hw e he).2 (hw e he).1
  unfold Reg.keep
  rw [BitVec.toNat_ofNat, Nat.mod_eq_of_lt hlt, bitsOf_foldl_setBits _ 0 hf ha]
  exact Nat.mod_eq_of_lt (bitsOf_lt _ _ _)

/-! ### The table state of a context -/

section
variable {s t : State} (h : TablesOnly s t)
include h

theorem TablesOnly.mem : t.mem = s.mem := by rw [h]
theorem TablesOnly.ops : t.ops = s.ops := by rw [h]
theorem TablesOnly.halted : t.halted = s.halted := by rw [h]
theorem TablesOnly.pending : t.pending = s.pending := by rw [h]

end

theorem RegsOnly.ctxTables {s t : State} (h : RegsOnly s t) (p : Bool) : t.ctxTables p = s.ctxTables p := by
  unfold State.ctxTables
  rw [h]

/-- TBL_GEN of a context with a whole word stored in it. -/
def State.putTblGen (s : State) (p : Bool) (v : Word64) : State :=
  if p then s.setOther fun c => { c with tblGen := v } else s.wr .tblGen 0 v

/-- TBL_STATE of a context with a whole word stored in it. -/
def State.putTblState (s : State) (p : Bool) (v : Word64) : State :=
  if p then s.setOther fun c => { c with tblState := v } else s.wr .tblState 0 v

section
variable (s : State) (p : Bool)

theorem State.setTblGen_eq (w : Word64) : s.setTblGen p w = s.putTblGen p (Reg.keep .tblGen w) := rfl

theorem State.setTblState_eq (w : Word64) : s.setTblState p w = s.putTblState p (Reg.keep .tblState w) := rfl

theorem State.putTblGen_tablesOnly (v : Word64) : TablesOnly s (s.putTblGen p v) := by cases p <;> rfl

@[simp] theorem State.ctxTblGen_putTblGen (v : Word64) : (s.putTblGen p v).ctxTblGen p = v := by
  cases p
  · exact s.rd_wr_same .tblGen 0 v
  · rfl

@[simp] theorem State.ctxTblState_putTblState (v : Word64) : (s.putTblState p v).ctxTblState p = v := by
  cases p
  · exact s.rd_wr_same .tblState 0 v
  · rfl

@[simp] theorem State.ctxTblGen_putTblState (v : Word64) : (s.putTblState p v).ctxTblGen p = s.ctxTblGen p := by
  cases p
  · exact s.rd_wr_ne (r := .tblState) (r' := .tblGen) v (by decide) (by decide) (.inl (by decide))
  · rfl

@[simp] theorem State.ctxTblState_putTblGen (v : Word64) : (s.putTblGen p v).ctxTblState p = s.ctxTblState p := by
  cases p
  · exact s.rd_wr_ne (r := .tblGen) (r' := .tblState) v (by decide) (by decide) (.inl (by decide))
  · rfl

@[simp] theorem State.ctxTables_putTblGen (v : Word64) : (s.putTblGen p v).ctxTables p = s.ctxTables p := by
  cases p
  · exact (regsOnly_wr s .tblGen 0 v).ctxTables false
  · rfl

@[simp] theorem State.ctxTables_putTblState (v : Word64) : (s.putTblState p v).ctxTables p = s.ctxTables p := by
  cases p
  · exact (regsOnly_wr s .tblState 0 v).ctxTables false
  · rfl

@[simp] theorem State.ctxTables_setTables (x : Tables) : (s.setTables p x).ctxTables p = x := by cases p <;> rfl

@[simp] theorem State.ctxTblGen_setTables (x : Tables) : (s.setTables p x).ctxTblGen p = s.ctxTblGen p := by
  cases p <;> rfl

/-! ### Bits of TBL_STATE -/

theorem State.setTblBits_tablesOnly (hi lo v : Nat) : TablesOnly s (s.setTblBits p hi lo v) :=
  s.setTblState_tablesOnly p _

@[simp] theorem State.tblCur_setTblBits (hi lo v : Nat) : (s.setTblBits p hi lo v).tblCur p = s.tblCur p := by
  unfold State.tblCur State.setTblBits
  rw [State.setTblState_eq, State.ctxTblGen_putTblState]

@[simp] theorem State.ctxTables_setTblBits (hi lo v : Nat) : (s.setTblBits p hi lo v).ctxTables p = s.ctxTables p := by
  unfold State.setTblBits
  rw [State.setTblState_eq, State.ctxTables_putTblState]

theorem State.tblCur_lt : s.tblCur p < 2 := bitsOf_lt _ _ _

/-- The state of a bank in a word of TBL_STATE, whose RSVD bits do not matter. -/
theorem bitsOf_keep_bank (w : Word64) {b : Nat} (hb : b < 2) :
    bitsOf (Reg.keep .tblState w).toNat (4 + 2 * b + 1) (4 + 2 * b) = bitsOf w.toNat (4 + 2 * b + 1) (4 + 2 * b) := by
  have ha : FieldsApart Reg.tblState.fields := by decide
  have hw : ∀ e ∈ Reg.tblState.fields, e.inWord := by decide
  obtain rfl | rfl : b = 0 ∨ b = 1 := by omega
  · exact Reg.bitsOf_keep (f := Fl.tblStateB0State) (by decide) ha hw w
  · exact Reg.bitsOf_keep (f := Fl.tblStateB1State) (by decide) ha hw w

section
variable {hi lo : Nat} (hw : lo ≤ hi ∧ hi < 64) {b : Nat} (hb : b < 2)
include hw hb

theorem State.bankState_setTblBits (v : Nat) : (s.setTblBits p hi lo v).bankState p b =
    bitsOf (setBits (s.ctxTblState p).toNat hi lo v) (4 + 2 * b + 1) (4 + 2 * b) := by
  unfold State.bankState State.setTblBits
  rw [State.setTblState_eq, State.ctxTblState_putTblState, bitsOf_keep_bank _ hb, BitVec.toNat_ofNat,
    Nat.mod_eq_of_lt (setBits_lt v (BitVec.isLt _) hw.2 hw.1)]

/-- Bits that are not those of a bank's state leave it alone. -/
theorem State.bankState_setTblBits_apart (v : Nat) (h : hi < 4 + 2 * b ∨ 4 + 2 * b + 1 < lo) :
    (s.setTblBits p hi lo v).bankState p b = s.bankState p b :=
  (s.bankState_setTblBits p hw hb v).trans (bitsOf_setBits_disjoint _ _ h)

end

section
variable {b c : Nat} (hb : b < 2)
include hb

theorem State.bankState_setBank_same {v : Nat} (hv : v < 4) : (s.setBank p b v).bankState p b = v := by
  unfold State.setBank
  rw [s.bankState_setTblBits p (by omega) hb, bitsOf_setBits_same, show 4 + 2 * b + 1 + 1 - (4 + 2 * b) = 2 by omega]
  exact Nat.mod_eq_of_lt hv

theorem State.bankState_setBank_ne (hc : c < 2) (h : b ≠ c) (v : Nat) :
    (s.setBank p c v).bankState p b = s.bankState p b :=
  s.bankState_setTblBits_apart p (by omega) hb v (by omega)

theorem State.bankState_showValid : (s.showValid p).bankState p b = s.bankState p b :=
  s.bankState_setTblBits_apart p (by omega) hb _ (by omega)

end

/-! ### The swap (R199) -/

/-- CUR in a word of TBL_GEN, whose RSVD bits do not matter. -/
theorem State.tblCur_setTblGen {w : Nat} (hw : w < 2 ^ 64) :
    (s.setTblGen p (BitVec.ofNat 64 w)).tblCur p = bitsOf w 0 0 := by
  have hkeep : ∀ v, bitsOf (Reg.keep .tblGen v).toNat 0 0 = bitsOf v.toNat 0 0 :=
    Reg.bitsOf_keep (f := Fl.tblGenCur) (by decide) (by decide) (by decide)
  unfold State.tblCur
  rw [State.setTblGen_eq, State.ctxTblGen_putTblGen, hkeep, BitVec.toNat_ofNat, Nat.mod_eq_of_lt hw]

theorem State.bankState_setTblGen (w : Word64) (b : Nat) :
    (s.setTblGen p w).bankState p b = s.bankState p b := by
  unfold State.bankState
  rw [State.setTblGen_eq, State.ctxTblState_putTblGen]

theorem State.ctxTables_setTblGen (w : Word64) : (s.setTblGen p w).ctxTables p = s.ctxTables p := by
  rw [State.setTblGen_eq, State.ctxTables_putTblGen]

/-- A swap makes the other bank current and the former current one STALE; the banks' contents stand. -/
structure Swapped (p : Bool) (s t : State) : Prop where
  only : TablesOnly s t
  cur : t.tblCur p = 1 - s.tblCur p
  stale : t.bankState p (s.tblCur p) = bkStale
  current : t.bankState p (1 - s.tblCur p) = bkCurrent
  tables : t.ctxTables p = s.ctxTables p

theorem State.swapTables_swapped : Swapped p s (s.swapTables p) := by
  have hc : s.tblCur p < 2 := s.tblCur_lt p
  have ho : 1 - s.tblCur p < 2 := by omega
  have hne : s.tblCur p ≠ 1 - s.tblCur p := by omega
  unfold State.swapTables
  dsimp only
  refine ⟨?only, ?cur, ?stale, ?current, ?tables⟩
  case only =>
    exact (((s.putTblGen_tablesOnly p _).trans (State.setTblBits_tablesOnly _ p _ _ _)).trans
      (State.setTblBits_tablesOnly _ p _ _ _)).trans (State.setTblBits_tablesOnly _ p _ _ _)
  case cur =>
    unfold State.showValid State.setBank
    rw [State.tblCur_setTblBits, State.tblCur_setTblBits, State.tblCur_setTblBits, State.tblCur_setTblGen, bitsOf_setBits_same]
    · exact Nat.mod_eq_of_lt ho
    · exact setBits_lt _ (setBits_lt _ (BitVec.isLt _) (by decide) (by decide)) (by decide) (by decide)
  case stale =>
    rw [State.bankState_showValid _ p hc, State.bankState_setBank_ne _ p hc ho hne,
      State.bankState_setBank_same _ p hc (by decide)]
  case current =>
    rw [State.bankState_showValid _ p ho, State.bankState_setBank_same _ p ho (by decide)]
  case tables =>
    unfold State.showValid State.setBank
    rw [State.ctxTables_setTblBits, State.ctxTables_setTblBits, State.ctxTables_setTblBits, State.ctxTables_setTblGen]

/-- Clearing LOOSE_SWAP leaves CUR, the banks and their states alone (R200). -/
theorem Swapped.looseClear {t : State} (h : Swapped p s t) : Swapped p s (t.looseClear p) := by
  unfold State.looseClear
  split
  · exact h
  · have hcur : (t.setTblGen p (BitVec.ofNat 64 (setBits (t.ctxTblGen p).toNat 1 1 0))).tblCur p = t.tblCur p := by
      rw [State.tblCur_setTblGen _ _ (setBits_lt _ (BitVec.isLt _) (by decide) (by decide))]
      exact bitsOf_setBits_disjoint _ _ (by decide)
    exact ⟨h.only.trans (t.putTblGen_tablesOnly p _), hcur.trans h.cur, (t.bankState_setTblGen p _ _).trans h.stale,
      (t.bankState_setTblGen p _ _).trans h.current, (t.ctxTables_setTblGen p _).trans h.tables⟩

end

/-! ### The load (R197) -/

/-- Replacing one bank leaves the other one's contents alone. -/
theorem Tables.bankOf_withBank_other (t : Tables) {b c : Nat} (hb : b < 2) (hc : c < 2) (h : c ≠ b)
    (bytes : List Host.Cell) (attr : SMap Nat) (valid : Nat) : (t.withBank b bytes attr valid).bankOf c = t.bankOf c := by
  obtain ⟨rfl, rfl⟩ | ⟨rfl, rfl⟩ : b = 0 ∧ c = 1 ∨ b = 1 ∧ c = 0 := by omega
  · rfl
  · rfl

/-- A load stages the bank that is not current and leaves the current one alone. -/
structure Loaded (p : Bool) (s t : State) : Prop where
  only : TablesOnly s t
  staged : t.bankState p (1 - s.tblCur p) = bkStaged
  cur : t.tblCur p = s.tblCur p
  current : (t.ctxTables p).bankOf (s.tblCur p) = (s.ctxTables p).bankOf (s.tblCur p)

theorem State.loadTables_loaded (s : State) (o : Op) : Loaded o.partner s (s.loadTables o) := by
  have hc : s.tblCur o.partner < 2 := s.tblCur_lt o.partner
  have ho : 1 - s.tblCur o.partner < 2 := by omega
  unfold State.loadTables
  dsimp only
  refine ⟨?only, State.bankState_setBank_same _ _ ho (by decide), ?cur, ?current⟩
  case only => exact (s.setTables_tablesOnly _ _).trans (State.setTblBits_tablesOnly _ _ _ _ _)
  case cur =>
    unfold State.setBank
    rw [State.tblCur_setTblBits]
    unfold State.tblCur
    rw [State.ctxTblGen_setTables]
  case current =>
    unfold State.setBank
    rw [State.ctxTables_setTblBits, State.ctxTables_setTables]
    exact Tables.bankOf_withBank_other _ ho hc (by omega) _ _ _

/-! ### The commands -/

/-- An operation that has written its outputs. -/
def Op.written (o : Op) : Op := { o with phase := .written }

section
variable {s t : State} {seq : Nat} {o : Op}

/-- A command on tables whose operation then waits for its record. -/
theorem TablesOnly.written (h : TablesOnly s t) (hl : s.live = true) (ho : s.op? seq = some o) {f : State → State}
    (hf : f s = t.setOp seq Op.written) :
    act s f = .next (t.setOp seq Op.written) ∧ (t.setOp seq Op.written).op? seq = some o.written :=
  ⟨act_eq_next hl hf (h.halted.trans (State.halted_of_live hl)) h.pending,
    State.op?_setOp Op.written ((State.op?_of_ops h.ops seq).trans ho) fun _ => rfl⟩

variable (hl : s.live = true) (ho : s.op? seq = some o)
include hl ho

theorem exec_tableLoad (hop : o.d.opcode = opTload) (hr : s.runnable o = true) (hue : s.readUe o = []) :
    exec (.tableLoad seq) s = .next ((s.loadTables o).setOp seq Op.written) ∧
      ((s.loadTables o).setOp seq Op.written).op? seq = some o.written := by
  show execTableLoad seq s = _ ∧ _
  unfold execTableLoad
  refine (s.loadTables_loaded o).only.written hl ho ?_
  rw [ho]
  dsimp only
  rw [if_neg (by simp [hop, hr]), hue]
  rfl

/-- A TABLE_SWAP swaps the banks, and clears a pending LOOSE_SWAP (R200). -/
theorem exec_tableSwap (hop : o.d.opcode = opTswap) (hph : o.phase = .selected) :
    ∃ t, Swapped o.partner s t ∧ exec (.tableSwap seq) s = .next (t.setOp seq Op.written) ∧
      (t.setOp seq Op.written).op? seq = some o.written := by
  have hswap := s.swapTables_swapped o.partner
  have ht : Swapped o.partner s (if s.loosePending o.partner then (s.swapTables o.partner).looseClear o.partner
      else s.swapTables o.partner) := by
    split
    · exact hswap.looseClear
    · exact hswap
  refine ⟨_, ht, ?_⟩
  show execTableSwap seq s = _ ∧ _
  unfold execTableSwap
  refine ht.only.written hl ho ?_
  rw [ho]
  exact if_neg (by simp [hop, hph])

end

end Sys2Proof.Machine
end

section
/-! WAYMARK in this module's own context, without a twin to seal at, and departures (R233, R313). -/

namespace Sys2Proof.Machine

/-! ### What the SEAL entry leaves alone -/

/-- A reading of the state that an entry of the own input log leaves alone: a write of memory, the positions of the log,
BROKEN and an event that does not halt the module. -/
structure LogKeeps {γ : Type} (q : State → γ) : Prop where
  write : ∀ (s : State) a bs, q (s.memWrite a bs) = q s
  log : ∀ (s : State) x, q { s with log := x } = q s
  broken : ∀ (s : State), q (s.fset Fl.waymarkCtlBroken 0 1) = q s
  event : ∀ (s : State) (e : Event), e.cls ≠ .fatal → q (s.logEvent e) = q s

namespace LogKeeps

variable {γ : Type} {q : State → γ} (h : LogKeeps q) (s : State)
include h

theorem logHeader : q (s.logHeader false) = q s := h.write s _ _

theorem setLog (f : Log → Log) : q (s.setLog false f) = q s := h.log s _

theorem logBytes (pos : Nat) (bs : List Byte) : q (s.logBytes false pos bs) = q s := by
  unfold State.logBytes
  dsimp only
  split
  · exact (h.write _ _ _).trans (h.write s _ _)
  · exact h.write s _ _

theorem logPut (kind : Nat) (payload : List Byte) : q (s.logPut false kind payload) = q s :=
  ((h.logHeader _).trans (h.setLog _ _)).trans (h.logBytes s _ _)

theorem logBreak : q (s.logBreak false) = q s :=
  (((h.logPut _ _ _).trans (h.setLog _ _)).trans (h.event _ _ (by exact nofun))).trans (h.broken s)

theorem logAppend (kind : Nat) (payload : List Byte) : q (s.logAppend false kind payload) = q s := by
  unfold State.logAppend
  dsimp only
  split
  · split
    · exact (h.logPut _ _ _).trans (h.logBreak s)
    · exact h.logPut s _ _
  · rfl

theorem logSeal (step : Nat) : q (s.logSeal false step) = q s := by
  unfold State.logSeal
  split
  · exact ((h.logHeader _).trans (h.setLog _ _)).trans (h.logAppend s _ _)
  · rfl

end LogKeeps

/-- What the end of a waymark reads besides its operation: the halt, the queue and the fields that software has written in
this array cycle. -/
def State.waymarkView (s : State) : Bool × List Instr × List (Nat × Nat) := (s.halted, s.pending, s.swFields)

theorem RegsOnly.waymarkView {s t : State} (h : RegsOnly s t) : t.waymarkView = s.waymarkView := by
  unfold State.waymarkView
  rw [h]

theorem logKeeps_waymarkView : LogKeeps State.waymarkView where
  write s a bs := by
    unfold State.waymarkView
    rw [s.memWrite_storesOnly a bs]
  log _ _ := by unfold State.waymarkView; rfl
  broken s := (regsOnly_fset s _ _ _).waymarkView
  event s e he := by
    unfold State.waymarkView
    rw [s.logEvent_eventOnly he]

/-- The twin's own stops of mirroring (R346). -/
def Twin.stops (x : Twin) : Bool × Bool := (x.stopped, x.shadowStopped)

theorem State.mirroring_congr {s t : State} (hc : t.fget Fl.twnCtlEnable 0 = s.fget Fl.twnCtlEnable 0)
    (hs : t.fget Fl.twnStateSelf 0 = s.fget Fl.twnStateSelf 0) (hx : t.twin.stops = s.twin.stops) :
    t.mirroring = s.mirroring := by
  obtain ⟨hstopped, hshadow⟩ := Prod.ext_iff.mp hx
  unfold State.mirroring State.fon State.twinSelf
  rw [hc, hs, show t.twin.stopped = s.twin.stopped from hstopped,
    show t.twin.shadowStopped = s.twin.shadowStopped from hshadow]

theorem State.memWrite_stops (s : State) (a : Nat) (bs : List Byte) :
    (s.memWrite a bs).twin.stops = s.twin.stops := by
  unfold State.memWrite State.clearUe State.markDirty
  split <;> rw [State.poke_fields] <;> rfl

theorem State.logEvent_stops (s : State) {e : Event} (he : e.cls ≠ .fatal) :
    (s.logEvent e).twin.stops = s.twin.stops := by
  have halert : (s.alertFor e).twin = s.twin := by
    unfold State.alertFor
    split <;> rfl
  have hentry : ((s.alertFor e).logEntry e).twin.stops = (s.alertFor e).twin.stops := by
    unfold State.logEntry
    dsimp only
    split
    · rfl
    · exact State.memWrite_stops _ _ _
  have herr (u : State) : (u.errEvt e).twin = u.twin := by rw [(u.errEvt_regsBut e).regs]
  unfold State.logEvent
  dsimp only
  rw [if_neg he, herr, hentry, halert]

theorem logKeeps_mirroring : LogKeeps State.mirroring where
  write s a bs := by
    have hregs : (s.memWrite a bs).regs = s.regs := by rw [s.memWrite_storesOnly a bs]
    exact State.mirroring_congr (State.fget_of_regs hregs _ _) (State.fget_of_regs hregs _ _) (s.memWrite_stops a bs)
  log _ _ := State.mirroring_congr rfl rfl rfl
  broken s := by
    have hbut : RegsBut (· ≠ .waymarkCtl) s (s.fset Fl.waymarkCtlBroken 0 1) := regsBut_fset s 1 (by decide) (by decide)
    exact State.mirroring_congr (hbut.fget _ 0 (by decide) (by decide)) (hbut.fget _ 0 (by decide) (by decide))
      (congrArg Twin.stops (s.fset_twin Fl.waymarkCtlBroken 0 1))
  event s e he := by
    have hf := s.logEvent_frame he
    exact State.mirroring_congr (hf.fget _ 0 (by decide) ⟨by decide, by decide⟩)
      (hf.fget _ 0 (by decide) ⟨by decide, by decide⟩) (s.logEvent_stops he)

/-! ### Steps 4 and 5 -/

/-- The record written, DET_CAUSE.STEP cleared and DET_STEP advanced, in the own context (R313). -/
def State.stepEnded (s : State) (o : Op) : State :=
  ((s.finish o false 0).fset Fl.detCauseStep 0 0).hwset Fl.detStepStep 0 ((o.step + 1) % 2 ^ 48)

section
variable {s : State} {o : Op}

/-- Where software has not written DET_STEP in this array cycle, the waymark's update of it stands (R7). -/
theorem State.stepEnded_eq (hsw : (Reg.off .detStep 0, Fl.detStepStep.lo) ∉ s.swFields) :
    s.stepEnded o =
      ((s.finish o false 0).fset Fl.detCauseStep 0 0).fset Fl.detStepStep 0 ((o.step + 1) % 2 ^ 48) := by
  have hfields : ((s.finish o false 0).fset Fl.detCauseStep 0 0).swFields = s.swFields := by
    rw [State.fset_swFields, s.finish_deliverOnly o false 0]
    rfl
  unfold State.stepEnded State.hwset
  rw [hfields]
  exact if_neg fun h => hsw (List.contains_iff_mem.mp h)

/-- BROKEN is all that mending the own log changes (R318). -/
theorem State.logMend_regsBut (s : State) : RegsBut (· ≠ .waymarkCtl) s (s.logMend false) := by
  unfold State.logMend
  dsimp only
  split
  · exact regsBut_fset s (f := Fl.waymarkCtlBroken) (i := 0) 0 (by decide) (by decide)
  · exact .refl s

theorem frame_set_log {p : Reg → Prop} (s : State) (x : Log) : Frame p s { s with log := x } :=
  ⟨rfl, rfl, rfl, fun _ _ _ _ => rfl⟩

theorem frame_set_ctxs_twin {p : Reg → Prop} (s : State) (x : SMap Ctx) (y : Twin) :
    Frame p s { s with ctxs := x, twin := y } :=
  ⟨rfl, rfl, rfl, fun _ _ _ _ => rfl⟩

/-- What a replay of the sealed step needed is over; besides it only BROKEN changes. -/
theorem State.waymarkDone_own (hp : o.partner = false) : Frame (· ≠ .waymarkCtl) (s.stepEnded o) (s.waymarkDone o) ∧
    (s.waymarkDone o).log.replays = 0 ∧ (s.waymarkDone o).twin.written = [] := by
  unfold State.waymarkDone
  dsimp only
  rw [hp]
  have hmend := State.logMend_regsBut ((s.stepEnded o).setLog false fun l => { l with
    replays := 0, replaying := false, chosen := [], ranUpTo := [], detours := [], collIns := [] })
  refine ⟨((frame_set_log _ _).trans hmend.frame).trans (frame_set_ctxs_twin _ _ _), ?_, rfl⟩
  exact congrArg (fun t : State => t.log.replays) hmend.regs

/-- A waymark of the own context that has ended. -/
structure WaymarkEnded (o : Op) (s t : State) : Prop where
  gone : t.op? o.seq = none
  step : t.fget Fl.detStepStep 0 = (o.step + 1) % 2 ^ 48
  cause : t.fget Fl.detCauseStep 0 = 0
  replays : t.log.replays = 0
  written : t.twin.written = []
  halted : t.halted = s.halted
  pending : t.pending = s.pending

theorem State.waymarkDone_ended (hp : o.partner = false)
    (hsw : (Reg.off .detStep 0, Fl.detStepStep.lo) ∉ s.swFields) : WaymarkEnded o s (s.waymarkDone o) := by
  obtain ⟨hframe, hreplays, hwritten⟩ := State.waymarkDone_own (s := s) hp
  rw [State.stepEnded_eq hsw] at hframe
  refine ⟨(State.op?_of_ops hframe.ops o.seq).trans (s.finish_op?_same o false 0), ?step, ?cause, hreplays, hwritten,
    hframe.halted.trans (s.finish_halted o false 0), hframe.pending.trans (s.finish_pending o false 0)⟩
  case step =>
    rw [hframe.fget Fl.detStepStep 0 (by decide) (by decide), State.fget_fset_same _ _ _ _ (by decide)]
    exact Nat.mod_mod _ _
  case cause =>
    rw [hframe.fget Fl.detCauseStep 0 (by decide) (by decide),
      State.fget_fset_ne _ _ (by decide) (by decide) (.inl (by decide)), State.fget_fset_same _ _ _ _ (by decide)]
    exact Nat.zero_mod _

end

/-! ### The commands -/

/-- Steps 1 and 2: once the collectives are over the SEAL entry is logged, and the operation has computed (R313). -/
def State.waymarkLogged (s : State) (seq : Nat) (o : Op) : State :=
  if o.phase = .computed then s
  else (s.logSeal o.partner o.step).setOp seq fun o => { o with phase := .computed }

section
variable {s : State} {seq : Nat} {o : Op}

theorem State.waymarkLogged_own (hp : o.partner = false) :
    (s.waymarkLogged seq o).mirroring = s.mirroring ∧ (s.waymarkLogged seq o).halted = s.halted ∧
      (s.waymarkLogged seq o).pending = s.pending ∧ (s.waymarkLogged seq o).swFields = s.swFields := by
  unfold State.waymarkLogged
  rw [hp]
  split
  · exact ⟨rfl, rfl, rfl, rfl⟩
  · have hview := logKeeps_waymarkView.logSeal s o.step
    simp only [State.waymarkView, Prod.mk.injEq] at hview
    obtain ⟨hhalted, hpending, hfields⟩ := hview
    exact ⟨logKeeps_mirroring.logSeal s o.step, hhalted, hpending, hfields⟩

/-- With no collective under way and nothing to mirror a WAYMARK ends at once (R313). -/
theorem State.waymark_unmirrored (ho : s.op? seq = some o) (hop : o.d.opcode = opWaymark) (hi : s.insts = [])
    (hp : o.partner = false) (hm : s.mirroring = false) :
    s.waymark seq = (s.waymarkLogged seq o).waymarkDone o := by
  have hseal : (s.waymarkLogged seq o).sealAt o.partner = none := by
    unfold State.sealAt
    rw [hp, (State.waymarkLogged_own hp).1, hm]
    rfl
  have hready : ¬ (o.d.opcode ≠ opWaymark ∨ (!s.insts.isEmpty) = true) := by simp [hop, hi]
  unfold State.waymarkLogged at *
  unfold State.waymark
  rw [ho]
  dsimp only
  rw [if_neg hready, hseal]

theorem exec_waymark (hl : s.live = true) (ho : s.op? seq = some o) (hop : o.d.opcode = opWaymark) (hi : s.insts = [])
    (hp : o.partner = false) (hm : s.mirroring = false)
    (hsw : (Reg.off .detStep 0, Fl.detStepStep.lo) ∉ s.swFields) :
    ∃ t, exec (.waymark seq) s = .next t ∧ WaymarkEnded o s t := by
  obtain ⟨-, hhalted, hpending, hfields⟩ := State.waymarkLogged_own (s := s) (seq := seq) hp
  have hend := State.waymarkDone_ended hp (hfields ▸ hsw)
  have hh := hend.halted.trans hhalted
  have hq := hend.pending.trans hpending
  exact ⟨_, act_eq_next (f := fun s => s.waymark seq) hl (State.waymark_unmirrored ho hop hi hp hm)
    (hh.trans (State.halted_of_live hl)) hq,
    hend.gone, hend.step, hend.cause, hend.replays, hend.written, hh, hq⟩

end

section
variable {s : State} {dom b : Nat} (hl : s.live = true) (hd : s.ost.depart = some b)
include hl hd

theorem exec_departure_due (hs : s.stream dom = true) (hb : b ≤ s.now) :
    exec (.departure dom) s = .next { s with ost := { s.ost with depart := none } } := by
  show execDeparture dom s = _
  unfold execDeparture
  refine act_eq_next hl ?_ (State.halted_of_live hl) rfl
  rw [hd]
  exact if_pos ⟨hb, hs⟩

theorem exec_departure_early (hb : s.now < b) : exec (.departure dom) s = .next s := by
  show execDeparture dom s = _
  unfold execDeparture
  refine act_eq_next hl ?_ (State.halted_of_live hl) rfl
  rw [hd]
  exact if_neg fun h => Nat.not_le_of_lt hb h.1

end

/-- Settles O38: a load and a swap by what they leave in TBL_GEN, TBL_STATE and the banks, a waymark by its record and the
registers of its step, a departure by the bell that it waits for. -/
theorem tableAndStepOps : Obligations.TableAndStepOps := by
  unfold Obligations.TableAndStepOps
  refine ⟨fun s seq o hl ho hop hr hue => ?load, fun s seq o hl ho hop hph => ?swap,
    fun s seq o hl ho hop hi hp hm hsw => ?waymark,
    fun s dom b hl hd hs => ⟨exec_departure_due hl hd hs, exec_departure_early hl hd⟩⟩
  case load =>
    obtain ⟨he, hfound⟩ := exec_tableLoad hl ho hop hr hue
    have h := s.loadTables_loaded o
    exact ⟨_, o.written, he, hfound, rfl, h.staged, h.cur, h.current, h.only.mem⟩
  case swap =>
    obtain ⟨t, h, he, hfound⟩ := exec_tableSwap hl ho hop hph
    exact ⟨_, o.written, he, hfound, rfl, h.cur, h.stale, h.current, h.tables, h.only.mem⟩
  case waymark =>
    obtain ⟨t, he, h⟩ := exec_waymark hl ho hop hi hp hm hsw
    obtain rfl := State.seq_of_op? ho
    exact ⟨t, he, h.gone, h.step, h.cause, h.replays, h.written⟩

end Sys2Proof.Machine
end

section
/-! What the engines of collectives leave alone as they send, deliver and log (R219, R225, R226, R234): the rest of the state,
and of each instance all but its chunks. -/

namespace Sys2Proof.Machine

/-! ### Readings of the state -/

/-- The state without what sending chunks and messages changes: retained chunks, messages and the ports' traffic. -/
def State.unsent (s : State) : State :=
  { s with insts := [], msgs := [], ports := [], reqs := [], waitTxns := [], nextTag := 0 }

/-- The state without what the engines of collectives change: besides, the registers, the memories, the logs and the twin. -/
def State.aloof (s : State) : State :=
  { s.unsent with regs := [], mem := [], panel := [], hbm := {}, twin := {}, mgmt := {}, log := {} }

/-- A reading of the instance that a context and number find. -/
def State.instView {β : Type} (p : Inst → β) (s : State) : Nat → Nat → Option β := fun c no => (s.inst? c no).map p

/-- A chunk or message without regard to whether it has gone out. -/
def Sent.kept (x : Sent) : Sent := { x with gone := false }

/-- An instance without regard to which of its chunks have gone out. -/
def Inst.posted (i : Inst) : Inst := { i with sent := i.sent.map Sent.kept }

/-- An instance without its retained chunks. -/
def Inst.unsent (i : Inst) : Inst := { i with sent := [] }

/-- An instance without what its chunks change on their way: what it holds, sends and delivers, and the parts that count. -/
def Inst.unmoved (i : Inst) : Inst := { i with held := [], sent := [], result := [], parts := [] }

/-- Besides, without its adders done. -/
def Inst.unsummed (i : Inst) : Inst := { i.unmoved with added := [] }

/-! ### Instances -/

section
variable {β γ : Type} {p : Inst → β} {s t : State}

theorem instView_find (h : t.instView p = s.instView p) {c no : Nat} {i : Inst} (hi : s.inst? c no = some i) :
    ∃ i', t.inst? c no = some i' ∧ p i' = p i := by
  have hc := congrFun (congrFun h c) no
  unfold State.instView at hc
  rw [hi] at hc
  exact Option.map_eq_some_iff.mp hc

/-- A coarser reading is alike where a finer one is. -/
theorem instView_comp (q : β → γ) (h : t.instView p = s.instView p) :
    t.instView (fun i => q (p i)) = s.instView fun i => q (p i) := by
  have hq (u : State) : (u.instView fun i => q (p i)) = fun c no => (u.instView p c no).map q := by
    funext c no
    exact (Option.map_map q p _).symm
  rw [hq, hq, h]

theorem instView_of_insts (h : t.insts = s.insts) : t.instView p = s.instView p := by
  funext c no
  unfold State.instView State.inst?
  rw [h]

/-- An instance is found where its context and number say. -/
theorem State.inst?_key {c no : Nat} {i : Inst} (h : s.inst? c no = some i) : i.ctx = c ∧ i.no = no := by
  simpa using List.find?_some h

/-- Instances changed in what a reading leaves out. -/
theorem State.instView_map (s : State) {g : Inst → Inst}
    (hg : ∀ i, (g i).ctx = i.ctx ∧ (g i).no = i.no ∧ p (g i) = p i) :
    State.instView p { s with insts := s.insts.map g } = s.instView p := by
  funext c no
  have hkey : (fun i : Inst => i.ctx == c && i.no == no) ∘ g = fun i => i.ctx == c && i.no == no := by
    funext i
    dsimp only [Function.comp]
    rw [(hg i).1, (hg i).2.1]
  unfold State.instView State.inst?
  dsimp only
  rw [List.find?_map, hkey, Option.map_map]
  exact congrArg (Option.map · _) (funext fun i => (hg i).2.2)

theorem State.setInst_view (s : State) (c no : Nat) {g : Inst → Inst}
    (hg : ∀ i, (g i).ctx = i.ctx ∧ (g i).no = i.no ∧ p (g i) = p i) : (s.setInst c no g).instView p = s.instView p := by
  refine s.instView_map fun i => ?_
  split
  · exact hg i
  · exact ⟨rfl, rfl, rfl⟩

end

/-! ### The link -/

section
variable (s : State)

theorem LinkOnly.unsent {s t : State} (h : LinkOnly s t) : t.unsent = s.unsent := by
  rw [h]
  rfl

theorem LinkOnly.insts {s t : State} (h : LinkOnly s t) : t.insts = s.insts := by rw [h]
theorem LinkOnly.msgs {s t : State} (h : LinkOnly s t) : t.msgs = s.msgs := by rw [h]

/-- Nobody waits for a transaction of a collective engine, or it is a message, which is resent by itself (R234, R261). -/
def unretained (t : Txn) (who : Option Waiter) : Prop := who = none ∨ who = some .coll ∧ t.ttype ≠ ttChunk

theorem State.unrouted_unretained {t : Txn} {who : Option Waiter} (h : unretained t who) : s.unrouted t who = s := by
  unfold State.unrouted
  rcases h with rfl | ⟨rfl, ht⟩
  · rfl
  · exact if_neg ht

theorem State.issueOn_linkOnly {t : Txn} {who : Option Waiter} (h : unretained t who) (stream : Nat) (b : Bool) :
    LinkOnly s (s.issueOn t stream who b) := by
  rcases s.issueOn_cases t stream who b with he | he
  · rw [he, s.unrouted_unretained h]
  · exact he

theorem State.issueFrom_linkOnly (src : Nat) {t : Txn} {who : Option Waiter} (h : unretained t who) (stream : Nat) :
    LinkOnly s (s.issueFrom src t stream who) := by
  have htag : LinkOnly s s.tagNext := rfl
  exact htag.trans (s.tagNext.issueOn_linkOnly (t := { t with tag := s.newTag, src := src }) h stream false)

theorem State.sendMsg_linkOnly (src : Nat) (x : Sent) : LinkOnly s (s.sendMsg src x) :=
  s.issueFrom_linkOnly src (.inr ⟨rfl, show ttCollMsg ≠ ttChunk by decide⟩) 0

theorem State.ackMsg_linkOnly (c : Nat) (tag0 tag1 : Word64) : LinkOnly s (s.ackMsg c tag0 tag1) :=
  s.issueFrom_linkOnly _ (.inl rfl) 0

theorem State.ackChunk_linkOnly (c : Nat) (tag0 tag1 : Word64) : LinkOnly s (s.ackChunk c tag0 tag1) :=
  s.issueFrom_linkOnly _ (.inl rfl) 0

/-- A message as it is kept until its acknowledgement (R234). -/
def State.withMsg (s : State) (x : Sent) : State := { s with msgs := s.msgs ++ [{ x with gone := true, since := s.now }] }

theorem State.postMsg_linkOnly (c : Nat) (x : Sent) : LinkOnly (s.withMsg x) (s.postMsg c x) :=
  State.sendMsg_linkOnly _ _ x

theorem State.postMsg_unsent (c : Nat) (x : Sent) : (s.postMsg c x).unsent = s.unsent := (s.postMsg_linkOnly c x).unsent

theorem State.postMsg_insts (c : Nat) (x : Sent) : (s.postMsg c x).insts = s.insts := (s.postMsg_linkOnly c x).insts

end

/-! ### Retained chunks on their way (R225) -/

/-- Alike but for the traffic of chunks and messages that are sent, and alike in a reading of the instances. -/
structure Sends {β : Type} (p : Inst → β) (s t : State) : Prop where
  rest : t.unsent = s.unsent
  inst : t.instView p = s.instView p

namespace Sends

variable {β γ : Type} {p : Inst → β} {s t u : State}

theorem refl (p : Inst → β) (s : State) : Sends p s s := ⟨rfl, rfl⟩

theorem trans (h : Sends p s t) (k : Sends p t u) : Sends p s u := ⟨k.rest.trans h.rest, k.inst.trans h.inst⟩

theorem comp (q : β → γ) (h : Sends p s t) : Sends (fun i => q (p i)) s t := ⟨h.rest, instView_comp q h.inst⟩

theorem of_link (h : LinkOnly s t) : Sends p s t := ⟨h.unsent, instView_of_insts h.insts⟩

theorem foldl {α : Type} {f : State → α → State} (hf : ∀ s x, Sends p s (f s x)) (l : List α) (s : State) :
    Sends p s (l.foldl f s) := foldl_invariant (Sends p s) f l s (.refl p s) fun t x _ h => h.trans (hf t x)

/-- Instances changed in what the reading leaves out. -/
theorem map (s : State) {g : Inst → Inst} (hg : ∀ i, (g i).ctx = i.ctx ∧ (g i).no = i.no ∧ p (g i) = p i) :
    Sends p s { s with insts := s.insts.map g } := ⟨rfl, s.instView_map hg⟩

theorem setInst (s : State) (c no : Nat) {g : Inst → Inst}
    (hg : ∀ i, (g i).ctx = i.ctx ∧ (g i).no = i.no ∧ p (g i) = p i) : Sends p s (s.setInst c no g) :=
  ⟨rfl, s.setInst_view c no hg⟩

/-- What does not read what sending changes reads the same. -/
theorem read (h : Sends p s t) {γ : Type} (q : State → γ) (hq : ∀ s : State, q s.unsent = q s) : q t = q s := by
  rw [← hq t, h.rest, hq]

theorem fget (h : Sends p s t) (f : Fld) (i : Nat) : t.fget f i = s.fget f i :=
  State.fget_of_regs (h.read State.regs fun _ => rfl) f i

theorem find (h : Sends p s t) {c no : Nat} {i : Inst} (hi : s.inst? c no = some i) :
    ∃ i', t.inst? c no = some i' ∧ p i' = p i := instView_find h.inst hi

end Sends

/-- Chunks sent, or to be sent again, are the same chunks. -/
theorem Inst.posted_map (i : Inst) {g : Sent → Sent} (hg : ∀ x, (g x).kept = x.kept) :
    Inst.posted { i with sent := i.sent.map g } = i.posted := by
  unfold Inst.posted
  dsimp only
  rw [List.map_map]
  exact congrArg (fun l => { i with sent := l }) (List.map_congr_left fun x _ => hg x)

section
variable (s : State)

theorem State.chunkBack_sends (t : Txn) : Sends Inst.posted s (s.chunkBack t) :=
  .map s fun i => ⟨rfl, rfl, i.posted_map fun x => by split <;> rfl⟩

theorem State.issueFrom_sends (src : Nat) (t : Txn) (stream : Nat) {who : Option Waiter}
    (hw : who = none ∨ who = some .coll) : Sends Inst.posted s (s.issueFrom src t stream who) := by
  by_cases h : unretained t who
  · exact .of_link (s.issueFrom_linkOnly src h stream)
  · obtain ⟨rfl, ht⟩ : who = some .coll ∧ t.ttype = ttChunk := by
      unfold unretained at h
      rcases hw with rfl | rfl
      · exact absurd (.inl rfl) h
      · exact ⟨rfl, by simpa using h⟩
    have htag : Sends Inst.posted s s.tagNext := ⟨rfl, rfl⟩
    unfold State.issueFrom
    refine htag.trans ?_
    rcases State.issueOn_cases s.tagNext { t with tag := s.newTag, src := src } stream (some .coll) false with he | he
    · rw [he]
      unfold State.unrouted
      dsimp only
      rw [if_pos ht]
      exact State.chunkBack_sends _ _
    · exact .of_link he

theorem State.sendChunk_sends (src : Nat) (x : Sent) : Sends Inst.posted s (s.sendChunk src x) := by
  unfold State.sendChunk
  exact .foldl (fun t y => t.issueFrom_sends src _ _ (ite_eq_or_eq _ _ _).symm) _ s

theorem State.pumpOne_sends (i : Inst) (x : Sent) : Sends Inst.posted s (State.pumpOne i s x) := by
  unfold State.pumpOne
  split
  · refine .trans (.setInst s _ _ ?_) (State.sendChunk_sends _ _ _)
    exact fun j => ⟨rfl, rfl, j.posted_map fun y => by split <;> rfl⟩
  · exact .refl _ s

/-- Chunks sent in their turn stay retained (R225). -/
theorem State.pump_sends : Sends Inst.posted s s.pump := by
  unfold State.pump
  exact .foldl (fun t i => .foldl (fun u x => u.pumpOne_sends i x) _ t) _ s

/-- A chunk queued, or a message sent, to a rank changes no instance but in what it retains. -/
theorem State.toRank_sends (i : Inst) (x : Stg) (rank chunk : Nat) (out resend : Bool) (bs : List Byte) :
    Sends Inst.unsent s (s.toRank i x rank chunk out resend bs) := by
  unfold State.toRank
  dsimp only
  split
  · exact ⟨s.postMsg_unsent _ _, instView_of_insts (s.postMsg_insts _ _)⟩
  · exact .setInst s _ _ fun _ => ⟨rfl, rfl, rfl⟩

theorem State.toRanks_sends (i : Inst) (x : Stg) (ranks : List Nat) (chunk : Nat) (out resend : Bool) (bs : List Byte) :
    Sends Inst.unsent s (s.toRanks i x ranks chunk out resend bs) :=
  .foldl (fun t r => t.toRank_sends i x r chunk out resend bs) ranks s

theorem State.outBelow_sends (i : Inst) (stg : List Stg) (chunk : Nat) (resend : Bool) (bs : List Byte) (j : Nat) :
    Sends Inst.unsent s (s.outBelow i stg chunk resend bs j) := by
  induction j generalizing s with
  | zero => exact .refl _ s
  | succ j ih =>
    unfold State.outBelow
    dsimp only
    refine .trans ?_ (ih _)
    split
    · exact .refl _ s
    · exact s.toRanks_sends _ _ _ _ _ _ _

theorem State.gatherFrom_sends (i : Inst) (f : Fmt) (stg : List Stg) (resend : Bool) (j chunk : Nat) :
    Sends Inst.unsent s (s.gatherFrom i f stg resend j chunk) := by
  unfold State.gatherFrom
  split
  · exact .refl _ s
  · dsimp only
    split
    · exact .refl _ s
    · exact s.toRanks_sends _ _ _ _ _ _ _

end

/-! ### The input log (R316 to R318) -/

/-- A reading of the state that an entry of either context's input log leaves alone. -/
structure EntryKeeps {γ : Type} (q : State → γ) : Prop where
  stores : ∀ {s t : State}, StoresOnly s t → q t = q s
  log : ∀ (s : State) x, q { s with log := x } = q s
  broken : ∀ (s : State), q (s.fset Fl.waymarkCtlBroken 0 1) = q s
  event : ∀ (s : State) (e : Event), e.cls ≠ .fatal → q (s.logEvent e) = q s

theorem storesOnly_set_twin (s : State) (x : Twin) : StoresOnly s { s with twin := x } := rfl

namespace EntryKeeps

variable {γ : Type} {q : State → γ} (h : EntryKeeps q) (s : State) (p : Bool)
include h

theorem setLog (f : Log → Log) : q (s.setLog p f) = q s := by
  cases p
  · exact h.log s _
  · exact h.stores (storesOnly_set_twin s _)

theorem setBroken : q (s.setWay p Fl.waymarkCtlBroken 1) = q s := by
  cases p
  · exact h.broken s
  · exact h.stores (storesOnly_set_twin s _)

theorem ctxWrite (a : Nat) (bs : List Byte) : q (s.ctxWrite p a bs) = q s := h.stores (s.ctxWrite_storesOnly p a bs)

theorem logBytes (pos : Nat) (bs : List Byte) : q (s.logBytes p pos bs) = q s := by
  unfold State.logBytes
  dsimp only
  split
  · exact (h.ctxWrite _ _ _ _).trans (h.ctxWrite _ _ _ _)
  · exact h.ctxWrite _ _ _ _

theorem logPut (kind : Nat) (payload : List Byte) : q (s.logPut p kind payload) = q s :=
  ((h.ctxWrite _ _ _ _).trans (h.setLog _ _ _)).trans (h.logBytes s p _ _)

theorem logBreak : q (s.logBreak p) = q s :=
  (((h.logPut _ _ _ _).trans (h.setLog _ _ _)).trans (h.event _ _ (by exact nofun))).trans (h.setBroken s p)

theorem logAppend (kind : Nat) (payload : List Byte) : q (s.logAppend p kind payload) = q s := by
  unfold State.logAppend
  dsimp only
  split
  · split
    · exact (h.logPut _ _ _ _).trans (h.logBreak s p)
    · exact h.logPut s p _ _
  · rfl

theorem logCollIn (tag0 tag1 : Word64) (data : List Byte) : q (s.logCollIn p tag0 tag1 data) = q s := h.logAppend s p _ _

end EntryKeeps

theorem StoresOnly.aloof {s t : State} (h : StoresOnly s t) : t.aloof = s.aloof := by
  rw [h]
  rfl

theorem EventOnly.aloof {s t : State} (h : EventOnly s t) : t.aloof = s.aloof := by
  rw [h]
  rfl

theorem RegsOnly.aloof {s t : State} (h : RegsOnly s t) : t.aloof = s.aloof := by
  rw [h]
  rfl

theorem entryKeeps_aloof : EntryKeeps State.aloof where
  stores h := h.aloof
  log _ _ := rfl
  broken s := (regsOnly_fset s _ _ _).aloof
  event s _ he := (s.logEvent_eventOnly he).aloof

theorem entryKeeps_insts : EntryKeeps State.insts where
  stores {s t} h := show t.insts = s.insts by rw [h]
  log _ _ := by rfl
  broken s := s.fset_insts _ _ _
  event s e he := show (s.logEvent e).insts = s.insts by rw [s.logEvent_eventOnly he]

/-! ### Chunks that are delivered -/

/-- Alike but for what the engines of collectives change, and alike in a reading of the instances. -/
structure Flows {β : Type} (p : Inst → β) (s t : State) : Prop where
  rest : t.aloof = s.aloof
  inst : t.instView p = s.instView p

theorem State.aloof_unsent (s : State) : s.unsent.aloof = s.aloof := rfl

theorem Sends.flows {β : Type} {p : Inst → β} {s t : State} (h : Sends p s t) : Flows p s t :=
  ⟨by rw [← t.aloof_unsent, h.rest, s.aloof_unsent], h.inst⟩

namespace Flows

variable {β γ : Type} {p : Inst → β} {s t u : State}

theorem refl (p : Inst → β) (s : State) : Flows p s s := ⟨rfl, rfl⟩

theorem trans (h : Flows p s t) (k : Flows p t u) : Flows p s u := ⟨k.rest.trans h.rest, k.inst.trans h.inst⟩

theorem comp (q : β → γ) (h : Flows p s t) : Flows (fun i => q (p i)) s t := ⟨h.rest, instView_comp q h.inst⟩

theorem foldl {α : Type} {f : State → α → State} (hf : ∀ s x, Flows p s (f s x)) (l : List α) (s : State) :
    Flows p s (l.foldl f s) := foldl_invariant (Flows p s) f l s (.refl p s) fun t x _ h => h.trans (hf t x)

theorem of_stores (h : StoresOnly s t) : Flows p s t := ⟨h.aloof, instView_of_insts (by rw [h])⟩

theorem of_event {s : State} {e : Event} (he : e.cls ≠ .fatal) : Flows p s (s.logEvent e) :=
  ⟨(s.logEvent_eventOnly he).aloof, instView_of_insts (by rw [s.logEvent_eventOnly he])⟩

theorem of_regs (h : RegsOnly s t) : Flows p s t := ⟨h.aloof, instView_of_insts (by rw [h])⟩

theorem logCollIn (s : State) (b : Bool) (tag0 tag1 : Word64) (data : List Byte) :
    Flows p s (s.logCollIn b tag0 tag1 data) :=
  ⟨entryKeeps_aloof.logCollIn s b tag0 tag1 data, instView_of_insts (entryKeeps_insts.logCollIn s b tag0 tag1 data)⟩

theorem setInst (s : State) (c no : Nat) {g : Inst → Inst}
    (hg : ∀ i, (g i).ctx = i.ctx ∧ (g i).no = i.no ∧ p (g i) = p i) : Flows p s (s.setInst c no g) :=
  (Sends.setInst s c no hg).flows

section
variable (h : Flows p s t)
include h

/-- What does not read what the engines change reads the same. -/
theorem read {γ : Type} (q : State → γ) (hq : ∀ s : State, q s.aloof = q s) : q t = q s := by rw [← hq t, h.rest, hq]

theorem ops : t.ops = s.ops := h.read State.ops fun _ => rfl
theorem halted : t.halted = s.halted := h.read State.halted fun _ => rfl
theorem pending : t.pending = s.pending := h.read State.pending fun _ => rfl
theorem ctxs : t.ctxs = s.ctxs := h.read State.ctxs fun _ => rfl
theorem seen : t.seen = s.seen := h.read State.seen fun _ => rfl

theorem find {c no : Nat} {i : Inst} (hi : s.inst? c no = some i) : ∃ i', t.inst? c no = some i' ∧ p i' = p i :=
  instView_find h.inst hi

end

/-- A command whose effect flows on answers with it. -/
theorem act_eq {r s t : State} {f : State → State} (h : Flows p s t) (hl : r.live = true) (hf : f r = t)
    (hh : s.halted = r.halted) (hp : s.pending = r.pending) : act r f = .next t :=
  act_eq_next hl hf ((h.halted.trans hh).trans (State.halted_of_live hl)) (h.pending.trans hp)

end Flows

section
variable (s : State)

theorem State.placeDirect_flows {β : Type} (p : Inst → β) (c no chunk : Nat) : Flows p s (s.placeDirect c no chunk) := by
  unfold State.placeDirect
  split
  · exact .refl p s
  · split
    · exact .of_stores (s.ctxBitsAll_storesOnly _ _)
    · exact .refl p s

theorem State.takeResult_flows (i : Inst) (tag0 tag1 : Word64) (chunk : Nat) (bs : List Byte) :
    Flows Inst.unmoved s (s.takeResult i tag0 tag1 chunk bs) := by
  unfold State.takeResult
  split
  · exact ((Flows.setInst s _ _ (by exact fun _ => ⟨rfl, rfl, rfl⟩)).trans (.logCollIn _ _ _ _ _)).trans
      (State.placeDirect_flows _ _ _ _ _)
  · exact .refl _ s

/-- What leaves an instance alike but for its retained chunks leaves it alike but for its traffic. -/
theorem Sends.unmoved {s t : State} (h : Sends Inst.unsent s t) : Flows Inst.unmoved s t :=
  (h.comp Inst.unmoved).flows

theorem Sends.unsent {s t : State} (h : Sends Inst.posted s t) : Sends Inst.unsent s t := h.comp Inst.unsent

theorem State.total_flows (i : Inst) (chunk : Nat) (resend : Bool) (bs : List Byte) :
    Flows Inst.unmoved s (s.total i chunk resend bs) := by
  unfold State.total
  exact (s.takeResult_flows i _ _ chunk bs).trans (State.outBelow_sends _ _ _ _ _ _ _).unmoved

theorem State.enterStage_flows (c no chunk : Nat) (resend : Bool) (f k : Nat) (bs : List Byte) :
    Flows Inst.unmoved s (State.enterStage c no chunk resend f s k bs) := by
  induction f generalizing s k with
  | zero => exact .refl _ s
  | succ f ih =>
    have hheld : Flows Inst.unmoved s (s.setInst c no (Inst.holds k chunk bs)) :=
      .setInst s c no fun _ => ⟨rfl, rfl, rfl⟩
    have hsend (t : State) (i : Inst) (x : Stg) (ranks : List Nat) :=
      (t.toRanks_sends i x ranks chunk false resend bs).unmoved
    unfold State.enterStage
    split
    · exact .refl _ s
    · dsimp only
      split
      · split
        · exact hheld
        · exact hheld.trans (State.total_flows _ _ _ _ _)
      · split
        · split
          · exact ((hheld.trans (hsend _ _ _ _)).trans (hsend _ _ _ _)).trans (ih _ _)
          · exact (hheld.trans (hsend _ _ _ _)).trans (hsend _ _ _ _)
        · exact hheld.trans (hsend _ _ _ _)

/-- The adder of a stage marked as done for a chunk. -/
def Inst.adds (k chunk : Nat) (i : Inst) : Inst := { i with added := i.added ++ [2 ^ 20 * k + chunk] }

/-- A sum leaves its adder: the adder is done, and the rest is traffic (R219). -/
theorem State.addDone_flows (i : Inst) (k : Nat) (x : Stg) (chunk : Nat) (bs : List Byte) :
    Flows Inst.unmoved (s.setInst i.ctx i.no (Inst.adds k chunk)) (s.addDone i k x chunk bs) := by
  have hsend := (State.toRanks_sends (s.setInst i.ctx i.no (Inst.adds k chunk)) i x (x.sumDests (x.set.idxOf chunk)) chunk
    false false bs).unmoved
  unfold State.addDone
  dsimp only
  split
  · exact hsend.trans (State.enterStage_flows _ _ _ _ _ _ _ _)
  · exact hsend

end

/-! ### Transactions that waited for their stream (R262) -/

section
variable (s : State)

theorem State.unrouted_flows (t : Txn) (who : Option Waiter) : Flows Inst.posted s (s.unrouted t who) := by
  unfold State.unrouted
  split
  · exact (Flows.of_regs (regsOnly_fset s Fl.twnAdoptGo 0 0)).trans (.of_event (by exact nofun))
  · unfold State.mirrorBack State.redirty
    dsimp only
    split
    · split <;> exact ⟨rfl, rfl⟩
    · split
      · exact ⟨rfl, rfl⟩
      · split
        · exact ⟨rfl, rfl⟩
        · exact .refl _ s
  · split
    · exact (s.chunkBack_sends t).flows
    · exact .refl _ s
  · exact .refl _ s

theorem State.issueOn_flows (t : Txn) (stream : Nat) (who : Option Waiter) (b : Bool) :
    Flows Inst.posted s (s.issueOn t stream who b) := by
  rcases s.issueOn_cases t stream who b with h | h
  · rw [h]
    exact s.unrouted_flows t who
  · exact (Sends.of_link h).flows

theorem State.retryWaiting_flows : Flows Inst.posted s s.retryWaiting := by
  have hnone : Flows Inst.posted s { s with waitTxns := [] } := ⟨rfl, rfl⟩
  exact hnone.trans (.foldl (fun t w => t.issueOn_flows _ _ _ _) _ _)

/-- An acknowledged or renewed transaction of a collective engine no longer waits, and those that it held up go on. -/
theorem State.dropCollReq_flows (ttype dst : Nat) (tag0 tag1 : Word64) :
    Flows Inst.posted s (s.dropCollReq ttype dst tag0 tag1) := by
  unfold State.dropCollReq
  refine .trans ⟨?rest, ?inst⟩ (State.retryWaiting_flows _)
  case rest => rfl
  case inst => rfl

/-- Where nothing waits for its stream, only requests leave. -/
theorem State.dropCollReq_linkOnly (h : s.waitTxns = []) (ttype dst : Nat) (tag0 tag1 : Word64) :
    LinkOnly s (s.dropCollReq ttype dst tag0 tag1) := by
  unfold State.dropCollReq State.retryWaiting
  dsimp only
  rw [h]
  rfl

end

end Sys2Proof.Machine
end

section
/-! Chunks of collectives: their arrival, their acknowledgement and the stage adder (R225 to R227). -/

namespace Sys2Proof.Machine

/-! ### Members that are heard -/

section
variable (s : State) (c node : Nat)

theorem State.memberHeard_ctx : mget {} (s.memberHeard c node).ctxs c =
    { mget {} s.ctxs c with heard := mput 0 (mget {} s.ctxs c).heard node s.now } := mget_mput_same _ _ _ _

theorem State.memberHeard_members (k : Nat) : (s.memberHeard c node).members k = s.members k := by
  unfold State.members
  by_cases hk : k = c
  · rw [hk, s.memberHeard_ctx]
  · exact congrArg Ctx.members (mget_mput_ne {} s.ctxs _ hk)

variable {s c node}

/-- A member that is not suspect is not brought back (R236). -/
theorem State.memberBack_trusted (h : node ∉ (mget {} s.ctxs c).suspects) : s.memberBack c node = s :=
  if_pos (by simpa using h)

theorem State.heard_trusted (h : node ∉ (mget {} s.ctxs c).suspects) :
    (s.memberHeard c node).memberBack c node = s.memberHeard c node :=
  State.memberBack_trusted (by rw [s.memberHeard_ctx]; exact h)

end

/-! ### Stages and members are read from the context alone -/

section
variable {s t : State}

theorem Sends.members {β : Type} {p : Inst → β} (h : Sends p s t) (c : Nat) : t.members c = s.members c :=
  h.read (fun u => u.members c) fun _ => rfl

/-- The stages of an instance depend on the members, this member's index and the registers of the algorithms (R218). -/
theorem stages_congr (hm : t.members = s.members) (hr : t.regs = s.regs) (i : Inst) : t.stages i = s.stages i := by
  have hf (f : Fld) (k : Nat) : t.fget f k = s.fget f k := State.fget_of_regs hr f k
  have hself : t.selfIdx = s.selfIdx := funext fun c => hf _ c
  have halg : t.algFor = s.algFor := by
    funext st lo n
    unfold State.algFor
    simp only [hf]
  have hgat (plan : List (Nat × List Nat)) : t.gatStages i plan = s.gatStages i plan := by
    induction plan with
    | nil => rfl
    | cons x r ih =>
      unfold State.gatStages
      rw [ih, halg, hself]
  have hred (plan : List (Nat × List Nat)) (set : List Nat) : t.redStages i plan set = s.redStages i plan set := by
    induction plan generalizing set with
    | nil => rfl
    | cons x r ih =>
      unfold State.redStages
      dsimp only
      rw [ih, halg, hself]
  unfold State.stages
  dsimp only
  rw [hm, hself, hgat, hred]

/-- The member number of this module in an instance. -/
theorem selfName_congr (hm : t.members = s.members) (hr : t.regs = s.regs) (i : Inst) : t.selfName i = s.selfName i := by
  unfold State.selfName State.selfIdx
  rw [hm, State.fget_of_regs hr]

end

/-! ### A chunk that holds -/

/-- A chunk as it is noted once it has been verified (R226, R236): an outbound one without its bytes. -/
def chunkGot (tag1 : Word64) (data : List Byte) : Got :=
  { src := tgSrc tag1, stage := tgStage tag1, out := tgOut tag1, chunk := tgChunk tag1,
    data := if tgOut tag1 then [] else data }

/-- An instance that has taken a chunk or message. -/
def Inst.took (g : Got) (i : Inst) : Inst := { i with got := i.got ++ [g] }

/-- An instance with a result chunk. -/
def Inst.delivers (chunk : Nat) (bs : List Byte) (i : Inst) : Inst :=
  { i with result := mput none i.result chunk (some bs) }

theorem Inst.took_hasChunk (i : Inst) (tag1 : Word64) (data : List Byte) :
    (i.took (chunkGot tag1 data)).hasChunk tag1 = true := by
  unfold Inst.hasChunk Inst.took chunkGot
  simp

/-- What a reading keeps is alike where the reading is. -/
theorem keeps_of_reading {α β : Type} (p : α → α) (q : α → β) (hq : ∀ i, q (p i) = q i) {i j : α}
    (h : p j = p i) : q j = q i := by rw [← hq j, h, hq]

/-- The first instance of a context and number put in place of all that have them. -/
theorem State.setInst_const_view {β : Type} {p : Inst → β} {s : State} {c no : Nat} {j k : Inst}
    (hj : s.inst? c no = some j) (hk : k.ctx = c ∧ k.no = no ∧ p k = p j) :
    (s.setInst c no fun _ => k).instView p = s.instView p := by
  funext c' no'
  have hkey : (fun i : Inst => i.ctx == c' && i.no == no') ∘ (fun i => if i.ctx = c ∧ i.no = no then k else i) =
      fun i => i.ctx == c' && i.no == no' := by
    funext i
    dsimp only [Function.comp]
    split
    · rename_i hi
      rw [hk.1, hk.2.1, hi.1, hi.2]
    · rfl
  have hfind : (s.setInst c no fun _ => k).inst? c' no' =
      (s.inst? c' no').map fun i => if i.ctx = c ∧ i.no = no then k else i := by
    unfold State.inst? State.setInst
    dsimp only
    rw [List.find?_map, hkey]
  unfold State.instView
  rw [hfind]
  cases hi : s.inst? c' no' with
  | none => rfl
  | some i =>
    rw [Option.map_some, Option.map_some, Option.map_some]
    split
    · rename_i h
      obtain ⟨hc, hn⟩ := State.inst?_key hi
      rw [← hc, ← hn, h.1, h.2, hj] at hi
      cases hi
      rw [hk.2.2]
    · rfl

theorem Inst.noteParts_unmoved (i : Inst) : i.noteParts.unmoved = i.unmoved := by
  unfold Inst.noteParts
  split <;> rfl

theorem Inst.putPieces_unmoved (i : Inst) (f : Fmt) (parts : List Nat) (chunk : Nat) (bs : List Byte) :
    (i.putPieces f parts chunk bs).unmoved = i.unmoved := by
  unfold Inst.putPieces
  dsimp only
  rw [Inst.noteParts_unmoved]
  exact foldl_keeps (fun x : Inst × List Nat => x.1.unmoved) _ _ _ fun _ _ _ => rfl

section
variable (s : State)

/-- A gathered chunk puts its pieces in their places; the rest is traffic (R219). -/
theorem State.gatherIn_flows {j : Inst} (hj : s.inst? j.ctx j.no = some j) (f : Fmt) (stg : List Stg) (k : Nat) (x : Stg)
    (tag0 tag1 : Word64) (bs : List Byte) : Flows Inst.unmoved s (s.gatherIn j f stg k x tag0 tag1 bs) := by
  have hput (parts : List Nat) (ch : Nat) :
      Flows Inst.unmoved s (s.setInst j.ctx j.no fun _ => j.putPieces f parts ch bs) := by
    have hu := j.putPieces_unmoved f parts ch bs
    exact ⟨rfl, State.setInst_const_view hj ⟨keeps_of_reading Inst.unmoved Inst.ctx (fun _ => rfl) hu,
      keeps_of_reading Inst.unmoved Inst.no (fun _ => rfl) hu, hu⟩⟩
  unfold State.gatherIn
  dsimp only
  refine Flows.trans ?put (.foldl (fun t m => ?next) _ _)
  case put =>
    have hplaced (parts : List Nat) := ((hput parts (tgChunk tag1)).trans
      (.logCollIn _ (s.instPartner j) tag0 tag1 bs)).trans (State.placeDirect_flows _ _ j.ctx j.no (tgChunk tag1))
    split
    · exact (hplaced _).trans (State.toRanks_sends _ _ _ _ _ _ _ _).unmoved
    · exact hplaced _
  case next =>
    split
    · exact (State.gatherFrom_sends _ _ _ _ _ _ _).unmoved
    · exact .refl _ _

/-- A result chunk that is taken here is logged, and delivered (R225, R229). -/
theorem State.takeResult_delivers {i : Inst} {chunk : Nat} (bs : List Byte) (tag0 tag1 : Word64)
    (ht : i.takesChunk (s.selfName i) chunk = true) (hn : mget none i.result chunk = none) :
    Flows Inst.unsent (s.setInst i.ctx i.no (Inst.delivers chunk bs)) (s.takeResult i tag0 tag1 chunk bs) := by
  have hif : (i.takesChunk (s.selfName i) chunk && (mget none i.result chunk).isNone) = true := by
    rw [ht, hn]
    rfl
  unfold State.takeResult
  rw [if_pos hif]
  exact (Flows.logCollIn _ _ _ _ _).trans (State.placeDirect_flows _ _ _ _ _)

section
variable {i : Inst} (tag0 : Word64) {tag1 : Word64} (data : List Byte)

/-- An inbound chunk waits for its adder (R219). -/
theorem State.chunkGood_inbound (hout : tgOut tag1 = false) :
    s.chunkGood i tag0 tag1 data = s.setInst i.ctx i.no (Inst.took (chunkGot tag1 data)) := by
  unfold State.chunkGood
  dsimp only
  split
  · rfl
  · exact if_pos (by simp [hout])

/-- A verified chunk is noted with its instance; the rest is traffic. -/
theorem State.chunkGood_flows (hi : s.inst? i.ctx i.no = some i) :
    Flows Inst.unmoved (s.setInst i.ctx i.no (Inst.took (chunkGot tag1 data))) (s.chunkGood i tag0 tag1 data) := by
  unfold State.chunkGood
  dsimp only
  split
  · exact .refl _ _
  · split
    · exact .refl _ _
    · split
      · split
        · rename_i j hj
          have hfound := s.inst?_setInst (Inst.took (chunkGot tag1 data)) hi fun _ => ⟨rfl, rfl⟩
          cases hfound.symm.trans hj
          exact (State.gatherIn_flows _ hfound _ _ _ _ _ _ _).trans (State.pump_sends _).unsent.unmoved
        · exact .refl _ _
      · exact (((State.takeResult_flows _ _ _ _ _ _).trans (State.toRanks_sends _ _ _ _ _ _ _ _).unmoved).trans
          (State.outBelow_sends _ _ _ _ _ _ _).unmoved).trans (State.pump_sends _).unsent.unmoved

/-- An outbound chunk of a reduction that this member takes is delivered (R219, R222). -/
theorem State.chunkGood_delivers (hout : tgOut tag1 = true) (hg : i.isGather = false)
    (ht : i.takesChunk (s.selfName i) (tgChunk tag1) = true) (hn : mget none i.result (tgChunk tag1) = none)
    (hy : ∃ y ∈ s.stages i, y.code = tgStage tag1) :
    Flows Inst.unsent ((s.setInst i.ctx i.no (Inst.took (chunkGot tag1 data))).setInst i.ctx i.no
      (Inst.delivers (tgChunk tag1) data)) (s.chunkGood i tag0 tag1 data) := by
  obtain ⟨y, hy⟩ : ∃ y, ((s.stages i).zipIdx.find? fun y => y.1.code == tgStage tag1) = some y := by
    obtain ⟨x, hx, hc⟩ := hy
    obtain ⟨n, hn, rfl⟩ := List.getElem_of_mem hx
    refine Option.isSome_iff_exists.mp (List.find?_isSome.mpr ⟨((s.stages i)[n], n), ?_, by simpa using hc⟩)
    simp [List.mem_zipIdx_iff_getElem?, hn]
  have htake := (s.setInst i.ctx i.no (Inst.took (chunkGot tag1 data))).takeResult_delivers data tag0 tag1 ht hn
  unfold State.chunkGood
  dsimp only
  rw [hy]
  dsimp only
  rw [if_neg (by simp [hout]), if_neg (by simp [hg])]
  exact ((htake.trans (State.toRanks_sends _ _ _ _ _ _ _ _).flows).trans
    (State.outBelow_sends _ _ _ _ _ _ _).flows).trans (State.pump_sends _).unsent.flows

end

end

/-! ### CHUNK -/

section
variable {s : State} {dst c : Nat} {tag0 tag1 : Word64} {data : List Byte} {i : Inst}
  (hctx : s.ctxAt dst tag0 = some c) (hsus : s.senderNode c tag1 ∉ (mget {} s.ctxs c).suspects)
  (hi : s.inst? c (tgSeq tag0) = some i) (hep : tgEpoch tag1 = i.epoch) (hkind : tgKind tag1 = i.kind)
  (hfmt : tgFmt tag1 = i.fmtCode) (hlt : tgChunk tag1 < i.chunks) (hst : i.started = true)
  (hnew : i.hasChunk tag1 = false) (hgood : i.chunkBad tag0 tag1 data = none)

/-- The state in which a chunk that holds is taken: its sender has been heard, and has its acknowledgement. -/
def State.chunkHeard (s : State) (c : Nat) (tag0 tag1 : Word64) : State :=
  (s.memberHeard c (s.senderNode c tag1)).ackChunk c tag0 tag1

include hctx hsus hi hep hkind hfmt hlt hst hnew hgood in
/-- A chunk of a started instance that has not come before and holds is acknowledged and taken (R225, R226). -/
theorem State.chunkIn_good :
    s.chunkIn dst tag0 tag1 data = (s.chunkHeard c tag0 tag1).chunkGood i tag0 tag1 data := by
  have hfound : (s.memberHeard c (s.senderNode c tag1)).inst? c (tgSeq tag0) = some i := hi
  have hepoch : (s.memberHeard c (s.senderNode c tag1)).epochOf c (tgSeq tag0) = i.epoch := by
    unfold State.epochOf
    rw [hfound]
    rfl
  have hfits : ¬ (tgKind tag1 ≠ i.kind ∨ tgFmt tag1 ≠ i.fmtCode ∨ i.chunks ≤ tgChunk tag1) := by
    rintro (h | h | h)
    · exact h hkind
    · exact h hfmt
    · exact Nat.not_le_of_lt hlt h
  unfold State.chunkIn
  rw [hctx]
  dsimp only
  rw [State.heard_trusted hsus, hepoch, if_neg (not_not.mpr hep), hfound]
  dsimp only
  rw [if_neg hfits, hst, hnew, hgood]
  rfl

theorem State.chunkHeard_linkOnly (s : State) (c : Nat) (tag0 tag1 : Word64) :
    LinkOnly (s.memberHeard c (s.senderNode c tag1)) (s.chunkHeard c tag0 tag1) := State.ackChunk_linkOnly _ _ _ _

theorem State.chunkHeard_inst? (s : State) (c : Nat) (tag0 tag1 : Word64) (k no : Nat) :
    (s.chunkHeard c tag0 tag1).inst? k no = s.inst? k no := by
  unfold State.inst?
  rw [(s.chunkHeard_linkOnly c tag0 tag1).insts]
  rfl

theorem State.chunkHeard_members (s : State) (c : Nat) (tag0 tag1 : Word64) :
    (s.chunkHeard c tag0 tag1).members = s.members := by
  funext k
  rw [← s.memberHeard_members c (s.senderNode c tag1)]
  exact (Sends.of_link (p := id) (s.chunkHeard_linkOnly c tag0 tag1)).members k

theorem State.chunkHeard_regs (s : State) (c : Nat) (tag0 tag1 : Word64) :
    (s.chunkHeard c tag0 tag1).regs = s.regs := by
  rw [s.chunkHeard_linkOnly c tag0 tag1]
  rfl

theorem State.chunkHeard_rest (s : State) (c : Nat) (tag0 tag1 : Word64) :
    (s.chunkHeard c tag0 tag1).ops = s.ops ∧ (s.chunkHeard c tag0 tag1).mem = s.mem ∧
      (s.chunkHeard c tag0 tag1).halted = s.halted ∧ (s.chunkHeard c tag0 tag1).pending = s.pending := by
  rw [s.chunkHeard_linkOnly c tag0 tag1]
  exact ⟨rfl, rfl, rfl, rfl⟩

/-- What a chunk that is taken leaves. -/
structure ChunkTaken (s : State) (c : Nat) (tag0 tag1 : Word64) (data : List Byte) (i : Inst) (t : State) : Prop where
  ops : t.ops = s.ops
  halted : t.halted = s.halted
  pending : t.pending = s.pending
  noted : ∃ i', t.inst? c (tgSeq tag0) = some i' ∧ i'.hasChunk tag1 = true ∧
    (tgOut tag1 = false → t.mem = s.mem ∧ ∀ k, mget none i'.held k = mget none i.held k) ∧
    (tgOut tag1 = true → i.isGather = false → i.takesChunk (s.selfName i) (tgChunk tag1) = true →
      mget none i.result (tgChunk tag1) = none → (∃ y ∈ s.stages i, y.code = tgStage tag1) →
      mget none i'.result (tgChunk tag1) = some data)

include hi in
theorem State.chunkGood_taken :
    ChunkTaken s c tag0 tag1 data i ((s.chunkHeard c tag0 tag1).chunkGood i tag0 tag1 data) := by
  obtain ⟨rfl, hno⟩ := State.inst?_key hi
  rw [← hno] at hi
  obtain ⟨hops, hmem, hhalted, hpending⟩ := s.chunkHeard_rest i.ctx tag0 tag1
  have hm := s.chunkHeard_members i.ctx tag0 tag1
  have hr := s.chunkHeard_regs i.ctx tag0 tag1
  have hfound : (s.chunkHeard i.ctx tag0 tag1).inst? i.ctx i.no = some i := (s.chunkHeard_inst? _ _ _ _ _).trans hi
  generalize s.chunkHeard i.ctx tag0 tag1 = u at *
  have hf := u.chunkGood_flows tag0 (tag1 := tag1) data hfound
  have htook := u.inst?_setInst (Inst.took (chunkGot tag1 data)) hfound fun _ => ⟨rfl, rfl⟩
  obtain ⟨i', hi', hu⟩ := hf.find htook
  have hgot : i'.got = (i.took (chunkGot tag1 data)).got := keeps_of_reading Inst.unmoved Inst.got (fun _ => rfl) hu
  refine ⟨hf.ops.trans hops, hf.halted.trans hhalted, hf.pending.trans hpending, i', hno ▸ hi', ?_, ?_, ?_⟩
  · rw [← i.took_hasChunk tag1 data]
    unfold Inst.hasChunk
    rw [hgot]
  · intro hout
    rw [u.chunkGood_inbound tag0 data hout] at hi' ⊢
    cases htook.symm.trans hi'
    exact ⟨hmem, fun _ => rfl⟩
  · intro hout hg ht hn hy
    rw [← selfName_congr hm hr] at ht
    rw [← stages_congr hm hr] at hy
    obtain ⟨j, hj, hju⟩ := (u.chunkGood_delivers tag0 data hout hg ht hn hy).find
      (State.inst?_setInst _ (Inst.delivers (tgChunk tag1) data) htook fun _ => ⟨rfl, rfl⟩)
    cases hi'.symm.trans hj
    have hres := keeps_of_reading Inst.unsent Inst.result (fun _ => rfl) hju
    exact (congrArg (mget none · (tgChunk tag1)) hres).trans (mget_mput_same none i.result (tgChunk tag1) (some data))

include hctx hsus hi hep hkind hfmt hlt hst hnew hgood in
/-- CHUNK: a chunk that holds, whole in staging or as it arrives. -/
theorem exec_chunk (hl : s.live = true) (harr : (s.chunkArrives dst tag0 tag1 data).isSome = true) :
    ∃ t, exec (.chunk dst tag0 tag1 data) s = .next t ∧ ChunkTaken s c tag0 tag1 data i t := by
  obtain ⟨u, hu⟩ := Option.isSome_iff_exists.mp harr
  obtain ⟨l, rfl⟩ : ∃ l, u = { s with staging := l } := by
    unfold State.chunkArrives at hu
    dsimp only at hu
    split at hu
    · exact ⟨s.staging, (Option.some.inj hu).symm⟩
    · split at hu
      · exact ⟨_, (Option.some.inj hu).symm⟩
      · cases hu
  have htaken := State.chunkGood_taken (s := { s with staging := l }) (tag1 := tag1) (data := data) hi
  have hin := State.chunkIn_good (s := { s with staging := l }) hctx hsus hi hep hkind hfmt hlt hst hnew hgood
  obtain ⟨i', hi', hhas, hinb, hout⟩ := htaken.noted
  refine ⟨_, ?_, htaken.ops, htaken.halted, htaken.pending, i', hi', hhas, hinb, fun ho hg ht hn hy => ?_⟩
  case refine_2 =>
    refine hout ho hg ?_ hn ?_
    · rw [selfName_congr (s := s) (t := { s with staging := l }) rfl rfl]
      exact ht
    · rw [stages_congr (s := s) (t := { s with staging := l }) rfl rfl]
      exact hy
  show execChunk dst tag0 tag1 data s = _
  unfold execChunk
  refine act_eq_next hl ?_ (htaken.halted.trans (State.halted_of_live hl)) htaken.pending
  rw [hu]
  exact hin

end

/-! ### CHUNK_ACK -/

/-- The instance found after a change of all instances that keeps their contexts and numbers. -/
theorem State.inst?_map (s : State) {g : Inst → Inst} (hg : ∀ i, (g i).ctx = i.ctx ∧ (g i).no = i.no) (c no : Nat) :
    State.inst? { s with insts := s.insts.map g } c no = (s.inst? c no).map g := by
  have hkey : (fun i : Inst => i.ctx == c && i.no == no) ∘ g = fun i => i.ctx == c && i.no == no := by
    funext i
    dsimp only [Function.comp]
    rw [(hg i).1, (hg i).2]
  unfold State.inst?
  dsimp only
  rw [List.find?_map, hkey]

/-- An acknowledged chunk is marked, and stays retained until its segment is sealed (R225). -/
theorem State.chunkAcked_marks {s : State} {src : Nat} {tag0 tag1 : Word64} {i : Inst} {x : Sent}
    (hi : s.inst? i.ctx i.no = some i) (hx : x ∈ i.sent) (hdst : x.dst = src) (htag0 : x.tag0 = tag0)
    (htag1 : tgPlain x.tag1 = tgPlain tag1) :
    ∃ i', (s.chunkAcked src tag0 tag1).inst? i.ctx i.no = some i' ∧
      ∃ y ∈ i'.sent, y.dst = src ∧ y.tag0 = tag0 ∧ y.tag1 = x.tag1 ∧ y.acked = true := by
  have hmark : ackSent src tag0 tag1 x = { x with acked := true } := if_pos (by simp [hdst, htag0, htag1])
  have hfound := s.inst?_map (g := fun i => { i with sent := i.sent.map (ackSent src tag0 tag1) })
    (fun _ => ⟨rfl, rfl⟩) i.ctx i.no
  rw [hi] at hfound
  have hf := (State.dropCollReq_flows
    { s with insts := s.insts.map fun (i : Inst) => { i with sent := i.sent.map (ackSent src tag0 tag1) } }
    ttChunk src tag0 tag1).trans (State.pump_sends _).flows
  obtain ⟨i', hi', hp⟩ := hf.find hfound
  have hsent : i'.sent.map Sent.kept = (i.sent.map (ackSent src tag0 tag1)).map Sent.kept := congrArg Inst.sent hp
  obtain ⟨y, hy, hk⟩ : ∃ y ∈ i'.sent, y.kept = Sent.kept { x with acked := true } := by
    rw [← hmark]
    exact List.mem_map.mp (hsent ▸ List.mem_map_of_mem (List.mem_map_of_mem hx))
  refine ⟨i', hi', y, hy, ?_, ?_, ?_, ?_⟩
  · exact (keeps_of_reading Sent.kept Sent.dst (fun _ => rfl) hk).trans hdst
  · exact (keeps_of_reading Sent.kept Sent.tag0 (fun _ => rfl) hk).trans htag0
  · have htag := keeps_of_reading Sent.kept Sent.tag1 (fun _ => rfl) hk
    exact htag
  · have hacked := keeps_of_reading Sent.kept Sent.acked (fun _ => rfl) hk
    exact hacked

theorem State.chunkAcked_flows (s : State) (src : Nat) (tag0 tag1 : Word64) :
    Flows (fun _ => ()) s (s.chunkAcked src tag0 tag1) := by
  have hmark := (Sends.map (p := fun _ => ()) s
    (g := fun i => { i with sent := i.sent.map (ackSent src tag0 tag1) }) fun _ => ⟨rfl, rfl, rfl⟩).flows
  exact hmark.trans ((State.dropCollReq_flows _ _ _ _ _).trans (State.pump_sends _).flows |>.comp fun _ => ())

/-- Where nothing waits for its stream, an acknowledgement leaves memory and registers alone. -/
theorem State.chunkAcked_stores {s : State} (h : s.waitTxns = []) (src : Nat) (tag0 tag1 : Word64) :
    (s.chunkAcked src tag0 tag1).mem = s.mem ∧ (s.chunkAcked src tag0 tag1).regs = s.regs := by
  unfold State.chunkAcked
  dsimp only
  have hpump (u : State) : u.pump.mem = u.mem ∧ u.pump.regs = u.regs :=
    ⟨u.pump_sends.read State.mem fun _ => rfl, u.pump_sends.read State.regs fun _ => rfl⟩
  have hlink := State.dropCollReq_linkOnly
    { s with insts := s.insts.map fun (i : Inst) => { i with sent := i.sent.map (ackSent src tag0 tag1) } } h
    ttChunk src tag0 tag1
  rw [(hpump _).1, (hpump _).2, hlink]
  exact ⟨rfl, rfl⟩

/-! ### Events of chunks (R227, R238) -/

theorem EventOnly.inst? {s t : State} (h : EventOnly s t) (c no : Nat) : t.inst? c no = s.inst? c no := by
  unfold State.inst?
  rw [h]

section
variable (s : State) (q ctx : Nat) {cause : Nat} {cls : Cls} (hc : cls ≠ .fatal) (a b : Nat)

/-- COL_FAULT_EVT with an event's count, mark, group and cause. -/
def State.collNoted (s : State) (ctx cause : Nat) : State :=
  ((s.bump Fl.colFaultEvtCount Fl.colFaultEvtPend 0).fset Fl.colFaultEvtGroup 0 ctx).fset Fl.colFaultEvtCause 0 cause

theorem State.collNoted_regsBut (cause : Nat) : RegsBut (· ≠ .colFaultEvt) s (s.collNoted ctx cause) := by
  have h (t : State) (f : Fld) (v : Nat) (hf : f.reg = .colFaultEvt) : RegsBut (· ≠ .colFaultEvt) t (t.fset f 0 v) :=
    regsBut_fset t v (by rw [hf]; decide) (not_not.mpr hf)
  exact (((h _ _ _ rfl).trans (h _ _ _ rfl)).trans (h _ _ _ rfl)).trans (h _ _ _ rfl)

theorem State.collNoted_cause (h : cause < 2 ^ 8) : (s.collNoted ctx cause).fget Fl.colFaultEvtCause 0 = cause := by
  unfold State.collNoted
  rw [State.fget_fset_same _ _ _ _ (by decide)]
  exact Nat.mod_eq_of_lt h

theorem State.collNoted_count (cause : Nat) :
    (s.collNoted ctx cause).fget Fl.colFaultEvtCount 0 = (s.fget Fl.colFaultEvtCount 0 + 1) % 2 ^ 32 := by
  unfold State.collNoted State.bump State.finc
  rw [State.fget_fset_field (f := Fl.colFaultEvtCause) (g := Fl.colFaultEvtCount) _ _ _ (by decide) rfl (by decide),
    State.fget_fset_field (f := Fl.colFaultEvtGroup) (g := Fl.colFaultEvtCount) _ _ _ (by decide) rfl (by decide),
    State.fget_fset_field (f := Fl.colFaultEvtPend) (g := Fl.colFaultEvtCount) _ _ _ (by decide) rfl (by decide),
    State.fget_fset_same _ _ _ _ (by decide)]
  exact Nat.mod_mod _ _

include hc

theorem State.collEventAt_logged : ∃ e : Event, e.cls ≠ .fatal ∧
    s.collEventAt q ctx cause cls a b = (s.collNoted ctx cause).logEvent e := ⟨_, hc, rfl⟩

theorem State.collEventAt_eventOnly : EventOnly s (s.collEventAt q ctx cause cls a b) := by
  obtain ⟨e, he, heq⟩ := s.collEventAt_logged q ctx (cause := cause) hc a b
  rw [heq]
  exact (s.collNoted_regsBut ctx cause).regs.eventOnly.trans (State.logEvent_eventOnly _ he)

theorem State.collEventAt_cause (h : cause < 2 ^ 8) :
    (s.collEventAt q ctx cause cls a b).fget Fl.colFaultEvtCause 0 = cause := by
  obtain ⟨e, he, heq⟩ := s.collEventAt_logged q ctx (cause := cause) hc a b
  rw [heq, (State.logEvent_frame _ he).fget Fl.colFaultEvtCause 0 (by decide) ⟨by decide, by decide⟩]
  exact s.collNoted_cause ctx h

theorem State.collEventAt_count :
    (s.collEventAt q ctx cause cls a b).fget Fl.colFaultEvtCount 0 = (s.fget Fl.colFaultEvtCount 0 + 1) % 2 ^ 32 := by
  obtain ⟨e, he, heq⟩ := s.collEventAt_logged q ctx (cause := cause) hc a b
  rw [heq, (State.logEvent_frame _ he).fget Fl.colFaultEvtCount 0 (by decide) ⟨by decide, by decide⟩]
  exact s.collNoted_count ctx cause

/-- The registers other than those that an event of a collective writes. -/
theorem State.collEventAt_frame :
    Frame (fun r => notEvent r ∧ r ≠ .colFaultEvt) s (s.collEventAt q ctx cause cls a b) := by
  obtain ⟨e, he, heq⟩ := s.collEventAt_logged q ctx (cause := cause) hc a b
  rw [heq]
  exact ((s.collNoted_regsBut ctx cause).frame.mono fun _ h => h.2).trans
    ((State.logEvent_frame _ he).mono fun _ h => h.1)

end

/-! ### STAGE_ADD -/

/-- An instance with a chunk fault counted (R227). -/
def Inst.faulted (key n : Nat) (i : Inst) : Inst := { i with faults := mput 0 i.faults key n }

theorem Inst.faulted_faults (i : Inst) (key n : Nat) : mget 0 (i.faulted key n).faults key = n :=
  mget_mput_same 0 i.faults key n

/-- A chunk fault within RESEND_MAX is an event and a count (R227). -/
theorem State.chunkFault_within (s : State) {i : Inst} {cause : Nat} (tag0 : Word64) {tag1 : Word64}
    (h : mget 0 i.faults (faultKey cause tag1) < s.fget Fl.colModeResendMax 0) :
    ∃ q a b, s.chunkFault i cause tag0 tag1 = (s.collEventAt q i.ctx cause .recovered a b).setInst i.ctx i.no
      (Inst.faulted (faultKey cause tag1) (mget 0 i.faults (faultKey cause tag1) + 1)) := by
  unfold State.chunkFault
  dsimp only
  exact ⟨_, _, _, if_neg (Nat.not_lt.mpr h)⟩

section
variable {s : State} {c no chunk k : Nat} {x : Stg} {ins : List (List Byte)} {i : Inst} (hl : s.live = true)
  (hi : s.inst? c no = some i) (hm : i.isMsg = false) (hst : i.started = true) (ha : s.addable i chunk = some (k, x, ins))

/-- The inputs of an adder as groups. -/
def Inst.inputs (i : Inst) (chunk : Nat) (ins : List (List Byte)) : List (List Grp) :=
  ins.map fun b => (i.decode (i.chunkElems chunk).2 b).getD []

/-- The sum of an adder, with the soft error that strikes it. -/
def Inst.adderSum (i : Inst) (chunk : Nat) (flip : Option (Nat × Nat)) (ins : List (List Byte)) : List Grp :=
  flipSum i.addW flip (addGroups i.addW (i.chunkElems chunk).2 (i.inputs chunk ins))

/-- The residue that the inputs of an adder give its sum (R227). -/
def Inst.inputResidue (i : Inst) (chunk : Nat) (ins : List (List Byte)) : Nat :=
  (((i.inputs chunk ins).map sumResidue).foldl (· + ·) 0) % 65535

include hi hm hst ha

/-- The adder of a chunk that has all its inputs: its sum goes on if it passes its check, and is a chunk fault if not. -/
theorem State.stageAdd_eq (flip : Option (Nat × Nat)) : s.stageAdd c no chunk flip =
    if sumResidue (i.adderSum chunk flip ins) = i.inputResidue chunk ins then
      (s.addDone i k x chunk (i.encodeSum (i.chunkElems chunk).1 (i.adderSum chunk flip ins))).pump
    else s.chunkFault i 0x02 (tagWord0 0 no (s.groupNo c) false) (s.instTag1 i x.code false false chunk) := by
  have hgo : ¬ (i.isMsg ∨ !i.started) := by simp [hm, hst]
  unfold State.stageAdd
  rw [hi]
  dsimp only
  rw [if_neg hgo, ha]
  rfl

include hl

theorem exec_stageAdd_good {flip : Option (Nat × Nat)}
    (hsum : sumResidue (i.adderSum chunk flip ins) = i.inputResidue chunk ins) :
    ∃ t i', exec (.stageAdd c no chunk flip) s = .next t ∧ t.inst? c no = some i' ∧ t.ops = s.ops ∧
      2 ^ 20 * k + chunk ∈ i'.added := by
  obtain ⟨rfl, rfl⟩ := State.inst?_key hi
  have heq := (State.stageAdd_eq hi hm hst ha flip).trans (if_pos hsum)
  have hf := (s.addDone_flows i k x chunk (i.encodeSum (i.chunkElems chunk).1 (i.adderSum chunk flip ins))).trans
    (State.pump_sends _).unsent.unmoved
  obtain ⟨i', hi', hu⟩ := hf.find (s.inst?_setInst (Inst.adds k chunk) hi fun _ => ⟨rfl, rfl⟩)
  have hadded : i'.added = i.added ++ [2 ^ 20 * k + chunk] := keeps_of_reading Inst.unmoved Inst.added (fun _ => rfl) hu
  exact ⟨_, i', hf.act_eq (f := fun s => s.stageAdd i.ctx i.no chunk flip) hl heq rfl rfl, hi', hf.ops, by simp [hadded]⟩

omit hl in
theorem State.stageAdd_fault {flip : Option (Nat × Nat)}
    (hsum : sumResidue (i.adderSum chunk flip ins) ≠ i.inputResidue chunk ins) {key : Nat}
    (hkey : key = faultKey 0x02 (s.instTag1 i x.code false false chunk))
    (hmax : mget 0 i.faults key < s.fget Fl.colModeResendMax 0) :
    ∃ q a b, s.stageAdd c no chunk flip =
      (s.collEventAt q i.ctx 2 .recovered a b).setInst i.ctx i.no (Inst.faulted key (mget 0 i.faults key + 1)) := by
  subst hkey
  obtain ⟨q, a, b, hfault⟩ := s.chunkFault_within (tagWord0 0 no (s.groupNo c) false) hmax
  exact ⟨q, a, b, ((State.stageAdd_eq hi hm hst ha flip).trans (if_neg hsum)).trans hfault⟩

theorem exec_stageAdd_fault {flip : Option (Nat × Nat)}
    (hsum : sumResidue (i.adderSum chunk flip ins) ≠ i.inputResidue chunk ins) {key : Nat}
    (hkey : key = faultKey 0x02 (s.instTag1 i x.code false false chunk))
    (hmax : mget 0 i.faults key < s.fget Fl.colModeResendMax 0) :
    ∃ t i', exec (.stageAdd c no chunk flip) s = .next t ∧ t.inst? c no = some i' ∧ i'.added = i.added ∧
      mget 0 i'.faults key = mget 0 i.faults key + 1 ∧ t.fget Fl.colFaultEvtCause 0 = 2 ∧
      t.fget Fl.colFaultEvtCount 0 = (s.fget Fl.colFaultEvtCount 0 + 1) % 2 ^ 32 ∧ t.ops = s.ops := by
  have hnf : Cls.recovered ≠ .fatal := nofun
  obtain ⟨q, a, b, hev⟩ := State.stageAdd_fault hi hm hst ha hsum hkey hmax
  obtain ⟨rfl, rfl⟩ := State.inst?_key hi
  have he := s.collEventAt_eventOnly q i.ctx (cause := 2) hnf a b
  have hcause := s.collEventAt_cause q i.ctx hnf a b (cause := 2) (by decide)
  have hcount := s.collEventAt_count q i.ctx hnf a b (cause := 2)
  generalize s.collEventAt q i.ctx 2 .recovered a b = v at *
  have hset := Sends.setInst (p := fun _ => ()) v i.ctx i.no (g := Inst.faulted key (mget 0 i.faults key + 1))
    fun _ => ⟨rfl, rfl, rfl⟩
  exact ⟨_, _, act_eq_next (f := fun s => s.stageAdd i.ctx i.no chunk flip) hl hev
    ((hset.flows.halted.trans he.halted).trans (State.halted_of_live hl)) (hset.flows.pending.trans he.pending),
    v.inst?_setInst (Inst.faulted _ _) ((he.inst? _ _).trans hi) (by exact fun _ => ⟨rfl, rfl⟩), rfl,
    i.faulted_faults _ _, (hset.fget _ _).trans hcause, (hset.fget _ _).trans hcount, hset.flows.ops.trans he.ops⟩

end

/-- Settles O40: a chunk that holds is noted with its instance and, as a result of a reduction, delivered; what is retained
stays, and is marked; an adder adds once or counts a fault. -/
theorem collChunks : Obligations.CollChunks := by
  unfold Obligations.CollChunks
  refine ⟨fun s dst c tag0 tag1 data i hl hctx hsus hi hep hkind hfmt hlt hst hnew hgood harr => ?chunk,
    fun s src tag0 tag1 i x hl hi hx hdst htag0 htag1 u harr hu => ?ack,
    fun s c no chunk k x ins i hl hi hm hst ha _ => ⟨fun hsum => ?added, fun flip hsum hmax => ?fault⟩⟩
  case chunk =>
    obtain ⟨t, ht, h⟩ := exec_chunk hctx hsus hi hep hkind hfmt hlt hst hnew hgood hl harr
    obtain ⟨i', hi', hhas, hin, hout⟩ := h.noted
    exact ⟨t, i', ht, hi', hhas, h.ops, hin, hout⟩
  case ack =>
    generalize u.ports = ports at hu
    subst hu
    obtain ⟨i', hi', hy⟩ := State.chunkAcked_marks (s := { s with ports := ports }) hi hx hdst htag0 htag1
    have hf := State.chunkAcked_flows { s with ports := ports } src tag0 tag1
    refine ⟨_, i', ?_, hi', hy, hf.ops,
      fun hw => State.chunkAcked_stores (s := { s with ports := ports }) hw src tag0 tag1⟩
    show execChunkAck src tag0 tag1 s = _
    unfold execChunkAck
    refine act_eq_next hl ?_ (hf.halted.trans (State.halted_of_live hl)) hf.pending
    rw [harr]
  case added => exact exec_stageAdd_good hl hi hm hst ha hsum
  case fault => exact exec_stageAdd_fault hl hi hm hst ha hsum rfl hmax

end Sys2Proof.Machine
end

section
/-! Messages of collectives as they come (R234), and what the end of an instance leaves alone. -/

namespace Sys2Proof.Machine

/-! ### The first copy of a message -/

/-- A payload that matches its instance is no malformed SUM payload. -/
theorem Inst.scalarMalformed_of_msgOk {i : Inst} {tag1 : Word64} {data : List Byte} (h : i.msgOk tag1 data = true) :
    ¬ (tgKind tag1 = i.kind ∧ i.scalarMalformed data = true) := by
  rintro ⟨hk, hbad⟩
  unfold Inst.scalarMalformed at hbad
  rw [Bool.and_eq_true, Bool.and_eq_true, Bool.and_eq_true] at hbad
  obtain ⟨⟨⟨hkind, hsub⟩, hhead⟩, hpacks⟩ := hbad
  have hkd : tgKind tag1 = kdScalar := hk.trans (by simpa using hkind)
  unfold Inst.msgOk at h
  dsimp only at h
  rw [hkd, if_neg (by decide), if_neg (not_not.mpr (hkd.symm.trans hk)), if_neg (by decide), if_pos rfl,
    Bool.and_eq_true] at h
  have hok := h.1
  unfold Inst.scalarOk at hok
  rw [Bool.and_eq_true, if_pos (by simpa using hsub), Option.isNone_iff_eq_none.mp hpacks] at hok
  exact Bool.false_ne_true hok.2

/-- The key of a message among those that have come. -/
def msgKey (tag0 tag1 : Word64) (data : List Byte) : Word64 × Word64 × Nat := (tag0, tgPlain tag1, msgSeg tag1 data)

/-- The state in which the first copy of a message acts: its sender has been heard, and has its acknowledgement. -/
def State.msgHeard (s : State) (c : Nat) (tag0 tag1 : Word64) (data : List Byte) : State :=
  State.ackMsg { s.memberHeard c (s.senderNode c tag1) with seen := s.seen ++ [msgKey tag0 tag1 data] } c tag0 tag1

/-- A state in which the first copy of a message acts. -/
structure MsgHeard (key : Word64 × Word64 × Nat) (s v : State) : Prop where
  inst (c no : Nat) : v.inst? c no = s.inst? c no
  seen : key ∈ v.seen
  ops : v.ops = s.ops
  mem : v.mem = s.mem
  regs : v.regs = s.regs
  bell : v.bell = s.bell
  halted : v.halted = s.halted
  pending : v.pending = s.pending

theorem State.msgHeard_heard (s : State) (c : Nat) (tag0 tag1 : Word64) (data : List Byte) :
    MsgHeard (msgKey tag0 tag1 data) s (s.msgHeard c tag0 tag1 data) := by
  have h : LinkOnly { s.memberHeard c (s.senderNode c tag1) with seen := s.seen ++ [msgKey tag0 tag1 data] }
    (s.msgHeard c tag0 tag1 data) := State.ackMsg_linkOnly _ _ _ _
  rw [h]
  exact ⟨fun _ _ => rfl, List.mem_append_right _ (List.mem_singleton.mpr rfl), rfl, rfl, rfl, rfl, rfl, rfl⟩

theorem MsgHeard.fget {key : Word64 × Word64 × Nat} {s v : State} (h : MsgHeard key s v) (f : Fld) (k : Nat) :
    v.fget f k = s.fget f k := State.fget_of_regs h.regs f k

section
variable {s : State} {dst c : Nat} {tag0 tag1 : Word64} {data : List Byte} {i : Inst}
  (hctx : s.ctxAt dst tag0 = some c) (hsus : s.senderNode c tag1 ∉ (mget {} s.ctxs c).suspects)
  (hi : s.inst? c (tgSeq tag0) = some i) (hep : tgEpoch tag1 = i.epoch) (hst : i.started = true)
  (hnew : msgKey tag0 tag1 data ∉ s.seen) (hok : i.msgOk tag1 data = true)
include hctx hsus hi hep hst hnew hok

/-- The first copy of a message that matches its started instance is noted, acknowledged, and acts (R234). -/
theorem State.msgIn_first {kind : Nat} {out : Bool} (port : Nat) (hkind : tgKind tag1 = kind) (hout : tgOut tag1 = out) :
    s.msgIn kind out dst port tag0 tag1 data = (s.msgHeard c tag0 tag1 data).msgAct i port tag0 tag1 data := by
  have hfound : (s.memberHeard c (s.senderNode c tag1)).inst? c (tgSeq tag0) = some i := hi
  have hepoch : (s.memberHeard c (s.senderNode c tag1)).epochOf c (tgSeq tag0) = i.epoch := by
    unfold State.epochOf
    rw [hfound]
    rfl
  have hfresh : ¬ (s.memberHeard c (s.senderNode c tag1)).seen.contains (tag0, tgPlain tag1, msgSeg tag1 data) = true :=
    fun h => hnew (List.contains_iff_mem.mp h)
  unfold State.msgIn
  rw [hctx]
  dsimp only
  rw [State.heard_trusted hsus, if_neg (by simp [hkind, hout]), hepoch, if_neg (not_not.mpr hep), if_neg hfresh, hfound]
  dsimp only
  rw [if_neg (by simp [hst]), if_neg (Inst.scalarMalformed_of_msgOk hok), if_neg (by simp [hok])]
  rfl

/-- A message's row, where no port holds back what it brings. -/
theorem State.msgRow_first {u : State} (harr : s.collArrives (isCollMsg dst tag0 tag1 data) = some u)
    (hu : u = { s with ports := u.ports }) : ∃ v, MsgHeard (msgKey tag0 tag1 data) s v ∧
      ∀ {kind : Nat} {out : Bool} (port : Nat), tgKind tag1 = kind → tgOut tag1 = out →
        s.msgRow kind out dst port tag0 tag1 data = v.msgAct i port tag0 tag1 data := by
  generalize u.ports = ports at hu
  subst hu
  have h := State.msgHeard_heard { s with ports := ports } c tag0 tag1 data
  refine ⟨_, ⟨h.inst, h.seen, h.ops, h.mem, h.regs, h.bell, h.halted, h.pending⟩, fun port hkind hout => ?_⟩
  unfold State.msgRow
  rw [harr]
  exact State.msgIn_first (s := { s with ports := ports }) hctx hsus hi hep hst hnew hok port hkind hout

end

/-! ### What the end of an instance leaves alone -/

/-- The halt, the queue and the messages that have come. -/
def State.still (s : State) : Bool × List Instr × List (Word64 × Word64 × Nat) := (s.halted, s.pending, s.seen)

section
variable {s t : State}

theorem StoresOnly.still (h : StoresOnly s t) : t.still = s.still := by
  rw [h]
  rfl

theorem RegsOnly.still (h : RegsOnly s t) : t.still = s.still := by
  rw [h]
  rfl

theorem EventOnly.still (h : EventOnly s t) : t.still = s.still := by
  rw [h]
  rfl

theorem Flows.still {β : Type} {p : Inst → β} (h : Flows p s t) : t.still = s.still := h.read State.still fun _ => rfl

/-- A command whose effect leaves the halt and the queue answers with it. -/
theorem act_eq_still {r : State} {f : State → State} (h : t.still = s.still) (hl : r.live = true) (hf : f r = t)
    (hh : s.halted = r.halted) (hp : s.pending = r.pending) : act r f = .next t :=
  act_eq_next hl hf (((congrArg Prod.fst h).trans hh).trans (State.halted_of_live hl))
    ((congrArg (fun x => x.2.1) h).trans hp)

end

section
variable (s : State)

theorem State.ledger_still (seq : Nat) (es : List LEvent) : (s.ledger seq es).still = s.still := by
  refine foldl_keeps State.still _ _ _ fun t e _ => ?_
  unfold State.ledgerOne
  split
  · rfl
  · split
    · exact (State.ctxWrite_storesOnly _ _ _ _).still
    · rfl

theorem State.applyRun_still (o : Op) (v : Env) (r : RunOut) : (s.applyRun o v r).still = s.still := by
  unfold State.applyRun
  exact (State.ledger_still _ _ _).trans ((s.noteMirror_storesOnly _ _).trans (State.ctxBitsAll_storesOnly _ _ _)).still

theorem State.retemperAdd_still (o : Op) (v : Env) (r : RunOut) : (s.retemperAdd o v r).still = s.still :=
  (State.applyRun_still _ _ _ _).trans (s.ledger_still _ _)

theorem State.dropInst_still (i : Inst) : (s.dropInst i).still = s.still := (s.dropInst_regsOnly i).still

theorem State.dropInst_gone (i : Inst) : (s.dropInst i).inst? i.ctx i.no = none := by
  have h := s.withoutInst_inst? i
  rw [s.dropInst_regsOnly i]
  exact h

/-- The end of an instance leaves none of its number. -/
theorem State.instDone_gone (i : Inst) : (s.instDone i).inst? i.ctx i.no = none := State.dropInst_gone _ i

theorem State.instDone_still (i : Inst) : (s.instDone i).still = s.still := by
  have hindex (o : Op) : (s.resultIndex i o).still = s.still := by
    unfold State.resultIndex
    extract_lets
    split
    · rfl
    · exact s.ledger_still _ _
  have htemper (t : State) : (t.gatherRetemper i).still = t.still := by
    unfold State.gatherRetemper
    dsimp only
    split
    · split
      · exact t.retemperAdd_still _ _ _
      · rfl
    · rfl
  unfold State.instDone
  refine (State.dropInst_still _ i).trans ?_
  split
  · rfl
  · exact (htemper _).trans (hindex _)

theorem State.writeChunk_still (i : Inst) (o : Op) (chunk : Nat) : (State.writeChunk i o s chunk).still = s.still := by
  unfold State.writeChunk
  dsimp only
  split
  · exact (State.ledger_still _ _ _).trans ((s.noteMirror_storesOnly _ _).trans (State.ctxBitsAll_storesOnly _ _ _)).still
  · rfl

/-- The results of a chunk written leave the instances, the halt and the queue (R221). -/
theorem State.writeChunk_sight (i : Inst) (o : Op) (chunk : Nat) :
    (State.writeChunk i o s chunk).sight Held.unread = s.sight Held.unread := by
  unfold State.writeChunk
  dsimp only
  split
  · refine (State.setOp_sight _ _ (by exact fun _ => ⟨rfl, rfl⟩)).trans ((State.ledger_sight _ _ _ _).trans ?_)
    exact ((s.noteMirror_storesOnly _ _).trans (State.ctxBitsAll_storesOnly _ _ _)).sight
  · rfl

end

end Sys2Proof.Machine
end

section
/-! Seal reports and seals (R228). -/

namespace Sys2Proof.Machine

/-! ### SEAL_REPORT_SEND -/

theorem State.sendSeal_sends {β : Type} (p : Inst → β) (s : State) (i : Inst) (member : Nat) (out : Bool)
    (payload : List Byte) : Sends p s (s.sendSeal i member out payload) :=
  ⟨s.postMsg_unsent _ _, instView_of_insts (s.postMsg_insts _ _)⟩

theorem State.sendSeal_msgs (s : State) (i : Inst) (member : Nat) (out : Bool) (payload : List Byte) :
    ∃ x, (s.sendSeal i member out payload).msgs = s.msgs ++ [x] ∧ x.dst = (s.members i.ctx).getD member 0 ∧
      x.data = payload :=
  ⟨_, (s.postMsg_linkOnly _ _).msgs, rfl, rfl⟩

/-- A member other than the root sends at most a report as it has one. -/
theorem State.reportUp_sends {s : State} {c : Nat} (hself : s.selfIdx c ≠ 0) (no g : Nat) :
    Sends id s (s.reportUp c no g) := by
  unfold State.reportUp
  split
  · exact .refl _ s
  · rw [if_neg hself]
    split
    · exact s.sendSeal_sends _ _ _ _ _
    · exact .refl _ s

/-- A complete report goes to the parent. -/
theorem State.reportUp_complete {s : State} {i : Inst} {c no g : Nat} {r : Nat × Bool × Nat}
    (hi : s.inst? c no = some i) (hself : s.selfIdx c ≠ 0) (hr : s.combined i g = some r) :
    s.reportUp c no g = s.sendSeal i (treeParent (s.selfIdx c)) false (reportBytes g r) := by
  unfold State.reportUp
  rw [hi]
  dsimp only
  rw [if_neg hself, hr]

/-- An instance with a segment reported. -/
def Inst.reportsSeg (g : Nat) (i : Inst) : Inst := { i with reported := i.reported ++ [g] }

/-- The state in which a segment's report is sent. -/
def State.reporting (s : State) (i : Inst) (g : Nat) : State :=
  (s.forgetSeen i g true).setInst i.ctx i.no (Inst.reportsSeg g)

section
variable {s : State} {g : Nat} {i : Inst} (hi : s.inst? i.ctx i.no = some i) (hst : i.started = true)
  (hm : i.isMsg = false) (hk : i.firstK = 0) (hg : g < i.segs) (hrep : g ∉ i.reported)
  (hdel : s.segDelivered i g = true) (hself : s.selfIdx i.ctx ≠ 0) (hkids : s.sealKids i.ctx = [])
include hi

theorem State.reporting_inst? : (s.reporting i g).inst? i.ctx i.no = some (i.reportsSeg g) :=
  State.inst?_setInst (s.forgetSeen i g true) _ hi fun _ => ⟨rfl, rfl⟩

include hst hm hk hg hrep hdel hself hkids

/-- A whole segment of a member without children goes to its parent as it stands (R228). -/
theorem State.report_leaf : s.report i.ctx i.no g =
    (s.reporting i g).sendSeal (i.reportsSeg g) (treeParent (s.selfIdx i.ctx)) false
      (reportBytes g ((i.segTaken g (s.selfName i)).length, false, crc64 (s.segBytes i g))) := by
  have hgo : (i.started && !i.isMsg && decide (g < i.segs) && !i.reported.contains g && s.segDelivered i g) = true := by
    simp [hst, hm, hg, hrep, hdel]
  have hdetour : s.firstKDetour i g = s := if_pos (.inl hk)
  have hkids' : (s.reporting i g).sealKids (i.reportsSeg g).ctx = [] := hkids
  have hcomb : (s.reporting i g).combined (i.reportsSeg g) g =
      some ((i.segTaken g (s.selfName i)).length, false, crc64 (s.segBytes i g)) := by
    unfold State.combined
    rw [hkids']
    exact if_neg (by simp [Inst.reportsSeg])
  unfold State.report
  rw [hi]
  dsimp only
  rw [if_pos hgo, hdetour]
  exact State.reportUp_complete (s := s.reporting i g) (State.reporting_inst? hi) hself hcomb

theorem exec_sealReportSend (hl : s.live = true) :
    ∃ t i' x, exec (.sealReportSend i.ctx i.no g) s = .next t ∧ t.inst? i.ctx i.no = some i' ∧
      i'.reported = i.reported ++ [g] ∧ t.msgs = s.msgs ++ [x] ∧
      x.dst = (s.members i.ctx).getD (treeParent (s.selfIdx i.ctx)) 0 ∧
      x.data = reportBytes g ((i.segTaken g (s.selfName i)).length, false, crc64 (s.segBytes i g)) ∧
      t.ops = s.ops ∧ t.mem = s.mem := by
  have heq := State.report_leaf hi hst hm hk hg hrep hdel hself hkids
  have hsend := (s.reporting i g).sendSeal_sends id (i.reportsSeg g) (treeParent (s.selfIdx i.ctx)) false
    (reportBytes g ((i.segTaken g (s.selfName i)).length, false, crc64 (s.segBytes i g)))
  obtain ⟨x, hmsgs, hdst, hdata⟩ := (s.reporting i g).sendSeal_msgs (i.reportsSeg g) (treeParent (s.selfIdx i.ctx)) false
    (reportBytes g ((i.segTaken g (s.selfName i)).length, false, crc64 (s.segBytes i g)))
  obtain ⟨i', hi', hid⟩ := hsend.find (State.reporting_inst? hi)
  exact ⟨_, i', x, hsend.flows.act_eq (f := fun s => s.report i.ctx i.no g) hl heq rfl rfl, hi',
    congrArg Inst.reported hid, hmsgs, hdst, hdata, hsend.flows.ops, hsend.read State.mem fun _ => rfl⟩

end

/-! ### SEAL_REPORT -/

/-- An instance with a report of a child. -/
def Inst.childReports (key : Nat) (r : Nat × Bool × Nat) (i : Inst) : Inst :=
  { i with reports := mput none i.reports key (some r) }

/-- The report that a payload carries. -/
def reportOf (data : List Byte) : Nat × Bool × Nat :=
  (leNat ((data.drop 4).take 4), leNat ((data.drop 8).take 1) % 2 == 1, leNat (data.drop 16))

theorem reportBytes_seg {g : Nat} (hg : g < 2 ^ 32) (r : Nat × Bool × Nat) : leNat ((reportBytes g r).take 4) = g :=
  (leNat_leBytes 4 g).trans (Nat.mod_eq_of_lt hg)

theorem reportOf_reportBytes (g : Nat) {n digest : Nat} (fault : Bool) (hn : n < 2 ^ 32) (hd : digest < 2 ^ 64) :
    reportOf (reportBytes g (n, fault, digest)) = (n, fault, digest) := by
  have hcount : leNat (((reportBytes g (n, fault, digest)).drop 4).take 4) = n :=
    (leNat_leBytes 4 n).trans (Nat.mod_eq_of_lt hn)
  have hfault : leNat (((reportBytes g (n, fault, digest)).drop 8).take 1) = fault.toNat :=
    (leNat_leBytes 1 fault.toNat).trans (by cases fault <;> rfl)
  have hdigest : leNat ((reportBytes g (n, fault, digest)).drop 16) = digest :=
    (leNat_leBytes 8 digest).trans (Nat.mod_eq_of_lt hd)
  unfold reportOf
  rw [hcount, hfault, hdigest]
  cases fault <;> rfl

/-- A report, or a seal, of a segment of its instance matches Table 9.18. -/
theorem Inst.msgOk_seal {i : Inst} {tag1 : Word64} {data : List Byte} (hkind : tgKind tag1 = kdSeal)
    (hm : i.isMsg = false) (hlen : data.length = if tgOut tag1 then 16 else 24) (hg : leNat (data.take 4) < i.segs) :
    i.msgOk tag1 data = true := by
  unfold Inst.msgOk
  dsimp only
  rw [if_pos hkind]
  simp [hm, hlen, hg]

section
variable (s : State)

theorem State.sealAgain_sends (i : Inst) (g src : Nat) : Sends id s (s.sealAgain i g src) := by
  unfold State.sealAgain
  split
  · exact s.sendSeal_sends _ _ _ _ _
  · exact .refl _ s

/-- A child's report is noted; what more it does is messages (R228). -/
theorem State.msgAct_report {i : Inst} {tag1 : Word64} {data : List Byte} (port : Nat) (tag0 : Word64)
    (hkind : tgKind tag1 = kdSeal) (hout : tgOut tag1 = false) (hself : s.selfIdx i.ctx ≠ 0) :
    Sends id (s.setInst i.ctx i.no (Inst.childReports (2 ^ 20 * tgSrc tag1 + leNat (data.take 4)) (reportOf data)))
      (s.msgAct i port tag0 tag1 data) := by
  have hup := State.reportUp_sends
    (s := s.setInst i.ctx i.no (Inst.childReports (2 ^ 20 * tgSrc tag1 + leNat (data.take 4)) (reportOf data))) hself i.no
    (leNat (data.take 4))
  unfold State.msgAct
  dsimp only
  rw [if_pos hkind, if_neg (by simp [hout])]
  exact hup.trans (State.sealAgain_sends _ i _ _)

end

/-! ### SEAL -/

/-- An instance with a segment sealed: what was retained of it is freed. -/
def Inst.seals (g : Nat) (cs : List Nat) (i : Inst) : Inst :=
  { i with sealedSegs := i.sealedSegs ++ [g], sent := i.sent.filter fun x => !cs.contains (tgChunk x.tag1) }

/-- The state in which the results of a segment have been written. -/
def State.segWritten (s : State) (i : Inst) (g : Nat) : State :=
  (i.segChunks g).foldl (State.writeChunk i (s.instOp i)) s

theorem Inst.sealed_iff (i : Inst) : i.sealed = true ↔ ∀ k < i.segs, k ∈ i.sealedSegs := by
  unfold Inst.sealed
  simp [List.all_eq_true]

section
variable {s : State} {i : Inst} {g : Nat}

theorem State.segWritten_sight (s : State) (i : Inst) (g : Nat) :
    (s.segWritten i g).sight Held.unread = s.sight Held.unread :=
  foldl_keeps (State.sight Held.unread) _ _ _ fun t n _ => t.writeChunk_sight i _ n

theorem State.segWritten_still (s : State) (i : Inst) (g : Nat) : (s.segWritten i g).still = s.still :=
  foldl_keeps State.still _ _ _ fun t n _ => t.writeChunk_still i _ n

section
variable (hi : s.inst? i.ctx i.no = some i) (hg : g ∉ i.sealedSegs)
include hi

/-- The instance as a good seal finds it. -/
theorem State.segWritten_seals : ∃ j,
    ((s.segWritten i g).setInst i.ctx i.no (Inst.seals g (i.segChunks g))).inst? i.ctx i.no = some j ∧ j.segs = i.segs ∧ j.sealedSegs = i.sealedSegs ++ [g] ∧ j.ctx = i.ctx ∧ j.no = i.no := by
  obtain ⟨j, hj, hcore, -⟩ := inst?_of_sight (s.segWritten_sight i g) hi
  have hsegs : j.segs = i.segs := Inst.of_core Inst.segs (fun _ => rfl) hcore
  have hsealed : j.sealedSegs = i.sealedSegs := Inst.of_core Inst.sealedSegs (fun _ => rfl) hcore
  obtain ⟨hctx, hno⟩ := State.inst?_key hj
  exact ⟨_, State.inst?_setInst _ (Inst.seals g (i.segChunks g)) hj fun _ => ⟨rfl, rfl⟩, hsegs,
    congrArg (· ++ [g]) hsealed, hctx, hno⟩

include hg

/-- A good seal of an open segment writes its results and marks it; the last one ends the instance (R228). -/
theorem State.sealAct_good {j : Inst}
    (hj : ((s.segWritten i g).setInst i.ctx i.no (Inst.seals g (i.segChunks g))).inst? i.ctx i.no = some j) :
    s.sealAct i.ctx i.no g true =
      if j.sealed then ((s.segWritten i g).setInst i.ctx i.no (Inst.seals g (i.segChunks g))).instDone j
      else (s.segWritten i g).setInst i.ctx i.no (Inst.seals g (i.segChunks g)) := by
  unfold State.sealAct
  rw [hi]
  dsimp only
  rw [if_neg (by simpa using hg), if_pos rfl]
  split
  · rename_i k hk
    cases hj.symm.trans hk
    rfl
  · rename_i hnone
    cases hj.symm.trans hnone

theorem State.sealAct_still : (s.sealAct i.ctx i.no g true).still = s.still := by
  obtain ⟨j, hj, -⟩ := State.segWritten_seals (g := g) hi
  have hset := (Flows.setInst (p := fun _ => ()) (s.segWritten i g) i.ctx i.no (g := Inst.seals g (i.segChunks g))
    fun _ => ⟨rfl, rfl, rfl⟩).still.trans (s.segWritten_still i g)
  rw [State.sealAct_good hi hg hj]
  split
  · exact (State.instDone_still _ j).trans hset
  · exact hset

theorem State.sealAct_open (hopen : ∃ k < i.segs, k ≠ g ∧ k ∉ i.sealedSegs) :
    ∃ j, (s.sealAct i.ctx i.no g true).inst? i.ctx i.no = some j ∧ j.sealedSegs = i.sealedSegs ++ [g] := by
  obtain ⟨j, hj, hsegs, hsealed, -⟩ := State.segWritten_seals (g := g) hi
  obtain ⟨k, hk, hkg, hks⟩ := hopen
  have hnot : ¬ j.sealed = true := by
    rw [Inst.sealed_iff, hsegs, hsealed]
    intro h
    have hmem := h k hk
    simp [hkg, hks] at hmem
  exact ⟨j, by rw [State.sealAct_good hi hg hj, if_neg hnot]; exact hj, hsealed⟩

theorem State.sealAct_last (hlast : ∀ k < i.segs, k ≠ g → k ∈ i.sealedSegs) :
    (s.sealAct i.ctx i.no g true).inst? i.ctx i.no = none := by
  obtain ⟨j, hj, hsegs, hsealed, hctx, hno⟩ := State.segWritten_seals (g := g) hi
  have hall : j.sealed = true := by
    rw [Inst.sealed_iff, hsegs, hsealed]
    intro k hk
    by_cases hkg : k = g
    · simp [hkg]
    · simp [hlast k hk hkg]
  rw [State.sealAct_good hi hg hj, if_pos hall, ← hctx, ← hno]
  exact State.instDone_gone _ j

end

end

theorem sealBytes_seg {g : Nat} (hg : g < 2 ^ 32) (digest : Nat) : leNat ((sealBytes g true digest).take 4) = g :=
  (leNat_leBytes 4 g).trans (Nat.mod_eq_of_lt hg)

/-- A good seal is handed down the tree, and acted on (R228). -/
theorem State.msgAct_seal (s : State) (i : Inst) {tag1 : Word64} {g digest : Nat} (port : Nat) (tag0 : Word64)
    (hkind : tgKind tag1 = kdSeal) (hout : tgOut tag1 = true) (hg : g < 2 ^ 32) :
    ∃ u, Sends id s u ∧ s.msgAct i port tag0 tag1 (sealBytes g true digest) = u.sealAct i.ctx i.no g true := by
  unfold State.msgAct
  dsimp only
  rw [if_pos hkind, if_pos hout, sealBytes_seg hg]
  exact ⟨_, .foldl (fun t k => t.sendSeal_sends id i k true _) _ s, rfl⟩

section
variable {s : State} {dst c g : Nat} {tag0 tag1 : Word64} {i : Inst} (hl : s.live = true)
  (hctx : s.ctxAt dst tag0 = some c) (hsus : s.senderNode c tag1 ∉ (mget {} s.ctxs c).suspects)
  (hi : s.inst? c (tgSeq tag0) = some i) (hep : tgEpoch tag1 = i.epoch) (hkind : tgKind tag1 = kdSeal)
  (hst : i.started = true) (hm : i.isMsg = false) (hg : g < i.segs) (hsegs : i.segs ≤ 2 ^ 20)
  (hnew : (tag0, tgPlain tag1, g) ∉ s.seen)
include hl hctx hsus hi hep hkind hst hm hg hsegs hnew

theorem exec_sealReport {n digest : Nat} {fault : Bool} (hout : tgOut tag1 = false) (hn : n < 2 ^ 32)
    (hd : digest < 2 ^ 64) (hself : s.selfIdx c ≠ 0) {u : State}
    (harr : s.collArrives (isCollMsg dst tag0 tag1 (reportBytes g (n, fault, digest))) = some u)
    (hu : u = { s with ports := u.ports }) :
    ∃ t i', exec (.sealReport dst tag0 tag1 (reportBytes g (n, fault, digest))) s = .next t ∧
      t.inst? c (tgSeq tag0) = some i' ∧ mget none i'.reports (2 ^ 20 * tgSrc tag1 + g) = some (n, fault, digest) ∧
      (tag0, tgPlain tag1, g) ∈ t.seen ∧ t.ops = s.ops ∧ t.mem = s.mem := by
  have hseg : leNat ((reportBytes g (n, fault, digest)).take 4) = g := reportBytes_seg (by omega) _
  have hkey : msgKey tag0 tag1 (reportBytes g (n, fault, digest)) = (tag0, tgPlain tag1, g) := by
    unfold msgKey msgSeg
    rw [if_pos hkind, hseg]
  have hok : i.msgOk tag1 (reportBytes g (n, fault, digest)) = true :=
    Inst.msgOk_seal hkind hm (by rw [hout]; rfl) (by rw [hseg]; exact hg)
  obtain ⟨v, hv, hact⟩ := State.msgRow_first hctx hsus hi hep hst (by rw [hkey]; exact hnew) hok harr hu
  obtain ⟨rfl, hno⟩ := State.inst?_key hi
  have hfound : v.inst? i.ctx i.no = some i := (hv.inst _ _).trans (hno ▸ hi)
  have hsend := v.msgAct_report (data := reportBytes g (n, fault, digest)) 0 tag0 hkind hout
    (by rw [show v.selfIdx i.ctx = s.selfIdx i.ctx from hv.fget _ _]; exact hself)
  rw [hseg, reportOf_reportBytes g fault hn hd] at hsend
  obtain ⟨i', hi', hid⟩ := hsend.find (v.inst?_setInst _ hfound fun _ => ⟨rfl, rfl⟩)
  refine ⟨_, i', hsend.flows.act_eq (f := fun s => s.msgRow kdSeal false dst 0 tag0 tag1 _) hl (hact 0 hkind hout)
    hv.halted hv.pending, hno ▸ hi', ?_, ?_, hsend.flows.ops.trans hv.ops, (hsend.read State.mem fun _ => rfl).trans hv.mem⟩
  · have hreports : i'.reports = mput none i.reports (2 ^ 20 * tgSrc tag1 + g) (some (n, fault, digest)) :=
      congrArg Inst.reports hid
    rw [hreports]
    exact mget_mput_same _ _ _ _
  · rw [hsend.flows.seen, ← hkey]
    exact hv.seen

theorem exec_sealMsg {digest : Nat} (hout : tgOut tag1 = true) (hopen : g ∉ i.sealedSegs) {u : State}
    (harr : s.collArrives (isCollMsg dst tag0 tag1 (sealBytes g true digest)) = some u)
    (hu : u = { s with ports := u.ports }) :
    ∃ t, exec (.sealMsg dst tag0 tag1 (sealBytes g true digest)) s = .next t ∧
      ((∃ k < i.segs, k ≠ g ∧ k ∉ i.sealedSegs) →
        ∃ i', t.inst? c (tgSeq tag0) = some i' ∧ i'.sealedSegs = i.sealedSegs ++ [g]) ∧
      ((∀ k < i.segs, k ≠ g → k ∈ i.sealedSegs) → t.inst? c (tgSeq tag0) = none) := by
  have hseg : leNat ((sealBytes g true digest).take 4) = g := sealBytes_seg (by omega) _
  have hkey : msgKey tag0 tag1 (sealBytes g true digest) = (tag0, tgPlain tag1, g) := by
    unfold msgKey msgSeg
    rw [if_pos hkind, hseg]
  have hok : i.msgOk tag1 (sealBytes g true digest) = true :=
    Inst.msgOk_seal hkind hm (by rw [hout]; rfl) (by rw [hseg]; exact hg)
  obtain ⟨v, hv, hact⟩ := State.msgRow_first hctx hsus hi hep hst (by rw [hkey]; exact hnew) hok harr hu
  obtain ⟨w, hw, hseal⟩ := v.msgAct_seal i (digest := digest) 0 tag0 hkind hout (show g < 2 ^ 32 by omega)
  obtain ⟨rfl, hno⟩ := State.inst?_key hi
  rw [← hno] at hi ⊢
  obtain ⟨i', hi', rfl⟩ := hw.find ((hv.inst _ _).trans hi)
  exact ⟨_, act_eq_still (f := fun s => s.msgRow kdSeal true dst 0 tag0 tag1 _)
    ((State.sealAct_still hi' hopen).trans hw.flows.still) hl ((hact 0 hkind hout).trans hseal) hv.halted hv.pending,
    State.sealAct_open hi' hopen, State.sealAct_last hi' hopen⟩

end

/-- Settles O41: a report goes up as the segment is whole, a child's report is noted, and a good seal marks its segment or,
as the last one, ends the instance. -/
theorem collSeals : Obligations.CollSeals := by
  unfold Obligations.CollSeals
  refine ⟨fun s c no g i hl hi hst hm hk hg hrep hdel hself hkids hc hno => ?report,
    fun s dst c g n digest fault tag0 tag1 i hl hctx hsus hi hep hkind hout hst hm hg hn hd hsegs hself hnew u harr hu =>
      exec_sealReport hl hctx hsus hi hep hkind hst hm hg hsegs hnew hout hn hd hself harr hu,
    fun s dst c g digest tag0 tag1 i hl hctx hsus hi hep hkind hout hst hm hg hsegs hopen hnew u harr hu =>
      exec_sealMsg hl hctx hsus hi hep hkind hst hm hg hsegs hnew hout hopen harr hu⟩
  case report =>
    subst hc hno
    exact exec_sealReportSend hi hst hm hk hg hrep hdel hself hkids hl

end Sys2Proof.Machine
end

section
/-! Messages of barriers and scalar reductions (R231 to R234): arrivals and contributions, releases and results,
acknowledgements and resends. -/

namespace Sys2Proof.Machine

/-! ### The end of a message instance -/

/-- An instance has ended; the halt, the queue and the messages that have come are as before. -/
structure MsgEnds (i : Inst) (s t : State) : Prop where
  inst : t.inst? i.ctx i.no = none
  still : t.still = s.still

section
variable (s : State)

theorem State.collEvent_still (c cause : Nat) {cls : Cls} (hc : cls ≠ .fatal) (a b : Nat) :
    (s.collEvent c cause cls a b).still = s.still := (s.collEventAt_eventOnly _ c hc a b).still

theorem State.depart_still (c stamp d : Nat) : (s.depart c stamp d).still = s.still := by
  unfold State.depart
  dsimp only
  split
  · rfl
  · split
    · exact s.collEvent_still c 0x0B (by exact nofun) 0 0
    · rfl

theorem State.rootBell_still (c : Nat) : (s.rootBell c).still = s.still := by
  unfold State.rootBell
  dsimp only
  split
  · rfl
  · exact (regsOnly_fset s Fl.grpBellOffset c 0).still

theorem State.logRelease_flows {β : Type} (p : Inst → β) (i : Inst) (tag0 tag1 : Word64) (data : List Byte) :
    Flows p s (s.logRelease i tag0 tag1 data) := .logCollIn s _ tag0 tag1 data

theorem State.instDone_ends {i : Inst} {u : State} (h : u.still = s.still) : MsgEnds i s (u.instDone i) :=
  ⟨u.instDone_gone i, (u.instDone_still i).trans h⟩

theorem State.rootRelease_ends (i : Inst) : MsgEnds i s (s.rootRelease i) := by
  unfold State.rootRelease
  exact s.instDone_ends ((State.depart_still _ _ _ _).trans ((State.outBelow_sends _ _ _ _ _ _ _).flows.still.trans
    ((State.logRelease_flows _ Inst.unsent _ _ _ _).still.trans (s.rootBell_still i.ctx))))

theorem State.scalarWrite_ends (i : Inst) (bs : List Byte) : MsgEnds i s (s.scalarWrite i bs) := by
  unfold State.scalarWrite
  split
  · exact s.instDone_ends rfl
  · dsimp only
    refine s.instDone_ends ?_
    split
    · exact (State.retemperAdd_still _ _ _ _).trans (s.applyRun_still _ _ _)
    · exact s.applyRun_still _ _ _

theorem State.scalarDone_ends (i : Inst) (tag0 tag1 : Word64) (bs : List Byte) :
    MsgEnds i s (s.scalarDone i tag0 tag1 bs) := by
  have h := State.scalarWrite_ends (s.logCollIn (s.instPartner i) tag0 tag1 bs) i bs
  exact ⟨h.inst, h.still.trans (Flows.logCollIn (p := id) s _ tag0 tag1 bs).still⟩

end

/-! ### Arrivals and contributions -/

/-- What an instance has been sent is kept with it, or the instance has ended. -/
structure MsgKept (c no : Nat) (g : Got) (s t : State) : Prop where
  inst : t.inst? c no = none ∨ ∃ i, t.inst? c no = some i ∧ g ∈ i.got
  still : t.still = s.still

theorem MsgEnds.kept {i : Inst} {s u t : State} (h : MsgEnds i u t) (hu : u.still = s.still) (g : Got) :
    MsgKept i.ctx i.no g s t := ⟨.inl h.inst, h.still.trans hu⟩

/-- A sum of an instance keeps what the instance has been sent. -/
theorem State.addDone_kept {s : State} {j : Inst} (hj : s.inst? j.ctx j.no = some j) (k : Nat) (x : Stg) (chunk : Nat)
    (bs : List Byte) : ∃ j', (s.addDone j k x chunk bs).inst? j.ctx j.no = some j' ∧ j'.got = j.got ∧
      (s.addDone j k x chunk bs).still = s.still := by
  have hadds : Flows Inst.unsummed s (s.setInst j.ctx j.no (Inst.adds k chunk)) :=
    .setInst s _ _ fun _ => ⟨rfl, rfl, rfl⟩
  have hadd := hadds.trans ((s.addDone_flows j k x chunk bs).comp fun i => ({ i with added := [] } : Inst))
  obtain ⟨j', hj', hu⟩ := hadd.find hj
  exact ⟨j', hj', keeps_of_reading Inst.unsummed Inst.got (fun _ => rfl) hu, hadd.still⟩

/-- A message instance goes as far as it can with what it has been sent (R219, R231). -/
theorem State.msgStep_kept {c no : Nat} {g : Got} (f : Nat) {s : State} {j : Inst} (hj : s.inst? c no = some j)
    (hg : g ∈ j.got) : MsgKept c no g s (State.msgStep c no f s) := by
  have hstays (s : State) {j : Inst} (hj : s.inst? c no = some j) (hg : g ∈ j.got) : MsgKept c no g s s :=
    ⟨.inr ⟨j, hj, hg⟩, rfl⟩
  induction f generalizing s j with
  | zero => exact hstays s hj hg
  | succ f ih =>
    unfold State.msgStep
    split
    · exact hstays s hj hg
    · rename_i i hi
      obtain ⟨hfound, -⟩ := Option.filter_eq_some_iff.mp hi
      cases hj.symm.trans hfound
      obtain ⟨rfl, rfl⟩ := State.inst?_key hj
      dsimp only
      split
      · rename_i k x ins _
        obtain ⟨j', hj', hgot, hstill⟩ := State.addDone_kept hj k x 0
          (j.combine (fun k c => (s.scalarVal j k c).val) ins)
        have hrest := ih hj' (hgot ▸ hg)
        exact ⟨hrest.inst, hrest.still.trans hstill⟩
      · split
        · exact hstays s hj hg
        · split
          · split
            · exact (s.rootRelease_ends j).kept rfl g
            · exact hstays s hj hg
          · exact (State.scalarDone_ends _ j _ _ _).kept (State.outBelow_sends _ _ _ _ _ _ _).flows.still g

/-- An arrival or contribution as it is noted. -/
def msgGot (tag1 : Word64) (data : List Byte) : Got :=
  { src := tgSrc tag1, stage := tgStage tag1, out := false, chunk := 0, data := data }

theorem State.msgAct_inbound {s : State} {i : Inst} {tag1 : Word64} (port : Nat) (tag0 : Word64) (data : List Byte)
    (hi : s.inst? i.ctx i.no = some i) (hk : tgKind tag1 ≠ kdSeal) (hout : tgOut tag1 = false) :
    MsgKept i.ctx i.no (msgGot tag1 data) s (s.msgAct i port tag0 tag1 data) := by
  have hfound := s.inst?_setInst (Inst.took (msgGot tag1 data)) hi fun _ => ⟨rfl, rfl⟩
  have hset : Flows (fun _ => ()) s (s.setInst i.ctx i.no (Inst.took (msgGot tag1 data))) :=
    .setInst s _ _ fun _ => ⟨rfl, rfl, rfl⟩
  have hgo := State.msgStep_kept 8 hfound (List.mem_append_right _ (List.mem_singleton.mpr rfl))
  unfold State.msgAct
  dsimp only
  rw [if_neg hk, if_neg (by simp [hout])]
  exact ⟨hgo.inst, hgo.still.trans hset.still⟩

/-! ### Releases -/

/-- A release goes on, and the instance ends behind a new OFFSET (R232). -/
theorem State.released_eq (s : State) (i : Inst) (port : Nat) (tag0 tag1 : Word64) (data : List Byte) :
    ∃ u, Sends Inst.unsent ((s.logRelease i tag0 tag1 data).fset Fl.grpBellOffset i.ctx
        (((leNat (data.take 8) + s.fget Fl.portStatDelay port) % 2 ^ 64 + 2 ^ 64 - (s.logRelease i tag0 tag1 data).now) %
          2 ^ 64)) u ∧
      s.released i port tag0 tag1 data =
        (u.depart i.ctx (leNat (data.take 8)) (leNat ((data.drop 8).take 4))).instDone i := by
  unfold State.released
  dsimp only
  refine ⟨_, ?_, rfl⟩
  split
  · exact .refl _ _
  · exact (State.toRanks_sends _ _ _ _ _ _ _ _).trans (State.outBelow_sends _ _ _ _ _ _ _)

section
variable (s : State) {c : Nat}

theorem State.depart_offset (hc : c < 1024) (stamp d : Nat) :
    (s.depart c stamp d).fget Fl.grpBellOffset c = s.fget Fl.grpBellOffset c := by
  unfold State.depart
  dsimp only
  split
  · rfl
  · split
    · exact (s.collEventAt_frame _ c (cause := 0x0B) (cls := .corrected) (by exact nofun) 0 0).fget Fl.grpBellOffset c hc
        ⟨⟨by decide, by decide⟩, by decide⟩
    · rfl

theorem State.instDone_offset {i : Inst} (hm : i.isMsg = true) (hc : i.ctx < 1024) :
    (s.instDone i).fget Fl.grpBellOffset i.ctx = s.fget Fl.grpBellOffset i.ctx := by
  rw [s.instDone_msg hm]
  unfold State.dropInst
  dsimp only
  split
  · rfl
  · exact State.fget_fset_ne _ (f := Fl.grpStatState) gsIdle hc hc (.inl (by decide))

theorem State.released_ends (i : Inst) (port : Nat) (tag0 tag1 : Word64) (data : List Byte) :
    MsgEnds i s (s.released i port tag0 tag1 data) := by
  obtain ⟨u, hu, heq⟩ := s.released_eq i port tag0 tag1 data
  rw [heq]
  exact s.instDone_ends ((u.depart_still _ _ _).trans (hu.flows.still.trans
    ((regsOnly_fset _ Fl.grpBellOffset i.ctx _).still.trans (s.logRelease_flows Inst.unsent i tag0 tag1 data).still)))

theorem State.released_offset {i : Inst} (hm : i.isMsg = true) (hc : i.ctx < 1024) (port : Nat) (tag0 tag1 : Word64)
    (data : List Byte) : (s.released i port tag0 tag1 data).fget Fl.grpBellOffset i.ctx =
      ((leNat (data.take 8) + s.fget Fl.portStatDelay port) % 2 ^ 64 + 2 ^ 64 - s.now) % 2 ^ 64 := by
  obtain ⟨u, hu, heq⟩ := s.released_eq i port tag0 tag1 data
  have hnow : (s.logRelease i tag0 tag1 data).now = s.now :=
    (s.logRelease_flows Inst.unsent i tag0 tag1 data).read State.now fun _ => rfl
  rw [heq, State.instDone_offset _ hm hc, u.depart_offset hc, hu.fget, State.fget_fset_same _ _ _ _ (by decide), hnow]
  exact Nat.mod_mod _ _

end

/-! ### Results of scalar reductions -/

theorem State.msgAct_result (s : State) (i : Inst) (port : Nat) (tag0 : Word64) {tag1 : Word64} (data : List Byte)
    (hk : tgKind tag1 = kdScalar) (hout : tgOut tag1 = true) : MsgEnds i s (s.msgAct i port tag0 tag1 data) := by
  have hsent (x : Stg × Nat) : Sends Inst.unsent s ((s.toRanks i x.1 (s.outRanks i (s.stages i) x.2 (x.1.origin 0) 0) 0 true
      false data).outBelow i (s.stages i) 0 false data x.2) :=
    (s.toRanks_sends _ _ _ _ _ _ _).trans (State.outBelow_sends _ _ _ _ _ _ _)
  unfold State.msgAct
  dsimp only
  rw [hk, if_neg (by decide), if_pos hout, if_neg (by decide)]
  split
  · exact s.scalarDone_ends i tag0 tag1 data
  · rename_i x _
    have h := State.scalarDone_ends ((s.toRanks i x.1 (s.outRanks i (s.stages i) x.2 (x.1.origin 0) 0) 0 true
      false data).outBelow i (s.stages i) 0 false data x.2) i tag0 tag1 data
    exact ⟨h.inst, h.still.trans (hsent x).flows.still⟩

theorem State.msgAct_release (s : State) (i : Inst) (port : Nat) (tag0 : Word64) {tag1 : Word64} (data : List Byte)
    (hk : tgKind tag1 = kdBarrier) (hout : tgOut tag1 = true) :
    s.msgAct i port tag0 tag1 data = s.released i port tag0 tag1 data := by
  unfold State.msgAct
  dsimp only
  rw [hk, if_neg (by decide), if_pos hout, if_pos rfl]

/-! ### Kept messages -/

section
variable (s : State)

theorem EventOnly.msgs {s t : State} (h : EventOnly s t) : t.msgs = s.msgs := by rw [h]

theorem State.issueOn_msgs (t : Txn) (stream : Nat) (who : Option Waiter) (b : Bool) :
    (s.issueOn t stream who b).msgs = s.msgs := by
  rcases s.issueOn_cases t stream who b with h | h
  · rw [h]
    unfold State.unrouted
    split
    · exact ((s.fset Fl.twnAdoptGo 0 0).logEvent_eventOnly (by exact nofun)).msgs.trans (s.fset_msgs _ _ _)
    · unfold State.mirrorBack State.redirty
      dsimp only
      split
      · split <;> rfl
      · split
        · rfl
        · split <;> rfl
    · split <;> rfl
    · rfl
  · exact h.msgs

theorem State.dropCollReq_msgs (ttype dst : Nat) (tag0 tag1 : Word64) :
    (s.dropCollReq ttype dst tag0 tag1).msgs = s.msgs := by
  unfold State.dropCollReq State.retryWaiting
  exact foldl_keeps State.msgs _ _ _ fun t w _ => t.issueOn_msgs _ _ _ _

end

theorem tgResend_tgAgain (t : Word64) : tgResend (tgAgain t) = true := by
  unfold tgResend tgAgain wbits
  rw [BitVec.toNat_ofNat, Nat.mod_eq_of_lt (setBits_lt _ t.isLt (by decide) (by decide)), bitsOf_setBits_same]
  rfl

/-- A copy sent again is the same but for its RESEND. -/
theorem tgPlain_tgAgain (t : Word64) : tgPlain (tgAgain t) = tgPlain t := by
  unfold tgPlain tgAgain
  rw [BitVec.toNat_ofNat, Nat.mod_eq_of_lt (setBits_lt _ t.isLt (by decide) (by decide))]
  refine congrArg (BitVec.ofNat 64) (Nat.eq_of_testBit_eq fun k => ?_)
  rw [setBits_testBit, setBits_testBit, setBits_testBit]
  split <;> rfl

/-! ### COLL_MSG_ACK and COLL_MSG_RESEND -/

/-- The messages kept without the one that is acknowledged. -/
def State.ackedMsgs (s : State) (src : Nat) (tag0 tag1 : Word64) : List Sent :=
  s.msgs.eraseP fun x =>
    x.dst == src && x.tag0 == BitVec.ofNat 64 (setBits tag0.toNat 0 0 0) && tgPlain x.tag1 == tgPlain tag1

/-- What a change of the kept messages leaves, with requests sent or dropped. -/
structure MsgsOnly (l : List Sent) (s t : State) : Prop where
  msgs : t.msgs = l
  flows : Flows Inst.posted s t
  quiet : s.waitTxns = [] → t.insts = s.insts ∧ t.mem = s.mem ∧ t.regs = s.regs

theorem LinkOnly.quiet {s t : State} (h : LinkOnly s t) : t.insts = s.insts ∧ t.mem = s.mem ∧ t.regs = s.regs := by
  rw [h]
  exact ⟨rfl, rfl, rfl⟩

/-- Kept messages changed, and a request dropped (R262). -/
theorem State.dropCollReq_msgsOnly (s : State) (l : List Sent) (ttype dst : Nat) (tag0 tag1 : Word64) :
    MsgsOnly l s (State.dropCollReq { s with msgs := l } ttype dst tag0 tag1) where
  msgs := State.dropCollReq_msgs { s with msgs := l } ttype dst tag0 tag1
  flows := ⟨(State.dropCollReq_flows { s with msgs := l } ttype dst tag0 tag1).rest,
    (State.dropCollReq_flows { s with msgs := l } ttype dst tag0 tag1).inst⟩
  quiet h := (State.dropCollReq_linkOnly { s with msgs := l } h ttype dst tag0 tag1).quiet

theorem exec_collMsgAck {s : State} {src : Nat} {tag0 tag1 : Word64} (hl : s.live = true) {u : State}
    (harr : s.collArrives (fun t => isCollAck ttCollMsg src tag0 tag1 t && wbits t.arg0 0 0 == 1) = some u)
    (hu : u = { s with ports := u.ports }) :
    ∃ t, exec (.collMsgAck src tag0 tag1) s = .next t ∧ MsgsOnly (s.ackedMsgs src tag0 tag1) s t := by
  generalize u.ports = ports at hu
  subst hu
  have h := State.dropCollReq_msgsOnly { s with ports := ports } (s.ackedMsgs src tag0 tag1) ttCollMsg src
    (BitVec.ofNat 64 (setBits tag0.toNat 0 0 0)) tag1
  refine ⟨_, ?_, h.msgs, ⟨h.flows.rest, h.flows.inst⟩, h.quiet⟩
  show execCollMsgAck src tag0 tag1 s = _
  unfold execCollMsgAck
  refine h.flows.act_eq hl ?_ rfl rfl
  rw [harr]
  rfl

/-- A message as it is sent again (R234). -/
def State.msgAgain (s : State) (x : Sent) : Sent :=
  { x with tag1 := tgAgain x.tag1, resends := x.resends + 1, since := s.now }

theorem State.msgAgain_reads (s : State) (x : Sent) : (s.msgAgain x).resends = x.resends + 1 ∧
    tgResend (s.msgAgain x).tag1 = true ∧ tgPlain (s.msgAgain x).tag1 = tgPlain x.tag1 ∧ (s.msgAgain x).dst = x.dst ∧
    (s.msgAgain x).data = x.data := by
  cases x
  exact ⟨rfl, tgResend_tgAgain _, tgPlain_tgAgain _, rfl, rfl⟩

/-- The node that a kept message was sent from: this one, or the partner that it serves. -/
def State.msgSource (s : State) (x : Sent) : Nat :=
  if ((s.members ((s.ctxAt s.node x.tag0).getD 0)).getD (tgSrc x.tag1) s.node) = s.node then s.node
  else s.twin.serves.getD s.node

/-- A kept message renewed, with the request of its last copy dropped. -/
def State.msgRenewed (s : State) (n : Nat) (x : Sent) : State :=
  State.dropCollReq { s with msgs := s.msgs.set n (s.msgAgain x) } ttCollMsg x.dst x.tag0 x.tag1

theorem MsgsOnly.link {l : List Sent} {s t u : State} (h : MsgsOnly l s t) (k : LinkOnly t u) : MsgsOnly l s u where
  msgs := k.msgs.trans h.msgs
  flows := h.flows.trans (Sends.of_link k).flows
  quiet hw := by
    obtain ⟨hi, hm, hr⟩ := h.quiet hw
    obtain ⟨ki, km, kr⟩ := k.quiet
    exact ⟨ki.trans hi, km.trans hm, kr.trans hr⟩

theorem exec_collMsgResend {s : State} {n : Nat} {x : Sent} (hl : s.live = true) (hx : s.msgs[n]? = some x)
    (hwait : s.elapsed x.since 16000 = true) (htrust : ∀ e ∈ s.ctxs, x.dst ∉ e.2.suspects) :
    ∃ t, exec (.collMsgResend n) s = .next t ∧ MsgsOnly (s.msgs.set n (s.msgAgain x)) s t := by
  have hgo : ¬ (!s.elapsed x.since (20 * cyclesPerUs) || s.ctxs.any fun e => e.2.suspects.contains x.dst) = true := by
    rw [show 20 * cyclesPerUs = 16000 from rfl, hwait]
    simpa using htrust
  have h : MsgsOnly (s.msgs.set n (s.msgAgain x)) s ((s.msgRenewed n x).sendMsg (s.msgSource x) (s.msgAgain x)) :=
    (s.dropCollReq_msgsOnly _ ttCollMsg x.dst x.tag0 x.tag1).link (State.sendMsg_linkOnly _ _ _)
  refine ⟨_, ?_, h⟩
  show execCollMsgResend n s = _
  unfold execCollMsgResend
  refine h.flows.act_eq hl ?_ rfl rfl
  rw [hx]
  dsimp only
  rw [if_neg hgo]
  rfl

/-! ### The rows of the messages -/

section
variable {s : State} {dst c : Nat} {tag0 tag1 : Word64} {data : List Byte} {i : Inst} (hl : s.live = true)
  (hctx : s.ctxAt dst tag0 = some c) (hsus : s.senderNode c tag1 ∉ (mget {} s.ctxs c).suspects)
  (hi : s.inst? c (tgSeq tag0) = some i) (hep : tgEpoch tag1 = i.epoch) (hst : i.started = true)
  (hnew : (tag0, tgPlain tag1, 0) ∉ s.seen) (hok : i.msgOk tag1 data = true) {u : State}
  (harr : s.collArrives (isCollMsg dst tag0 tag1 data) = some u) (hu : u = { s with ports := u.ports })

/-- Messages other than those of seals name no segment. -/
theorem msgKey_other (tag0 : Word64) (data : List Byte) (hk : tgKind tag1 ≠ kdSeal) :
    msgKey tag0 tag1 data = (tag0, tgPlain tag1, 0) := by
  unfold msgKey msgSeg
  rw [if_neg hk]

/-- A message of another kind than a seal that matches its instance has the instance's kind. -/
theorem Inst.kind_of_msgOk (hk : tgKind tag1 ≠ kdSeal) (hok : i.msgOk tag1 data = true) : tgKind tag1 = i.kind := by
  unfold Inst.msgOk at hok
  dsimp only at hok
  rw [if_neg hk] at hok
  by_contra hne
  rw [if_pos hne] at hok
  exact Bool.false_ne_true hok

include hctx hsus hi hep hst hnew hok harr hu

/-- The first copy of a message of a barrier or scalar reduction acts. -/
theorem State.msgRow_other (hk : tgKind tag1 ≠ kdSeal) : ∃ v, MsgHeard (tag0, tgPlain tag1, 0) s v ∧
    v.inst? i.ctx i.no = some i ∧ ∀ {kind : Nat} {out : Bool} (port : Nat), tgKind tag1 = kind → tgOut tag1 = out →
      s.msgRow kind out dst port tag0 tag1 data = v.msgAct i port tag0 tag1 data := by
  have hkey := msgKey_other tag0 data hk
  obtain ⟨v, hv, hact⟩ := State.msgRow_first hctx hsus hi hep hst (by rw [hkey]; exact hnew) hok harr hu
  obtain ⟨rfl, hno⟩ := State.inst?_key hi
  exact ⟨v, hkey ▸ hv, (hv.inst _ _).trans (hno ▸ hi), hact⟩

include hl

/-- An arrival or a contribution. -/
theorem act_inbound {kind : Nat} (hkind : tgKind tag1 = kind) (hk : kind ≠ kdSeal) (hout : tgOut tag1 = false) :
    ∃ t, act s (fun s => s.msgRow kind false dst 0 tag0 tag1 data) = .next t ∧ (tag0, tgPlain tag1, 0) ∈ t.seen ∧
      (t.inst? c (tgSeq tag0) = none ∨
        ∃ i' g, t.inst? c (tgSeq tag0) = some i' ∧ g ∈ i'.got ∧ g.src = tgSrc tag1 ∧ g.data = data) := by
  have hks : tgKind tag1 ≠ kdSeal := hkind ▸ hk
  obtain ⟨v, hv, hfound, hact⟩ := State.msgRow_other hctx hsus hi hep hst hnew hok harr hu hks
  have hkept := State.msgAct_inbound 0 tag0 data hfound hks hout
  have hseen : (v.msgAct i 0 tag0 tag1 data).seen = v.seen := congrArg (fun x => x.2.2) hkept.still
  obtain ⟨rfl, hno⟩ := State.inst?_key hi
  rw [← hno]
  refine ⟨_, act_eq_still (f := fun s => s.msgRow kind false dst 0 tag0 tag1 data) hkept.still hl (hact 0 hkind hout)
    hv.halted hv.pending, by rw [hseen]; exact hv.seen, ?_⟩
  rcases hkept.inst with hnone | ⟨i', hi', hg⟩
  · exact .inl hnone
  · exact .inr ⟨i', _, hi', hg, rfl, rfl⟩

theorem exec_barrierRelease (port : Nat) (hkind : tgKind tag1 = kdBarrier) (hout : tgOut tag1 = true) (hc : c < 1024) :
    ∃ t, exec (.barrierRelease dst port tag0 tag1 data) s = .next t ∧ t.inst? c (tgSeq tag0) = none ∧
      t.fget Fl.grpBellOffset c =
        ((leNat (data.take 8) + s.fget Fl.portStatDelay port) % 2 ^ 64 + 2 ^ 64 - s.now) % 2 ^ 64 := by
  have hks : tgKind tag1 ≠ kdSeal := by rw [hkind]; decide
  obtain ⟨v, hv, -, hact⟩ := State.msgRow_other hctx hsus hi hep hst hnew hok harr hu hks
  have hm : i.isMsg = true := by
    unfold Inst.isMsg
    rw [← Inst.kind_of_msgOk hks hok, hkind]
    rfl
  have hnow : v.now = s.now := by
    unfold State.now State.replica
    rw [hv.bell]
  have hends := v.released_ends i port tag0 tag1 data
  obtain ⟨rfl, hno⟩ := State.inst?_key hi
  rw [← hno]
  refine ⟨_, act_eq_still (f := fun s => s.msgRow kdBarrier true dst port tag0 tag1 data) hends.still hl
    ((hact port hkind hout).trans (v.msgAct_release i port tag0 data hkind hout)) hv.halted hv.pending, hends.inst, ?_⟩
  rw [v.released_offset hm hc, hv.fget, hnow]

theorem exec_scalarResult (hkind : tgKind tag1 = kdScalar) (hout : tgOut tag1 = true) :
    ∃ t, exec (.scalarResult dst tag0 tag1 data) s = .next t ∧ t.inst? c (tgSeq tag0) = none := by
  have hks : tgKind tag1 ≠ kdSeal := by rw [hkind]; decide
  obtain ⟨v, hv, -, hact⟩ := State.msgRow_other hctx hsus hi hep hst hnew hok harr hu hks
  have hends := v.msgAct_result i 0 tag0 data hkind hout
  obtain ⟨rfl, hno⟩ := State.inst?_key hi
  rw [← hno]
  exact ⟨_, act_eq_still (f := fun s => s.msgRow kdScalar true dst 0 tag0 tag1 data) hends.still hl
    (hact 0 hkind hout) hv.halted hv.pending, hends.inst⟩

end

/-- Settles O42: a first copy is noted and acts; a release or result ends its instance; an acknowledgement takes the kept
message away, and a resend renews it. -/
theorem collMessages : Obligations.CollMessages := by
  unfold Obligations.CollMessages
  refine ⟨fun s dst c tag0 tag1 data i hl hctx hsus hi hep hst hnew hok u harr hu =>
      ⟨fun r hr hkind hout => ?inbound, fun port _ hkind hout hc =>
        exec_barrierRelease hl hctx hsus hi hep hst hnew hok harr hu port hkind hout hc,
        exec_scalarResult hl hctx hsus hi hep hst hnew hok harr hu⟩,
    fun s src tag0 tag1 hl u harr hu => ?ack, fun s n x hl hx hwait htrust => ?resend⟩
  case inbound =>
    rcases List.mem_pair.mp hr with rfl | rfl
    · exact act_inbound hl hctx hsus hi hep hst hnew hok harr hu hkind (by decide) hout
    · exact act_inbound hl hctx hsus hi hep hst hnew hok harr hu hkind (by decide) hout
  case ack =>
    obtain ⟨t, ht, h⟩ := exec_collMsgAck hl harr hu
    exact ⟨t, ht, h.msgs, h.flows.ops, h.quiet⟩
  case resend =>
    obtain ⟨t, ht, h⟩ := exec_collMsgResend hl hx hwait htrust
    obtain ⟨hresends, hresend, hplain, hdst, hdata⟩ := s.msgAgain_reads x
    exact ⟨t, s.msgAgain x, ht, h.msgs, hresends, hresend, hplain, hdst, hdata, h.quiet⟩

end Sys2Proof.Machine
end

section
/-! Members that are lost (R235): what a context's failure leaves of the contexts, and a member that becomes suspect. -/

namespace Sys2Proof.Machine

/-! ### What the end of instances leaves of a context -/

/-- A field of a register that does not lie where the one written does, in the map or past its end. -/
theorem State.fget_fset_off (s : State) {f g : Fld} {i j : Nat} (v : Nat) (h : g.reg.off j ≠ f.reg.off i) :
    (s.fset f i v).fget g j = s.fget g j := by
  unfold State.fget State.fset
  rw [s.rd_wr_off _ h]

/-- A context as the end of instances leaves it: still valid, with this member's index; it may have become idle. -/
structure CtxStays (j : Nat) (s t : State) : Prop where
  ctxs : t.ctxs = s.ctxs
  halted : t.halted = s.halted
  pending : t.pending = s.pending
  cause : t.fget Fl.colFaultEvtCause 0 = s.fget Fl.colFaultEvtCause 0
  valid : t.fget Fl.grpCfgValid j = s.fget Fl.grpCfgValid j
  self : t.selfIdx j = s.selfIdx j
  state : t.fget Fl.grpStatState j = s.fget Fl.grpStatState j ∨ t.fget Fl.grpStatState j = gsIdle

namespace CtxStays

variable {j : Nat} {s t u : State}

theorem refl (j : Nat) (s : State) : CtxStays j s s := ⟨rfl, rfl, rfl, rfl, rfl, rfl, .inl rfl⟩

theorem trans (h : CtxStays j s t) (k : CtxStays j t u) : CtxStays j s u where
  ctxs := k.ctxs.trans h.ctxs
  halted := k.halted.trans h.halted
  pending := k.pending.trans h.pending
  cause := k.cause.trans h.cause
  valid := k.valid.trans h.valid
  self := k.self.trans h.self
  state := by
    rcases k.state with hk | hk
    · rw [hk]
      exact h.state
    · exact .inr hk

theorem foldl {α : Type} {f : State → α → State} (hf : ∀ s x, CtxStays j s (f s x)) (l : List α) (s : State) :
    CtxStays j s (l.foldl f s) := foldl_invariant (CtxStays j s) f l s (.refl j s) fun t x _ h => h.trans (hf t x)

theorem of_regs (hc : t.ctxs = s.ctxs) (hh : t.halted = s.halted) (hp : t.pending = s.pending) (hr : t.regs = s.regs) :
    CtxStays j s t :=
  ⟨hc, hh, hp, State.fget_of_regs hr _ _, State.fget_of_regs hr _ _, State.fget_of_regs hr _ _,
    .inl (State.fget_of_regs hr _ _)⟩

end CtxStays

theorem EventOnly.ctxs {s t : State} (h : EventOnly s t) : t.ctxs = s.ctxs := by rw [h]

theorem DeliverOnly.ctxs {s t : State} (h : DeliverOnly s t) : t.ctxs = s.ctxs := by rw [h]

theorem State.finish_ctxs (s : State) (o : Op) (trap : Bool) (w : Nat) : (s.finish o trap w).ctxs = s.ctxs :=
  (s.finish_deliverOnly o trap w).ctxs

section
variable {j : Nat} (s : State)

/-- GRP_STAT lies on none of the other registers of a context, nor on COL_FAULT_EVT: they differ modulo the stride of 32. -/
theorem grpStat_off_ne (k j : Nat) :
    Reg.colFaultEvt.off 0 ≠ Reg.grpStat.off k ∧ Reg.grpCfg.off j ≠ Reg.grpStat.off k ∧
    (k ≠ j → Reg.grpStat.off j ≠ Reg.grpStat.off k) := by
  show 0x60030 + 0x8 * 0 ≠ 0x62010 + 0x20 * k ∧ 0x62000 + 0x20 * j ≠ 0x62010 + 0x20 * k ∧
    (k ≠ j → 0x62010 + 0x20 * j ≠ 0x62010 + 0x20 * k)
  omega

/-- A new state of another context, or an idle one. -/
theorem State.fset_state_stays {k v : Nat} (h : k ≠ j ∨ v = gsIdle) : CtxStays j s (s.fset Fl.grpStatState k v) := by
  obtain ⟨hcause, hvalid, hne⟩ := grpStat_off_ne k j
  refine ⟨s.fset_ctxs _ _ _, s.fset_halted _ _ _, s.fset_pending _ _ _, s.fget_fset_off v hcause,
    s.fget_fset_off v hvalid, ?_, ?_⟩
  · by_cases hk : k = j
    · rw [hk]
      exact s.fget_fset_field (f := Fl.grpStatState) (g := Fl.grpStatSelf) j v (by decide) rfl (by decide)
    · exact s.fget_fset_off v (hne hk)
  · by_cases hk : k = j
    · obtain rfl := h.resolve_left (not_not.mpr hk)
      rw [hk, State.fget_fset_same _ _ _ _ (by decide)]
      exact .inr rfl
    · exact .inl (s.fget_fset_off v (hne hk))

theorem State.dropInst_stays (i : Inst) : CtxStays j s (s.dropInst i) := by
  have hgone : CtxStays j s (s.withoutInst i) := .of_regs rfl rfl rfl rfl
  unfold State.dropInst
  dsimp only
  split
  · exact hgone
  · exact hgone.trans ((s.withoutInst i).fset_state_stays (.inr rfl))

theorem State.dropInsts_stays (seq : Nat) : CtxStays j s (s.dropInsts seq) :=
  .foldl (fun t i => t.dropInst_stays i) _ s

variable (hj : j < 1024)
include hj

/-- An event and the change of what is not a context's leave the contexts. -/
theorem CtxStays.of_frame {s t : State} (hc : t.ctxs = s.ctxs) (h : Frame notEvent s t) : CtxStays j s t where
  ctxs := hc
  halted := h.halted
  pending := h.pending
  cause := h.fget Fl.colFaultEvtCause 0 (by decide) ⟨by decide, by decide⟩
  valid := h.fget Fl.grpCfgValid j hj ⟨by decide, by decide⟩
  self := h.fget Fl.grpStatSelf j hj ⟨by decide, by decide⟩
  state := .inl (h.fget Fl.grpStatState j hj ⟨by decide, by decide⟩)

theorem State.logEvent_stays {e : Event} (he : e.cls ≠ .fatal) : CtxStays j s (s.logEvent e) :=
  .of_frame hj (s.logEvent_eventOnly he).ctxs (s.logEvent_frame he)

theorem State.opLost_stays (o : Op) (status : Nat) : CtxStays j s (s.opLost o status) := by
  rw [s.opLost_eq]
  exact (s.logEvent_stays hj (lostEvent_not_fatal o status)).trans (.of_regs (State.finish_ctxs _ _ _ _)
    (State.finish_halted _ _ _ _) (State.finish_pending _ _ _ _) (State.finish_regs _ _ _ _))

theorem State.endInst_stays (i : Inst) (status : Nat) : CtxStays j s (s.endInst i status) := by
  have hdrop := (s.dropInsts_stays (j := j) i.op).trans (State.dropInst_stays _ i)
  unfold State.endInst
  dsimp only
  split
  · exact hdrop.trans (State.opLost_stays _ hj _ _)
  · exact hdrop

omit hj in
/-- A context fails behind the end of its instances (R235, R237). -/
theorem State.failCtx_eq (c status : Nat) : ∃ u, (∀ j < 1024, CtxStays j s u) ∧
    s.failCtx c status = u.fset Fl.grpStatState c gsFailed := by
  refine ⟨_, fun j hj => .foldl (fun t i => ?_) _ s, rfl⟩
  split
  · exact t.endInst_stays hj i status
  · exact .refl j t

/-- The failure of another context. -/
theorem State.failCtx_stays {c : Nat} (h : c ≠ j) (status : Nat) : CtxStays j s (s.failCtx c status) := by
  obtain ⟨u, hu, heq⟩ := s.failCtx_eq c status
  rw [heq]
  exact (hu j hj).trans (u.fset_state_stays (.inl h))

end

/-- A context that has failed: its state says so, and the rest stands. -/
structure CtxFails (c : Nat) (s t : State) : Prop where
  ctxs : t.ctxs = s.ctxs
  halted : t.halted = s.halted
  pending : t.pending = s.pending
  cause : t.fget Fl.colFaultEvtCause 0 = s.fget Fl.colFaultEvtCause 0
  valid : t.fget Fl.grpCfgValid c = s.fget Fl.grpCfgValid c
  self : t.selfIdx c = s.selfIdx c
  failed : t.fget Fl.grpStatState c = gsFailed

theorem State.failCtx_fails (s : State) {c : Nat} (hc : c < 1024) (status : Nat) : CtxFails c s (s.failCtx c status) := by
  obtain ⟨u, hu, heq⟩ := s.failCtx_eq c status
  have h := hu c hc
  obtain ⟨hcause, hvalid, -⟩ := grpStat_off_ne c c
  rw [heq]
  exact ⟨(u.fset_ctxs _ _ _).trans h.ctxs, (u.fset_halted _ _ _).trans h.halted, (u.fset_pending _ _ _).trans h.pending,
    (u.fget_fset_off _ hcause).trans h.cause, (u.fget_fset_off _ hvalid).trans h.valid,
    (u.fget_fset_field (f := Fl.grpStatState) (g := Fl.grpStatSelf) c _ (by decide) rfl (by decide)).trans h.self,
    State.fget_fset_same u Fl.grpStatState c gsFailed (by decide)⟩

/-! ### A suspect member (R235) -/

theorem State.collEvent_eventOnly (s : State) (c cause : Nat) {cls : Cls} (hc : cls ≠ .fatal) (a b : Nat) :
    EventOnly s (s.collEvent c cause cls a b) := s.collEventAt_eventOnly _ c hc a b

/-- A context with one more suspect. -/
def Ctx.withSuspect (node bell : Nat) (x : Ctx) : Ctx := { x with suspects := x.suspects ++ [node], suspectAt := bell }

theorem Ctx.withSuspect_members (node bell : Nat) (x : Ctx) : (x.withSuspect node bell).members = x.members := by
  cases x
  rfl

/-- The state with one more suspect in a context. -/
def State.withSuspect (s : State) (c node : Nat) : State :=
  { s with ctxs := mput {} s.ctxs c ((mget {} s.ctxs c).withSuspect node s.now) }

/-- A member marked as suspect, with its event. -/
def State.marked (s : State) (c node : Nat) : State :=
  ((s.withSuspect c node).fset Fl.grpStatState c gsSuspect).collEvent c 0x07 .degraded 0 0

/-- The conditions under which a member becomes suspect. -/
structure CanSuspect (s : State) (c m : Nat) : Prop where
  valid : s.fget Fl.grpCfgValid c = 1
  state : s.fget Fl.grpStatState c ≠ gsFailed
  member : m < (s.members c).length
  other : m ≠ s.selfIdx c
  trusted : (s.members c).getD m 0 ∉ (mget {} s.ctxs c).suspects

section
variable {s : State} {c m : Nat}

/-- A member that can become suspect is marked, and the context fails where ON_LOSS says so (Table 9.13). -/
theorem State.suspect_marks (h : CanSuspect s c m) : s.suspect c m =
    if s.fget Fl.grpCfgOnLoss c = 2 then (s.marked c ((s.members c).getD m 0)).failCtx c 0x23
    else s.marked c ((s.members c).getD m 0) := by
  obtain ⟨hvalid, hstate, hmember, hother, htrusted⟩ := h
  have hgo : ¬ (!s.fon Fl.grpCfgValid c || s.fget Fl.grpStatState c == gsFailed ||
      decide ((mget {} s.ctxs c).members.length ≤ m) || m == s.selfIdx c ||
      (mget {} s.ctxs c).suspects.contains ((mget {} s.ctxs c).members.getD m 0)) = true := by
    have hlen : ¬ (mget {} s.ctxs c).members.length ≤ m := Nat.not_le_of_lt hmember
    have hnot : (mget {} s.ctxs c).suspects.contains ((mget {} s.ctxs c).members.getD m 0) = false := by
      simpa [State.members] using htrusted
    unfold State.fon
    rw [hnot]
    simp [hvalid, hstate, hlen, hother]
  unfold State.suspect
  exact if_neg hgo

theorem State.suspect_cases (s : State) (c m : Nat) : s.suspect c m = s ∨ CanSuspect s c m := by
  unfold State.suspect
  dsimp only
  split
  · exact .inl rfl
  · rename_i h
    simp only [Bool.or_eq_true, not_or] at h
    obtain ⟨⟨⟨⟨hvalid, hstate⟩, hmember⟩, hother⟩, htrusted⟩ := h
    exact .inr ⟨by simpa [State.fon] using hvalid, by simpa using hstate, by simpa [State.members] using hmember,
      by simpa using hother, by simpa [State.members] using htrusted⟩

end

theorem members_of_ctxs {s t : State} (h : t.ctxs = s.ctxs) : t.members = s.members := by
  funext c
  unfold State.members
  rw [h]

section
variable (s : State) (c node : Nat)

theorem State.marked_ctxs : (s.marked c node).ctxs = (s.withSuspect c node).ctxs :=
  (State.collEvent_eventOnly _ c 0x07 (by exact nofun) 0 0).ctxs.trans (State.fset_ctxs _ _ _ _)

theorem State.withSuspect_same : mget {} (s.withSuspect c node).ctxs c = (mget {} s.ctxs c).withSuspect node s.now :=
  mget_mput_same _ _ _ _

theorem State.withSuspect_ne {k : Nat} (hk : k ≠ c) : mget {} (s.withSuspect c node).ctxs k = mget {} s.ctxs k :=
  mget_mput_ne _ _ _ hk

theorem State.withSuspect_members (k : Nat) : (s.withSuspect c node).members k = s.members k := by
  unfold State.members
  by_cases hk : k = c
  · rw [hk, s.withSuspect_same, Ctx.withSuspect_members]
  · rw [s.withSuspect_ne c node hk]

theorem State.marked_members (k : Nat) : (s.marked c node).members k = s.members k :=
  (congrFun (members_of_ctxs (s.marked_ctxs c node)) k).trans (s.withSuspect_members c node k)

/-- The suspects of the contexts, with one more in one of them. -/
theorem State.marked_suspects (k : Nat) : (mget {} (s.marked c node).ctxs k).suspects =
    (mget {} s.ctxs k).suspects ++ if k = c then [node] else [] := by
  rw [s.marked_ctxs]
  by_cases hk : k = c
  · rw [hk, s.withSuspect_same, if_pos rfl]
    rfl
  · rw [s.withSuspect_ne c node hk, if_neg hk, List.append_nil]

theorem State.marked_rest : (s.marked c node).halted = s.halted ∧ (s.marked c node).pending = s.pending := by
  have h := State.collEvent_eventOnly ((s.withSuspect c node).fset Fl.grpStatState c gsSuspect) c 0x07
    (cls := .degraded) (by exact nofun) 0 0
  exact ⟨h.halted.trans (State.fset_halted _ _ _ _), h.pending.trans (State.fset_pending _ _ _ _)⟩

theorem State.marked_cause : (s.marked c node).fget Fl.colFaultEvtCause 0 = 7 :=
  State.collEventAt_cause _ _ c (by exact nofun) 0 0 (by decide)

variable {j : Nat} (hj : j < 1024)
include hj

/-- The registers of a context behind the event of a suspect. -/
theorem State.marked_fget (f : Fld) (hf : f.reg.place.2.1 = 1024) (hr : notEvent f.reg ∧ f.reg ≠ .colFaultEvt) :
    (s.marked c node).fget f j = ((s.withSuspect c node).fset Fl.grpStatState c gsSuspect).fget f j :=
  (State.collEventAt_frame _ _ c (by exact nofun) 0 0).fget f j (by rw [hf]; exact hj) hr

theorem State.marked_valid : (s.marked c node).fget Fl.grpCfgValid j = s.fget Fl.grpCfgValid j := by
  rw [s.marked_fget c node hj _ rfl ⟨⟨by decide, by decide⟩, by decide⟩]
  exact State.fget_fset_off (s.withSuspect c node) (f := Fl.grpStatState) (g := Fl.grpCfgValid) _ (grpStat_off_ne c j).2.1

theorem State.marked_selfIdx : (s.marked c node).selfIdx j = s.selfIdx j := by
  have h := s.marked_fget c node hj Fl.grpStatSelf rfl ⟨⟨by decide, by decide⟩, by decide⟩
  refine h.trans ?_
  by_cases hk : c = j
  · rw [hk]
    exact State.fget_fset_field (s.withSuspect j node) (f := Fl.grpStatState) (g := Fl.grpStatSelf) j _ (by decide) rfl
      (by decide)
  · exact State.fget_fset_off (s.withSuspect c node) (f := Fl.grpStatState) (g := Fl.grpStatSelf) _
      ((grpStat_off_ne c j).2.2 hk)

theorem State.marked_state : (s.marked c node).fget Fl.grpStatState j =
    if c = j then gsSuspect else s.fget Fl.grpStatState j := by
  rw [s.marked_fget c node hj _ rfl ⟨⟨by decide, by decide⟩, by decide⟩]
  split
  · rename_i hk
    rw [hk]
    exact State.fget_fset_same (s.withSuspect j node) Fl.grpStatState j gsSuspect (by decide)
  · rename_i hk
    exact State.fget_fset_off (s.withSuspect c node) (f := Fl.grpStatState) (g := Fl.grpStatState) _
      ((grpStat_off_ne c j).2.2 hk)

end

/-! ### MEMBER_SUSPECT -/

theorem exec_memberSuspect {s : State} {c m : Nat} (hl : s.live = true) (hc : c < 1024) (h : CanSuspect s c m)
    (hover : s.stageOver c ((s.members c).getD m 0) = true) :
    ∃ t, exec (.memberSuspect c m) s = .next t ∧ (s.members c).getD m 0 ∈ (mget {} t.ctxs c).suspects ∧
      t.fget Fl.colFaultEvtCause 0 = 7 ∧
      t.fget Fl.grpStatState c = (if s.fget Fl.grpCfgOnLoss c = 2 then gsFailed else gsSuspect) := by
  have hsusp : (s.members c).getD m 0 ∈ (mget {} (s.marked c ((s.members c).getD m 0)).ctxs c).suspects := by
    rw [s.marked_suspects, if_pos rfl]
    exact List.mem_append_right _ (List.mem_singleton.mpr rfl)
  have hcause := s.marked_cause c ((s.members c).getD m 0)
  have hstate := s.marked_state c ((s.members c).getD m 0) hc
  obtain ⟨hhalted, hpending⟩ := s.marked_rest c ((s.members c).getD m 0)
  have hfail := (s.marked c ((s.members c).getD m 0)).failCtx_fails hc 0x23
  have hexec {t : State} (ht : s.suspect c m = t) (hh : t.halted = s.halted) (hp : t.pending = s.pending) :
      exec (.memberSuspect c m) s = .next t := by
    show execMemberSuspect c m s = _
    unfold execMemberSuspect
    exact act_eq_next hl ((if_pos hover).trans ht) (hh.trans (State.halted_of_live hl)) hp
  have heq := State.suspect_marks h
  split at heq
  · rename_i hloss
    exact ⟨_, hexec heq (hfail.halted.trans hhalted) (hfail.pending.trans hpending), hfail.ctxs ▸ hsusp,
      hfail.cause.trans hcause, hfail.failed.trans (if_pos hloss).symm⟩
  · rename_i hloss
    rw [if_pos rfl] at hstate
    exact ⟨_, hexec heq hhalted hpending, hsusp, hcause, hstate.trans (if_neg hloss).symm⟩

end Sys2Proof.Machine
end

section
/-! UNREACH and REACH: nodes that the fabric reports lost and back (R235, R236, R262). -/

namespace Sys2Proof.Machine

/-! ### Nodes that the fabric reports lost (R235, R262) -/

/-- A context as the loss of members leaves it: its members and this member's index stand, and suspects stay suspect. -/
structure LossKeeps (j : Nat) (s t : State) : Prop where
  halted : t.halted = s.halted
  pending : t.pending = s.pending
  members : t.members j = s.members j
  valid : t.fget Fl.grpCfgValid j = s.fget Fl.grpCfgValid j
  self : t.selfIdx j = s.selfIdx j
  suspects : ∀ n ∈ (mget {} s.ctxs j).suspects, n ∈ (mget {} t.ctxs j).suspects

namespace LossKeeps

variable {j : Nat} {s t u : State}

theorem refl (j : Nat) (s : State) : LossKeeps j s s := ⟨rfl, rfl, rfl, rfl, rfl, fun _ h => h⟩

theorem trans (h : LossKeeps j s t) (k : LossKeeps j t u) : LossKeeps j s u :=
  ⟨k.halted.trans h.halted, k.pending.trans h.pending, k.members.trans h.members, k.valid.trans h.valid,
    k.self.trans h.self, fun n hn => k.suspects n (h.suspects n hn)⟩

end LossKeeps

section
variable {j : Nat} (hj : j < 1024)
include hj

theorem State.marked_keeps (s : State) (c node : Nat) : LossKeeps j s (s.marked c node) where
  halted := (s.marked_rest c node).1
  pending := (s.marked_rest c node).2
  members := s.marked_members c node j
  valid := s.marked_valid c node hj
  self := s.marked_selfIdx c node hj
  suspects n hn := by
    rw [s.marked_suspects]
    exact List.mem_append_left _ hn

theorem State.failCtx_keeps (s : State) (c status : Nat) : LossKeeps j s (s.failCtx c status) := by
  have hkeeps {t : State} (hc : t.ctxs = s.ctxs) (hh : t.halted = s.halted) (hp : t.pending = s.pending)
      (hv : t.fget Fl.grpCfgValid j = s.fget Fl.grpCfgValid j) (hs : t.selfIdx j = s.selfIdx j) : LossKeeps j s t :=
    ⟨hh, hp, congrFun (members_of_ctxs hc) j, hv, hs, fun n hn => by rw [hc]; exact hn⟩
  by_cases hk : c = j
  · obtain ⟨hc, hh, hp, -, hv, hs, -⟩ := s.failCtx_fails (hk ▸ hj) status
    rw [hk] at hc hh hp hv hs ⊢
    exact hkeeps hc hh hp hv hs
  · obtain ⟨hc, hh, hp, -, hv, hs, -⟩ := s.failCtx_stays hj hk status
    exact hkeeps hc hh hp hv hs

theorem State.suspect_keeps (s : State) (c m : Nat) : LossKeeps j s (s.suspect c m) := by
  rcases s.suspect_cases c m with h | h
  · rw [h]
    exact .refl j s
  · rw [State.suspect_marks h]
    split
    · exact (s.marked_keeps hj c _).trans (State.failCtx_keeps hj _ c _)
    · exact s.marked_keeps hj c _

/-- The loss of a member of another context does not make this one fail. -/
theorem State.suspect_state (s : State) {c : Nat} (hc : c ≠ j) (m : Nat) (h : s.fget Fl.grpStatState j ≠ gsFailed) :
    (s.suspect c m).fget Fl.grpStatState j ≠ gsFailed := by
  have hmark (node : Nat) : (s.marked c node).fget Fl.grpStatState j = s.fget Fl.grpStatState j :=
    (s.marked_state c node hj).trans (if_neg hc)
  rcases s.suspect_cases c m with hsame | hcan
  · rw [hsame]
    exact h
  · rw [State.suspect_marks hcan]
    split
    · rcases (State.failCtx_stays (s.marked c ((s.members c).getD m 0)) hj hc 0x23).state with hst | hst
      · rw [hst, hmark]
        exact h
      · rw [hst]
        decide
    · rw [hmark]
      exact h

/-- A member of a context that takes losses is suspect once it has been reported. -/
theorem State.suspect_member (s : State) {node : Nat} (hvalid : s.fget Fl.grpCfgValid j = 1)
    (hstate : s.fget Fl.grpStatState j ≠ gsFailed) (hmem : node ∈ s.members j)
    (hother : (s.members j).idxOf node ≠ s.selfIdx j) :
    node ∈ (mget {} (s.suspect j ((s.members j).idxOf node)).ctxs j).suspects := by
  have hget : (s.members j).getD ((s.members j).idxOf node) 0 = node := by
    rw [List.getD_eq_getElem _ _ (List.idxOf_lt_length_of_mem hmem)]
    exact List.getElem_idxOf _
  by_cases htrust : node ∈ (mget {} s.ctxs j).suspects
  · exact (s.suspect_keeps hj j _).suspects node htrust
  · have hcan : CanSuspect s j ((s.members j).idxOf node) :=
      ⟨hvalid, hstate, List.idxOf_lt_length_of_mem hmem, hother, by rw [hget]; exact htrust⟩
    have hmark : node ∈ (mget {} (s.marked j node).ctxs j).suspects := by
      rw [s.marked_suspects, if_pos rfl]
      exact List.mem_append_right _ (List.mem_singleton.mpr rfl)
    rw [State.suspect_marks hcan, hget]
    split
    · exact (State.failCtx_keeps hj _ j _).suspects node hmark
    · exact hmark

end

/-- A context that a map lists reads as its first entry. -/
theorem mget_split {α : Type} (d : α) {m : SMap α} {k : Nat} (h : mget d m k ≠ d) :
    ∃ l r, m = l ++ (k, mget d m k) :: r ∧ ∀ e ∈ l, e.1 ≠ k := by
  induction m with
  | nil => exact absurd rfl h
  | cons e m ih =>
    obtain ⟨i, v⟩ := e
    by_cases hi : i = k
    · exact ⟨[], m, by simp [mget, hi], by simp⟩
    · have hget : mget d ((i, v) :: m) k = mget d m k := if_neg hi
      rw [hget] at h ⊢
      obtain ⟨l, r, hm, hl⟩ := ih h
      refine ⟨(i, v) :: l, r, ?_, fun e he => ?_⟩
      · rw [List.cons_append, ← hm]
      · rcases List.mem_cons.mp he with rfl | he
        · exact hi
        · exact hl e he

/-- The node lost in a listed context. -/
def State.loseIn (node : Nat) (t : State) (e : Nat × Ctx) : State := t.suspect e.1 (e.2.members.idxOf node)

theorem foldl_loseIn_keeps {c : Nat} (hc : c < 1024) (node : Nat) (l : List (Nat × Ctx)) (s : State) :
    LossKeeps c s (l.foldl (State.loseIn node) s) :=
  foldl_invariant (LossKeeps c s) _ l s (.refl c s) fun t e _ h => h.trans (t.suspect_keeps hc e.1 _)

theorem foldl_loseIn_state {c : Nat} (hc : c < 1024) (node : Nat) {l : List (Nat × Ctx)} (hl : ∀ e ∈ l, e.1 ≠ c)
    {s : State} (h : s.fget Fl.grpStatState c ≠ gsFailed) : (l.foldl (State.loseIn node) s).fget Fl.grpStatState c ≠ gsFailed :=
  foldl_invariant (fun t : State => t.fget Fl.grpStatState c ≠ gsFailed) _ l s h
    fun t e he ht => t.suspect_state hc (hl e he) _ ht

/-- A lost node is suspect in every context that has it as another member. -/
theorem State.nodeLost_suspects {s : State} {c node : Nat} (hc : c < 1024) (hmem : node ∈ s.members c)
    (hother : (s.members c).idxOf node ≠ s.selfIdx c) (hvalid : s.fget Fl.grpCfgValid c = 1)
    (hstate : s.fget Fl.grpStatState c ≠ gsFailed) : node ∈ (mget {} (s.nodeLost node).ctxs c).suspects := by
  have hlisted : mget {} s.ctxs c ≠ {} := by
    intro h
    unfold State.members at hmem
    rw [h] at hmem
    exact List.not_mem_nil hmem
  obtain ⟨l, r, hsplit, hl⟩ := mget_split ({} : Ctx) hlisted
  have hself : (mget {} s.ctxs c).members.contains node = true := List.contains_iff_mem.mpr hmem
  have hlist : (s.ctxs.filter fun e => e.2.members.contains node) =
      (l.filter fun e => e.2.members.contains node) ++
        (c, mget {} s.ctxs c) :: r.filter fun e => e.2.members.contains node := by
    conv_lhs => rw [hsplit]
    rw [List.filter_append, List.filter_cons, if_pos hself]
  have hbefore := foldl_loseIn_keeps hc node (l.filter fun e => e.2.members.contains node) s
  have hopen := foldl_loseIn_state hc node (l := l.filter fun e => e.2.members.contains node)
    (fun e he => hl e (List.mem_of_mem_filter he)) hstate
  show node ∈ (mget {} ((s.ctxs.filter fun e => e.2.members.contains node).foldl (State.loseIn node) s).ctxs c).suspects
  rw [hlist, List.foldl_append, List.foldl_cons]
  refine (foldl_loseIn_keeps hc node _ _).suspects node ?_
  generalize (l.filter fun e => e.2.members.contains node).foldl (State.loseIn node) s = t at hbefore hopen ⊢
  have hm : (mget {} s.ctxs c).members = t.members c := hbefore.members.symm
  unfold State.loseIn
  rw [hm]
  exact t.suspect_member hc (hbefore.valid.trans hvalid) hopen (hbefore.members ▸ hmem)
    (by rw [hbefore.members, hbefore.self]; exact hother)

theorem State.nodeLost_keeps (s : State) {c : Nat} (hc : c < 1024) (node : Nat) : LossKeeps c s (s.nodeLost node) :=
  foldl_loseIn_keeps hc node _ s

/-! ### Nodes that the fabric reports back (R236, R262) -/

/-- A context without a suspect. -/
def Ctx.withoutSuspect (node : Nat) (x : Ctx) : Ctx := { x with suspects := x.suspects.filter (· ≠ node) }

/-- The state without a suspect in a context. -/
def State.withoutSuspect (s : State) (c node : Nat) : State :=
  { s with ctxs := mput {} s.ctxs c ((mget {} s.ctxs c).withoutSuspect node) }

theorem EventOnly.flows {β : Type} {p : Inst → β} {s t : State} (h : EventOnly s t) : Flows p s t :=
  ⟨h.aloof, instView_of_insts (by rw [h])⟩

section
variable (s : State) (c node : Nat)

/-- A member that is back is no suspect; the rest is events and traffic. -/
theorem State.memberBack_flows (h : node ∈ (mget {} s.ctxs c).suspects) :
    Flows (fun _ => ()) (s.withoutSuspect c node) (s.memberBack c node) := by
  have hevent (t : State) : Flows (fun _ => ()) t (t.collEvent c 0x08 .recovered 0 0) :=
    (t.collEvent_eventOnly c 0x08 (by exact nofun) 0 0).flows
  have hstate (t : State) (v : Nat) : Flows (fun _ => ()) t (t.fset Fl.grpStatState c v) :=
    .of_regs (regsOnly_fset t _ _ _)
  have hone (t : State) (x : Sent) : Flows (fun _ : Inst => ()) t (t.dropCollReq ttChunk node x.tag0 x.tag1) :=
    (t.dropCollReq_flows ttChunk node x.tag0 x.tag1).comp fun _ => ()
  have hdrop (l : List Sent) (t : State) := Flows.foldl hone l t
  unfold State.memberBack
  dsimp only
  rw [if_neg (by simpa using h)]
  refine Flows.trans ?_ ((State.pump_sends _).flows.comp fun _ => ())
  refine Flows.trans ?_ (Sends.map _ ?again).flows
  case again =>
    intro i
    split <;> exact ⟨rfl, rfl, rfl⟩
  refine (Flows.trans ?_ (hevent _)).trans (hdrop _ _)
  split
  · exact hstate (s.withoutSuspect c node) _
  · exact .refl _ (s.withoutSuspect c node)

theorem State.withoutSuspect_suspects (k : Nat) : (mget {} (s.withoutSuspect c node).ctxs k).suspects =
    if k = c then (mget {} s.ctxs c).suspects.filter (· ≠ node) else (mget {} s.ctxs k).suspects := by
  have hctxs : (s.withoutSuspect c node).ctxs = mput {} s.ctxs c ((mget {} s.ctxs c).withoutSuspect node) := rfl
  rw [hctxs]
  by_cases hk : k = c
  · rw [hk, mget_mput_same, if_pos rfl]
    rfl
  · rw [mget_mput_ne _ _ _ hk, if_neg hk]

/-- Suspects after a member is back were suspects before, and it is none of its context. -/
theorem State.memberBack_suspects {k : Nat} (h : node ∈ (mget {} (s.memberBack c node).ctxs k).suspects) :
    node ∈ (mget {} s.ctxs k).suspects ∧ k ≠ c := by
  by_cases hsus : node ∈ (mget {} s.ctxs c).suspects
  · rw [(s.memberBack_flows c node hsus).ctxs, s.withoutSuspect_suspects] at h
    by_cases hk : k = c
    · rw [if_pos hk] at h
      simp at h
    · rw [if_neg hk] at h
      exact ⟨h, hk⟩
  · rw [State.memberBack_trusted hsus] at h
    exact ⟨h, fun hk => hsus (hk ▸ h)⟩

theorem State.memberBack_quiet : (s.memberBack c node).halted = s.halted ∧ (s.memberBack c node).pending = s.pending := by
  by_cases hsus : node ∈ (mget {} s.ctxs c).suspects
  · have h := s.memberBack_flows c node hsus
    exact ⟨h.halted, h.pending⟩
  · rw [State.memberBack_trusted hsus]
    exact ⟨rfl, rfl⟩

end

/-- Contexts gone through one by one: none of them has the node as a suspect any more. -/
theorem foldl_memberBack_suspects (node : Nat) (l : List Nat) (s : State) {k : Nat}
    (h : node ∈ (mget {} (l.foldl (fun (t : State) c => t.memberBack c node) s).ctxs k).suspects) :
    node ∈ (mget {} s.ctxs k).suspects ∧ k ∉ l := by
  induction l generalizing s with
  | nil => exact ⟨h, List.not_mem_nil⟩
  | cons c l ih =>
    obtain ⟨hmem, hnot⟩ := ih _ h
    obtain ⟨hbefore, hne⟩ := s.memberBack_suspects c node hmem
    exact ⟨hbefore, by simp [hne, hnot]⟩

/-- A node that is back is a suspect nowhere: a context that is not listed has none. -/
theorem State.nodeBack_suspects (s : State) (node c : Nat) : node ∉ (mget {} (s.nodeBack node).ctxs c).suspects := by
  intro h
  obtain ⟨hmem, hnot⟩ := foldl_memberBack_suspects node _ s h
  have hnone : mget {} s.ctxs c = {} := mget_eq_default fun e he hk => hnot (hk ▸ List.mem_map_of_mem he)
  rw [hnone] at hmem
  exact List.not_mem_nil hmem

theorem State.nodeBack_quiet (s : State) (node : Nat) :
    (s.nodeBack node).halted = s.halted ∧ (s.nodeBack node).pending = s.pending :=
  foldl_invariant (fun t : State => t.halted = s.halted ∧ t.pending = s.pending) _ _ s ⟨rfl, rfl⟩ fun t c _ h =>
    ⟨(t.memberBack_quiet c node).1.trans h.1, (t.memberBack_quiet c node).2.trans h.2⟩

/-! ### Transactions of the fabric as they arrive (R258, R262) -/

/-- What a receive buffer gives up by itself leaves the contexts, and no register but those of events. -/
structure RxOnly (s t : State) : Prop where
  ctxs : t.ctxs = s.ctxs
  frame : Frame notEvent s t

namespace RxOnly

variable {s t u : State}

theorem refl (s : State) : RxOnly s s := ⟨rfl, .refl s⟩

theorem trans (h : RxOnly s t) (k : RxOnly t u) : RxOnly s u := ⟨k.ctxs.trans h.ctxs, h.frame.trans k.frame⟩

theorem of_link (h : LinkOnly s t) : RxOnly s t :=
  ⟨by rw [h], by rw [h], by rw [h], by rw [h], fun f i _ _ => State.fget_of_regs (by rw [h]) f i⟩

end RxOnly

section
variable (s : State)

theorem State.protocolEvent_rxOnly (p d4 d5 : Nat) : RxOnly s (s.protocolEvent p d4 d5) :=
  ⟨(s.logEvent_eventOnly (by exact nofun)).ctxs, s.logEvent_frame (by exact nofun)⟩

theorem State.refuseColl_rxOnly (t : Txn) : RxOnly s (s.refuseColl t) := by
  have hissue (t : Txn) : RxOnly s (s.issueOn t 0 none false) := .of_link (s.issueOn_linkOnly (.inl rfl) 0 false)
  unfold State.refuseColl
  dsimp only
  split
  · split
    · exact hissue _
    · exact .refl s
  · split
    · exact hissue _
    · exact .refl s

theorem State.stage_rxOnly (t : Txn) : RxOnly s (s.stage_ t) := ⟨rfl, rfl, rfl, rfl, fun _ _ _ _ => rfl⟩

theorem State.drainRx_rxOnly (p v f : Nat) : RxOnly s (State.drainRx p v f s) := by
  induction f generalizing s with
  | zero => exact .refl s
  | succ f ih =>
    have hport (x : Port) : RxOnly s (s.setPort p x) := .of_link rfl
    unfold State.drainRx
    split
    · exact .refl s
    · dsimp only
      split
      · exact ((hport _).trans (State.protocolEvent_rxOnly _ _ _ _)).trans (ih _)
      · split
        · exact ((hport _).trans (State.refuseColl_rxOnly _ _)).trans (ih _)
        · split
          · exact ((hport _).trans (State.stage_rxOnly _ _)).trans (ih _)
          · split
            · exact (hport _).trans (ih _)
            · exact .refl s

theorem State.takeRx_rxOnly (p : Nat) (t : Txn) : RxOnly s (s.takeRx p t) := by
  unfold State.takeRx
  split
  · have hport (x : Port) : RxOnly s (s.setPort p x) := .of_link rfl
    exact (hport _).trans (State.drainRx_rxOnly _ _ _ _)
  · exact .refl s

/-- A message of the fabric that fits its port and its row. -/
theorem State.onMgmt_arrives {p msg : Nat} {x : Txn} (harr : s.arrives p x = true) (hscr : s.screen p x = none)
    (htype : x.ttype = ttMgmt) (hmsg : x.arg0.toNat % 256 = msg) (f : State → State) :
    s.onMgmt p msg x f = f (s.takeRx p x) := by
  unfold State.onMgmt State.onTxn
  rw [if_pos (.inl hmsg), if_neg (by simp [harr]), hscr]
  exact if_pos htype

end

/-! ### UNREACH and REACH -/

section
variable {s : State} {p : Nat} {x : Txn} (hl : s.live = true) (harr : s.arrives p x = true) (hscr : s.screen p x = none)
  (htype : x.ttype = ttMgmt)
include hl harr hscr htype

theorem exec_unreach (hmsg : x.arg0.toNat % 256 = 1) :
    ∃ t, exec (.unreach p x) s = .next t ∧ ∀ c < 1024, wbits x.arg1 17 0 ∈ s.members c →
      (s.members c).idxOf (wbits x.arg1 17 0) ≠ s.selfIdx c → s.fget Fl.grpCfgValid c = 1 →
      s.fget Fl.grpStatState c ≠ gsFailed → wbits x.arg1 17 0 ∈ (mget {} t.ctxs c).suspects := by
  have hrx := s.takeRx_rxOnly p x
  have hlost := (s.takeRx p x).nodeLost_keeps (c := 0) (by decide) (wbits x.arg1 17 0)
  refine ⟨(s.takeRx p x).nodeLost (wbits x.arg1 17 0), ?_, fun c hc hmem hother hvalid hstate => ?_⟩
  · show execUnreach p x s = _
    unfold execUnreach
    exact act_eq_next hl (s.onMgmt_arrives harr hscr htype hmsg _)
      ((hlost.halted.trans hrx.frame.halted).trans (State.halted_of_live hl)) (hlost.pending.trans hrx.frame.pending)
  · have hm := congrFun (members_of_ctxs hrx.ctxs) c
    have hself : (s.takeRx p x).selfIdx c = s.selfIdx c := hrx.frame.fget Fl.grpStatSelf c hc ⟨by decide, by decide⟩
    have hv := hrx.frame.fget Fl.grpCfgValid c hc ⟨by decide, by decide⟩
    have hst := hrx.frame.fget Fl.grpStatState c hc ⟨by decide, by decide⟩
    exact State.nodeLost_suspects hc (hm ▸ hmem) (by rw [hm, hself]; exact hother) (hv.trans hvalid)
      (by rw [hst]; exact hstate)

theorem exec_reach (hmsg : x.arg0.toNat % 256 = 2) :
    ∃ t, exec (.reach p x) s = .next t ∧ ∀ c, wbits x.arg1 17 0 ∉ (mget {} t.ctxs c).suspects := by
  have hrx := s.takeRx_rxOnly p x
  obtain ⟨hhalted, hpending⟩ := (s.takeRx p x).nodeBack_quiet (wbits x.arg1 17 0)
  refine ⟨(s.takeRx p x).nodeBack (wbits x.arg1 17 0), ?_, (s.takeRx p x).nodeBack_suspects _⟩
  show execReach p x s = _
  unfold execReach
  exact act_eq_next hl (s.onMgmt_arrives harr hscr htype hmsg _)
    ((hhalted.trans hrx.frame.halted).trans (State.halted_of_live hl)) (hpending.trans hrx.frame.pending)

end

end Sys2Proof.Machine
end

section
/-! Waits for a takeover that expire: the context fails, or re-forms without its suspects (R235, R237). -/

namespace Sys2Proof.Machine

/-! ### TWIN_WAIT_EXPIRE (R235, R237) -/

/-- The contexts, the instances, the halt and the queue. -/
def State.roster (s : State) : SMap Ctx × List Inst × Bool × List Instr := (s.ctxs, s.insts, s.halted, s.pending)

section
variable {s t : State}

theorem StoresOnly.roster (h : StoresOnly s t) : t.roster = s.roster := by
  rw [h]
  rfl

theorem RegsOnly.roster (h : RegsOnly s t) : t.roster = s.roster := by
  rw [h]
  rfl

theorem EventOnly.roster (h : EventOnly s t) : t.roster = s.roster := by
  rw [h]
  rfl

theorem entryKeeps_roster : EntryKeeps State.roster where
  stores h := h.roster
  log _ _ := rfl
  broken s := (regsOnly_fset s _ _ _).roster
  event s _ he := (s.logEvent_eventOnly he).roster

end

/-- A context without a member, and without it as a suspect. -/
def Ctx.withoutMember (m : Nat) (x : Ctx) : Ctx :=
  { x with members := x.members.eraseIdx m, suspects := x.suspects.filter (· ≠ x.members.getD m 0) }

/-- The state without a member of a context. -/
def State.withoutMember (s : State) (c m : Nat) : State :=
  { s with ctxs := mput {} s.ctxs c ((mget {} s.ctxs c).withoutMember m) }

theorem regsOnly_hwset (s : State) (f : Fld) (i v : Nat) : RegsOnly s (s.hwset f i v) := by
  unfold State.hwset
  split
  · rfl
  · exact regsOnly_fset s f i v

section
variable (s : State) (c m : Nat)

theorem State.detour_roster (p : Bool) (cause seq : Nat) (outcome : List Byte) :
    (s.detour p cause seq outcome).roster = s.roster := by
  refine (entryKeeps_roster.logAppend _ p _ _).trans ?_
  cases p
  · exact (((regsOnly_fset s _ _ _).trans (regsOnly_fset _ _ _ _)).trans (regsOnly_fset _ _ _ _)).roster
  · exact (storesOnly_set_twin s _).roster

theorem State.exclude_roster : (s.exclude c m).roster = (s.withoutMember c m).roster := by
  have hregs : RegsOnly (s.withoutMember c m) (s.exclude c m) := by
    unfold State.exclude
    exact (((regsOnly_fset (s.withoutMember c m) _ _ _).trans (regsOnly_fset _ _ _ _)).trans
      (regsOnly_fset _ _ _ _)).trans (regsOnly_hwset _ _ _ _)
  exact hregs.roster

/-- A context without instances is re-formed without a member; the rest is its registers, the log and an event (R237). -/
theorem State.reform_idle (h : s.insts = []) : (s.reform c m true).roster = (s.withoutMember c m).roster := by
  have hnone : (s.insts.filter fun i => i.ctx == c) = [] := by
    rw [h]
    rfl
  have hevent (t : State) : (t.collEvent c 0x09 .degraded 0 0).roster = t.roster :=
    (t.collEvent_eventOnly c 0x09 (by exact nofun) 0 0).roster
  have hpump {t : State} (ht : t.roster = (s.withoutMember c m).roster) : t.pump.roster = (s.withoutMember c m).roster := by
    have hinsts : t.insts = [] := (congrArg (fun x => x.2.1) ht).trans h
    unfold State.pump
    rw [hinsts]
    exact ht
  unfold State.reform
  rw [hnone]
  refine hpump ((regsOnly_fset _ _ _ _).roster.trans ((hevent _).trans ?_))
  exact (State.detour_roster _ _ _ _ _).trans (s.exclude_roster c m)

theorem State.withoutMember_members : (s.withoutMember c m).members c = (s.members c).eraseIdx m := by
  unfold State.members
  exact congrArg Ctx.members (mget_mput_same _ _ _ _)

/-- One suspect excluded, where it is a member. -/
def State.reformOne (c : Nat) (s : State) (n : Nat) : State :=
  if (s.members c).idxOf n < (s.members c).length then s.reform c ((s.members c).idxOf n) true else s

end

/-- A context whose suspects are excluded while it has no instances. -/
structure Reforms (c : Nat) (l : List Nat) (s t : State) : Prop where
  members : t.members c = (s.members c).diff l
  insts : t.insts = []
  halted : t.halted = s.halted
  pending : t.pending = s.pending

theorem State.reformOne_reforms {s : State} (c n : Nat) (h : s.insts = []) : Reforms c [n] s (State.reformOne c s n) := by
  unfold State.reformOne
  split
  · have hr := s.reform_idle c ((s.members c).idxOf n) h
    have hctxs : (s.reform c ((s.members c).idxOf n) true).ctxs = (s.withoutMember c ((s.members c).idxOf n)).ctxs :=
      congrArg Prod.fst hr
    refine ⟨?_, (congrArg (fun x => x.2.1) hr).trans h, congrArg (fun x => x.2.2.1) hr, congrArg (fun x => x.2.2.2) hr⟩
    rw [members_of_ctxs hctxs, s.withoutMember_members, List.diff_cons, List.diff_nil, List.erase_eq_eraseIdx_of_idxOf rfl]
  · rename_i hout
    refine ⟨?_, h, rfl, rfl⟩
    rw [List.diff_cons, List.diff_nil, List.erase_of_not_mem fun hmem => hout (List.idxOf_lt_length_of_mem hmem)]

theorem foldl_reformOne_reforms (c : Nat) (l : List Nat) {s : State} (h : s.insts = []) :
    Reforms c l s (l.foldl (State.reformOne c) s) := by
  induction l generalizing s with
  | nil => exact ⟨rfl, h, rfl, rfl⟩
  | cons n l ih =>
    have hone := State.reformOne_reforms c n h
    have hrest := ih hone.insts
    refine ⟨?_, hrest.insts, hrest.halted.trans hone.halted, hrest.pending.trans hone.pending⟩
    rw [List.foldl_cons, hrest.members, hone.members, List.diff_cons, List.diff_nil, List.diff_cons]

section
variable {s : State} {c : Nat} (hl : s.live = true) (hstate : s.fget Fl.grpStatState c = gsSuspect)
  (hover : s.elapsed (mget {} s.ctxs c).suspectAt (s.limitUs 6) = true)
include hl hstate hover

/-- A wait that expires runs what ON_LOSS says. -/
theorem exec_twinWaitExpire {t : State}
    (ht : t = if s.fget Fl.grpCfgOnLoss c = 1 then
        if s.ctxStrict (decide (512 ≤ c) && s.twin.serves.isSome) then (s.collEvent c 0x0A .lost 0 0).failCtx c 0x22
        else s.reformAll c
      else s.failCtx c 0x23)
    (hh : t.halted = s.halted) (hp : t.pending = s.pending) : exec (.twinWaitExpire c) s = .next t := by
  have hgo : ¬ (s.fget Fl.grpStatState c ≠ gsSuspect ∨
      (!s.elapsed (mget {} s.ctxs c).suspectAt (s.limitUs 6)) = true) := by
    simp [hstate, hover]
  show execTwinWaitExpire c s = _
  unfold execTwinWaitExpire
  exact act_eq_next hl ((if_neg hgo).trans ht.symm) (hh.trans (State.halted_of_live hl)) hp

/-- The context fails, unless it may re-form. -/
theorem exec_twinWaitExpire_fails (hc : c < 1024)
    (h : s.fget Fl.grpCfgOnLoss c ≠ 1 ∨ s.ctxStrict (decide (512 ≤ c) && s.twin.serves.isSome) = true) :
    ∃ t, exec (.twinWaitExpire c) s = .next t ∧ t.fget Fl.grpStatState c = gsFailed := by
  by_cases hloss : s.fget Fl.grpCfgOnLoss c = 1
  · have hevent := s.collEvent_eventOnly c 0x0A (cls := .lost) (by exact nofun) 0 0
    have hfail := (s.collEvent c 0x0A .lost 0 0).failCtx_fails hc 0x22
    refine ⟨_, exec_twinWaitExpire hl hstate hover ?_ (hfail.halted.trans hevent.halted)
      (hfail.pending.trans hevent.pending), hfail.failed⟩
    rw [if_pos hloss, if_pos (h.resolve_left (not_not.mpr hloss))]
  · have hfail := s.failCtx_fails hc 0x23
    exact ⟨_, exec_twinWaitExpire hl hstate hover (if_neg hloss).symm hfail.halted hfail.pending, hfail.failed⟩

/-- The context re-forms without its suspects. -/
theorem exec_twinWaitExpire_reforms (hloss : s.fget Fl.grpCfgOnLoss c = 1)
    (hstrict : s.ctxStrict (decide (512 ≤ c) && s.twin.serves.isSome) = false) (hinsts : s.insts = [])
    (hdistinct : (s.members c).Nodup) : ∃ t, exec (.twinWaitExpire c) s = .next t ∧
      t.members c = (s.members c).filter fun n => !(mget {} s.ctxs c).suspects.contains n := by
  have h : Reforms c (mget {} s.ctxs c).suspects s (s.reformAll c) := foldl_reformOne_reforms c _ hinsts
  refine ⟨_, exec_twinWaitExpire hl hstate hover ?_ h.halted h.pending, ?_⟩
  · rw [if_pos hloss, hstrict, if_neg (by decide)]
  · rw [h.members, hdistinct.sdiff_eq_filter]
    exact List.filter_congr fun n _ => by simp

end

/-- Settles O43: a lost member is suspect, and the context waits or fails; UNREACH and REACH say so for a node in every
context; a wait that expires fails the context or re-forms it. -/
theorem memberLoss : Obligations.MemberLoss := by
  unfold Obligations.MemberLoss
  refine ⟨fun s c m hl hc hvalid hstate hmember hother htrusted hover =>
      exec_memberSuspect hl hc ⟨hvalid, hstate, hmember, hother, htrusted⟩ hover,
    fun s c hl hc hstate hover => ⟨exec_twinWaitExpire_fails hl hstate hover hc,
      exec_twinWaitExpire_reforms hl hstate hover⟩,
    fun s p x hl harr hscr htype => ⟨exec_unreach hl harr hscr htype, exec_reach hl harr hscr htype⟩⟩

end Sys2Proof.Machine
end

section
/-! GRP_CFG_n: the configuration of a group context (R212, R213). -/

namespace Sys2Proof.Machine

/-! ### A partner that is told (R348) -/

/-- What telling the partner of a register leaves: the registers, the halt and the queue. -/
structure Told (s t : State) : Prop where
  regs : t.regs = s.regs
  halted : t.halted = s.halted
  pending : t.pending = s.pending

theorem Told.fget {s t : State} (h : Told s t) (f : Fld) (i : Nat) : t.fget f i = s.fget f i := State.fget_of_regs h.regs f i

section
variable (s : State)

theorem State.mirrorBack_told (t : Txn) : Told s (s.mirrorBack t) := by
  unfold State.mirrorBack State.redirty
  dsimp only
  split
  · split <;> exact ⟨rfl, rfl, rfl⟩
  · split
    · exact ⟨rfl, rfl, rfl⟩
    · split <;> exact ⟨rfl, rfl, rfl⟩

theorem State.issueOn_told (t : Txn) (stream : Nat) (b : Bool) : Told s (s.issueOn t stream (some .mirror) b) := by
  rcases s.issueOn_cases t stream (some .mirror) b with h | h
  · rw [h]
    exact s.mirrorBack_told t
  · exact ⟨by rw [h], by rw [h], by rw [h]⟩

theorem State.sendKept_told (dst kind addr arg0 : Nat) (data : List Byte) : Told s (s.sendKept dst kind addr arg0 data) := by
  have hsend : Told s (s.sendMirror dst kind addr arg0 data .mirror) := by
    have h := s.tagNext.issueOn_told { blankTxn ttMirror 6 dst with
      addr := addr, len := data.length, arg0 := BitVec.ofNat 64 arg0, arg1 := BitVec.ofNat 64 kind, data := data,
      tag := s.newTag, src := s.node } 0 false
    exact ⟨h.regs, h.halted, h.pending⟩
  unfold State.sendKept
  dsimp only
  split
  · exact ⟨hsend.regs, hsend.halted, hsend.pending⟩
  · exact hsend

theorem State.tellConfig_told (r : Reg) (i : Nat) : Told s (s.tellConfig r i) := by
  unfold State.tellConfig
  split
  · exact s.sendKept_told _ _ _ _ _
  · exact ⟨rfl, rfl, rfl⟩

end

/-! ### The fields stored -/

/-- Alike but for GRP_CFG and the contexts. -/
structure CfgOnly (s t : State) : Prop where
  mem : t.mem = s.mem
  panel : t.panel = s.panel
  harts : t.harts = s.harts
  halted : t.halted = s.halted
  pending : t.pending = s.pending
  frame : ∀ f i, i < f.reg.place.2.1 → f.reg ≠ .grpCfg → t.fget f i = s.fget f i

namespace CfgOnly

variable {s t u : State}

theorem refl (s : State) : CfgOnly s s := ⟨rfl, rfl, rfl, rfl, rfl, fun _ _ _ _ => rfl⟩

theorem trans (h : CfgOnly s t) (k : CfgOnly t u) : CfgOnly s u :=
  ⟨k.mem.trans h.mem, k.panel.trans h.panel, k.harts.trans h.harts, k.halted.trans h.halted, k.pending.trans h.pending,
    fun f i hi hf => (k.frame f i hi hf).trans (h.frame f i hi hf)⟩

theorem of_fset (s : State) {f : Fld} {n : Nat} (x : Nat) (hn : n < f.reg.place.2.1) (hf : f.reg = .grpCfg) :
    CfgOnly s (s.fset f n x) :=
  ⟨s.fset_mem _ _ _, s.fset_panel _ _ _, s.fset_harts _ _ _, s.fset_halted _ _ _, s.fset_pending _ _ _,
    fun _ _ hi hg => s.fget_fset_ne x hn hi (.inl (hf ▸ hg))⟩

theorem of_swset (s : State) {f : Fld} {n : Nat} (x : Nat) (hn : n < f.reg.place.2.1) (hf : f.reg = .grpCfg) :
    CfgOnly s (s.swset f n x) := by
  have h := of_fset s (f := f) x hn hf
  exact ⟨h.mem, h.panel, h.harts, h.halted, h.pending, h.frame⟩

section
variable (h : CfgOnly s t)
include h

theorem present {k : Nat} (hp : s.present (.hart k) = true) : t.present (.hart k) = true := by
  have hlife : t.fget Fl.glbLifeState 0 = s.fget Fl.glbLifeState 0 := h.frame _ _ (by decide) (by decide)
  have hhart : t.hart k = s.hart k := congrArg (fun m => mget ({} : Hart) m k) h.harts
  unfold State.present at hp ⊢
  dsimp only at hp ⊢
  rw [hlife, hhart]
  exact hp

theorem node : t.node = s.node := h.frame Fl.glbNodeNode 0 (by decide) (by decide)

theorem readMembers (a c : Nat) : t.readMembers false a c = s.readMembers false a c := by
  have hrd : t.ctxRd false = s.ctxRd false :=
    funext fun a => State.byteAt_eq h.mem h.panel (h.frame Fl.memPswinSpare 0 (by decide) (by decide)) a
  unfold State.readMembers
  rw [hrd]

end

end CfgOnly

section
variable {s : State} {h n : Nat} (v : Word64)

/-- A field of plain read and write access takes a write, or ignores it. -/
theorem State.fieldWrite_rw_cases (req : Requester) (i : Nat) (v : Word64) (s : State) {f : Fld} (ha : f.acc = .rw) :
    State.fieldWrite req i v s f = s ∨ State.fieldWrite req i v s f = s.swset f i (bitsOf v.toNat f.hi f.lo) := by
  unfold State.fieldWrite
  dsimp only
  rw [ha]
  split
  · exact .inl rfl
  · exact (ite_eq_or_eq _ _ _).symm

/-- The fields of GRP_CFG that a write stores as they stand. -/
def cfgFields : List Fld := [Fl.grpCfgOnLoss, Fl.grpCfgCount, Fl.grpCfgListAddr]

theorem cfgFields_eq : ((Reg.fields .grpCfg).filter fun f => f.lo ≠ 63) = cfgFields := rfl

/-- GRP_CFG_n with every field stored but VALID. -/
def State.cfgStored (s : State) (h n : Nat) (v : Word64) : State := s.storeFields (.hart h) n v cfgFields

/-- The state in which a context is not valid. -/
def State.cfgInvalid (s : State) (n : Nat) : State :=
  { s.fset Fl.grpCfgValid n 0 with ctxs := merase s.ctxs n }

/-- The context is no longer valid while its configuration is checked. -/
def State.cfgCleared (s : State) (h n : Nat) (v : Word64) : State :=
  (s.cfgStored h n v).cfgInvalid n

variable (hp : s.present (.hart h) = true) (hn : n < 1024)
include hp hn

/-- The fields of a write are stored; an ON_LOSS of 3 is not taken (Table 9.4). -/
theorem State.cfgStored_fields : CfgOnly s (s.cfgStored h n v) ∧
    (s.cfgStored h n v).fget Fl.grpCfgCount n = bitsOf v.toNat 60 42 ∧
    (s.cfgStored h n v).fget Fl.grpCfgListAddr n = bitsOf v.toNat 39 0 := by
  have hloss : CfgOnly s (State.fieldWrite (.hart h) n v s Fl.grpCfgOnLoss) := by
    rcases State.fieldWrite_rw_cases (.hart h) n v s (f := Fl.grpCfgOnLoss) rfl with hw | hw
    · rw [hw]
      exact .refl s
    · rw [hw]
      exact .of_swset s _ hn rfl
  have hstored : s.cfgStored h n v = ((State.fieldWrite (.hart h) n v s Fl.grpCfgOnLoss).swset Fl.grpCfgCount n
      (bitsOf v.toNat 60 42)).swset Fl.grpCfgListAddr n (bitsOf v.toNat 39 0) := by
    have hcount := hloss.trans
      (.of_swset _ (f := Fl.grpCfgCount) (bitsOf v.toNat Fl.grpCfgCount.hi Fl.grpCfgCount.lo) hn rfl)
    unfold State.cfgStored State.storeFields cfgFields
    rw [List.foldl_cons, List.foldl_cons, List.foldl_cons, List.foldl_nil,
      State.fieldWrite_rw (f := Fl.grpCfgCount) rfl (State.mayWrite_hart (hloss.present hp)) rfl,
      State.fieldWrite_rw (f := Fl.grpCfgListAddr) rfl (State.mayWrite_hart (hcount.present hp)) rfl]
    rfl
  rw [hstored]
  generalize State.fieldWrite (.hart h) n v s Fl.grpCfgOnLoss = u at hloss
  refine ⟨(hloss.trans (.of_swset u _ hn rfl)).trans (.of_swset _ _ hn rfl), ?_, ?_⟩
  · rw [State.fget_swset, State.fget_fset_field _ (f := Fl.grpCfgListAddr) (g := Fl.grpCfgCount) _ _ (by decide) rfl
      (by decide), State.fget_swset, State.fget_fset_same _ _ _ _ (by decide)]
    exact Nat.mod_eq_of_lt (bitsOf_lt _ _ _)
  · rw [State.fget_swset, State.fget_fset_same _ _ _ _ (by decide)]
    exact Nat.mod_eq_of_lt (bitsOf_lt _ _ _)

theorem State.cfgCleared_fields : CfgOnly s (s.cfgCleared h n v) ∧ (s.cfgCleared h n v).fget Fl.grpCfgValid n = 0 ∧
    (s.cfgCleared h n v).fget Fl.grpCfgCount n = bitsOf v.toNat 60 42 ∧
    (s.cfgCleared h n v).fget Fl.grpCfgListAddr n = bitsOf v.toNat 39 0 := by
  obtain ⟨hs, hcount, haddr⟩ := State.cfgStored_fields v hp hn
  have hvalid := CfgOnly.of_fset (s.cfgStored h n v) (f := Fl.grpCfgValid) 0 hn rfl
  have hctxs (t : State) (l : SMap Ctx) : CfgOnly t { t with ctxs := l } := ⟨rfl, rfl, rfl, rfl, rfl, fun _ _ _ _ => rfl⟩
  have hfget (t : State) (l : SMap Ctx) (f : Fld) : State.fget { t with ctxs := l } f n = t.fget f n := rfl
  unfold State.cfgCleared State.cfgInvalid
  refine ⟨(hs.trans hvalid).trans (hctxs _ _), ?_, ?_, ?_⟩
  · rw [hfget, State.fget_fset_same _ _ _ _ (by decide)]
    rfl
  · rw [hfget, State.fget_fset_field _ (f := Fl.grpCfgValid) (g := Fl.grpCfgCount) _ _ (by decide) rfl (by decide)]
    exact hcount
  · rw [hfget, State.fget_fset_field _ (f := Fl.grpCfgValid) (g := Fl.grpCfgListAddr) _ _ (by decide) rfl (by decide)]
    exact haddr

end

/-! ### The member list (R212) -/

/-- A list that a context may have: distinct members in the commons, this node among them (R213). -/
def State.goodList (s : State) (v : Word64) : Prop :=
  1 ≤ bitsOf v.toNat 60 42 ∧ bitsOf v.toNat 60 42 ≤ 262144 ∧ bitsOf v.toNat 39 0 % 8 = 0 ∧
    inCommons (bitsOf v.toNat 39 0) (4 * bitsOf v.toNat 60 42) = true ∧
    (s.readMembers false (bitsOf v.toNat 39 0) (bitsOf v.toNat 60 42)).Nodup ∧
    s.node ∈ s.readMembers false (bitsOf v.toNat 39 0) (bitsOf v.toNat 60 42)

section
variable {s : State} {h n : Nat} {v : Word64} (hp : s.present (.hart h) = true) (hn : n < 1024)
include hp hn

theorem State.groupList_good (hg : s.goodList v) : (s.cfgCleared h n v).groupList n =
    some (s.readMembers false (bitsOf v.toNat 39 0) (bitsOf v.toNat 60 42)) := by
  obtain ⟨hpos, hmax, halign, hin, hdistinct, hself⟩ := hg
  obtain ⟨hc, -, hcount, haddr⟩ := State.cfgCleared_fields v hp hn
  unfold State.groupList
  dsimp only
  rw [hcount, haddr, hc.readMembers, hc.node, if_pos ⟨hpos, hmax, halign, hin⟩, if_pos ⟨hdistinct, hself⟩]

theorem State.groupList_bad (hg : ¬ s.goodList v) : (s.cfgCleared h n v).groupList n = none := by
  obtain ⟨hc, -, hcount, haddr⟩ := State.cfgCleared_fields v hp hn
  unfold State.groupList
  dsimp only
  rw [hcount, haddr, hc.readMembers, hc.node]
  split
  · rename_i hplace
    obtain ⟨hpos, hmax, halign, hin⟩ := hplace
    exact if_neg fun hms => hg ⟨hpos, hmax, halign, hin, hms⟩
  · rfl

end

/-! ### The context configured -/

/-- A context with a valid member list. -/
def State.grouped (s : State) (n : Nat) (ms : List Nat) : State :=
  let u := (s.fset Fl.grpCfgValid n 1).fset Fl.grpStatSelf n (ms.idxOf s.node)
  let u := (u.fset Fl.grpStatFlat n (!regular ms).toNat).fset Fl.grpStatEpoch n 0
  let u := (u.fset Fl.grpStatSeq n 0).fset Fl.grpStatState n 0
  { u with ctxs := mput {} u.ctxs n { members := ms } }

section
variable (s : State) {n : Nat} (ms : List Nat)

/-- The fields of GRP_STAT do not meet. -/
theorem State.fget_grpStat (s : State) {f g : Fld} (n x : Nat) (hw : f.inWord) (hf : f.reg = .grpStat)
    (hg : g.reg = .grpStat) (h : f.hi < g.lo ∨ g.hi < f.lo) : (s.fset f n x).fget g n = s.fget g n :=
  s.fget_fset_field n x hw (hg.trans hf.symm) h

theorem State.grouped_quiet : (s.grouped n ms).halted = s.halted ∧ (s.grouped n ms).pending = s.pending := by
  have hctxs (t : State) (l : SMap Ctx) : State.halted { t with ctxs := l } = t.halted ∧
    State.pending { t with ctxs := l } = t.pending := ⟨rfl, rfl⟩
  unfold State.grouped
  dsimp only
  rw [(hctxs _ _).1, (hctxs _ _).2]
  simp only [State.fset_halted, State.fset_pending, and_self]

theorem State.grouped_valid (hn : n < 1024) : (s.grouped n ms).fget Fl.grpCfgValid n = 1 := by
  have hstat (t : State) {f : Fld} (x : Nat) (hf : f.reg = .grpStat) :
      (t.fset f n x).fget Fl.grpCfgValid n = t.fget Fl.grpCfgValid n :=
    t.fget_fset_ne x (by rw [hf]; exact hn) hn (.inl (by rw [hf]; decide))
  have hctxs (t : State) (l : SMap Ctx) : State.fget { t with ctxs := l } Fl.grpCfgValid n = t.fget Fl.grpCfgValid n := rfl
  unfold State.grouped
  dsimp only
  rw [hctxs, hstat _ _ rfl, hstat _ _ rfl, hstat _ _ rfl, hstat _ _ rfl, hstat _ _ rfl,
    State.fget_fset_same _ _ _ _ (by decide)]
  rfl

theorem State.grouped_self : (s.grouped n ms).fget Fl.grpStatSelf n = ms.idxOf s.node % 2 ^ 18 := by
  have hctxs (t : State) (l : SMap Ctx) : State.fget { t with ctxs := l } Fl.grpStatSelf n = t.fget Fl.grpStatSelf n := rfl
  unfold State.grouped
  dsimp only
  rw [hctxs, State.fget_grpStat _ (f := Fl.grpStatState) _ _ (by decide) rfl rfl (by decide),
    State.fget_grpStat _ (f := Fl.grpStatSeq) _ _ (by decide) rfl rfl (by decide),
    State.fget_grpStat _ (f := Fl.grpStatEpoch) _ _ (by decide) rfl rfl (by decide),
    State.fget_grpStat _ (f := Fl.grpStatFlat) _ _ (by decide) rfl rfl (by decide),
    State.fget_fset_same _ _ _ _ (by decide)]
  rfl

theorem State.grouped_seq : (s.grouped n ms).fget Fl.grpStatSeq n = 0 := by
  have hctxs (t : State) (l : SMap Ctx) : State.fget { t with ctxs := l } Fl.grpStatSeq n = t.fget Fl.grpStatSeq n := rfl
  unfold State.grouped
  dsimp only
  rw [hctxs, State.fget_grpStat _ (f := Fl.grpStatState) _ _ (by decide) rfl rfl (by decide),
    State.fget_fset_same _ _ _ _ (by decide)]
  rfl

theorem State.grouped_state : (s.grouped n ms).fget Fl.grpStatState n = 0 := by
  have hctxs (t : State) (l : SMap Ctx) : State.fget { t with ctxs := l } Fl.grpStatState n = t.fget Fl.grpStatState n :=
    rfl
  unfold State.grouped
  dsimp only
  rw [hctxs, State.fget_fset_same _ _ _ _ (by decide)]
  rfl

end

/-! ### GRP_CFG_n -/

section
variable {s : State} {h n : Nat} {v : Word64}

theorem State.grpCfg_busy (hst : s.fget Fl.grpStatState n = 1 ∨ s.fget Fl.grpStatState n = 2) :
    s.grpCfg (.hart h) n v = s := by
  unfold State.grpCfg
  exact if_pos (by rcases hst with hst | hst <;> simp [hst])

section
variable (hp : s.present (.hart h) = true) (hn : n < 1024) (hst : s.fget Fl.grpStatState n ≠ 1)
  (hst' : s.fget Fl.grpStatState n ≠ 2)
include hp hst hst'

theorem grpCfg_open : ¬ (!s.mayWrite (.hart h) .hart || s.fget Fl.grpStatState n == 1 ||
    s.fget Fl.grpStatState n == 2) = true := by
  rw [State.mayWrite_hart hp]
  simp [hst, hst']

/-- Without VALID the fields are stored, and the context is not valid. -/
theorem State.grpCfg_off (hv : v.getLsbD 63 = false) :
    s.grpCfg (.hart h) n v = (s.cfgCleared h n v).tellConfig .grpCfg n := by
  unfold State.grpCfg
  rw [cfgFields_eq]
  refine (if_neg (grpCfg_open hp hst hst')).trans (congrArg (fun t : State => t.tellConfig .grpCfg n) ?_)
  exact if_pos (by rw [hv]; rfl)

include hn

/-- With VALID, where the context is not the partner's, the list is read and checked. -/
theorem State.grpCfg_valid (hv : v.getLsbD 63 = true) (hown : n < 512 ∨ s.fget Fl.twnCtlEnable 0 = 0) :
    (s.goodList v → s.grpCfg (.hart h) n v = ((s.cfgCleared h n v).grouped n
        (s.readMembers false (bitsOf v.toNat 39 0) (bitsOf v.toNat 60 42))).tellConfig .grpCfg n) ∧
      (¬ s.goodList v → s.grpCfg (.hart h) n v =
        ((s.cfgCleared h n v).collEvent n 0x0C .program 0 0).tellConfig .grpCfg n) := by
  have htwin : ¬ (s.fon Fl.twnCtlEnable 0 && decide (512 ≤ n)) = true := by
    unfold State.fon
    rcases hown with hown | hown
    · simp [Nat.not_le_of_lt hown]
    · simp [hown]
  have hread : ¬ (!v.getLsbD 63) = true := by
    rw [hv]
    decide
  have hchecked {t : State} (hnone : (s.cfgCleared h n v).groupList n = none →
        (s.cfgCleared h n v).collEvent n 0x0C .program 0 0 = t)
      (hsome : ∀ ms, (s.cfgCleared h n v).groupList n = some ms → (s.cfgCleared h n v).grouped n ms = t) :
      s.grpCfg (.hart h) n v = t.tellConfig .grpCfg n := by
    unfold State.grpCfg
    rw [cfgFields_eq]
    refine (if_neg (grpCfg_open hp hst hst')).trans (congrArg (fun t : State => t.tellConfig .grpCfg n) ?_)
    refine ((if_neg hread).trans (if_neg htwin)).trans ?_
    split
    · rename_i hlist
      exact hnone hlist
    · rename_i ms hlist
      exact hsome ms hlist
  refine ⟨fun hg => hchecked (fun hnone => ?_) fun ms hsome => ?_, fun hg => hchecked (fun _ => rfl) fun ms hsome => ?_⟩
  · cases (State.groupList_good hp hn hg).symm.trans hnone
  · cases (State.groupList_good hp hn hg).symm.trans hsome
    rfl
  · cases (State.groupList_bad hp hn hg).symm.trans hsome

end

/-- A write of GRP_CFG_n answers with what it leaves once the partner has been told. -/
theorem exec_grpCfgWrite (hl : s.live = true) {t : State} (ht : s.grpCfg (.hart h) n v = t.tellConfig .grpCfg n)
    (hh : t.halted = s.halted) (hp : t.pending = s.pending) :
    ∃ u, exec (.grpCfgWrite (.hart h) n v) s = .next u ∧ Told t u := by
  have htold := t.tellConfig_told .grpCfg n
  exact ⟨_, act_eq_next (f := fun s => s.grpCfg (.hart h) n v) hl ht
    ((htold.halted.trans hh).trans (State.halted_of_live hl)) (htold.pending.trans hp), htold⟩

end

/-- Settles O21: a context with a collective under way takes no configuration; one without takes it, and with VALID only a
good list. -/
theorem groupConfig : Obligations.GroupConfig := by
  unfold Obligations.GroupConfig
  intro s h n v hl hp hn
  obtain ⟨hc, hvalid, -⟩ := State.cfgCleared_fields v hp hn
  refine ⟨fun hst => ?busy, fun hst hst' hv => ?off, fun hst hst' hv hown => ⟨fun hg => ?good, fun hg => ?bad⟩⟩
  case busy =>
    exact act_eq_next (f := fun s => s.grpCfg (.hart h) n v) hl (State.grpCfg_busy hst) (State.halted_of_live hl) rfl
  case off =>
    obtain ⟨u, hu, htold⟩ := exec_grpCfgWrite hl (State.grpCfg_off hp hst hst' hv) hc.halted hc.pending
    exact ⟨u, hu, (htold.fget _ _).trans hvalid⟩
  case good =>
    have heq := (State.grpCfg_valid hp hn hst hst' hv hown).1 hg
    obtain ⟨hhalted, hpending⟩ := (s.cfgCleared h n v).grouped_quiet (n := n)
      (s.readMembers false (bitsOf v.toNat 39 0) (bitsOf v.toNat 60 42))
    obtain ⟨u, hu, htold⟩ := exec_grpCfgWrite hl heq (hhalted.trans hc.halted) (hpending.trans hc.pending)
    refine ⟨u, hu, (htold.fget _ _).trans (State.grouped_valid _ _ hn), ?_, (htold.fget _ _).trans (State.grouped_seq _ _),
      (htold.fget _ _).trans (State.grouped_state _ _)⟩
    rw [htold.fget, State.grouped_self, hc.node]
  case bad =>
    have heq := (State.grpCfg_valid hp hn hst hst' hv hown).2 hg
    have hevent := (s.cfgCleared h n v).collEvent_eventOnly n 0x0C (cls := .program) (by exact nofun) 0 0
    obtain ⟨u, hu, htold⟩ := exec_grpCfgWrite hl heq (hevent.halted.trans hc.halted) (hevent.pending.trans hc.pending)
    have hframe := ((s.cfgCleared h n v).collEventAt_frame ((s.cfgCleared h n v).fget Fl.glbQmaskPrincipal 0) n
      (cause := 0x0C) (cls := .program) (by exact nofun) 0 0).fget Fl.grpCfgValid n hn
      ⟨⟨by decide, by decide⟩, by decide⟩
    exact ⟨u, hu, (htold.fget _ _).trans (hframe.trans hvalid)⟩

end Sys2Proof.Machine
end

section
/-! Transactions in the byte stream of a channel: what one whole transaction reads back as, and how a stream splits into
transactions wherever it is cut (R258, Table 10.6). -/

namespace Sys2Proof.Machine

/-! ### The header of a transaction (Table 10.6) -/

/-- A word read back from words in a row, whatever follows them. -/
theorem leNat_word (ws : List Nat) (r : List Byte) {k : Nat} (hk : k < ws.length) :
    leNat (((wordsBytes ws ++ r).drop (8 * k)).take 8) = ws[k] % 2 ^ 64 := by
  have hcons (w : Nat) (ws : List Nat) : wordsBytes (w :: ws) ++ r = leBytes 8 w ++ (wordsBytes ws ++ r) := by
    simp [wordsBytes]
  induction k generalizing ws with
  | zero =>
    obtain ⟨w, ws, rfl⟩ := List.exists_cons_of_length_pos hk
    rw [hcons, Nat.mul_zero, List.drop_zero, List.take_left' (leBytes_length 8 w), leNat_leBytes]
    rfl
  | succ k ih =>
    obtain ⟨w, ws, rfl⟩ := List.exists_cons_of_length_pos (Nat.zero_lt_of_lt hk)
    rw [hcons, show 8 * (k + 1) = 8 + 8 * k by ring, ← List.drop_drop, List.drop_left' (leBytes_length 8 w),
      ih ws (Nat.lt_of_succ_lt_succ hk), List.getElem_cons_succ]

theorem txnBytes_length (x : Txn) : (txnBytes x).length = 32 + x.data.length := by
  rw [txnBytes, List.length_append, wordsBytes_length]
  rfl

section
variable {x : Txn} (h : x.wf = true)
include h

theorem Txn.wf_bounds : x.ttype < 256 ∧ x.dst < 2 ^ 18 ∧ x.src < 2 ^ 18 ∧ x.len < 2 ^ 13 ∧ x.tag < 2 ^ 16 ∧
    x.status < 256 ∧ x.addr < 2 ^ 40 := by
  simp only [Txn.wf, Bool.and_eq_true, decide_eq_true_eq] at h
  omega

/-- The fields of word 0 lie side by side. -/
theorem Txn.word0_fields : Txn.word0 x < 2 ^ 64 ∧ bitsOf (Txn.word0 x) 63 56 = x.ttype ∧ bitsOf (Txn.word0 x) 55 55 = x.last.toNat ∧
    bitsOf (Txn.word0 x) 54 54 = x.once.toNat ∧ bitsOf (Txn.word0 x) 49 32 = x.dst ∧ bitsOf (Txn.word0 x) 31 14 = x.src ∧
    bitsOf (Txn.word0 x) 12 0 = x.len := by
  obtain ⟨htype, hdst, hsrc, hlen, -⟩ := Txn.wf_bounds h
  have hlast := Bool.toNat_le x.last
  have honce := Bool.toNat_le x.once
  unfold Txn.word0 bitsOf
  omega

theorem Txn.word1_fields : Txn.word1 x < 2 ^ 64 ∧ bitsOf (Txn.word1 x) 63 48 = x.tag ∧ bitsOf (Txn.word1 x) 47 40 = x.status ∧
    bitsOf (Txn.word1 x) 39 0 = x.addr := by
  obtain ⟨-, -, -, -, htag, hstatus, haddr⟩ := Txn.wf_bounds h
  unfold Txn.word1 bitsOf
  omega

end

/-! ### One transaction -/

/-- The bytes of a transaction read back as that transaction, whatever follows them. -/
theorem nextTxn_txnBytes {x : Txn} (h : x.wf = true) (hlen : x.len = x.data.length) (rest : List Byte) :
    nextTxn x.vc (txnBytes x ++ rest) = some (x, rest) := by
  have hword {k : Nat} (hk : k < 4) := leNat_word [Txn.word0 x, Txn.word1 x, x.arg0.toNat, x.arg1.toNat] (x.data ++ rest) hk
  obtain ⟨hlt0, htype, hlast, honce, hdst, hsrc, hlen0⟩ := Txn.word0_fields h
  obtain ⟨hlt1, htag, hstatus, haddr⟩ := Txn.word1_fields h
  have h0 := (hword (k := 0) (by decide)).trans (Nat.mod_eq_of_lt hlt0)
  have h1 := (hword (k := 1) (by decide)).trans (Nat.mod_eq_of_lt hlt1)
  have h2 := (hword (k := 2) (by decide)).trans (Nat.mod_eq_of_lt x.arg0.isLt)
  have h3 := (hword (k := 3) (by decide)).trans (Nat.mod_eq_of_lt x.arg1.isLt)
  have hsize : (txnBytes x ++ rest).length = 32 + x.len + rest.length := by
    rw [List.length_append, txnBytes_length, hlen]
  have hdata : (txnBytes x ++ rest).drop 32 = x.data ++ rest := by
    rw [txnBytes, List.append_assoc, List.drop_left' (by rw [wordsBytes_length]; rfl)]
  have hrest : (txnBytes x ++ rest).drop (32 + x.len) = rest := by
    rw [← List.drop_drop, hdata, List.drop_left' hlen.symm]
  rw [← List.append_assoc] at h0 h1 h2 h3
  rw [← txnBytes] at h0 h1 h2 h3
  have hfits : ¬ (txnBytes x ++ rest).length < 32 + x.len := by omega
  unfold nextTxn
  simp only [h0, h1, h2, h3, List.getElem_cons_zero, List.getElem_cons_succ, hlen0]
  rw [if_neg (by omega), if_neg hfits, hdata, hrest, List.take_left' hlen.symm, htype, hlast, honce, hdst, hsrc, htag,
    hstatus, haddr]
  simp

section
variable {v : Nat} {bs r : List Byte} {t : Txn} (h : nextTxn v bs = some (t, r))
include h

theorem nextTxn_shorter : r.length < bs.length := by
  unfold nextTxn at h
  split at h
  · cases h
  · dsimp only at h
    split at h
    · cases h
    · cases h
      rw [List.length_drop]
      omega

/-- A whole transaction is the same one when more bytes have come. -/
theorem nextTxn_append (b : List Byte) : nextTxn v (bs ++ b) = some (t, r ++ b) := by
  unfold nextTxn at h ⊢
  split at h
  · cases h
  next h32 =>
    have hword (k : Nat) (hk : k < 4) : ((bs ++ b).drop (8 * k)).take 8 = (bs.drop (8 * k)).take 8 := by
      rw [List.drop_append_of_le_length (by omega), List.take_append_of_le_length (by rw [List.length_drop]; omega)]
    dsimp only at h ⊢
    simp only [hword 0 (by decide), hword 1 (by decide), hword 2 (by decide), hword 3 (by decide)]
    split at h
    · cases h
    next hall =>
      cases h
      have hlen : (bs ++ b).length = bs.length + b.length := List.length_append
      rw [if_neg (by omega), if_neg (by omega), List.drop_append_of_le_length (by omega), List.drop_append_of_le_length (by omega),
        List.take_append_of_le_length (by rw [List.length_drop]; omega)]

end

/-! ### A stream -/

/-- As many rounds as there are bytes find every whole transaction. -/
theorem frames_fuel (v : Nat) {f : Nat} {bs : List Byte} (hf : bs.length ≤ f) : frames v f bs = frames v bs.length bs := by
  induction f using Nat.strong_induction_on generalizing bs with
  | _ f ih =>
  match hn : nextTxn v bs with
  | none => cases f <;> cases bs <;> simp [frames, hn]
  | some (t, r) =>
    have hr := nextTxn_shorter hn
    obtain ⟨g, rfl⟩ := Nat.exists_eq_succ_of_ne_zero (show f ≠ 0 by omega)
    obtain ⟨n, hlen⟩ := Nat.exists_eq_succ_of_ne_zero (show bs.length ≠ 0 by omega)
    rw [hlen]
    simp only [frames, hn]
    rw [ih g (by omega) (by omega), ← ih n (by omega) (by omega)]

theorem frames_none {v : Nat} {bs : List Byte} (h : nextTxn v bs = none) : frames v bs.length bs = ([], bs) := by
  cases bs <;> simp [frames, h]

theorem frames_some {v : Nat} {bs r : List Byte} {t : Txn} (h : nextTxn v bs = some (t, r)) :
    frames v bs.length bs = (t :: (frames v r.length r).1, (frames v r.length r).2) := by
  have hr := nextTxn_shorter h
  obtain ⟨n, hlen⟩ := Nat.exists_eq_succ_of_ne_zero (show bs.length ≠ 0 by omega)
  rw [hlen, frames, h]
  dsimp only
  rw [frames_fuel v (show r.length ≤ n by omega)]

/-- A stream cut anywhere: what its first part leaves joins the second. -/
theorem frames_append (v : Nat) (a b : List Byte) :
    frames v (a ++ b).length (a ++ b) =
      ((frames v a.length a).1 ++ (frames v ((frames v a.length a).2 ++ b).length ((frames v a.length a).2 ++ b)).1,
        (frames v ((frames v a.length a).2 ++ b).length ((frames v a.length a).2 ++ b)).2) := by
  match hn : nextTxn v a with
  | none => rw [frames_none hn, List.nil_append]
  | some (t, r) =>
    have hr := nextTxn_shorter hn
    rw [frames_some hn, frames_some (nextTxn_append hn b), frames_append v r b, List.cons_append]
  termination_by a.length

/-- Transactions sent one after another come out of the stream, and nothing is left. -/
theorem frames_txnBytes {v : Nat} {xs : List Txn} (h : ∀ x ∈ xs, x.wf = true ∧ x.len = x.data.length ∧ x.vc = v) :
    frames v (xs.flatMap txnBytes).length (xs.flatMap txnBytes) = (xs, []) := by
  induction xs with
  | nil => rfl
  | cons x xs ih =>
    obtain ⟨hwf, hlen, rfl⟩ := h x (.head _)
    rw [List.flatMap_cons, frames_some (nextTxn_txnBytes hwf hlen _), ih fun y hy => h y (.tail _ hy)]

/-- Settles O49: header fields lie side by side in their words, and a whole transaction is found the same with more bytes
behind it. -/
theorem frameRoundTrip : Obligations.FrameRoundTrip := by
  unfold Obligations.FrameRoundTrip
  exact ⟨fun x rest hwf hlen => nextTxn_txnBytes hwf hlen rest, fun v xs h => frames_txnBytes h, frames_append⟩

end Sys2Proof.Machine
end

section
/-! What reading a port gives after a change, and the commands that change ports only. -/

namespace Sys2Proof.Machine

/-! ### A key set twice -/

theorem merase_of_keys {α : Type} {m : SMap α} {k : Nat} (h : ∀ e ∈ m, e.1 ≠ k) : merase m k = m :=
  List.filter_eq_self.mpr fun e he => by simpa using h e he

theorem merase_minsert {α : Type} {m : SMap α} {k : Nat} (h : ∀ e ∈ m, e.1 ≠ k) (v : α) : merase (minsert m k v) k = m := by
  induction m with
  | nil => simp [minsert, merase]
  | cons e r ih =>
    obtain ⟨j, w⟩ := e
    have hj : j ≠ k := h (j, w) (.head _)
    have hr : ∀ e ∈ r, e.1 ≠ k := fun e he => h e (.tail _ he)
    rw [minsert]
    split
    · have hcons : merase ((k, v) :: (j, w) :: r) k = merase ((j, w) :: r) k := by simp [merase]
      rw [hcons, merase_of_keys h]
    · have hcons : merase ((j, w) :: minsert r k v) k = (j, w) :: merase (minsert r k v) k := by simp [merase, hj]
      rw [hcons, ih hr]

theorem merase_mput {α : Type} [DecidableEq α] (d : α) (m : SMap α) (k : Nat) (v : α) :
    merase (mput d m k v) k = merase m k := by
  unfold mput
  split
  · exact merase_of_keys (merase_keys m k)
  · exact merase_minsert (merase_keys m k) v

/-- Of two values put at one key the second stands. -/
theorem mput_mput {α : Type} [DecidableEq α] (d : α) (m : SMap α) (k : Nat) (v w : α) :
    mput d (mput d m k v) k w = mput d m k w := by
  rw [mput, merase_mput]
  rfl

/-! ### Ports -/

section
variable (s : State)

@[simp] theorem State.port_setPort_same (p : Nat) (x : Port) : (s.setPort p x).port p = x := mget_mput_same _ _ _ _

theorem State.port_setPort_ne {p q : Nat} (h : q ≠ p) (x : Port) : (s.setPort p x).port q = s.port q := mget_mput_ne _ _ _ h

@[simp] theorem State.setPort_setPort (p : Nat) (x y : Port) : (s.setPort p x).setPort p y = s.setPort p y := by
  unfold State.setPort
  dsimp only
  rw [mput_mput]

@[simp] theorem State.fget_setPort (p : Nat) (x : Port) (f : Fld) (i : Nat) : (s.setPort p x).fget f i = s.fget f i := rfl

@[simp] theorem State.port_fset (f : Fld) (i v p : Nat) : (s.fset f i v).port p = s.port p := rfl

end

/-- Ports are read from the list of ports alone. -/
theorem State.port_of_ports {s t : State} (h : t.ports = s.ports) (p : Nat) : t.port p = s.port p := by
  unfold State.port
  rw [h]

/-- Only ports differ. -/
abbrev PortsOnly (s t : State) : Prop := t = { s with ports := t.ports }

theorem PortsOnly.refl (s : State) : PortsOnly s s := rfl

theorem PortsOnly.trans {s t u : State} (h : PortsOnly s t) (k : PortsOnly t u) : PortsOnly s u := by
  unfold PortsOnly at *
  rw [k, h]

theorem portsOnly_setPort (s : State) (p : Nat) (x : Port) : PortsOnly s (s.setPort p x) := rfl

theorem PortsOnly.regs {s t : State} (h : PortsOnly s t) : t.regs = s.regs := by rw [h]

/-- A command that changes ports only answers with just that change. -/
theorem act_portsOnly {s : State} {f : State → State} (hl : s.live = true) (h : PortsOnly s (f s)) :
    act s f = .next (f s) :=
  act_eq_next hl rfl (by rw [h]; exact State.halted_of_live hl) (by rw [h])

/-! ### A port that carries flits (Table 10.2) -/

section
variable {s : State} {p : Nat}

theorem State.portActive_iff : s.portActive p = true ↔ s.fget Fl.portStatState p = 5 := beq_iff_eq

theorem State.linkUp_of_active (h : s.fget Fl.portStatState p = 5) : s.linkUp p = true := by
  unfold State.linkUp
  rw [State.portActive_iff.mpr h, Bool.true_or]

/-- Outside a retrain the training has got as far as STATE says. -/
theorem State.trainPhase_eq (h : s.fget Fl.portStatState p ≠ 6) : s.trainPhase p = s.fget Fl.portStatState p := if_neg h

theorem State.trainPhase_retrain (h : s.fget Fl.portStatState p = 6) : s.trainPhase p = (s.port p).retrain := if_pos h

/-- Where STATE and the point reached in a retrain are the same, so is the training. -/
theorem State.trainPhase_congr {t : State} (hst : t.fget Fl.portStatState p = s.fget Fl.portStatState p)
    (hre : (t.port p).retrain = (s.port p).retrain) : t.trainPhase p = s.trainPhase p := by
  unfold State.trainPhase
  rw [hst, hre]

theorem State.linkUp_congr {t : State} (hst : t.fget Fl.portStatState p = s.fget Fl.portStatState p)
    (hre : (t.port p).retrain = (s.port p).retrain) : t.linkUp p = s.linkUp p := by
  unfold State.linkUp State.portActive
  rw [State.trainPhase_congr hst hre, hst]

end

end Sys2Proof.Machine
end

section
/-! Flits as a port sends them: their form, and which flit goes next (R247, R248, R251, R252, R256). -/

namespace Sys2Proof.Machine

/-! ### The check of a flit (R250) -/

/-- A step of the CRC stays within its width. -/
theorem crcByte_lt {w poly crc : Nat} (hw : 8 ≤ w) (hpoly : poly < 2 ^ w) (hcrc : crc < 2 ^ w) (b : Byte) :
    crcByte w poly crc b < 2 ^ w := by
  have hb : b.toNat * 2 ^ (w - 8) < 2 ^ w := by
    calc b.toNat * 2 ^ (w - 8) < 2 ^ 8 * 2 ^ (w - 8) := Nat.mul_lt_mul_of_pos_right b.isLt (Nat.two_pow_pos _)
      _ = 2 ^ w := by rw [← pow_add, Nat.add_sub_cancel' hw]
  refine foldl_invariant (fun c => c < 2 ^ w) _ _ _ (Nat.xor_lt_two_pow hcrc hb) fun c k _ hc => ?_
  have hmod : c * 2 % 2 ^ w < 2 ^ w := Nat.mod_lt _ (Nat.two_pow_pos w)
  split
  · exact Nat.xor_lt_two_pow hmod hpoly
  · exact hmod

theorem crc64_lt (l : List Byte) : crc64 l < 2 ^ 64 :=
  foldl_invariant (fun c => c < 2 ^ 64) _ l 0 (by decide) fun _ b _ hc => crcByte_lt (by decide) (by decide) hc b

/-! ### The form of a flit (R247, Table 10.4) -/

section
variable (h : Nat) {payload : List Byte} (hlen : payload.length ≤ 240)
include hlen

/-- A flit is the 248 bytes that its CRC is over, and the CRC. -/
theorem flitBytes_split : ∃ b : List Byte, b.length = 248 ∧ flitBytes h payload = b ++ leBytes 8 (crc64 b) ∧
    b.take 8 = leBytes 8 h ∧ (b.drop 8).take payload.length = payload := by
  refine ⟨leBytes 8 h ++ payload ++ List.replicate (240 - payload.length) 0, ?_, rfl, ?_, ?_⟩
  · rw [List.length_append, List.length_append, leBytes_length, List.length_replicate]
    omega
  · rw [List.append_assoc, List.take_left' (leBytes_length 8 h)]
  · rw [List.append_assoc, List.drop_left' (leBytes_length 8 h), List.take_left' rfl]

theorem flitBytes_length : (flitBytes h payload).length = 256 := by
  obtain ⟨b, hb, hsplit, -⟩ := flitBytes_split h hlen
  rw [hsplit, List.length_append, hb, leBytes_length]

theorem flitBytes_crc : leNat ((flitBytes h payload).drop 248) = crc64 ((flitBytes h payload).take 248) := by
  obtain ⟨b, hb, hsplit, -⟩ := flitBytes_split h hlen
  rw [hsplit, List.drop_left' hb, List.take_left' hb]
  exact (leNat_leBytes 8 _).trans (Nat.mod_eq_of_lt (crc64_lt b))

theorem flitBytes_header (hh : h < 2 ^ 64) : leNat ((flitBytes h payload).take 8) = h := by
  obtain ⟨b, hb, hsplit, hhead, -⟩ := flitBytes_split h hlen
  rw [hsplit, List.take_append_of_le_length (by omega), hhead]
  exact (leNat_leBytes 8 _).trans (Nat.mod_eq_of_lt hh)

theorem flitBytes_payload : ((flitBytes h payload).drop 8).take payload.length = payload := by
  obtain ⟨b, hb, hsplit, -, hbody⟩ := flitBytes_split h hlen
  rw [hsplit, List.drop_append_of_le_length (by omega), List.take_append_of_le_length (by rw [List.length_drop]; omega),
    hbody]

end

/-! ### A flit on its way (R248, R255) -/

/-- The channel whose credits go with the next flit. -/
def Port.creditVc (x : Port) : Nat := ((List.range 8).find? fun v => mget 0 x.owed v != 0).getD 0

/-- The credits that go with it. -/
def Port.creditN (x : Port) : Nat := min 511 (mget 0 x.owed x.creditVc)

/-- The header of a flit that the port sends now. -/
def Port.header (x : Port) (seq ty vc used : Nat) : Nat :=
  seq * 2 ^ 52 + (x.expect + 4095) % 4096 * 2 ^ 40 + vc * 2 ^ 37 + ty * 2 ^ 33 + x.nakDue.toNat * 2 ^ 32 +
    x.creditVc * 2 ^ 29 + x.creditN * 2 ^ 20 + used * 2 ^ 12

/-- The port once it has put a flit on `n` lanes. -/
def Port.put (x : Port) (n seq ty vc used : Nat) (payload : List Byte) : Port :=
  { x with
    wire := flitBytes (x.header seq ty vc used) payload,
    fec := x.fec.flit n (flitBytes (x.header seq ty vc used) payload), nakDue := false,
    owed := mput 0 x.owed x.creditVc (mget 0 x.owed x.creditVc - x.creditN) }

/-- The lanes of a port by its width. -/
def State.lanesOf (s : State) (p : Nat) : Nat := lanesOfWidth (s.fget Fl.portStatWidth p)

theorem State.putFlit_setPort (s : State) (p seq ty vc used : Nat) (x : Port) (payload : List Byte) :
    (s.setPort p x).putFlit p seq ty vc used payload = s.setPort p (x.put (s.lanesOf p) seq ty vc used payload) := by
  unfold State.putFlit
  dsimp only
  rw [State.port_setPort_same, State.setPort_setPort]
  rfl

theorem Port.creditVc_lt (x : Port) : x.creditVc < 8 := by
  unfold Port.creditVc
  cases h : (List.range 8).find? fun v => mget 0 x.owed v != 0 with
  | none => decide
  | some v => exact List.mem_range.mp (List.mem_of_find?_eq_some h)

/-- The fields of a header lie side by side (Table 10.4). -/
theorem Port.header_fields (x : Port) {seq ty vc used : Nat} (hseq : seq < 4096) (hty : ty < 16) (hvc : vc < 8)
    (hused : used < 256) :
    x.header seq ty vc used < 2 ^ 64 ∧ bitsOf (x.header seq ty vc used) 63 52 = seq ∧
      bitsOf (x.header seq ty vc used) 51 40 = (x.expect + 4095) % 4096 ∧ bitsOf (x.header seq ty vc used) 39 37 = vc ∧
      bitsOf (x.header seq ty vc used) 36 33 = ty ∧ bitsOf (x.header seq ty vc used) 19 12 = used ∧
      bitsOf (x.header seq ty vc used) 32 32 = x.nakDue.toNat := by
  have hcv := x.creditVc_lt
  have hcn : x.creditN ≤ 511 := Nat.min_le_left _ _
  have hnak := Bool.toNat_le x.nakDue
  unfold Port.header bitsOf
  omega

/-! ### The flit that goes next (R251, R252, R256) -/

section
variable {s : State} {p : Nat} (hl : s.live = true) (hp : p < 12) (hup : s.linkUp p = true)
include hl hp hup

/-- A replay goes on, where no RESUME goes first. -/
theorem exec_flitSend_replay {f : TxFlit} {r : List TxFlit} (hre : (s.port p).resend = f :: r)
    (hfirst : ¬ (s.portActive p = true ∧ ((s.port p).ctrl.headD []).head? = some 2 ∧ (s.port p).replay.length < 2048)) :
    exec (.flitSend p) s =
      .next (s.setPort p ({ s.port p with resend := r }.put (s.lanesOf p) f.seq f.ftype f.vc f.used f.payload)) := by
  rw [← State.putFlit_setPort]
  refine act_eq_next hl ?_ (State.halted_of_live hl) rfl
  dsimp only
  rw [if_pos ⟨hp, hup⟩, hre]
  exact if_neg hfirst

/-- Without a replay, or with a RESUME that goes first, a new flit goes. -/
theorem exec_flitSend_new {t : State} (ht : s.sendNew p = t) (honly : PortsOnly s t)
    (hnew : (s.port p).resend = [] ∨
      s.portActive p = true ∧ ((s.port p).ctrl.headD []).head? = some 2 ∧ (s.port p).replay.length < 2048) :
    exec (.flitSend p) s = .next t := by
  subst ht
  refine act_eq_next hl ?_ (by rw [honly]; exact State.halted_of_live hl) (by rw [honly])
  rw [if_pos ⟨hp, hup⟩]
  split
  next f r hre =>
    rw [hre] at hnew
    exact if_pos (hnew.resolve_left (by exact nofun))
  · rfl

end

/-! ### New flits -/

/-- The flit as the replay buffer keeps it (R251). -/
def Port.flitOf (x : Port) (now ty vc : Nat) (payload : List Byte) (txns : List Txn) : TxFlit :=
  { seq := x.seq, ftype := ty, vc := vc, used := payload.length, payload := payload, txns := txns, sentAt := now }

/-- The port once it has sent a new sequenced flit. -/
def Port.putNew (x : Port) (n now ty vc : Nat) (payload : List Byte) (txns : List Txn) : Port :=
  { x with seq := (x.seq + 1) % 4096, replay := x.replay ++ [x.flitOf now ty vc payload txns] }.put n x.seq ty vc
    payload.length payload

theorem State.newFlit_setPort (s : State) (p ty vc : Nat) (x : Port) (payload : List Byte) (txns : List Txn) :
    (s.setPort p x).newFlit p ty vc payload txns = s.setPort p (x.putNew (s.lanesOf p) s.now ty vc payload txns) := by
  unfold State.newFlit
  dsimp only
  rw [State.port_setPort_same, State.setPort_setPort, State.putFlit_setPort]
  rfl

/-- A channel gives at most the bytes that a flit holds. -/
theorem takeBytes_length (f n : Nat) (cur : List Txn) (txb : List Byte) (q : List Txn) :
    (takeBytes f n cur txb q).1.length ≤ n := by
  fun_induction takeBytes f n cur txb q with
  | case1 => exact Nat.zero_le _
  | case2 => exact List.length_take_le _ _
  | case3 _ _ _ _ h => exact Nat.le_of_not_le h
  | case4 _ _ _ _ _ _ _ ih => exact ih

/-- The bytes, transactions and streams of a channel after its next DATA flit. -/
def Port.dataOf (x : Port) (v : Nat) : List Byte × List Txn × List Byte × List Txn × List Txn :=
  takeBytes 241 240 (mget [] x.cur v) (mget [] x.txb v) (mget [] x.txq v)

/-- The port as a DATA flit of a channel leaves it, before the flit goes (R255, R256). -/
def Port.dataTaken (x : Port) (weight v : Nat) (fresh : Bool) : Port :=
  let used := mget 0 (if fresh then [] else x.round) v + 1
  { x with
    cur := mput [] x.cur v (x.dataOf v).2.1, txb := mput [] x.txb v (x.dataOf v).2.2.1,
    txq := mput [] x.txq v (x.dataOf v).2.2.2.1, credit := mput 0 x.credit v (mget 0 x.credit v - 1),
    round := mput 0 (if fresh then [] else x.round) v used,
    turn := if v = 1 then x.turn else if weight ≤ used then (v + 1) % 8 else v }

section
variable (s : State) (p : Nat)

theorem State.sendIdle_eq : s.sendIdle p =
    s.setPort p ((s.port p).put (s.lanesOf p) (((s.port p).seq + 4095) % 4096) 0 0 0 []) := rfl

theorem State.sendCtrl_eq (c : List Byte) (r : List (List Byte)) : s.sendCtrl p c r =
    s.setPort p ({ (s.port p).sentCtrl s.now c with ctrl := r }.putNew (s.lanesOf p) s.now 2 0 (s.stamp p c) []) :=
  s.newFlit_setPort p 2 0 _ _ _

theorem State.sendData_eq (v : Nat) (fresh : Bool) : s.sendData p v fresh =
    s.setPort p (((s.port p).dataTaken (s.vcWeight p v) v fresh).putNew (s.lanesOf p) s.now 1 v ((s.port p).dataOf v).1
      ((s.port p).dataOf v).2.2.2.2) :=
  s.newFlit_setPort p 1 v _ _ _

/-- The three new flits: CTRL, DATA or IDLE. -/
theorem State.sendNew_cases :
    s.sendNew p = s.sendIdle p ∨ (∃ c r, s.sendNew p = s.sendCtrl p c r) ∨ ∃ v fresh, s.sendNew p = s.sendData p v fresh := by
  unfold State.sendNew
  dsimp only
  split
  · exact .inl rfl
  · split
    next c r _ => exact .inr (.inl ⟨c, r, rfl⟩)
    · split
      · exact .inl rfl
      · split
        next v fresh _ => exact .inr (.inr ⟨v, fresh, rfl⟩)
        · exact .inl rfl

end

section
variable {s : State} {p : Nat}

theorem State.sendNew_ctrl {c : List Byte} {r : List (List Byte)} (hroom : (s.port p).replay.length < 2048)
    (hc : (s.port p).ctrl = c :: r) : s.sendNew p = s.sendCtrl p c r := by
  unfold State.sendNew
  dsimp only
  rw [if_neg (Nat.not_le.mpr hroom), hc]

theorem State.sendNew_data {v : Nat} {fresh : Bool} (hact : s.portActive p = true) (hroom : (s.port p).replay.length < 2048)
    (hc : (s.port p).ctrl = []) (hdue : (s.port p).resumeDue = false) (hvc : s.nextVc p = some (v, fresh)) :
    s.sendNew p = s.sendData p v fresh := by
  unfold State.sendNew
  dsimp only
  rw [if_neg (Nat.not_le.mpr hroom), hc, hvc]
  exact if_neg (by simp [hact, hdue])

theorem State.sendNew_idle (h : 2048 ≤ (s.port p).replay.length ∨ (s.port p).ctrl = [] ∧
    (s.portActive p = false ∨ (s.port p).resumeDue = true ∨ s.nextVc p = none)) : s.sendNew p = s.sendIdle p := by
  unfold State.sendNew
  dsimp only
  by_cases hfull : 2048 ≤ (s.port p).replay.length
  · rw [if_pos hfull]
  · obtain ⟨hc, h⟩ := h.resolve_left hfull
    rw [if_neg hfull, hc]
    dsimp only
    by_cases hwait : (!s.portActive p) = true ∨ (s.port p).resumeDue = true
    · rw [if_pos hwait]
    · have hnone : s.nextVc p = none := by
        rcases h with h | h | h
        · exact absurd (.inl (by simp [h])) hwait
        · exact absurd (.inr h) hwait
        · exact h
      rw [if_neg hwait, hnone]

end

/-! ### The obligation -/

/-- The flit on a port's lanes has 256 bytes, and its CRC is over the rest (R247, R250). -/
theorem Port.put_sound (x : Port) (n seq ty vc used : Nat) {payload : List Byte} (hlen : payload.length ≤ 240) :
    (x.put n seq ty vc used payload).wire.length = 256 ∧
      leNat ((x.put n seq ty vc used payload).wire.drop 248) = crc64 ((x.put n seq ty vc used payload).wire.take 248) :=
  ⟨flitBytes_length _ hlen, flitBytes_crc _ hlen⟩

/-- A CTRL payload that is sent sets no more than the start of its measurement (R263). -/
theorem Port.sentCtrl_eq (x : Port) (now : Nat) (c : List Byte) :
    x.sentCtrl now c = { x with probe := (x.sentCtrl now c).probe } := by
  unfold Port.sentCtrl
  split <;> rfl

/-- Settles O46: whatever a port sends is one port put back, with a header whose fields lie side by side and a CRC over the
rest. -/
theorem flitsSent : Obligations.FlitsSent := by
  unfold Obligations.FlitsSent
  intro s p hl hp hup
  dsimp only
  refine ⟨fun f r hre hfirst hseq hvc hty hused hlen => ?replay, fun hre hroom c r hc => ?ctrl,
    fun hact hre hroom hc hdue v fresh hvc => ?data, fun hre hidle => ?idle⟩
  case replay =>
    have hpay : f.payload.length ≤ 240 := hused ▸ hlen
    obtain ⟨hlt, hfields⟩ := Port.header_fields { s.port p with resend := r } (ty := f.ftype) hseq (by omega) hvc
      (used := f.used) (by omega)
    obtain ⟨hseq, hack, hvc, hty, hused', hnak⟩ := hfields
    refine ⟨_, exec_flitSend_replay hl hp hup hre fun h => hfirst h.2.1, ?_⟩
    rw [State.port_setPort_same]
    refine ⟨rfl, rfl, Port.put_sound _ _ _ _ _ _ hpay, ?_, by rw [hused]; exact flitBytes_payload _ hpay, rfl⟩
    have hwire := flitBytes_header _ hpay hlt
    unfold Port.put
    dsimp only at hwire ⊢
    rw [hwire]
    exact ⟨hseq, hack, hvc, hty, hused', hnak⟩
  case ctrl =>
    refine ⟨_, exec_flitSend_new hl hp hup ((s.sendNew_ctrl hroom hc).trans (s.sendCtrl_eq p c r)) rfl (.inl hre), ?_⟩
    rw [State.port_setPort_same, Port.sentCtrl_eq]
    exact ⟨rfl, rfl, ⟨_, rfl, rfl, rfl, rfl⟩, fun hlen => Port.put_sound _ _ _ _ _ _ hlen, rfl⟩
  case data =>
    refine ⟨_, exec_flitSend_new hl hp hup ((s.sendNew_data hact hroom hc hdue hvc).trans (s.sendData_eq p v fresh)) rfl
      (.inl hre), ?_⟩
    have hlen : ((s.port p).dataOf v).1.length ≤ 240 := takeBytes_length _ _ _ _ _
    rw [State.port_setPort_same]
    exact ⟨rfl, mget_mput_same _ _ _ _, ⟨_, rfl, rfl, rfl, rfl, hlen⟩, Port.put_sound _ _ _ _ _ _ hlen, rfl⟩
  case idle =>
    obtain ⟨hlt, hseq, -, -, hty, hused, -⟩ := Port.header_fields (s.port p) (seq := ((s.port p).seq + 4095) % 4096)
      (ty := 0) (vc := 0) (used := 0) (by omega) (by decide) (by decide) (by decide)
    refine ⟨_, exec_flitSend_new hl hp hup ((s.sendNew_idle hidle).trans (s.sendIdle_eq p)) rfl (.inl hre), ?_⟩
    rw [State.port_setPort_same]
    refine ⟨rfl, rfl, ?_, rfl, Port.put_sound _ _ _ _ _ _ (Nat.zero_le _), rfl⟩
    have hwire := flitBytes_header (payload := []) _ (Nat.zero_le _) hlt
    unfold Port.put
    dsimp only at hwire ⊢
    rw [hwire]
    exact ⟨hseq, hty, hused⟩

end Sys2Proof.Machine
end

section
/-! Flits on their way to the lanes: codewords of the message stream, groups of four, and alignment that begins the stream
anew (R242, R244, R245). -/

namespace Sys2Proof.Machine

/-! ### Groups of codewords (R245) -/

theorem getD_map_range {α : Type} (f : Nat → α) {n i : Nat} (d : α) (h : i < n) : ((List.range n).map f).getD i d = f i := by
  simp [List.getD, h]

/-- Symbol j of codeword w stands in slot 4 (j / n) + w of lane j mod n. -/
theorem interleave_slot {n w j : Nat} (group : List (List Nat)) (hn : n = 2 ∨ n = 4 ∨ n = 8) (hw : w < 4) (hj : j < 544) :
    ((interleave n group).getD (j % n) []).getD (4 * (j / n) + w) 0 = (group.getD w []).getD j 0 := by
  have hlane : j % n < n := Nat.mod_lt _ (by omega)
  have hslot : 4 * (j / n) + w < 2176 / n := by rcases hn with rfl | rfl | rfl <;> omega
  unfold interleave
  rw [getD_map_range _ _ hlane, getD_map_range _ _ hslot, show (4 * (j / n) + w) % 4 = w by omega,
    show (4 * (j / n) + w) / 4 = j / n by omega, Nat.div_add_mod]

/-! ### Codewords (R244) -/

theorem laneTimesRoot_length (r : Nat) (g : List Nat) : (laneTimesRoot r g).length = g.length + 1 := by
  simp [laneTimesRoot]

/-- The generator has 31 coefficients, one for each power up to 30. -/
theorem laneGen_length : laneGen.length = 31 := by
  have hgrow (l : List Nat) (x : List Nat × Nat) :
      (l.foldl (fun (x : List Nat × Nat) _ => (laneTimesRoot x.2 x.1, laneMul 2 x.2)) x).1.length =
        x.1.length + l.length := by
    induction l generalizing x with
    | nil => rfl
    | cons _ r ih =>
      rw [List.foldl_cons, ih, laneTimesRoot_length, List.length_cons]
      omega
  exact hgrow (List.range 30) ([1], 1)

/-- The encoder's register keeps its 30 symbols. -/
theorem laneStep_length {reg : List Nat} (h : reg.length = 30) (m : Nat) : (laneStep laneGen reg m).length = 30 := by
  simp [laneStep, h, laneGen_length]

theorem laneCodeword_length {msg : List Nat} (h : msg.length = 514) : (laneCodeword msg).length = 544 := by
  have hcheck : (msg.foldl (laneStep laneGen) (List.replicate 30 0)).length = 30 :=
    foldl_invariant (fun r : List Nat => r.length = 30) _ _ _ List.length_replicate fun _ m _ hr => laneStep_length hr m
  rw [laneCodeword, List.length_append, List.length_reverse, h, hcheck]

theorem messageSymbols_length (bits : Nat) : (messageSymbols bits).length = 514 := by simp [messageSymbols]

/-- The message symbols of a codeword are the bits of the stream, ten by ten. -/
theorem laneCodeword_symbol (msg : Nat) {j : Nat} (hj : j < 514) :
    (laneCodeword (messageSymbols (msg % 2 ^ 5140))).getD j 0 = msg / 2 ^ (10 * j) % 1024 := by
  have hbits := bitsOf_mod (v := msg) (m := 5140) (hi := 10 * j + 9) (lo := 10 * j) (by omega)
  unfold bitsOf at hbits
  rw [show 10 * j + 9 + 1 - 10 * j = 10 by omega] at hbits
  rw [laneCodeword, List.getD_append _ _ _ _ (by rw [messageSymbols_length]; exact hj), messageSymbols,
    getD_map_range _ _ hj]
  exact hbits

/-! ### The message stream (R244) -/

/-- The stream with a flit's bits behind it. -/
def FecTx.msgWith (x : FecTx) (bytes : List Byte) : Nat := x.msg + leNat bytes * 2 ^ x.bits

/-- The codeword that a flit completes. -/
def FecTx.codeword (x : FecTx) (bytes : List Byte) : List Nat := laneCodeword (messageSymbols (x.msgWith bytes % 2 ^ 5140))

/-- The stream once that codeword has been taken from its front. -/
def FecTx.taken (x : FecTx) (bytes : List Byte) : FecTx :=
  { x with msg := x.msgWith bytes / 2 ^ 5140, bits := x.bits + 2048 - 5140 }

/-- Bits put above a number. -/
theorem add_mul_two_pow_lt {m b a k : Nat} (hm : m < 2 ^ a) (hb : b < 2 ^ k) : m + b * 2 ^ a < 2 ^ (a + k) :=
  calc m + b * 2 ^ a < 2 ^ a + b * 2 ^ a := Nat.add_lt_add_right hm _
    _ = (b + 1) * 2 ^ a := by ring
    _ ≤ 2 ^ k * 2 ^ a := Nat.mul_le_mul_right _ hb
    _ = 2 ^ (a + k) := by rw [← pow_add, Nat.add_comm]

/-- Bits taken from below a number. -/
theorem div_two_pow_lt {v a k : Nat} (hv : v < 2 ^ a) (hk : k ≤ a) : v / 2 ^ k < 2 ^ (a - k) := by
  rw [Nat.div_lt_iff_lt_mul (Nat.two_pow_pos k), ← pow_add, Nat.sub_add_cancel hk]
  exact hv

/-- The bits of the stream with a flit's behind them. -/
theorem FecTx.msgWith_lt (x : FecTx) (bytes : List Byte) (hmsg : x.msg < 2 ^ x.bits) :
    x.msgWith bytes < 2 ^ (x.bits + 8 * bytes.length) := by
  have hb := leNat_lt bytes
  rw [show (256 : Nat) = 2 ^ 8 by rfl, ← pow_mul] at hb
  exact add_mul_two_pow_lt hmsg hb

section
variable (x : FecTx) (n : Nat) {bytes : List Byte} (hlen : bytes.length = 256)
include hlen

theorem FecTx.flit_short (h : x.bits + 2048 < 5140) :
    x.flit n bytes = { x with bits := x.bits + 2048, msg := x.msgWith bytes } := by
  unfold FecTx.flit
  dsimp only
  rw [hlen]
  exact if_pos h

theorem FecTx.flit_whole (h : 5140 ≤ x.bits + 2048) : x.flit n bytes = (x.taken bytes).push n (x.codeword bytes) := by
  unfold FecTx.flit
  dsimp only
  rw [hlen]
  exact if_neg (Nat.not_lt.mpr h)

end

section
variable (x : FecTx) (n : Nat) (cw : List Nat)

theorem FecTx.push_short (h : x.group.length < 3) :
    x.push n cw = { x with group := x.group ++ [cw], count := (x.count + 1) % 512 } := by
  unfold FecTx.push
  exact if_pos (by rw [List.length_append, List.length_singleton]; omega)

theorem FecTx.push_whole (h : x.group.length = 3) :
    x.push n cw = { x with group := [], sent := interleave n (x.group ++ [cw]), count := (x.count + 1) % 512 } := by
  unfold FecTx.push
  exact if_neg (by rw [List.length_append, List.length_singleton]; omega)

end

/-- A flit into the stream: it fits in the codeword under way, or completes it, and perhaps the group. -/
theorem FecTx.flit_stream (x : FecTx) (bytes : List Byte) (n : Nat) (hlen : bytes.length = 256) (hbits : x.bits < 5140)
    (hmsg : x.msg < 2 ^ x.bits) (hgroup : x.group.length < 4) (hcount : x.count < 512) :
    let y := x.flit n bytes
    y.bits < 5140 ∧ y.msg < 2 ^ y.bits ∧ y.group.length < 4 ∧ y.count < 512 ∧
    (x.bits + 2048 < 5140 → y = { x with bits := x.bits + 2048, msg := x.msg + leNat bytes * 2 ^ x.bits }) ∧
    (5140 ≤ x.bits + 2048 → y.bits + 5140 = x.bits + 2048 ∧ y.count = (x.count + 1) % 512 ∧
      ∃ cw : List Nat, cw.length = 544 ∧
        (∀ j, j < 514 → cw.getD j 0 = (x.msg + leNat bytes * 2 ^ x.bits) / 2 ^ (10 * j) % 1024) ∧
        (x.group.length < 3 → y.group = x.group ++ [cw] ∧ y.sent = x.sent) ∧
        (x.group.length = 3 → y.group = [] ∧ y.sent = interleave n (x.group ++ [cw]))) := by
  intro y
  have hstream := x.msgWith_lt bytes hmsg
  rw [hlen] at hstream
  by_cases hshort : x.bits + 2048 < 5140
  · have hy : y = { x with bits := x.bits + 2048, msg := x.msgWith bytes } := x.flit_short n hlen hshort
    rw [hy]
    exact ⟨hshort, hstream, hgroup, hcount, fun _ => rfl, fun h => absurd hshort (Nat.not_lt.mpr h)⟩
  · have hwhole := Nat.not_lt.mp hshort
    have hy : y = (x.taken bytes).push n (x.codeword bytes) := x.flit_whole n hlen hwhole
    have hbits' : (x.taken bytes).bits + 5140 = x.bits + 2048 := Nat.sub_add_cancel hwhole
    have hleft : (x.taken bytes).msg < 2 ^ (x.taken bytes).bits := div_two_pow_lt hstream hwhole
    have hcw : (x.codeword bytes).length = 544 := laneCodeword_length (messageSymbols_length _)
    have hsym (j : Nat) (hj : j < 514) := laneCodeword_symbol (x.msgWith bytes) hj
    have hnext : (x.count + 1) % 512 < 512 := Nat.mod_lt _ (by decide)
    by_cases hgroup3 : x.group.length < 3
    · rw [hy, (x.taken bytes).push_short n _ hgroup3]
      have hmore : (x.group ++ [x.codeword bytes]).length < 4 := by
        rw [List.length_append, List.length_singleton]
        omega
      exact ⟨by dsimp only; omega, hleft, hmore, hnext, fun h => absurd h hshort, fun _ =>
        ⟨hbits', rfl, _, hcw, hsym, fun _ => ⟨rfl, rfl⟩, fun h => by omega⟩⟩
    · rw [hy, (x.taken bytes).push_whole n _ (show x.group.length = 3 by omega)]
      exact ⟨by dsimp only; omega, hleft, Nat.zero_lt_succ 3, hnext, fun h => absurd h hshort, fun _ =>
        ⟨hbits', rfl, _, hcw, hsym, fun h => absurd h hgroup3, fun _ => ⟨rfl, rfl⟩⟩⟩

/-! ### Flits sent (R244) -/

/-- The code of a port that has put a flit on its lanes. -/
theorem Port.put_fec (x : Port) (n seq ty vc used : Nat) (payload : List Byte) :
    (x.put n seq ty vc used payload).fec = x.fec.flit n (x.put n seq ty vc used payload).wire := rfl

theorem Port.putNew_fec (x : Port) (n now ty vc : Nat) (payload : List Byte) (txns : List Txn) :
    (x.putNew n now ty vc payload txns).fec = x.fec.flit n (x.putNew n now ty vc payload txns).wire := Port.put_fec _ _ _ _ _ _ _

theorem State.sendNew_fec (s : State) (p : Nat) :
    PortsOnly s (s.sendNew p) ∧
      ((s.sendNew p).port p).fec = (s.port p).fec.flit (s.lanesOf p) ((s.sendNew p).port p).wire := by
  rcases s.sendNew_cases p with h | ⟨c, r, h⟩ | ⟨v, fresh, h⟩ <;> rw [h]
  · rw [s.sendIdle_eq p, State.port_setPort_same]
    exact ⟨rfl, Port.put_fec _ _ _ _ _ _ _⟩
  · rw [s.sendCtrl_eq p c r, State.port_setPort_same, Port.sentCtrl_eq]
    exact ⟨rfl, Port.putNew_fec _ _ _ _ _ _ _⟩
  · rw [s.sendData_eq p v fresh, State.port_setPort_same]
    exact ⟨rfl, Port.putNew_fec _ _ _ _ _ _ _⟩

/-- Whatever a port sends joins its stream. -/
theorem exec_flitSend_fec {s : State} {p : Nat} (hl : s.live = true) (hp : p < 12) (hup : s.linkUp p = true) :
    ∃ t, exec (.flitSend p) s = .next t ∧ (t.port p).fec = (s.port p).fec.flit (s.lanesOf p) (t.port p).wire := by
  obtain ⟨honly, hfec⟩ := s.sendNew_fec p
  match hre : (s.port p).resend with
  | [] => exact ⟨_, exec_flitSend_new hl hp hup rfl honly (.inl hre), hfec⟩
  | f :: r =>
    by_cases hfirst : s.portActive p = true ∧ ((s.port p).ctrl.headD []).head? = some 2 ∧ (s.port p).replay.length < 2048
    · exact ⟨_, exec_flitSend_new hl hp hup rfl honly (.inr hfirst), hfec⟩
    · refine ⟨_, exec_flitSend_replay hl hp hup hre hfirst, ?_⟩
      rw [State.port_setPort_same]
      exact Port.put_fec _ _ _ _ _ _ _

end Sys2Proof.Machine
end

section
/-! What the traffic of a port leaves alone, and a port that comes up or goes down (R252, R254, R261, R262). -/

namespace Sys2Proof.Machine

/-! ### Fields that lie apart -/

/-- A field that does not share a bit with the one written. -/
theorem State.fget_fset_apart (s : State) {f g : Fld} {i j : Nat} (v : Nat) (hw : f.inWord) (hi : i < f.reg.place.2.1)
    (hj : j < g.reg.place.2.1) (h : g.reg = f.reg → f.hi < g.lo ∨ g.hi < f.lo) : (s.fset f i v).fget g j = s.fget g j := by
  by_cases hr : g.reg = f.reg
  · by_cases hij : j = i
    · rw [hij, s.fget_fset_field i v hw hr (h hr)]
    · exact s.fget_fset_ne v hi hj (.inr hij)
  · exact s.fget_fset_ne v hi hj (.inl hr)

/-- A field that holds the value it was given. -/
theorem State.fget_fset_fits (s : State) {f : Fld} {v : Nat} (i : Nat) (hw : f.inWord) (hv : v < 2 ^ (f.hi + 1 - f.lo)) :
    (s.fset f i v).fget f i = v := by
  rw [s.fget_fset_same f i v hw, Nat.mod_eq_of_lt hv]

/-! ### Traffic -/

/-- The registers other than those of events and of the twin's states. -/
def notTwin (r : Reg) : Prop := notEvent r ∧ r ≠ .twnAdopt ∧ r ≠ .twnState

/-- The queues of the ports' channels may differ, and what no port has part in. -/
structure Traffic (s t : State) : Prop where
  frame : Frame notTwin s t
  port : ∀ q, t.port q = { s.port q with txq := (t.port q).txq }

namespace Traffic

variable {s t u : State}

theorem refl (s : State) : Traffic s s := ⟨.refl s, fun _ => rfl⟩

theorem trans (h : Traffic s t) (k : Traffic t u) : Traffic s u :=
  ⟨h.frame.trans k.frame, fun q => by rw [k.port q, h.port q]⟩

theorem of_ports (hf : Frame notTwin s t) (h : t.ports = s.ports) : Traffic s t :=
  ⟨hf, fun q => by rw [State.port_of_ports h q]⟩

theorem of_event (s : State) {e : Event} (he : e.cls ≠ .fatal) : Traffic s (s.logEvent e) :=
  .of_ports ((s.logEvent_frame he).mono fun _ h => h.1) (by rw [s.logEvent_eventOnly he])

theorem of_fset (s : State) {f : Fld} {i : Nat} (v : Nat) (hi : i < f.reg.place.2.1) (hf : ¬ notTwin f.reg) :
    Traffic s (s.fset f i v) :=
  .of_ports (regsBut_fset s v hi hf).frame rfl

theorem of_reqs (s : State) (qs : List Req) : Traffic s { s with reqs := qs } :=
  .of_ports ⟨rfl, rfl, rfl, fun _ _ _ _ => rfl⟩ rfl

theorem of_waiting (s : State) (ws : List (Txn × Nat × Option Waiter)) : Traffic s { s with waitTxns := ws } :=
  .of_ports ⟨rfl, rfl, rfl, fun _ _ _ _ => rfl⟩ rfl

theorem of_twin (s : State) (x : Twin) : Traffic s { s with twin := x } :=
  .of_ports ⟨rfl, rfl, rfl, fun _ _ _ _ => rfl⟩ rfl

theorem foldl {α : Type} {f : State → α → State} (hf : ∀ s x, Traffic s (f s x)) (l : List α) (s : State) :
    Traffic s (l.foldl f s) :=
  foldl_invariant (Traffic s) f l s (.refl s) fun t x _ h => h.trans (hf t x)

end Traffic

section
variable (s : State)

theorem State.place_traffic (p : Nat) (x : Txn) : Traffic s (s.place p x) where
  frame := ⟨rfl, rfl, rfl, fun _ _ _ _ => rfl⟩
  port q := by
    unfold State.place
    dsimp only
    by_cases hq : q = p
    · rw [hq, State.port_setPort_same]
    · rw [State.port_setPort_ne _ hq]

theorem State.unrouted_traffic (x : Txn) (who : Option Waiter) : Traffic s (s.unrouted x who) := by
  unfold State.unrouted State.mirrorBack State.redirty State.chunkBack
  split
  · exact (Traffic.of_fset s 0 (by decide) fun h => h.2.1 rfl).trans (.of_event _ (by exact nofun))
  · dsimp only
    split
    · split <;> exact .of_twin s _
    · split
      · exact .of_waiting s _
      · split
        · exact .of_twin s _
        · exact .refl s
  · split
    · exact .of_ports ⟨rfl, rfl, rfl, fun _ _ _ _ => rfl⟩ rfl
    · exact .refl s
  · exact .refl s

theorem State.issueOn_traffic (x : Txn) (stream : Nat) (who : Option Waiter) (b : Bool) :
    Traffic s (s.issueOn x stream who b) := by
  unfold State.issueOn
  dsimp only
  split
  · exact s.unrouted_traffic x who
  · split
    · exact .of_waiting s _
    · split
      · exact (s.place_traffic _ x).trans (.of_reqs _ _)
      · exact s.place_traffic _ x

theorem State.retryWaiting_traffic : Traffic s s.retryWaiting := by
  unfold State.retryWaiting
  exact (Traffic.of_waiting s []).trans (.foldl (fun t w => t.issueOn_traffic _ _ _ _) _ _)

theorem State.reroute_traffic (x : Txn) : Traffic s (s.reroute x) := by
  unfold State.reroute
  dsimp only
  split
  · exact (Traffic.of_reqs s _).trans (State.unrouted_traffic _ _ _)
  · exact (s.place_traffic _ x).trans (.of_reqs _ _)

theorem State.twinTo_traffic {new : Nat} (hcls : twinClass new ≠ .fatal) : Traffic s (s.twinTo new) := by
  unfold State.twinTo State.twinEnter
  split
  · exact .refl s
  · exact (Traffic.of_fset s new (by decide) fun h => h.2.2 rfl).trans (.of_event _ hcls)

theorem State.twinPortUp_traffic (p : Nat) : Traffic s (s.twinPortUp p) := by
  unfold State.twinPortUp State.pairing
  split
  · exact (Traffic.of_twin s _).trans (State.twinTo_traffic _ (by decide))
  · exact .refl s

end

/-! ### A port that goes down (R254) -/

/-- The port with its traffic taken away, before that fails over. -/
def Port.down (x : Port) : Port :=
  { x with
    retrain := 0, configOk := false, resumeDue := false, seq := (x.acked + 1) % 4096, replay := [], resend := [], txq := [],
    cur := [], txb := [], ctrl := [], probe := none, stalls := 0 }

/-- The registers and the event of a port that goes down. -/
def State.downNoted (s : State) (p cause : Nat) : State :=
  ((((s.fset Fl.portStatState p 7).fset Fl.portStatWidth p 3).fset Fl.portLanesActive p 0).fset Fl.portStatDownCause p
    cause).logEvent { code := 0x0E, cls := .degraded, quarter := portQuarter p, loc := p, d5 := cause }

section
variable (s : State) {p cause : Nat} (hp : p < 12)
include hp

theorem State.downNoted_state : (s.downNoted p cause).fget Fl.portStatState p = 7 := by
  unfold State.downNoted
  rw [(State.logEvent_frame _ (by exact nofun)).fget Fl.portStatState p hp ⟨by decide, by decide⟩,
    State.fget_fset_apart _ _ (by decide) hp hp fun _ => .inl (by decide),
    State.fget_fset_apart _ _ (by decide) hp hp (by exact nofun),
    State.fget_fset_apart _ _ (by decide) hp hp fun _ => .inl (by decide), State.fget_fset_fits _ _ (by decide) (by decide)]

theorem State.downNoted_cause (hc : cause < 256) : (s.downNoted p cause).fget Fl.portStatDownCause p = cause := by
  unfold State.downNoted
  rw [(State.logEvent_frame _ (by exact nofun)).fget Fl.portStatDownCause p hp ⟨by decide, by decide⟩,
    State.fget_fset_fits _ _ (by decide) hc]

end

section
variable (s : State) (p cause : Nat)

theorem State.downNoted_eventOnly : EventOnly s (s.downNoted p cause) :=
  (((((regsOnly_fset s _ _ _).trans (regsOnly_fset _ _ _ _)).trans (regsOnly_fset _ _ _ _)).trans
    (regsOnly_fset _ _ _ _)).eventOnly).trans (State.logEvent_eventOnly _ (by exact nofun))

theorem State.portDown_traffic :
    Traffic ((s.downNoted p cause).setPort p ((s.downNoted p cause).port p).down) (s.portDown p cause) :=
  .foldl (fun t x => t.reroute_traffic x) _ _

theorem State.portDown_quiet : (s.portDown p cause).halted = s.halted ∧ (s.portDown p cause).pending = s.pending := by
  have h := (s.portDown_traffic p cause).frame
  have hnoted := s.downNoted_eventOnly p cause
  rw [h.halted, h.pending, State.setPort_halted, State.setPort_pending, hnoted.halted, hnoted.pending]
  exact ⟨rfl, rfl⟩

/-- What was not acknowledged is no longer the port's to resend. -/
theorem State.portDown_replay : ((s.portDown p cause).port p).replay = [] := by
  rw [(s.portDown_traffic p cause).port p, State.port_setPort_same]
  rfl

end

/-- A port that goes down is DOWN, with its cause. -/
theorem State.portDown_stat (s : State) {p cause : Nat} (hp : p < 12) (hc : cause < 256) :
    (s.portDown p cause).fget Fl.portStatState p = 7 ∧ (s.portDown p cause).fget Fl.portStatDownCause p = cause := by
  have h := (s.portDown_traffic p cause).frame
  have hnot : notTwin .portStat := ⟨⟨by decide, by decide⟩, by decide, by decide⟩
  rw [h.fget Fl.portStatState p hp hnot, h.fget Fl.portStatDownCause p hp hnot, State.fget_setPort, State.fget_setPort]
  exact ⟨s.downNoted_state hp, s.downNoted_cause hp hc⟩

/-! ### A port that comes up (R243, R252) -/

/-- The port as it enters ACTIVE. -/
def Port.up (x : Port) (now : Nat) : Port :=
  { x with
    retrain := 0, configOk := false, trained := true, alignFails := 0, stalls := 0, probeAt := now,
    resend := if x.resumeDue then [] else x.resend,
    ctrl := (if x.trained then [resumePayload] else []) ++ x.ctrl }

section
variable (s : State) (p : Nat)

theorem State.portUp_traffic :
    Traffic (((s.fset Fl.portStatState p 5).fset Fl.portLanesActive p (s.port p).lanes.toNat).setPort p
      ((s.port p).up s.now)) (s.portUp p) :=
  (State.twinPortUp_traffic _ p).trans (State.retryWaiting_traffic _)

theorem State.portUp_quiet : (s.portUp p).halted = s.halted ∧ (s.portUp p).pending = s.pending := by
  have h := (s.portUp_traffic p).frame
  constructor
  · rw [h.halted, State.setPort_halted, State.fset_halted, State.fset_halted]
  · rw [h.pending, State.setPort_pending, State.fset_pending, State.fset_pending]

theorem State.portUp_port : (s.portUp p).port p = { (s.port p).up s.now with txq := ((s.portUp p).port p).txq } := by
  have h := (s.portUp_traffic p).port p
  rw [State.port_setPort_same] at h
  exact h

end

theorem State.portUp_state (s : State) {p : Nat} (hp : p < 12) : (s.portUp p).fget Fl.portStatState p = 5 := by
  rw [(s.portUp_traffic p).frame.fget Fl.portStatState p hp ⟨⟨by decide, by decide⟩, by decide, by decide⟩,
    State.fget_setPort,
    State.fget_fset_apart _ _ (by decide) hp hp (by exact nofun), State.fget_fset_fits _ _ (by decide) (by decide)]

/-- The other fields of PORT_STAT stand. -/
theorem State.portUp_stat (s : State) {p : Nat} (hp : p < 12) {f : Fld} (hr : f.reg = .portStat) (hf : 39 < f.lo ∨ f.hi < 36) :
    (s.portUp p).fget f p = s.fget f p := by
  have hi : p < f.reg.place.2.1 := by rw [hr]; exact hp
  rw [(s.portUp_traffic p).frame.fget f p hi (by rw [hr]; exact ⟨⟨by decide, by decide⟩, by decide, by decide⟩),
    State.fget_setPort, State.fget_fset_apart _ _ (by decide) hp hi (by rw [hr]; exact nofun),
    State.fget_fset_apart _ _ (by decide) hp hi fun _ => hf]

end Sys2Proof.Machine
end

section
/-! The training of a port: from DETECT through EQUALISE and ALIGN to CONFIG, and ALIGN that fails (R240 to R243, R253). -/

namespace Sys2Proof.Machine

/-- Only registers and ports differ. -/
abbrev TrainOnly (s t : State) : Prop := t = { s with regs := t.regs, ports := t.ports }

theorem TrainOnly.trans {s t u : State} (h : TrainOnly s t) (k : TrainOnly t u) : TrainOnly s u := by
  unfold TrainOnly at *
  rw [k, h]

theorem PortsOnly.trainOnly {s t : State} (h : PortsOnly s t) : TrainOnly s t := by
  unfold TrainOnly
  rw [h]

theorem RegsOnly.trainOnly {s t : State} (h : RegsOnly s t) : TrainOnly s t := by
  unfold TrainOnly
  rw [h]

/-- A command that changes registers and ports only answers with just that change. -/
theorem act_trainOnly {s : State} {f : State → State} {t : State} (hl : s.live = true) (ht : f s = t) (h : TrainOnly s t) :
    act s f = .next t :=
  act_eq_next hl ht (by rw [h]; exact State.halted_of_live hl) (by rw [h])

/-! ### A step of the training (Table 10.2) -/

section
variable (s : State) (p k : Nat)

theorem State.trainTo_trainOnly : TrainOnly s (s.trainTo p k) := by
  unfold State.trainTo
  split
  · exact (portsOnly_setPort s p _).trainOnly
  · exact (regsOnly_fset s _ p k).trainOnly

theorem State.trainTo_port : (s.trainTo p k).port p = { s.port p with retrain := ((s.trainTo p k).port p).retrain } := by
  unfold State.trainTo
  split
  · rw [State.port_setPort_same]
  · rfl

end

section
variable (s : State) {p k : Nat}

theorem State.trainTo_phase (hk : k < 16) (hk6 : k ≠ 6) : (s.trainTo p k).trainPhase p = k := by
  unfold State.trainTo
  split
  next h6 =>
    rw [State.trainPhase_retrain (by exact h6), State.port_setPort_same]
  next h6 =>
    have hst : (s.fset Fl.portStatState p k).fget Fl.portStatState p = k := s.fget_fset_fits p (by decide) hk
    rw [State.trainPhase_eq (by rw [hst]; exact hk6), hst]

/-- In a retrain STATE stays RETRAIN; else it is the state trained to. -/
theorem State.trainTo_fget (hp : p < 12) {f : Fld} {i : Nat} (hi : i < f.reg.place.2.1) (hf : f.reg = .portStat → 39 < f.lo ∨ f.hi < 36) :
    (s.trainTo p k).fget f i = s.fget f i := by
  unfold State.trainTo
  split
  · rfl
  · exact s.fget_fset_apart k (by decide) hp hi hf

end

/-! ### EQUALISE (R241) -/

theorem addSequence_nil (more : List (Nat × List Nat)) : addSequence [] more = more := by
  unfold addSequence
  simp

theorem addSequence_lanes (sent more : List (Nat × List Nat)) : (addSequence sent more).map Prod.fst = more.map Prod.fst := by
  unfold addSequence
  rw [List.map_map]
  rfl

theorem alignSequence_lanes (lanes : List Nat) (a b : Nat) (final : Bool) :
    (alignSequence lanes a b final).map Prod.fst = lanes := by
  unfold alignSequence
  rw [List.map_map]
  exact List.map_id lanes

/-- Lanes trained and passed are read from the registers alone. -/
theorem State.lanes_of_regs {s t : State} (h : t.regs = s.regs) (p : Nat) :
    t.lanesTrained p = s.lanesTrained p ∧ t.passedLanes p = s.passedLanes p := by
  unfold State.lanesTrained State.passedLanes
  simp only [State.fget_of_regs h, and_self]

section
variable (s : State) {p : Nat}

theorem State.alignBegin_eq : s.alignBegin p = (s.trainTo p 3).setPort p { (s.trainTo p 3).port p with
    align := alignSequence ((s.trainTo p 3).lanesTrained p) (laneBits ((s.trainTo p 3).passedLanes p)) 0 false,
    alignAt := s.now } := by
  obtain ⟨htrained, hpassed⟩ := State.lanes_of_regs (State.setPort_regs (s.trainTo p 3) p
    { (s.trainTo p 3).port p with align := [], alignAt := s.now }) p
  unfold State.alignBegin State.sendAlign
  dsimp only
  rw [State.port_setPort_same, State.setPort_setPort, addSequence_nil, htrained, hpassed]

theorem State.alignBegin_trainOnly : TrainOnly s (s.alignBegin p) := by
  rw [s.alignBegin_eq]
  exact (s.trainTo_trainOnly p 3).trans (portsOnly_setPort _ _ _).trainOnly

/-- A port that enters ALIGN has sent one sequence on every lane that has not failed. -/
theorem State.alignBegin_aligns : (s.alignBegin p).trainPhase p = 3 ∧ ((s.alignBegin p).port p).align =
    alignSequence ((s.alignBegin p).lanesTrained p) (laneBits ((s.alignBegin p).passedLanes p)) 0 false := by
  have hphase := s.trainTo_phase (p := p) (k := 3) (by decide) (by decide)
  obtain ⟨htrained, hpassed⟩ := State.lanes_of_regs (show (s.alignBegin p).regs = (s.trainTo p 3).regs by
    rw [s.alignBegin_eq, State.setPort_regs]) p
  rw [htrained, hpassed]
  constructor
  · rw [← hphase]
    exact State.trainPhase_congr (by rw [s.alignBegin_eq, State.fget_setPort]) (by rw [s.alignBegin_eq, State.port_setPort_same])
  · rw [s.alignBegin_eq, State.port_setPort_same]

end

/-! ### ALIGN that fails (R242) -/

section
variable (s : State) {p : Nat}

theorem State.alignFail_early (h : (s.port p).alignFails < 2) :
    s.alignFail p = (s.setPort p { s.port p with alignFails := (s.port p).alignFails + 1 }).trainTo p 2 := by
  unfold State.alignFail
  exact if_neg (by omega)

theorem State.alignFail_third (h : 2 ≤ (s.port p).alignFails) :
    s.alignFail p = (s.setPort p { s.port p with alignFails := (s.port p).alignFails + 1 }).portDown p 5 := by
  unfold State.alignFail
  exact if_pos (by omega)

theorem State.alignFail_quiet : (s.alignFail p).halted = s.halted ∧ (s.alignFail p).pending = s.pending := by
  by_cases h : (s.port p).alignFails < 2
  · rw [s.alignFail_early h, State.trainTo_trainOnly]
    exact ⟨rfl, rfl⟩
  · rw [s.alignFail_third (Nat.not_lt.mp h)]
    exact State.portDown_quiet _ p 5

/-- The first two failures lead back to EQUALISE, the third takes the port down. -/
theorem State.alignFail_leads (hp : p < 12) :
    ((s.port p).alignFails < 2 →
      (s.alignFail p).trainPhase p = 2 ∧ ((s.alignFail p).port p).alignFails = (s.port p).alignFails + 1) ∧
    (2 ≤ (s.port p).alignFails →
      (s.alignFail p).fget Fl.portStatState p = 7 ∧ (s.alignFail p).fget Fl.portStatDownCause p = 5) := by
  constructor <;> intro h
  · rw [s.alignFail_early h, State.trainTo_port, State.port_setPort_same]
    exact ⟨State.trainTo_phase _ (by decide) (by decide), rfl⟩
  · rw [s.alignFail_third h]
    exact State.portDown_stat _ hp (by decide)

end

/-! ### From ALIGN to CONFIG (R242, R253) -/

/-- The lane sets have width codes of two bits and lanes of eight. -/
theorem chooseLanes_fits {own far ls : List Nat} {w : Nat} (h : chooseLanes own far = some (w, ls)) :
    w < 4 ∧ laneBits ls < 256 := by
  have hall : ∀ x ∈ laneSets, x.1 < 4 ∧ laneBits x.2 < 256 := by decide
  exact hall _ (List.mem_of_find?_eq_some h)

/-- The port as it leaves ALIGN with its lanes (R245, R253). -/
def Port.aligned (x : Port) (ls : List Nat) (config : List Byte) : Port :=
  { x with
    lanes := BitVec.ofNat 8 (laneBits ls), configOk := false, badCw := 0, nakDue := false, nakOut := false,
    resumeDue := x.trained, resend := [], ctrl := [config], fec := {} }

/-- The port as it begins a PROBE (R263). -/
def Port.probing (x : Port) (now : Nat) : Port :=
  { x with
    probeNo := (x.probeNo + 1) % 256, probe := some ((x.probeNo + 1) % 256, now), spoiled := false, probeAt := now,
    ctrl := x.ctrl ++ [[0x03, BitVec.ofNat 8 ((x.probeNo + 1) % 256)] ++ List.replicate 14 0] }

theorem State.startProbe_eq (s : State) (p : Nat) : s.startProbe p = s.setPort p ((s.port p).probing s.now) := rfl

/-- What a port in CONFIG has of its ALIGN. -/
structure State.Aligned (s : State) (p w : Nat) (ls : List Nat) (t : State) : Prop where
  only : TrainOnly s t
  phase : t.trainPhase p = 4
  width : t.fget Fl.portStatWidth p = w
  lanes : (t.port p).lanes = BitVec.ofNat 8 (laneBits ls)
  fec : (t.port p).fec = {}
  align : (t.port p).align = (s.port p).align
  config : (t.port p).ctrl.head? = some (s.configPayload p)

theorem State.Aligned.startProbe {s t : State} {p w : Nat} {ls : List Nat} (h : s.Aligned p w ls t) :
    s.Aligned p w ls (t.startProbe p) := by
  rw [State.startProbe_eq]
  exact {
    only := h.only.trans (portsOnly_setPort t p _).trainOnly
    phase := (State.trainPhase_congr (State.fget_setPort t p _ _ p) (by rw [State.port_setPort_same]; rfl)).trans h.phase
    width := h.width
    lanes := by rw [State.port_setPort_same]; exact h.lanes
    fec := by rw [State.port_setPort_same]; exact h.fec
    align := by rw [State.port_setPort_same]; exact h.align
    config := by rw [State.port_setPort_same, Port.probing, List.head?_append, h.config]; rfl }

/-- The CONFIG payload is this end's node, role and slot, and the free part of its receive buffer. -/
theorem State.configPayload_congr {s t : State} {p : Nat} (hp : p < 12)
    (hf : ∀ f i, i < f.reg.place.2.1 → f.reg ≠ .portStat → t.fget f i = s.fget f i)
    (hx : (t.port p).rxFlits = (s.port p).rxFlits) : t.configPayload p = s.configPayload p := by
  have hfree : (t.port p).freeFlits = (s.port p).freeFlits := by
    unfold Port.freeFlits
    rw [hx]
  unfold State.configPayload State.portRole State.node
  rw [hf Fl.portCtlRole p hp (by decide), hf Fl.portCtlTwin p hp (by decide), hf Fl.glbNodeNode 0 (by decide) (by decide),
    hfree]

section
variable (s : State) (p w : Nat)

/-- The registers of a port that leaves ALIGN. -/
def State.widened : State := (s.trainTo p 4).fset Fl.portStatWidth p w

theorem State.widened_trainOnly : TrainOnly s (s.widened p w) :=
  (s.trainTo_trainOnly p 4).trans (regsOnly_fset _ _ p w).trainOnly

theorem State.widened_port :
    (s.widened p w).port p = { s.port p with retrain := ((s.widened p w).port p).retrain } := by
  unfold State.widened
  rw [State.port_fset]
  exact s.trainTo_port p 4

theorem State.widened_phase (hp : p < 12) : (s.widened p w).trainPhase p = 4 := by
  have hstate : (s.widened p w).fget Fl.portStatState p = (s.trainTo p 4).fget Fl.portStatState p :=
    State.fget_fset_apart _ w (by decide) hp hp fun _ => .inl (by decide)
  have hport : (s.widened p w).port p = (s.trainTo p 4).port p := by rw [State.widened, State.port_fset]
  rw [State.trainPhase_congr hstate (by rw [hport])]
  exact s.trainTo_phase (by decide) (by decide)

theorem State.widened_fget (hp : p < 12) :
    ∀ f i, i < f.reg.place.2.1 → f.reg ≠ .portStat → (s.widened p w).fget f i = s.fget f i := by
  intro f i hi hf
  rw [State.widened, State.fget_fset_ne _ _ hp hi (.inl hf), s.trainTo_fget hp hi fun h => absurd h hf]

theorem State.widened_width {w : Nat} (hw : w < 4) : (s.widened p w).fget Fl.portStatWidth p = w :=
  State.fget_fset_fits _ p (by decide) hw

theorem State.widened_rxFlits : ((s.widened p w).port p).rxFlits = (s.port p).rxFlits := by
  rw [State.widened, State.port_fset, State.trainTo_port]

theorem State.widened_configPayload (hp : p < 12) : (s.widened p w).configPayload p = s.configPayload p :=
  State.configPayload_congr hp (s.widened_fget p w hp) (s.widened_rxFlits p w)

theorem State.alignTo_eq (ls : List Nat) : s.alignTo p w ls =
    if s.fget Fl.portStatState p = 6
    then ((s.widened p w).setPort p (((s.widened p w).port p).aligned ls ((s.widened p w).configPayload p))).startProbe p
    else (s.widened p w).setPort p (((s.widened p w).port p).aligned ls ((s.widened p w).configPayload p)) := rfl

theorem State.alignTo_aligned (hp : p < 12) (hw : w < 4) (ls : List Nat) : s.Aligned p w ls (s.alignTo p w ls) := by
  have h : s.Aligned p w ls
      ((s.widened p w).setPort p (((s.widened p w).port p).aligned ls ((s.widened p w).configPayload p))) := {
    only := (s.widened_trainOnly p w).trans (portsOnly_setPort _ p _).trainOnly
    phase := (State.trainPhase_congr (State.fget_setPort _ p _ _ p) (by rw [State.port_setPort_same]; rfl)).trans
      (s.widened_phase p w hp)
    width := by rw [State.fget_setPort]; exact s.widened_width p hw
    lanes := by rw [State.port_setPort_same]; rfl
    fec := by rw [State.port_setPort_same]; rfl
    align := by rw [State.port_setPort_same, State.widened_port]; rfl
    config := by rw [State.port_setPort_same, State.widened_configPayload _ _ _ hp]; rfl }
  rw [State.alignTo_eq]
  split
  · exact h.startProbe
  · exact h

end

/-! ### ALIGN_DONE -/

/-- The lanes that the far end has passed. -/
def farLanes (far : AlignFar) : List Nat := (List.range 8).filter fun l => far.passed.getLsbD l

section
variable {s : State} {p : Nat} (hl : s.live = true) (hp : p < 12) (hphase : s.trainPhase p = 3) (far : AlignFar)
include hl hp hphase

/-- No lanes in common, or too few. -/
theorem exec_alignDone_narrow
    (h : ∀ w ls, chooseLanes (s.passedLanes p) (farLanes far) = some (w, ls) → s.fget Fl.portCtlMinWidth p < w) :
    exec (.alignDone p far) s = .next (s.portDown p 2) := by
  obtain ⟨hhalted, hpending⟩ := s.portDown_quiet p 2
  refine act_eq_next hl ?_ (hhalted.trans (State.halted_of_live hl)) hpending
  rw [if_pos ⟨hp, hphase⟩]
  unfold farLanes at h
  split
  · rfl
  next w ls hchoice => exact if_pos (h w ls hchoice)

variable {w : Nat} {ls : List Nat} (hchoice : chooseLanes (s.passedLanes p) (farLanes far) = some (w, ls))
  (hwide : w ≤ s.fget Fl.portCtlMinWidth p)
include hchoice hwide

/-- Both ends propose the same lanes: the last sequence goes, and the port is in CONFIG. -/
theorem exec_alignDone_agreed (hprop : far.proposed.toNat = laneBits ls) :
    exec (.alignDone p far) s =
      .next (((s.sendAlign p (laneBits ls) false).sendAlign p (laneBits ls) true).alignTo p w ls) := by
  have hsent : TrainOnly s ((s.sendAlign p (laneBits ls) false).sendAlign p (laneBits ls) true) :=
    (portsOnly_setPort s p _).trainOnly.trans (portsOnly_setPort _ p _).trainOnly
  refine act_trainOnly hl ?_ (hsent.trans (State.alignTo_aligned _ p w hp (chooseLanes_fits hchoice).1 ls).only)
  rw [if_pos ⟨hp, hphase⟩]
  unfold farLanes at hchoice
  rw [hchoice]
  dsimp only
  rw [if_neg (Nat.not_lt.mpr hwide)]
  exact if_neg (not_not.mpr hprop)

/-- The far end proposes others. -/
theorem exec_alignDone_differs (hprop : far.proposed.toNat ≠ laneBits ls) :
    exec (.alignDone p far) s = .next ((s.sendAlign p (laneBits ls) false).alignFail p) := by
  obtain ⟨hhalted, hpending⟩ := (s.sendAlign p (laneBits ls) false).alignFail_quiet (p := p)
  refine act_eq_next hl ?_ (hhalted.trans (State.halted_of_live hl)) hpending
  rw [if_pos ⟨hp, hphase⟩]
  unfold farLanes at hchoice
  rw [hchoice]
  dsimp only
  rw [if_neg (Nat.not_lt.mpr hwide)]
  exact if_pos hprop

end

section
variable (s : State) (p proposed : Nat) (final : Bool)

theorem State.sendAlign_port : (s.sendAlign p proposed final).port p = { s.port p with
    align := addSequence (s.port p).align
      (alignSequence (s.lanesTrained p) (laneBits (s.passedLanes p)) proposed final) } := by
  unfold State.sendAlign
  exact State.port_setPort_same _ _ _

/-- The words sent are those of the lanes that were trained. -/
theorem State.sendAlign_lanes : ((s.sendAlign p proposed final).port p).align.map Prod.fst = s.lanesTrained p := by
  rw [State.sendAlign_port, addSequence_lanes, alignSequence_lanes]

end

/-! ### Lanes and their stream (R242, R244, R245) -/

/-- Settles O47: a codeword is taken from the front of the stream whenever 5,140 bits have come, and the alignment ends with
an empty stream. -/
theorem laneStream : Obligations.LaneStream := by
  unfold Obligations.LaneStream
  refine ⟨fun n w j group hn hw hj => interleave_slot group hn hw hj, fun s p hl hp hup => exec_flitSend_fec hl hp hup,
    fun s p far hl hp hphase w ls hchoice hwide => ?_, FecTx.flit_stream⟩
  obtain ⟨hw, hbits⟩ := chooseLanes_fits hchoice
  have hprop : (BitVec.ofNat 8 (laneBits ls)).toNat = laneBits ls := by
    rw [BitVec.toNat_ofNat, Nat.mod_eq_of_lt hbits]
  have h := ((s.sendAlign p (laneBits ls) false).sendAlign p (laneBits ls) true).alignTo_aligned p w hp hw ls
  refine ⟨_, exec_alignDone_agreed hl hp hphase ⟨far, BitVec.ofNat 8 (laneBits ls)⟩ hchoice hwide hprop, h.fec, ?_⟩
  rw [h.align, State.sendAlign_lanes]
  exact (State.lanes_of_regs rfl p).1

end Sys2Proof.Machine
end

section
/-! CTRL flits that arrive: RESUME, PROBE and PROBE_REPLY (R252, R263). -/

namespace Sys2Proof.Machine

/-! ### A CTRL flit taken in order (R248, R250) -/

/-- The port once it has taken a sequenced flit. -/
def Port.took (x : Port) : Port :=
  { x with expect := (x.expect + 1) % 4096, spoiled := x.spoiled || x.nakOut, nakOut := false }

theorem State.tookFlit_eq (s : State) (p : Nat) : s.tookFlit p = s.setPort p (s.port p).took := rfl

@[simp] theorem State.tookFlit_port (s : State) (p : Nat) : (s.tookFlit p).port p = (s.port p).took :=
  s.port_setPort_same p _

theorem State.tookFlit_linkUp (s : State) (p : Nat) : (s.tookFlit p).linkUp p = s.linkUp p :=
  State.linkUp_congr (s.fget_setPort p _ _ p) (by rw [State.tookFlit_port]; rfl)

theorem leNat_take_one {payload : List Byte} {b : Byte} (h : payload.head? = some b) : leNat (payload.take 1) = b.toNat := by
  obtain ⟨r, rfl⟩ := List.head?_eq_some_iff.mp h
  rfl

section
variable {s : State} {p : Nat} {payload : List Byte} {b : Byte} (hp : p < 12) (hup : s.linkUp p = true)
  (hhead : payload.head? = some b)
include hp hup hhead

theorem State.ctrlFlit_taken : s.ctrlFlit p b.toNat payload = (s.tookFlit p).ctrlIn p payload :=
  if_pos ⟨hp, leNat_take_one hhead, hup⟩

end

/-! ### What each payload starts -/

section
variable (s : State) (p : Nat) {payload : List Byte}

theorem State.ctrlIn_config (h : payload.head? = some 1) : s.ctrlIn p payload = s.configIn p payload := by
  unfold State.ctrlIn
  rw [leNat_take_one h]
  rfl

theorem State.ctrlIn_resume (h : payload.head? = some 2) : s.ctrlIn p payload = s.resumeIn p payload := by
  unfold State.ctrlIn
  rw [leNat_take_one h]
  rfl

theorem State.ctrlIn_probe (h : payload.head? = some 3) : s.ctrlIn p payload = s.probeIn p payload := by
  unfold State.ctrlIn
  rw [leNat_take_one h]
  rfl

theorem State.ctrlIn_probeReply (h : payload.head? = some 4) : s.ctrlIn p payload = s.probeReplyIn p payload := by
  unfold State.ctrlIn
  rw [leNat_take_one h]
  rfl

end

/-- The port once the far end's RESUME has named the SEQ that it expects (R252). -/
def Port.resumed (x : Port) (e : Nat) : Port :=
  let y := x.ackTo ((e + 4095) % 4096)
  { y with resumeDue := false, resend := y.replay, spoiled := y.spoiled || !y.replay.isEmpty }

/-- The reply to a PROBE, with its bell at receipt (R263). -/
def replyPayload (payload : List Byte) (now : Nat) : List Byte :=
  [0x04] ++ (payload.drop 1).take 1 ++ List.replicate 6 0 ++ (payload.drop 8).take 8 ++ leBytes 8 now ++ List.replicate 8 0

section
variable {s : State} {p : Nat} {payload : List Byte} (hup : s.linkUp p = true)
include hup

theorem State.resumeIn_due (hhead : payload.head? = some 2) (hdue : (s.port p).resumeDue = true) :
    s.resumeIn p payload =
      s.setPort p ((s.port p).resumed (bitsOf (leNat ((payload.drop 4).take 2)) 11 0)) := by
  have hskip : ¬ ((!s.linkUp p) = true ∨ payload.head? ≠ some 2 ∨ (!(s.port p).resumeDue) = true) := by
    simp [hup, hhead, hdue]
  unfold State.resumeIn
  exact if_neg hskip

theorem State.probeIn_replies (hhead : payload.head? = some 3) :
    s.probeIn p payload = s.setPort p { s.port p with ctrl := (s.port p).ctrl ++ [replyPayload payload s.now] } := by
  have hskip : ¬ ((!s.linkUp p) = true ∨ payload.head? ≠ some 3) := by simp [hup, hhead]
  unfold State.probeIn
  exact if_neg hskip

/-- A reply to the probe under way that no replay has spoiled sets DELAY (R263). -/
theorem State.probeReplyIn_measures (hst : s.fget Fl.portStatState p = 5) {no sent : Nat} (hhead : payload.head? = some 4)
    (hno : leNat ((payload.drop 1).take 1) = no) (hprobe : (s.port p).probe = some (no, sent))
    (hspoiled : (s.port p).spoiled = false) :
    s.probeReplyIn p payload = (s.setPort p { s.port p with probe := none, spoiled := false }).fset Fl.portStatDelay p
      (oneWay sent s.now (leNat ((payload.drop 16).take 8)) (leNat ((payload.drop 24).take 8))) := by
  have hskip : ¬ ((!s.linkUp p) = true ∨ payload.head? ≠ some 4 ∨ no ≠ no) := by simp [hup, hhead]
  have hphase : s.trainPhase p ≠ 4 := by
    rw [State.trainPhase_eq (by rw [hst]; decide), hst]
    decide
  unfold State.probeReplyIn
  dsimp only
  rw [hprobe, hno]
  dsimp only
  rw [if_neg hskip, hspoiled, if_neg fun h => hphase h.2]
  rfl

end

/-! ### The commands -/

/-- The places of a reply's parts (Table 10.17). -/
theorem replyPayload_parts (payload : List Byte) (now : Nat) (hlen : payload.length = 16) :
    (replyPayload payload now).head? = some 4 ∧ ((replyPayload payload now).drop 1).take 1 = (payload.drop 1).take 1 ∧
      ((replyPayload payload now).drop 8).take 8 = payload.drop 8 ∧
      leNat (((replyPayload payload now).drop 16).take 8) = now % 2 ^ 64 := by
  have hno : ((payload.drop 1).take 1).length = 1 := by
    rw [List.length_take, List.length_drop, hlen]
    rfl
  have hbell : (payload.drop 8).length = 8 := by rw [List.length_drop, hlen]
  obtain ⟨b, hb⟩ := List.length_eq_one_iff.mp hno
  have hsplit : replyPayload payload now =
      [4, b, 0, 0, 0, 0, 0, 0] ++ (payload.drop 8 ++ (leBytes 8 now ++ List.replicate 8 0)) := by
    rw [replyPayload, hb, List.take_of_length_le (le_of_eq hbell)]
    simp [List.replicate]
  have hfront : ([4, b, 0, 0, 0, 0, 0, 0] : List Byte).length = 8 := rfl
  rw [hsplit, hb]
  refine ⟨rfl, rfl, ?_, ?_⟩
  · rw [List.drop_left' hfront, List.take_left' hbell]
  · rw [show 16 = 8 + 8 by rfl, ← List.drop_drop, List.drop_left' hfront, List.drop_left' hbell,
      List.take_left' (leBytes_length 8 now)]
    exact leNat_leBytes 8 now

theorem Port.took_ackTo_replay (x : Port) (a : Nat) : (x.took.ackTo a).replay = (x.ackTo a).replay := by
  unfold Port.ackTo Port.took
  dsimp only
  split <;> rfl

/-- A CTRL flit that changes ports only is answered with that change. -/
theorem act_ctrlFlit {s t : State} {p : Nat} {payload : List Byte} {b : Byte} (hl : s.live = true) (hp : p < 12)
    (hup : s.linkUp p = true) (hhead : payload.head? = some b) (ht : (s.tookFlit p).ctrlIn p payload = t)
    (honly : TrainOnly s t) : act s (fun s => s.ctrlFlit p b.toNat payload) = .next t :=
  act_trainOnly hl ((State.ctrlFlit_taken hp hup hhead).trans ht) honly

/-- Settles O44: each payload that arrives in its turn does what its type says, and changes no more than its port, or the
measured DELAY. -/
theorem portControlFlits : Obligations.PortControlFlits := by
  unfold Obligations.PortControlFlits
  intro s p payload hl hp hst
  have hup := State.linkUp_of_active hst
  have hup' : (s.tookFlit p).linkUp p = true := (s.tookFlit_linkUp p).trans hup
  have honly (x : Port) : TrainOnly s ((s.tookFlit p).setPort p x) :=
    ((portsOnly_setPort s p _).trans (portsOnly_setPort _ p x)).trainOnly
  refine ⟨fun hhead hdue => ?resume, fun hdue => ?send, fun hearly => ?early, fun hhead hlen => ?probe,
    fun no sent hhead hno hprobe hspoiled hnak => ?reply⟩
  case resume =>
    have ht := ((s.tookFlit p).ctrlIn_resume p hhead).trans
      (State.resumeIn_due hup' hhead (by rw [State.tookFlit_port]; exact hdue))
    refine ⟨_, act_ctrlFlit hl hp hup hhead ht (honly _), ?_⟩
    rw [State.port_setPort_same, State.tookFlit_port]
    exact ⟨rfl, rfl, Port.took_ackTo_replay _ _, rfl⟩
  case send =>
    have hdo : p < 12 ∧ s.portActive p = true ∧ (s.port p).probeAt + 2 ^ 20 ≤ s.now :=
      ⟨hp, State.portActive_iff.mpr hst, hdue⟩
    refine ⟨s.startProbe p, act_trainOnly hl (if_pos hdo) rfl, ?_⟩
    rw [State.startProbe_eq, State.port_setPort_same]
    exact ⟨rfl, ⟨_, rfl, rfl, rfl⟩, rfl⟩
  case early =>
    exact act_trainOnly hl (if_neg fun h => absurd h.2.2 (Nat.not_le.mpr hearly)) rfl
  case probe =>
    obtain ⟨htype, hnumber, hback, hgot⟩ := replyPayload_parts payload s.now hlen
    have ht := ((s.tookFlit p).ctrlIn_probe p hhead).trans (State.probeIn_replies hup' hhead)
    refine ⟨_, replyPayload payload s.now, act_ctrlFlit hl hp hup hhead ht (honly _), ?_⟩
    rw [State.port_setPort_same, State.tookFlit_port]
    exact ⟨rfl, htype, hnumber, hback, hgot, rfl⟩
  case reply =>
    have ht := ((s.tookFlit p).ctrlIn_probeReply p hhead).trans (State.probeReplyIn_measures hup' hst hhead hno
      (by rw [State.tookFlit_port]; exact hprobe) (by rw [State.tookFlit_port, Port.took, hspoiled, hnak]; rfl))
    refine ⟨_, act_ctrlFlit hl hp hup hhead ht ((honly _).trans (regsOnly_fset _ _ p _).trainOnly), ?_, ?_⟩
    · rw [State.port_fset, State.port_setPort_same]
    · exact State.fget_fset_same _ _ p _ (by decide)

end Sys2Proof.Machine
end

section
/-! Replays and retrains: what asks for one, what each keeps, and when a port gives up on its link (R245, R250, R251, R252). -/

namespace Sys2Proof.Machine

/-! ### Acknowledgements (R251) -/

section
variable (x : Port) (a : Nat)

theorem Port.ackTo_stalls : (x.ackTo a).stalls ≤ x.stalls := by
  unfold Port.ackTo
  dsimp only
  split
  · exact Nat.le_refl _
  · exact Nat.zero_le _

theorem Port.ackTo_resend_nil (h : x.resend = []) : (x.ackTo a).resend = [] := by
  unfold Port.ackTo
  dsimp only
  split
  · exact h
  · rw [h]
    rfl

end

/-! ### Retrains (R251, R252) -/

section
variable (s : State) {p : Nat}

/-- The port as it enters a retrain. -/
def Port.retraining (x : Port) (now : Nat) : Port := { x with retrain := 2, alignFails := 0, stalls := 0, retrainAt := now }

theorem State.retrainEnter_trainOnly : TrainOnly s (s.retrainEnter p) :=
  ((regsOnly_fset s _ p 6).trans (regsOnly_fset _ Fl.portStatRetrains p _)).trainOnly.trans (portsOnly_setPort _ p _).trainOnly

theorem State.retrainEnter_port : (s.retrainEnter p).port p = (s.port p).retraining s.now := by
  unfold State.retrainEnter State.fincSat
  dsimp only
  rw [State.port_setPort_same, State.port_fset, State.port_fset]
  rfl

variable (hp : p < 12)
include hp

theorem State.retrainEnter_fget {f : Fld} {i : Nat} (hi : i < f.reg.place.2.1)
    (hf : f.reg = .portStat → 47 < f.lo ∨ f.hi < 36) : (s.retrainEnter p).fget f i = s.fget f i := by
  unfold State.retrainEnter State.fincSat
  dsimp only
  rw [State.fget_setPort, State.fget_fset_apart _ _ (by decide) hp hi fun h => (hf h).imp_right fun h => Nat.lt_trans h (by decide),
    State.fget_fset_apart _ _ (by decide) hp hi fun h => (hf h).imp_left fun h => Nat.lt_trans (by decide) h]

theorem State.retrainEnter_state : (s.retrainEnter p).fget Fl.portStatState p = 6 := by
  unfold State.retrainEnter State.fincSat
  dsimp only
  rw [State.fget_setPort, State.fget_fset_apart _ _ (by decide) hp hp fun _ => .inr (by decide),
    State.fget_fset_fits _ p (by decide) (by decide)]

/-- The other ports stay in their states. -/
theorem State.retrainEnter_other {q : Nat} (hq : q < 12) (hqp : q ≠ p) :
    (s.retrainEnter p).fget Fl.portStatState q = s.fget Fl.portStatState q := by
  unfold State.retrainEnter State.fincSat
  dsimp only
  rw [State.fget_setPort, State.fget_fset_ne _ _ hp hq (.inr hqp), State.fget_fset_ne _ _ hp hq (.inr hqp)]

end

/-! ### Replays (R251) -/

/-- The port as it begins a replay. -/
def Port.replaying (x : Port) (now : Nat) : Port :=
  { x with resend := x.replay, stalls := x.stalls + 1, spoiled := true, replayAt := now }

/-- PORT_RETRY_EVT counts a replay (R251, R326). -/
def State.retryCounted (s : State) (p cause : Nat) : State :=
  (s.bump Fl.portRetryEvtCount Fl.portRetryEvtPend p).fset Fl.portRetryEvtCause p cause

/-- The event of a replay. -/
def retryEvent (p cause : Nat) : Event := { code := 0x0E, cls := .corrected, quarter := portQuarter p, loc := p, d4 := cause }

/-- A replay counted and logged. -/
def State.replayNoted (s : State) (p cause : Nat) : State :=
  ((s.setPort p ((s.port p).replaying s.now)).retryCounted p cause).logEvent (retryEvent p cause)

theorem State.replayStart_eq (s : State) (p cause : Nat) : s.replayStart p cause =
    if 16 ≤ (s.port p).stalls + 1 ∧ s.portActive p = true then (s.replayNoted p cause).retrainEnter p
    else s.replayNoted p cause := rfl

theorem EventOnly.port {s t : State} (h : EventOnly s t) (p : Nat) : t.port p = s.port p := State.port_of_ports (by rw [h]) p

section
variable (s : State) {p : Nat} (cause : Nat)

theorem State.retryCounted_regsOnly : RegsOnly s (s.retryCounted p cause) :=
  ((regsOnly_fset s Fl.portRetryEvtCount p _).trans (regsOnly_fset _ Fl.portRetryEvtPend p 1)).trans (regsOnly_fset _ _ p _)

theorem State.retryCounted_state (hp : p < 12) :
    (s.retryCounted p cause).fget Fl.portStatState p = s.fget Fl.portStatState p := by
  unfold State.retryCounted State.bump State.finc
  rw [State.fget_fset_ne _ _ hp hp (.inl (by decide)), State.fget_fset_ne _ _ hp hp (.inl (by decide)),
    State.fget_fset_ne _ _ hp hp (.inl (by decide))]

theorem State.retryCounted_cause : (s.retryCounted p cause).fget Fl.portRetryEvtCause p = cause % 2 ^ 8 :=
  State.fget_fset_same _ _ p cause (by decide)

theorem State.retryCounted_count :
    (s.retryCounted p cause).fget Fl.portRetryEvtCount p = (s.fget Fl.portRetryEvtCount p + 1) % 2 ^ 32 := by
  unfold State.retryCounted State.bump State.finc
  rw [State.fget_fset_field (f := Fl.portRetryEvtCause) (g := Fl.portRetryEvtCount) _ p _ (by decide) rfl (.inl (by decide)),
    State.fget_fset_field (f := Fl.portRetryEvtPend) (g := Fl.portRetryEvtCount) _ p _ (by decide) rfl (.inl (by decide)),
    show Fl.portRetryEvtCount.max + 1 = 2 ^ 32 by rfl]
  exact State.fget_fset_fits s p (by decide) (Nat.mod_lt _ (by decide))

theorem State.retryCounted_pend : (s.retryCounted p cause).fget Fl.portRetryEvtPend p = 1 := by
  unfold State.retryCounted State.bump
  rw [State.fget_fset_field (f := Fl.portRetryEvtCause) (g := Fl.portRetryEvtPend) _ p _ (by decide) rfl (.inr (by decide)),
    State.fget_fset_fits _ p (by decide) (by decide)]

theorem State.replayNoted_eventOnly :
    EventOnly (s.setPort p ((s.port p).replaying s.now)) (s.replayNoted p cause) :=
  (State.retryCounted_regsOnly _ cause).eventOnly.trans (State.logEvent_eventOnly _ (by exact nofun))

theorem State.replayNoted_port : (s.replayNoted p cause).port p = (s.port p).replaying s.now := by
  rw [(s.replayNoted_eventOnly cause).port p, State.port_setPort_same]

theorem State.replayNoted_quiet :
    (s.replayNoted p cause).halted = s.halted ∧ (s.replayNoted p cause).pending = s.pending := by
  rw [(s.replayNoted_eventOnly cause).halted, (s.replayNoted_eventOnly cause).pending, State.setPort_halted,
    State.setPort_pending]
  exact ⟨rfl, rfl⟩

/-- Of a field that no event writes. -/
theorem State.replayNoted_fget {f : Fld} (hp : p < f.reg.place.2.1) (hf : notEvent f.reg) :
    (s.replayNoted p cause).fget f p =
      ((s.setPort p ((s.port p).replaying s.now)).retryCounted p cause).fget f p := by
  rw [State.replayNoted, (State.logEvent_frame _ (by exact nofun)).fget f p hp hf]

end

/-- What a replay for a cause makes of a port, and the state of Table 10.2 that it leaves the port in. -/
structure State.Replayed (s : State) (p cause state : Nat) (t : State) : Prop where
  halted : t.halted = s.halted
  pending : t.pending = s.pending
  replay : (t.port p).replay = (s.port p).replay
  resend : (t.port p).resend = (s.port p).replay
  cause : t.fget Fl.portRetryEvtCause p = cause
  count : t.fget Fl.portRetryEvtCount p = (s.fget Fl.portRetryEvtCount p + 1) % 2 ^ 32
  pend : t.fget Fl.portRetryEvtPend p = 1
  state : t.fget Fl.portStatState p = state

section
variable {s : State} {p cause : Nat} (hp : p < 12)
include hp

theorem State.replayNoted_replayed (hc : cause < 256) (hst : s.fget Fl.portStatState p = 5) :
    s.Replayed p cause 5 (s.replayNoted p cause) where
  halted := (s.replayNoted_quiet cause).1
  pending := (s.replayNoted_quiet cause).2
  replay := by rw [State.replayNoted_port, Port.replaying]
  resend := by rw [State.replayNoted_port, Port.replaying]
  cause := by
    rw [s.replayNoted_fget cause hp ⟨by decide, by decide⟩, State.retryCounted_cause]
    exact Nat.mod_eq_of_lt hc
  count := by rw [s.replayNoted_fget cause hp ⟨by decide, by decide⟩, State.retryCounted_count, State.fget_setPort]
  pend := by rw [s.replayNoted_fget cause hp ⟨by decide, by decide⟩, State.retryCounted_pend]
  state := by
    rw [s.replayNoted_fget cause hp ⟨by decide, by decide⟩, State.retryCounted_state _ _ hp, State.fget_setPort, hst]

theorem State.Replayed.retrain {state : Nat} {t : State} (h : s.Replayed p cause state t) :
    s.Replayed p cause 6 (t.retrainEnter p) where
  halted := by rw [t.retrainEnter_trainOnly]; exact h.halted
  pending := by rw [t.retrainEnter_trainOnly]; exact h.pending
  replay := by rw [State.retrainEnter_port]; exact h.replay
  resend := by rw [State.retrainEnter_port]; exact h.resend
  cause := (t.retrainEnter_fget hp (f := Fl.portRetryEvtCause) hp (by exact nofun)).trans h.cause
  count := (t.retrainEnter_fget hp (f := Fl.portRetryEvtCount) hp (by exact nofun)).trans h.count
  pend := (t.retrainEnter_fget hp (f := Fl.portRetryEvtPend) hp (by exact nofun)).trans h.pend
  state := t.retrainEnter_state hp

/-- A replay resends all that is not acknowledged; the sixteenth without progress retrains the port. -/
theorem State.replayStart_replayed (hc : cause < 256) (hst : s.fget Fl.portStatState p = 5) :
    s.Replayed p cause (if 15 ≤ (s.port p).stalls then 6 else 5) (s.replayStart p cause) := by
  have hnoted := State.replayNoted_replayed hp hc hst
  rw [State.replayStart_eq]
  by_cases h : 15 ≤ (s.port p).stalls
  · rw [if_pos h, if_pos ⟨by omega, State.portActive_iff.mpr hst⟩]
    exact hnoted.retrain hp
  · rw [if_neg h, if_neg fun hr => h (by omega)]
    exact hnoted

end

/-! ### NAK (R251) -/

/-- A NAK without a replay under way starts one, where a flit is not acknowledged. -/
theorem State.nakIn_starts (s : State) {p ack : Nat} (cause : Nat) (hresend : (s.port p).resend = [])
    (hleft : ((s.port p).ackTo ack).replay ≠ []) :
    s.nakIn p ack cause = (s.setPort p ((s.port p).ackTo ack)).replayStart p cause := by
  unfold State.nakIn
  dsimp only
  rw [(s.port p).ackTo_resend_nil ack hresend]
  exact if_pos (by simpa using hleft)

/-! ### Bad flits and codewords (R245, R250) -/

/-- The port once it asks for a replay. -/
def Port.bad (x : Port) : Port := if x.nakOut then x else { x with nakDue := true, nakOut := true }

section
variable (s : State) (p : Nat)

theorem State.badFlit_portsOnly : PortsOnly s (s.badFlit p) := by
  unfold State.badFlit
  dsimp only
  split
  · rfl
  · exact portsOnly_setPort s p _

theorem State.badFlit_port : (s.badFlit p).port p = (s.port p).bad := by
  unfold State.badFlit Port.bad
  dsimp only
  split
  · rfl
  · exact State.port_setPort_same s p _

end

theorem Port.bad_nak (x : Port) : x.bad.nakOut = true ∧ (x.nakOut = false → x.bad.nakDue = true) := by
  unfold Port.bad
  split
  next h => exact ⟨h, fun h' => absurd (h.symm.trans h') (by decide)⟩
  · exact ⟨rfl, fun _ => rfl⟩

theorem Port.bad_eq (x : Port) : x.bad = { x with nakDue := x.bad.nakDue, nakOut := x.bad.nakOut } := by
  unfold Port.bad
  split <;> rfl

/-- The port once a codeword that cannot be corrected has come. -/
def Port.lostCw (x : Port) : Port := { x.bad.countCw 1 with badCw := x.badCw + 1 }

section
variable {s : State} {p : Nat} (hl : s.live = true) (hp : p < 12) (hst : s.fget Fl.portStatState p = 5)
include hl hp hst

theorem exec_fecUncorrectable : exec (.fecUncorrectable p) s = .next
    (if 3 ≤ (s.port p).badCw
    then (((s.badFlit p).setPort p (s.port p).lostCw).setPort p { (s.port p).lostCw with badCw := 0 }).retrainEnter p
    else (s.badFlit p).setPort p (s.port p).lostCw) := by
  have hlost : PortsOnly s ((s.badFlit p).setPort p (s.port p).lostCw) :=
    (s.badFlit_portsOnly p).trans (portsOnly_setPort _ p _)
  have hbad : ((s.badFlit p).port p).badCw = (s.port p).badCw := by rw [State.badFlit_port, Port.bad_eq]
  refine act_trainOnly hl ?_ ?_
  · rw [if_pos ⟨hp, State.linkUp_of_active hst⟩]
    dsimp only
    rw [hbad, State.port_setPort_same, State.badFlit_port]
    by_cases h : 3 ≤ (s.port p).badCw
    · rw [if_pos ⟨by omega, State.portActive_iff.mpr hst⟩, if_pos h]
      rfl
    · rw [if_neg fun hr => h (by omega), if_neg h]
      rfl
  · split
    · exact (hlost.trans (portsOnly_setPort _ p _)).trainOnly.trans (State.retrainEnter_trainOnly _)
    · exact hlost.trainOnly

end

/-- Settles O48: a replay resends the whole replay buffer, and the sixteenth in vain, or the fourth bad codeword, retrains. -/
theorem replays : Obligations.Replays := by
  unfold Obligations.Replays
  intro s p hl hp hst
  have hup := State.linkUp_of_active hst
  refine ⟨fun ack cause hresend hleft hstalls => ?nak, fun hresend hlate => ?late, ?lost⟩
  case nak =>
    have h := State.replayStart_replayed (s := s.setPort p ((s.port p).ackTo (ack % 4096))) hp cause.isLt hst
    have hfew := (s.port p).ackTo_stalls (ack % 4096)
    have hreplay := h.replay
    have hresend' := h.resend
    have hstate := h.state
    rw [State.port_setPort_same] at hreplay hresend'
    rw [State.port_setPort_same, if_neg (by omega)] at hstate
    exact ⟨_, act_eq_next hl ((if_pos ⟨hp, hup⟩).trans (s.nakIn_starts cause.toNat hresend hleft))
      (h.halted.trans (State.halted_of_live hl)) h.pending, hreplay, hresend'.trans hreplay.symm, h.cause, h.count, h.pend,
      hstate⟩
  case late =>
    have h := State.replayStart_replayed (cause := 3) hp (by decide) hst
    exact ⟨_, act_eq_next hl (if_pos ⟨hp, hup, hlate, by rw [hresend]; rfl⟩) (h.halted.trans (State.halted_of_live hl))
      h.pending, h.replay, h.resend, h.cause, h.state⟩
  case lost =>
    refine ⟨_, exec_fecUncorrectable hl hp hst, ?_⟩
    have hnak : (s.port p).lostCw.nakOut = true := (s.port p).bad_nak.1
    have hrxq : (s.port p).lostCw.rxq = (s.port p).rxq := by
      unfold Port.lostCw Port.countCw
      rw [Port.bad_eq]
    have hstate : (s.badFlit p).fget Fl.portStatState p = 5 :=
      (State.fget_of_regs (s.badFlit_portsOnly p).regs _ p).trans hst
    split
    · rw [State.retrainEnter_port, State.port_setPort_same, State.retrainEnter_state _ hp]
      exact ⟨hnak, rfl, hrxq⟩
    · rw [State.port_setPort_same, State.fget_setPort]
      exact ⟨hnak, hstate, hrxq⟩

end Sys2Proof.Machine
end

section
/-! Flits that arrive: those taken in order, the bytes that they give to their channel, and what the receive buffer then gives
up by itself (R248, R250, R255, R258). -/

namespace Sys2Proof.Machine

/-! ### What a receive buffer gives up by itself (R258) -/

section
variable (s : State) (p v : Nat)

/-- The state once the next transaction of a channel has left the receive buffer. -/
def State.popped : State := s.setPort p ((s.port p).popRx v)

/-- What becomes of a transaction that the buffer gives up: discarded and logged, refused, staged or dropped. -/
def State.GivesUp (x : Txn) (u : State) : Prop :=
  (∃ d4 d5, u = (s.popped p v).protocolEvent p d4 d5) ∨ u = (s.popped p v).refuseColl x ∨ u = (s.popped p v).stage_ x ∨
    u = s.popped p v

/-- One round of the draining: nothing to give up, or the next transaction goes and the rest follows. -/
theorem State.drainRx_succ (f : Nat) : State.drainRx p v (f + 1) s = s ∨
    ∃ e u, (s.port p).rxHead v = some e ∧ s.GivesUp p v e.txn u ∧ State.drainRx p v (f + 1) s = State.drainRx p v f u := by
  rw [State.drainRx]
  split
  · exact .inl rfl
  next e he =>
    dsimp only
    split
    next why _ => exact .inr ⟨e, _, he, .inl ⟨_, _, rfl⟩, rfl⟩
    · split
      · exact .inr ⟨e, _, he, .inr (.inl rfl), rfl⟩
      · split
        · exact .inr ⟨e, _, he, .inr (.inr (.inl rfl)), rfl⟩
        · split
          · exact .inr ⟨e, _, he, .inr (.inr (.inr rfl)), rfl⟩
          · exact .inl rfl

/-- What every transaction given up keeps, the draining keeps. -/
theorem State.drainRx_keeps (P : State → Prop) (hP : ∀ (s : State) (x : Txn) (u : State), P s → s.GivesUp p v x u → P u)
    (f : Nat) (h : P s) : P (State.drainRx p v f s) := by
  induction f generalizing s with
  | zero => exact h
  | succ f ih =>
    rcases s.drainRx_succ p v f with heq | ⟨e, u, -, hgive, heq⟩
    · rw [heq]
      exact h
    · rw [heq]
      exact ih u (hP s e.txn u h hgive)

theorem State.drainRx_none (f : Nat) (h : (s.port p).rxHead v = none) : State.drainRx p v f s = s := by
  cases f with
  | zero => rfl
  | succ f =>
    unfold State.drainRx
    rw [h]

/-- A transaction that fits its channel, other than those of the collectives, waits for its execution. -/
theorem State.drainRx_waits (f : Nat) {e : RxTxn} (h : (s.port p).rxHead v = some e) (hscr : s.screen p e.txn = none)
    (hmsg : e.txn.vc ≠ 1) (hchunk : e.txn.vc ≠ 2) : State.drainRx p v f s = s := by
  cases f with
  | zero => rfl
  | succ f =>
    have hvc : (vcsOf e.txn.ttype).contains e.txn.vc = true := by
      unfold State.screen at hscr
      split at hscr
      · cases hscr
      · split at hscr
        · cases hscr
        next hc => simpa using hc
    have hno (ty : Nat) (hty : vcsOf ty = [1] ∨ vcsOf ty = [2]) : e.txn.ttype ≠ ty := by
      rintro rfl
      rcases hty with hty | hty <;> rw [hty] at hvc
      · exact hmsg (by simpa using hvc)
      · exact hchunk (by simpa using hvc)
    have h1 := hno ttChunk (.inr rfl)
    have h2 := hno ttChunkAck (.inr rfl)
    have h3 := hno ttCollMsg (.inl rfl)
    unfold State.drainRx
    rw [h]
    dsimp only
    rw [hscr]
    dsimp only
    rw [if_neg (by simp [h1, h2, h3]), if_neg h1, if_neg (by simp [h2, h3])]

theorem State.drainRx_discards (f : Nat) {e : RxTxn} {why : Nat} (h : (s.port p).rxHead v = some e)
    (hscr : s.screen p e.txn = some why) :
    State.drainRx p v (f + 1) s = State.drainRx p v f ((s.popped p v).protocolEvent p (Txn.word0 e.txn) why) := by
  rw [State.drainRx, h]
  dsimp only
  rw [hscr]
  rfl

end

/-- Where a port stands in the flits it receives: the expected SEQ, its NAK, and the bytes of transactions not yet whole. -/
def Port.seqView (x : Port) : Nat × Bool × SMap (List Byte) := (x.expect, x.nakOut, x.rxb)

theorem Port.popRx_seqView (x : Port) (v : Nat) : (x.popRx v).seqView = x.seqView := by
  unfold Port.popRx
  split <;> rfl

theorem Traffic.seqView {s t : State} (h : Traffic s t) (p : Nat) : (t.port p).seqView = (s.port p).seqView := by
  rw [h.port p]
  rfl

theorem State.refuseColl_traffic (s : State) (x : Txn) : Traffic s (s.refuseColl x) := by
  unfold State.refuseColl
  dsimp only
  split
  · split
    · exact s.issueOn_traffic _ 0 none false
    · exact .refl s
  · split
    · exact s.issueOn_traffic _ 0 none false
    · exact .refl s

theorem State.GivesUp.traffic {s u : State} {p v : Nat} {x : Txn} (h : s.GivesUp p v x u) : Traffic (s.popped p v) u := by
  rcases h with ⟨d4, d5, rfl⟩ | rfl | rfl | rfl
  · exact .of_event _ (by exact nofun)
  · exact State.refuseColl_traffic _ x
  · exact .of_ports ⟨rfl, rfl, rfl, fun _ _ _ _ => rfl⟩ rfl
  · exact .refl _

theorem State.drainRx_seqView (s : State) (p v f : Nat) :
    ((State.drainRx p v f s).port p).seqView = (s.port p).seqView := by
  refine s.drainRx_keeps p v (fun t => (t.port p).seqView = (s.port p).seqView) (fun t x u ht hgive => ?_) f rfl
  rw [hgive.traffic.seqView p, State.popped, State.port_setPort_same, Port.popRx_seqView, ht]

/-- Only PORT_CTL says what a port discards. -/
theorem State.screen_of_regs {s t : State} (h : t.regs = s.regs) (p : Nat) (x : Txn) : t.screen p x = s.screen p x := by
  unfold State.screen State.portRole
  rw [State.fget_of_regs h]

/-! ### Transactions of a channel -/

theorem nextTxn_vc {v : Nat} {bs r : List Byte} {t : Txn} (h : nextTxn v bs = some (t, r)) : t.vc = v := by
  unfold nextTxn at h
  split at h
  · cases h
  · dsimp only at h
    split at h
    · cases h
    · cases h
      rfl

theorem frames_vc (v f : Nat) (bs : List Byte) : ∀ y ∈ (frames v f bs).1, y.vc = v := by
  induction f generalizing bs with
  | zero => exact nofun
  | succ f ih =>
    unfold frames
    split
    · exact nofun
    next t r hn =>
      intro y hy
      rcases List.mem_cons.mp hy with rfl | hy
      · exact nextTxn_vc hn
      · exact ih r y hy

theorem Port.rxHead_mem {x : Port} {v : Nat} {e : RxTxn} (h : x.rxHead v = some e) : e ∈ x.rxq ∧ e.txn.vc = v :=
  ⟨List.mem_of_find?_eq_some h, by simpa using List.find?_some h⟩

theorem Port.rxHead_none {x : Port} {v : Nat} (h : ∀ e ∈ x.rxq, e.txn.vc ≠ v) : x.rxHead v = none :=
  List.find?_eq_none.mpr fun e he => by simpa using h e he

/-! ### DATA flits (R255, R258) -/

/-- Transactions as they wait, with the access lists of their arrival (R296). -/
def rxOf (acl : List AclEntry) (ts : List Txn) : List RxTxn := ts.map fun t => { txn := t, acl := acl }

/-- The whole transactions of a channel once more bytes have come, and what is left. -/
def Port.framesWith (x : Port) (v : Nat) (bytes : List Byte) : List Txn × List Byte :=
  frames v (mget [] x.rxb v ++ bytes).length (mget [] x.rxb v ++ bytes)

/-- The port with a DATA flit's bytes in its receive buffer. -/
def Port.buffered (x : Port) (acl : List AclEntry) (v : Nat) (bytes : List Byte) : Port :=
  { x with
    rxb := mput [] x.rxb v (x.framesWith v bytes).2, rxFlits := mput [] x.rxFlits v (mget [] x.rxFlits v ++ [bytes.length]),
    rxq := x.rxq ++ rxOf acl (x.framesWith v bytes).1 }

section
variable (s : State) (p v : Nat) (bytes : List Byte)

theorem State.dataIn_eq : s.dataIn p v bytes =
    State.drainRx p v ((s.port p).buffered s.acl v bytes).rxq.length
      (s.setPort p ((s.port p).buffered s.acl v bytes)) := by
  unfold State.dataIn
  dsimp only
  rw [State.port_setPort_same]
  rfl

theorem State.dataIn_seqView : ((s.dataIn p v bytes).port p).seqView = ((s.port p).buffered s.acl v bytes).seqView := by
  rw [State.dataIn_eq, State.drainRx_seqView, State.port_setPort_same]

theorem State.dataIn_quiet : (s.dataIn p v bytes).halted = s.halted ∧ (s.dataIn p v bytes).pending = s.pending := by
  have h := (State.drainRx_rxOnly (s.setPort p ((s.port p).buffered s.acl v bytes)) p v
    ((s.port p).buffered s.acl v bytes).rxq.length).frame
  rw [State.dataIn_eq, h.halted, h.pending, State.setPort_halted, State.setPort_pending]
  exact ⟨rfl, rfl⟩

/-- No transaction of the channel is whole yet: the buffer gives nothing up. -/
theorem State.dataIn_partial (hnone : ((s.port p).framesWith v bytes).1 = []) (hfree : ∀ e ∈ (s.port p).rxq, e.txn.vc ≠ v) :
    s.dataIn p v bytes = s.setPort p ((s.port p).buffered s.acl v bytes) := by
  have hq : ((s.port p).buffered s.acl v bytes).rxq = (s.port p).rxq := by
    rw [Port.buffered, hnone, rxOf, List.map_nil, List.append_nil]
  rw [State.dataIn_eq]
  refine State.drainRx_none _ _ _ _ ?_
  rw [State.port_setPort_same]
  exact Port.rxHead_none (by rw [hq]; exact hfree)

/-- Transactions that fit their channel wait in order, on a channel other than those of the collectives. -/
theorem State.dataIn_waits (hmsg : v ≠ 1) (hchunk : v ≠ 2)
    (hold : ∀ e ∈ (s.port p).rxq, e.txn.vc = v → s.screen p e.txn = none)
    (hnew : ∀ y ∈ ((s.port p).framesWith v bytes).1, s.screen p y = none) :
    s.dataIn p v bytes = s.setPort p ((s.port p).buffered s.acl v bytes) := by
  rw [State.dataIn_eq]
  match hhead : ((s.setPort p ((s.port p).buffered s.acl v bytes)).port p).rxHead v with
  | none => exact State.drainRx_none _ _ _ _ hhead
  | some e =>
    have hmem := hhead
    rw [State.port_setPort_same] at hmem
    obtain ⟨hmem, hvc⟩ := Port.rxHead_mem hmem
    have hscr : s.screen p e.txn = none := by
      rcases List.mem_append.mp hmem with h | h
      · exact hold e h hvc
      · obtain ⟨y, hy, rfl⟩ := List.mem_map.mp h
        exact hnew y hy
    exact State.drainRx_waits _ _ _ _ hhead ((State.screen_of_regs (State.setPort_regs s p _) p _).trans hscr)
      (by rw [hvc]; exact hmsg) (by rw [hvc]; exact hchunk)

/-- A transaction that must be discarded leaves the buffer, and is logged as PROTOCOL (R258, Table 14.19). -/
theorem State.dataIn_discards {y : Txn} {why : Nat} (hone : ((s.port p).framesWith v bytes).1 = [y])
    (hfree : ∀ e ∈ (s.port p).rxq, e.txn.vc ≠ v) (hscr : s.screen p y = some why) :
    ((s.dataIn p v bytes).port p).rxq = (s.port p).rxq ∧ (s.dataIn p v bytes).fget Fl.errEvtCode 0 = 0x0F := by
  have hvc : y.vc = v := frames_vc v _ _ y (by rw [Port.framesWith] at hone; rw [hone]; exact .head _)
  have hq : ((s.port p).buffered s.acl v bytes).rxq = (s.port p).rxq ++ [{ txn := y, acl := s.acl }] := by
    rw [Port.buffered, hone, rxOf, List.map_singleton]
  have hhead : ((s.setPort p ((s.port p).buffered s.acl v bytes)).port p).rxHead v = some { txn := y, acl := s.acl } := by
    rw [State.port_setPort_same, Port.rxHead, hq, List.find?_append, List.find?_eq_none.mpr fun e he => by simpa using hfree e he]
    simp [hvc]
  have hscr' := (State.screen_of_regs (State.setPort_regs s p ((s.port p).buffered s.acl v bytes)) p y).trans hscr
  have hpop : (((s.setPort p ((s.port p).buffered s.acl v bytes)).popped p v).port p).rxq = (s.port p).rxq := by
    rw [State.popped, State.port_setPort_same, Port.popRx, hhead, State.port_setPort_same]
    dsimp only
    rw [hq, List.eraseP_append_right _ fun e he => by simpa using hfree e he]
    simp [hvc]
  have hport := (State.logEvent_eventOnly ((s.setPort p ((s.port p).buffered s.acl v bytes)).popped p v)
    (e := { code := 0x0F, cls := .peer, quarter := portQuarter p, loc := p, d4 := Txn.word0 y, d5 := why })
    (by exact nofun)).port p
  have hcode := State.logEvent_code ((s.setPort p ((s.port p).buffered s.acl v bytes)).popped p v)
    (e := { code := 0x0F, cls := .peer, quarter := portQuarter p, loc := p, d4 := Txn.word0 y, d5 := why }) (by exact nofun)
  have hlen : ((s.port p).buffered s.acl v bytes).rxq.length = (s.port p).rxq.length + 1 := by
    rw [hq, List.length_append, List.length_singleton]
  have hempty (x : Port) (hx : x.rxq = (s.port p).rxq) : x.rxHead v = none := Port.rxHead_none (by rw [hx]; exact hfree)
  rw [State.dataIn_eq, hlen, State.drainRx_discards _ _ _ _ hhead hscr', State.protocolEvent,
    State.drainRx_none _ _ _ _ (hempty _ (by rw [hport, hpop])), hport, hpop]
  exact ⟨rfl, hcode⟩

end

/-! ### Flits (R247, R250) -/

/-- The receiver takes a flit as sound: no error of its codeword, 256 bytes, and the CRC that they give. -/
def SoundFlit (flit : List Byte) (fecBad : Bool) : Prop :=
  fecBad = false ∧ flit.length = 256 ∧ crc64 (flit.take 248) = leNat (flit.drop 248)

theorem soundFlit_iff (flit : List Byte) (fecBad : Bool) :
    (!fecBad && flit.length == 256 && crc64 (flit.take 248) == leNat (flit.drop 248)) = true ↔ SoundFlit flit fecBad := by
  simp [SoundFlit, and_assoc]

/-- The bytes of a DATA flit. -/
def bodyOf (flit : List Byte) : List Byte := ((flit.drop 8).take 240).take (bitsOf (leNat (flit.take 8)) 19 12)

/-- The port with the ACK and credits of a header (R250, R255). -/
def Port.credited (x : Port) (h : Nat) : Port :=
  { x.ackTo (bitsOf h 51 40) with
    credit := mput 0 (x.ackTo (bitsOf h 51 40)).credit (bitsOf h 31 29)
      (mget 0 (x.ackTo (bitsOf h 51 40)).credit (bitsOf h 31 29) + bitsOf h 28 20) }

/-- The port once it has seen the header of a sound flit without NAK: no codeword is bad in a row (R245). -/
def Port.heard (x : Port) (h : Nat) : Port := { x.credited h with badCw := 0 }

theorem Port.ackTo_eq (x : Port) (a : Nat) : x.ackTo a =
    { x with acked := (x.ackTo a).acked, replay := (x.ackTo a).replay, stalls := (x.ackTo a).stalls,
             resend := (x.ackTo a).resend } := by
  unfold Port.ackTo
  dsimp only
  split <;> rfl

/-- What a sound flit says of the other direction leaves the receiver where it was. -/
theorem Port.heard_receiver (x : Port) (h : Nat) : (x.heard h).expect = x.expect ∧ (x.heard h).nakOut = x.nakOut ∧
    (x.heard h).rxb = x.rxb ∧ (x.heard h).rxFlits = x.rxFlits ∧ (x.heard h).rxq = x.rxq ∧ (x.heard h).owed = x.owed := by
  unfold Port.heard Port.credited
  rw [Port.ackTo_eq]
  exact ⟨rfl, rfl, rfl, rfl, rfl, rfl⟩

section
variable {s : State} {p : Nat} {flit : List Byte} {fecBad : Bool}

theorem State.flitIn_unsound (h : ¬ SoundFlit flit fecBad) : s.flitIn p flit fecBad = s.badFlit p := by
  unfold State.flitIn
  dsimp only
  exact if_pos (by rw [Bool.not_eq_true', ← Bool.not_eq_true, soundFlit_iff]; exact h)

variable (hsound : SoundFlit flit fecBad) (htype : bitsOf (leNat (flit.take 8)) 36 33 = 1)
  (hnak : bitsOf (leNat (flit.take 8)) 32 32 = 0)
include hsound htype hnak

/-- A sound DATA flit without NAK, by its SEQ: in its turn or not. -/
theorem State.flitIn_data : s.flitIn p flit fecBad =
    if (s.port p).expect = bitsOf (leNat (flit.take 8)) 63 52
    then (s.setPort p ((s.port p).heard (leNat (flit.take 8))).took).dataIn p (bitsOf (leNat (flit.take 8)) 39 37) (bodyOf flit)
    else (s.setPort p ((s.port p).heard (leNat (flit.take 8)))).badFlit p := by
  have hhead : s.flitHead p (leNat (flit.take 8)) = s.setPort p ((s.port p).credited (leNat (flit.take 8))) := by
    unfold State.flitHead
    exact if_neg (by rw [hnak]; decide)
  have hheard : (s.flitHead p (leNat (flit.take 8))).setPort p
      { (s.flitHead p (leNat (flit.take 8))).port p with badCw := 0 } =
        s.setPort p ((s.port p).heard (leNat (flit.take 8))) := by
    rw [hhead, State.port_setPort_same, State.setPort_setPort, Port.heard]
  have hexpect := ((s.port p).heard_receiver (leNat (flit.take 8))).1
  unfold State.flitIn
  dsimp only
  rw [(soundFlit_iff flit fecBad).mpr hsound, hheard, State.port_setPort_same, htype, if_neg (by decide), if_neg (by decide)]
  by_cases hseq : (s.port p).expect = bitsOf (leNat (flit.take 8)) 63 52
  · rw [if_pos hseq, if_neg (not_or.mpr ⟨by decide, not_not.mpr (hexpect.trans hseq)⟩), if_pos rfl, State.tookFlit_eq,
      State.port_setPort_same, State.setPort_setPort]
    rfl
  · rw [if_neg hseq, if_pos (.inr fun h => hseq (hexpect.symm.trans h))]

end

/-! ### The obligation -/

theorem exec_flitReceive {s t : State} {p : Nat} {flit : List Byte} {fecBad : Bool} (hl : s.live = true) (hp : p < 12)
    (hup : s.linkUp p = true) (ht : s.flitIn p flit fecBad = t) (hhalted : t.halted = s.halted)
    (hpending : t.pending = s.pending) : exec (.flitReceive p flit fecBad) s = .next t :=
  act_eq_next hl ((if_pos ⟨hp, hup⟩).trans ht) (hhalted.trans (State.halted_of_live hl)) hpending

/-- Settles O45: a bad flit leaves the receiver where it was, and a good one gives its bytes to its channel, whose first
whole transactions wait, or go where the buffer itself sends them. -/
theorem flitsReceived : Obligations.FlitsReceived := by
  unfold Obligations.FlitsReceived
  intro s p flit fecBad hl hp hup
  dsimp only
  refine ⟨fun hbad => ?bad, fun hgood htype hseq hnak => ?astray, fun hgood htype hseq hnak => ?taken⟩
  case bad =>
    have honly := s.badFlit_portsOnly p
    obtain ⟨hout, hdue⟩ := (s.port p).bad_nak
    refine ⟨_, exec_flitReceive hl hp hup (State.flitIn_unsound hbad) (by rw [honly]) (by rw [honly]), ?_⟩
    rw [State.badFlit_port]
    refine ⟨hout, hdue, ?_, ?_, honly⟩ <;> rw [Port.bad_eq]
  case astray =>
    have honly := (portsOnly_setPort s p ((s.port p).heard (leNat (flit.take 8)))).trans (State.badFlit_portsOnly _ p)
    obtain ⟨hexpect, -, -, -, hrxq, -⟩ := (s.port p).heard_receiver (leNat (flit.take 8))
    refine ⟨_, exec_flitReceive hl hp hup ((State.flitIn_data hgood htype hnak).trans (if_neg (Ne.symm hseq)))
      (by rw [honly]) (by rw [honly]), ?_⟩
    rw [State.badFlit_port, State.port_setPort_same]
    refine ⟨(Port.bad_nak _).1, ?_, ?_, honly⟩ <;> rw [Port.bad_eq]
    · exact hexpect
    · exact hrxq
  case taken =>
    obtain ⟨hexpect, -, hrxb, hrxFlits, hrxq, howed⟩ := (s.port p).heard_receiver (leNat (flit.take 8))
    have htook : PortsOnly s (s.setPort p ((s.port p).heard (leNat (flit.take 8))).took) := rfl
    have hport := s.port_setPort_same p ((s.port p).heard (leNat (flit.take 8))).took
    have heq := (State.flitIn_data hgood htype hnak).trans (if_pos hseq.symm)
    generalize s.setPort p ((s.port p).heard (leNat (flit.take 8))).took = t at htook hport heq
    have hq : (t.port p).rxq = (s.port p).rxq := by rw [hport, Port.took, hrxq]
    have hf : (t.port p).rxFlits = (s.port p).rxFlits := by rw [hport, Port.took, hrxFlits]
    have hb : (t.port p).rxb = (s.port p).rxb := by rw [hport, Port.took, hrxb]
    have ho : (t.port p).owed = (s.port p).owed := by rw [hport, Port.took, howed]
    have he : (t.port p).expect = ((s.port p).expect + 1) % 4096 := by rw [hport, Port.took, hexpect]
    have hn : (t.port p).nakOut = false := by rw [hport, Port.took]
    have hacl : t.acl = s.acl := by rw [htook]
    have hscreen (y : Txn) : t.screen p y = s.screen p y := State.screen_of_regs htook.regs p y
    obtain ⟨hhalted, hpending⟩ := t.dataIn_quiet p (bitsOf (leNat (flit.take 8)) 39 37) (bodyOf flit)
    have hview := t.dataIn_seqView p (bitsOf (leNat (flit.take 8)) 39 37) (bodyOf flit)
    simp only [Port.seqView, Port.buffered, Prod.mk.injEq, he, hn, hb] at hview
    obtain ⟨hexpect', hnak', hrxb'⟩ := hview
    have hframes : (t.port p).framesWith (bitsOf (leNat (flit.take 8)) 39 37) (bodyOf flit) =
        frames (bitsOf (leNat (flit.take 8)) 39 37)
          (mget [] (s.port p).rxb (bitsOf (leNat (flit.take 8)) 39 37) ++ bodyOf flit).length
          (mget [] (s.port p).rxb (bitsOf (leNat (flit.take 8)) 39 37) ++ bodyOf flit) := by
      rw [Port.framesWith, hb]
    refine ⟨_, exec_flitReceive hl hp hup heq (hhalted.trans (by rw [htook])) (hpending.trans (by rw [htook])), hexpect',
      hnak', ?whole, ?others, ?unfinished, ?waits, ?discards⟩
    case whole => rw [hrxb', mget_mput_same, hframes]; rfl
    case others => exact fun u hu => by rw [hrxb', mget_mput_ne _ _ _ hu]
    case unfinished =>
      intro hnone hfree
      rw [t.dataIn_partial p _ _ (by rw [hframes]; exact hnone) (by rw [hq]; exact hfree), State.port_setPort_same]
      exact ⟨ho, by rw [Port.buffered, mget_mput_same, hf]; rfl⟩
    case waits =>
      intro hmsg hchunk hold hnew
      rw [t.dataIn_waits p _ _ hmsg hchunk (by rw [hq]; exact fun e he hv => (hscreen _).trans (hold e he hv))
        (by rw [hframes]; exact fun y hy => (hscreen y).trans (hnew y hy)), State.port_setPort_same]
      rw [Port.buffered, hq, hframes, hacl]
      rfl
    case discards =>
      intro y why hone hfree hscr
      rw [← hq]
      exact t.dataIn_discards p _ _ (by rw [hframes]; exact hone) (by rw [hq]; exact hfree) ((hscreen y).trans hscr)

end Sys2Proof.Machine
end

section
/-! The states of a port: ENABLE and RETRAIN as a hart writes them, and the commands of its training (R240 to R243, R246, R253,
R254, Table 10.2). -/

namespace Sys2Proof.Machine

/-! ### ENABLE and RETRAIN (R240) -/

section
variable {s : State} {h p : Nat} (hl : s.live = true) (hpr : s.present (.hart h) = true)
include hl hpr

/-- A write of ENABLE goes on to the port's state, and then transactions may find a way. -/
theorem exec_portEnableWrite {enable : Bool} {t : State}
    (ht : (s.fset Fl.portCtlEnable p enable.toNat).portFollow p = t) (honly : TrainOnly s t) :
    exec (.portEnableWrite (.hart h) p enable) s = .next t.retryWaiting := by
  have htraffic := t.retryWaiting_traffic.frame
  refine act_eq_next hl ?_ (htraffic.halted.trans ?_) (htraffic.pending.trans ?_)
  · rw [if_pos (State.mayWrite_hart hpr), ht]
  · rw [honly]
    exact State.halted_of_live hl
  · rw [honly]

omit hpr in
/-- What a hart's write of RETRAIN does in the state that the port is in. -/
theorem exec_portRetrain {t : State} (ht : s.portRetrain (.hart h) p = t) (honly : TrainOnly s t) :
    exec (.portRetrain (.hart h) p) s = .next t := act_trainOnly (f := fun s => s.portRetrain (.hart h) p) hl ht honly

omit hl in
theorem State.portRetrain_active (hst : s.fget Fl.portStatState p = 5) : s.portRetrain (.hart h) p = s.retrainEnter p := by
  unfold State.portRetrain
  rw [if_neg (by simp [State.mayWrite_hart hpr]), hst]
  rfl

omit hl in
theorem State.portRetrain_down (hst : s.fget Fl.portStatState p = 7) :
    s.portRetrain (.hart h) p = s.fset Fl.portStatState p 1 := by
  unfold State.portRetrain
  rw [if_neg (by simp [State.mayWrite_hart hpr]), hst]
  rfl

end

section
variable {s : State} {p : Nat}

/-- A port with a role leaves DISABLED, in a module that is not EXCLUDED. -/
theorem State.portFollow_enabled (hon : s.fon Fl.portCtlEnable p = true) (hrole : s.portRole p ≠ 0)
    (htwin : s.twinSelf ≠ twExcluded) (hst : s.fget Fl.portStatState p = 0) :
    s.portFollow p = s.fset Fl.portStatState p 1 := by
  unfold State.portFollow
  simp [hon, hrole, htwin, hst]

/-- A port without ENABLE is DISABLED. -/
theorem State.portFollow_disabled (hp : p < 12) (hoff : s.fon Fl.portCtlEnable p = false) :
    TrainOnly s (s.portFollow p) ∧ (s.portFollow p).fget Fl.portStatState p = 0 := by
  unfold State.portFollow
  rw [hoff]
  simp only [Bool.false_and, Bool.not_false, Bool.true_and, Bool.false_eq_true, if_false, bne_iff_ne]
  split
  · refine ⟨(((regsOnly_fset s _ p 0).trans (regsOnly_fset _ _ p 3)).trans
      (regsOnly_fset _ Fl.portLanesActive p 0)).trainOnly.trans (portsOnly_setPort _ p _).trainOnly, ?_⟩
    rw [State.fget_setPort, State.fget_fset_apart _ _ (by decide) hp hp (by exact nofun),
      State.fget_fset_apart _ _ (by decide) hp hp fun _ => .inl (by decide), State.fget_fset_fits _ p (by decide) (by decide)]
  next hst => exact ⟨rfl, not_not.mp hst⟩

end

/-! ### DETECT -/

theorem exec_portDetect {s : State} {p : Nat} (hl : s.live = true) (hp : p < 12) (hst : s.fget Fl.portStatState p = 1) :
    exec (.portDetect p) s = .next ((s.setPort p (s.port p).anew).fset Fl.portStatState p 2) :=
  act_trainOnly hl (if_pos ⟨hp, hst⟩) ((portsOnly_setPort s p _).trainOnly.trans (regsOnly_fset _ _ p 2).trainOnly)

/-! ### A port that goes down -/

/-- PORT_LANES but for ACTIVE stands. -/
theorem State.portDown_lanes (s : State) {p : Nat} (cause : Nat) (hp : p < 12) {f : Fld} (hr : f.reg = .portLanes)
    (hf : f.hi < 56) : (s.portDown p cause).fget f p = s.fget f p := by
  have hi : p < f.reg.place.2.1 := by
    rw [hr]
    exact hp
  have hnot : notTwin f.reg := by
    rw [hr]
    exact ⟨⟨by decide, by decide⟩, by decide, by decide⟩
  have hother : f.reg ≠ .portStat := by
    rw [hr]
    decide
  rw [(s.portDown_traffic p cause).frame.fget f p hi hnot, State.fget_setPort, State.downNoted,
    (State.logEvent_frame _ (by exact nofun)).fget f p hi hnot.1, State.fget_fset_ne _ _ hp hi (.inl hother),
    State.fget_fset_apart _ _ (by decide) hp hi fun _ => .inr hf, State.fget_fset_ne _ _ hp hi (.inl hother),
    State.fget_fset_ne _ _ hp hi (.inl hother)]

/-- A command that takes a port down. -/
theorem act_portDown {s t : State} {f : State → State} {p cause : Nat} (hl : s.live = true) (ht : f s = t.portDown p cause)
    (honly : TrainOnly s t) : act s f = .next (t.portDown p cause) := by
  obtain ⟨hhalted, hpending⟩ := t.portDown_quiet p cause
  exact act_eq_next hl ht (hhalted.trans (by rw [honly]; exact State.halted_of_live hl)) (hpending.trans (by rw [honly]))

/-! ### EQUALISE (R241) -/

/-- The failed lanes that count: those that are not switched off. -/
def State.failedOf (s : State) (p : Nat) (failed : BitVec 8) : Nat :=
  failed.toNat - failed.toNat.land (s.fget Fl.portLanesDisable p)

/-- The state with the failed lanes marked. -/
def State.failMarked (s : State) (p : Nat) (failed : BitVec 8) : State :=
  s.fset Fl.portLanesFailed p (s.failedOf p failed)

section
variable {s : State} {p : Nat} (hp : p < 12) (failed : BitVec 8)
include hp

omit hp in
theorem State.failMarked_failed : (s.failMarked p failed).fget Fl.portLanesFailed p = s.failedOf p failed :=
  State.fget_fset_fits s p (by decide) (Nat.lt_of_le_of_lt (Nat.sub_le _ _) failed.isLt)

theorem State.failMarked_fget {f : Fld} (hi : p < f.reg.place.2.1) (hf : f.reg = .portLanes → 47 < f.lo ∨ f.hi < 40) :
    (s.failMarked p failed).fget f p = s.fget f p := State.fget_fset_apart s _ (by decide) hp hi hf

/-- The lanes that have passed, by the marks before and the failures of this EQUALISE. -/
theorem State.failMarked_passed : (s.failMarked p failed).passedLanes p = (List.range 8).filter fun l =>
    bitsOf (s.failedOf p failed) l l = 0 && bitsOf (s.fget Fl.portLanesWeak p) l l = 0 &&
      bitsOf (s.fget Fl.portLanesDisable p) l l = 0 := by
  unfold State.passedLanes
  rw [State.failMarked_failed, State.failMarked_fget hp failed (f := Fl.portLanesWeak) hp fun _ => .inl (by decide),
    State.failMarked_fget hp failed (f := Fl.portLanesDisable) hp fun _ => .inr (by decide)]

variable (hl : s.live = true) (hphase : s.trainPhase p = 2)
include hl hphase

theorem exec_equaliseDone_enough
    (h : lanesOfWidth (s.fget Fl.portCtlMinWidth p) ≤ ((s.failMarked p failed).passedLanes p).length) :
    exec (.equaliseDone p failed) s = .next ((s.failMarked p failed).alignBegin p) := by
  refine act_trainOnly hl ?_ ((regsOnly_fset s _ p _).trainOnly.trans (State.alignBegin_trainOnly _))
  rw [← State.failMarked_fget hp failed (f := Fl.portCtlMinWidth) hp (by exact nofun)] at h
  rw [if_pos ⟨hp, hphase⟩]
  exact if_neg (Nat.not_lt.mpr h)

theorem exec_equaliseDone_few
    (h : ((s.failMarked p failed).passedLanes p).length < lanesOfWidth (s.fget Fl.portCtlMinWidth p)) :
    exec (.equaliseDone p failed) s = .next ((s.failMarked p failed).portDown p 2) := by
  refine act_portDown hl ?_ (regsOnly_fset s _ p _).trainOnly
  rw [← State.failMarked_fget hp failed (f := Fl.portCtlMinWidth) hp (by exact nofun)] at h
  rw [if_pos ⟨hp, hphase⟩]
  exact if_pos h

end

/-! ### CONFIG (R243) -/

/-- Values put at the first keys of an empty map, each its own. -/
theorem mget_foldl_each {α : Type} [DecidableEq α] (d : α) (g : Nat → α) {n k : Nat} (hk : k < n) :
    mget d ((List.range n).foldl (fun m v => mput d m v (g v)) []) k = g k := by
  induction n with
  | zero => exact absurd hk (Nat.not_lt_zero k)
  | succ n ih =>
    rw [List.range_succ, List.foldl_append, List.foldl_cons, List.foldl_nil, mget_mput]
    split
    next h => rw [h]
    · exact ih (by omega)

/-- What a CONFIG says of the far end: its node, and its initial credits (Table 10.17). -/
def configNode (payload : List Byte) : Nat := bitsOf (leNat ((payload.drop 4).take 4)) 17 0

def configCredits (payload : List Byte) : SMap Nat :=
  (List.range 8).foldl (fun m v => mput 0 m v (leNat ((payload.drop (8 + 2 * v)).take 2))) []

/-- The port once it has the far end's CONFIG. -/
def Port.configured (x : Port) (payload : List Byte) : Port :=
  { x with
    peer := some (configNode payload), configOk := true, credit := if !x.trained then configCredits payload else x.credit }

section
variable {s : State} {p : Nat} {payload : List Byte}

/-- A far end is judged by registers and the node that trained first. -/
theorem State.peerFault_congr {t : State} (hregs : t.regs = s.regs) (hpeer : (t.port p).peer = (s.port p).peer) :
    t.peerFault p payload = s.peerFault p payload := by
  unfold State.peerFault State.portRole State.node State.fon
  simp only [State.fget_of_regs hregs, hpeer]

variable (hphase : s.trainPhase p = 4) (hhead : payload.head? = some 1)
include hphase hhead

theorem State.configIn_refused {cause : Nat} (hfault : s.peerFault p payload = some cause) :
    s.configIn p payload = (s.fset Fl.portStatPeerNode p (configNode payload)).portDown p cause := by
  unfold State.configIn
  rw [if_neg (by simp [hphase, hhead]), hfault]
  rfl

theorem State.configIn_fits (hfault : s.peerFault p payload = none)
    (hprobe : (s.port p).probe = none ∨ s.fget Fl.portStatState p ≠ 6) :
    s.configIn p payload = ((s.fset Fl.portStatPeerNode p (configNode payload)).setPort p
      ((s.port p).configured payload)).portUp p := by
  have hgo : ¬ (((s.port p).probe.isSome = true) ∧ s.fget Fl.portStatState p = 6) := by
    rintro ⟨hsome, h6⟩
    rcases hprobe with h | h
    · rw [h] at hsome
      exact absurd hsome (by decide)
    · exact h h6
  unfold State.configIn
  rw [if_neg (by simp [hphase, hhead]), hfault]
  exact if_neg hgo

end

theorem State.tookFlit_peerFault (s : State) (p : Nat) (payload : List Byte) :
    (s.tookFlit p).peerFault p payload = s.peerFault p payload :=
  State.peerFault_congr rfl (by rw [State.tookFlit_port]; rfl)

theorem State.tookFlit_trainPhase (s : State) (p : Nat) : (s.tookFlit p).trainPhase p = s.trainPhase p :=
  State.trainPhase_congr (s.fget_setPort p _ _ p) (by rw [State.tookFlit_port]; rfl)

/-- The state with the far end's CONFIG kept. -/
def State.configTaken (s : State) (p : Nat) (payload : List Byte) : State :=
  ((s.tookFlit p).fset Fl.portStatPeerNode p (configNode payload)).setPort p ((s.port p).took.configured payload)

theorem State.linkUp_of_config {s : State} {p : Nat} (h : s.trainPhase p = 4) : s.linkUp p = true := by
  unfold State.linkUp
  rw [h]
  exact Bool.or_true _

section
variable {s : State} {p : Nat} {payload : List Byte} (hl : s.live = true) (hp : p < 12) (hphase : s.trainPhase p = 4)
  (hhead : payload.head? = some 1)
include hl hp hphase hhead

theorem exec_configFlit_refused {cause : Nat} (hfault : s.peerFault p payload = some cause) :
    exec (.configFlit p payload) s =
      .next (((s.tookFlit p).fset Fl.portStatPeerNode p (configNode payload)).portDown p cause) := by
  refine act_portDown hl ?_ ((portsOnly_setPort s p _).trainOnly.trans (regsOnly_fset _ _ p _).trainOnly)
  exact (State.ctrlFlit_taken hp (State.linkUp_of_config hphase) hhead).trans ((State.ctrlIn_config _ _ hhead).trans
    (State.configIn_refused ((s.tookFlit_trainPhase p).trans hphase) hhead ((s.tookFlit_peerFault p payload).trans hfault)))

theorem exec_configFlit_fits (hfault : s.peerFault p payload = none)
    (hprobe : (s.port p).probe = none ∨ s.fget Fl.portStatState p ≠ 6) :
    exec (.configFlit p payload) s = .next ((s.configTaken p payload).portUp p) := by
  obtain ⟨hhalted, hpending⟩ := (s.configTaken p payload).portUp_quiet p
  refine act_eq_next hl ?_ (hhalted.trans (State.halted_of_live hl)) hpending
  have hup := State.configIn_fits (s := s.tookFlit p) ((s.tookFlit_trainPhase p).trans hphase) hhead
    ((s.tookFlit_peerFault p payload).trans hfault) (by rw [State.tookFlit_port]; exact hprobe)
  rw [State.tookFlit_port] at hup
  exact (State.ctrlFlit_taken hp (State.linkUp_of_config hphase) hhead).trans ((State.ctrlIn_config _ _ hhead).trans hup)

end

/-- Once the far end's CONFIG is taken, the port is ACTIVE and knows it. -/
theorem State.configTaken_up (s : State) {p : Nat} (hp : p < 12) (payload : List Byte) :
    ((s.configTaken p payload).portUp p).fget Fl.portStatState p = 5 ∧
    (((s.configTaken p payload).portUp p).port p).peer = some (configNode payload) ∧
    ((s.configTaken p payload).portUp p).fget Fl.portStatPeerNode p = configNode payload ∧
    ((s.port p).trained = false → (((s.configTaken p payload).portUp p).port p).credit = configCredits payload) := by
  have hport : (s.configTaken p payload).port p = (s.port p).took.configured payload := State.port_setPort_same _ p _
  refine ⟨State.portUp_state _ hp, ?_, ?_, fun htrained => ?_⟩
  · rw [State.portUp_port, hport]
    rfl
  · rw [State.portUp_stat _ hp (f := Fl.portStatPeerNode) rfl (by decide), State.configTaken, State.fget_setPort,
      State.fget_fset_fits _ _ (by decide) (bitsOf_lt _ 17 0)]
  · rw [State.portUp_port, hport]
    exact if_pos (by rw [Bool.not_eq_true']; exact htrained)

/-! ### A weak lane (R246) -/

theorem withBit_eq_setBits (v k : Nat) : withBit v k = setBits v k k 1 := by
  have hmod : 1 % 2 ^ (k + 1 - k) * 2 ^ k = 2 ^ k := by
    rw [Nat.add_sub_cancel_left]
    exact Nat.one_mul _
  unfold withBit setBits
  rw [hmod]
  rcases bitsOf_one_cases v k with h | h
  · rw [h, if_neg (by decide), Nat.zero_mul, Nat.sub_zero]
  · have hle : 2 ^ k ≤ v := by
      have hpos : 0 < v / 2 ^ k := Nat.pos_of_ne_zero fun h0 => by simp [bitsOf, h0] at h
      exact (Nat.div_pos_iff.mp hpos).2
    rw [h, if_pos rfl, Nat.one_mul, Nat.sub_add_cancel hle]

theorem bitsOf_withBit_same (v k : Nat) : bitsOf (withBit v k) k k = 1 := by
  rw [withBit_eq_setBits, bitsOf_setBits_same, Nat.add_sub_cancel_left]
  rfl

theorem bitsOf_withBit_ne {v k l : Nat} (h : l ≠ k) : bitsOf (withBit v k) l l = bitsOf v l l := by
  rw [withBit_eq_setBits, bitsOf_setBits_disjoint _ _ (by omega)]

/-- The port once the decoder has corrected symbols on a lane. -/
def Port.correctedOn (x : Port) (lane codewords symbols : Nat) : Port :=
  { x.countCw codewords with
    corrected := (x.countCw codewords).corrected ++ [(lane, (x.countCw codewords).rxCw, symbols)] }

theorem Port.correctedOn_laneErrors (x : Port) (lane codewords symbols : Nat) :
    (x.correctedOn lane codewords symbols).laneErrors lane = (x.countCw codewords).laneErrors lane + symbols := by
  simp [Port.laneErrors, Port.correctedOn, List.filter_append]

/-- A lane marked WEAK. -/
def State.laneMarked (s : State) (p lane : Nat) : State :=
  s.fset Fl.portLanesWeak p (withBit (s.fget Fl.portLanesWeak p) lane)

theorem State.laneMarked_weak (s : State) {p lane l : Nat} (hl : l < 8) :
    bitsOf ((s.laneMarked p lane).fget Fl.portLanesWeak p) l l =
      if l = lane then 1 else bitsOf (s.fget Fl.portLanesWeak p) l l := by
  unfold State.laneMarked
  rw [State.fget_fset_same _ Fl.portLanesWeak p _ (by decide), show Fl.portLanesWeak.hi + 1 - Fl.portLanesWeak.lo = 8 from rfl,
    bitsOf_mod hl]
  split
  next h => rw [h, bitsOf_withBit_same]
  next h => exact bitsOf_withBit_ne h

theorem exec_laneWeak {s : State} {p lane codewords symbols : Nat} (hl : s.live = true) (hp : p < 12) (hlane : lane < 8)
    (hst : s.fget Fl.portStatState p = 5) (hactive : bitsOf (s.fget Fl.portLanesActive p) lane lane = 1) :
    exec (.laneWeak p ⟨lane, codewords, symbols⟩) s = .next
      (if s.fget Fl.portLanesSerMax p < (s.port p |>.countCw codewords).laneErrors lane + symbols
      then (s.setPort p ((s.port p).correctedOn lane codewords symbols)).laneMarked p lane
      else s.setPort p ((s.port p).correctedOn lane codewords symbols)) := by
  refine act_trainOnly hl ?_ ?_
  · rw [if_pos ⟨hp, hlane, State.linkUp_of_active hst, hactive⟩, ← Port.correctedOn_laneErrors]
    rfl
  · split
    · exact (portsOnly_setPort s p _).trainOnly.trans (regsOnly_fset _ _ p _).trainOnly
    · exact (portsOnly_setPort s p _).trainOnly

/-! ### O22 -/

theorem State.alignBegin_failed (s : State) {p : Nat} (hp : p < 12) :
    (s.alignBegin p).fget Fl.portLanesFailed p = s.fget Fl.portLanesFailed p := by
  rw [s.alignBegin_eq, State.fget_setPort, s.trainTo_fget hp hp (by exact nofun)]

theorem eq_or_eq_of_ite_some {P Q : Prop} [Decidable P] [Decidable Q] {a b c : Nat}
    (h : (if P then some a else if Q then some b else none) = some c) : c = a ∨ c = b := by
  split at h
  · exact .inl (Option.some.inj h).symm
  · split at h
    · exact .inr (Option.some.inj h).symm
    · exact absurd h nofun

/-- A far end that does not fit is a cause of DOWN_CAUSE. -/
theorem State.peerFault_lt {s : State} {p cause : Nat} {payload : List Byte} (h : s.peerFault p payload = some cause) :
    cause < 256 := by
  unfold State.peerFault at h
  have hcause := eq_or_eq_of_ite_some h
  omega

/-- The CONFIG that follows both sequences is the one of before. -/
theorem State.sendAligns_configPayload (s : State) {p : Nat} (hp : p < 12) (proposed : Nat) :
    ((s.sendAlign p proposed false).sendAlign p proposed true).configPayload p = s.configPayload p :=
  State.configPayload_congr hp (fun _ _ _ _ => rfl) (by rw [State.sendAlign_port, State.sendAlign_port])

/-- ENABLE and RETRAIN as a hart writes them. -/
theorem port_writes {s : State} {h p : Nat} (hl : s.live = true) (hpr : s.present (.hart h) = true) (hp : p < 12) :
    (s.fget Fl.portStatState p = 0 → s.portRole p ≠ 0 → s.twinSelf ≠ twExcluded →
      ∃ t, exec (.portEnableWrite (.hart h) p true) s = .next t ∧ t.fget Fl.portStatState p = 1) ∧
    (∃ t, exec (.portEnableWrite (.hart h) p false) s = .next t ∧ t.fget Fl.portStatState p = 0) ∧
    (s.fget Fl.portStatState p = 5 →
      ∃ t, exec (.portRetrain (.hart h) p) s = .next t ∧ t.fget Fl.portStatState p = 6 ∧
        (∀ q < 12, q ≠ p → t.fget Fl.portStatState q = s.fget Fl.portStatState q)) ∧
    (s.fget Fl.portStatState p = 7 →
      ∃ t, exec (.portRetrain (.hart h) p) s = .next t ∧ t.fget Fl.portStatState p = 1) := by
  have hnot : notTwin .portStat := ⟨⟨by decide, by decide⟩, by decide, by decide⟩
  refine ⟨fun hst hrole htwin => ?on, ?off, fun hst => ?active, fun hst => ?down⟩
  case on =>
    have hrole' : (s.fset Fl.portCtlEnable p 1).portRole p = s.portRole p :=
      State.fget_fset_apart s 1 (by decide) hp hp fun _ => .inl (by decide)
    have htwin' : (s.fset Fl.portCtlEnable p 1).twinSelf = s.twinSelf :=
      s.fget_fset_apart (f := Fl.portCtlEnable) (g := Fl.twnStateSelf) (j := 0) 1 (by decide) hp (by decide) (by exact nofun)
    have hst' : (s.fset Fl.portCtlEnable p 1).fget Fl.portStatState p = 0 :=
      (s.fget_fset_apart (f := Fl.portCtlEnable) 1 (by decide) hp hp (by exact nofun)).trans hst
    have hon : (s.fset Fl.portCtlEnable p 1).fon Fl.portCtlEnable p = true :=
      beq_iff_eq.mpr (State.fget_fset_fits s p (by decide) (by decide))
    refine ⟨_, exec_portEnableWrite hl hpr (State.portFollow_enabled hon (hrole' ▸ hrole) (htwin' ▸ htwin) hst')
      ((regsOnly_fset s _ p _).trans (regsOnly_fset _ _ p _)).trainOnly, ?_⟩
    rw [(State.retryWaiting_traffic _).frame.fget Fl.portStatState p hp hnot, State.fget_fset_fits _ _ (by decide) (by decide)]
  case off =>
    have hzero : (s.fset Fl.portCtlEnable p 0).fget Fl.portCtlEnable p = 0 := s.fget_fset_fits p (by decide) (by decide)
    have hoff : (s.fset Fl.portCtlEnable p 0).fon Fl.portCtlEnable p = false := by
      rw [State.fon, hzero]
      rfl
    obtain ⟨honly, hst⟩ := State.portFollow_disabled hp hoff
    refine ⟨_, exec_portEnableWrite hl hpr rfl ((regsOnly_fset s _ p _).trainOnly.trans honly), ?_⟩
    rw [(State.retryWaiting_traffic _).frame.fget Fl.portStatState p hp hnot]
    exact hst
  case active =>
    exact ⟨_, exec_portRetrain hl (State.portRetrain_active hpr hst) (State.retrainEnter_trainOnly s),
      s.retrainEnter_state hp, fun q hq hqp => s.retrainEnter_other hp hq hqp⟩
  case down =>
    exact ⟨_, exec_portRetrain hl (State.portRetrain_down hpr hst) (regsOnly_fset s _ p 1).trainOnly,
      s.fget_fset_fits p (by decide) (by decide)⟩

/-- Settles O22: each command of the training does the step of Table 10.2 that it stands for. -/
theorem portStates : Obligations.PortStates := by
  unfold Obligations.PortStates
  refine ⟨fun s h p hl hpr hp => port_writes hl hpr hp, fun s p hl hp => ⟨fun hst => ?detect, fun failed hphase => ?equalise,
    fun far prop hphase => ⟨fun w ls hchoice hwide => ⟨fun hprop => ?agreed, fun hprop => ?differs⟩, fun hnarrow => ?narrow⟩,
    fun hphase hlate => ?late, fun hst hlate => ?retrain,
    fun payload hphase hhead => ⟨fun hfault hprobe => ?fits, fun cause hfault => ?refused⟩,
    fun lane codewords symbols hlane hst hactive => ?weak⟩⟩
  case detect =>
    have hport : ((s.setPort p (s.port p).anew).fset Fl.portStatState p 2).port p = (s.port p).anew :=
      (State.port_fset _ _ p 2 p).trans (s.port_setPort_same p _)
    refine ⟨_, exec_portDetect hl hp hst, State.fget_fset_fits _ p (by decide) (by decide), fun q hq hqp => ⟨?_, ?_⟩,
      by rw [hport]; rfl, by rw [hport]; rfl, by rw [hport]; rfl, by rw [hport]; rfl,
      (portsOnly_setPort s p _).trainOnly.trans (regsOnly_fset _ _ p 2).trainOnly⟩
    · rw [State.fget_fset_ne _ _ hp hq (.inr hqp), State.fget_setPort]
    · rw [State.port_fset, State.port_setPort_ne _ hqp]
  case equalise =>
    have hpassed := State.failMarked_passed hp (s := s) failed
    intro bad pass
    by_cases henough : lanesOfWidth (s.fget Fl.portCtlMinWidth p) ≤ pass.length
    · obtain ⟨hphase', halign⟩ := (s.failMarked p failed).alignBegin_aligns (p := p)
      refine ⟨_, exec_equaliseDone_enough hp failed hl hphase (by rw [hpassed]; exact henough), ?_, fun _ => ⟨hphase', halign⟩,
        fun h => absurd henough (Nat.not_le.mpr h)⟩
      rw [State.alignBegin_failed _ hp, State.failMarked_failed]
      rfl
    · have hfew := Nat.not_le.mp henough
      refine ⟨_, exec_equaliseDone_few hp failed hl hphase (by rw [hpassed]; exact hfew), ?_, fun h => absurd h henough,
        fun _ => State.portDown_stat _ hp (by decide)⟩
      rw [State.portDown_lanes _ 2 hp (f := Fl.portLanesFailed) rfl (by decide), State.failMarked_failed]
      rfl
  case agreed =>
    have h := ((s.sendAlign p (laneBits ls) false).sendAlign p (laneBits ls) true).alignTo_aligned p w hp
      (chooseLanes_fits hchoice).1 ls
    exact ⟨_, exec_alignDone_agreed hl hp hphase ⟨far, prop⟩ hchoice hwide hprop, h.phase, h.width, h.lanes,
      h.config.trans (by rw [s.sendAligns_configPayload hp])⟩
  case differs =>
    have h := (s.sendAlign p (laneBits ls) false).alignFail_leads hp
    rw [State.sendAlign_port] at h
    exact ⟨_, exec_alignDone_differs hl hp hphase ⟨far, prop⟩ hchoice hwide hprop, h⟩
  case narrow => exact ⟨_, exec_alignDone_narrow hl hp hphase ⟨far, prop⟩ hnarrow, s.portDown_stat hp (by decide)⟩
  case late =>
    obtain ⟨hhalted, hpending⟩ := s.alignFail_quiet (p := p)
    exact ⟨_, act_eq_next hl (if_pos ⟨hp, hphase, hlate⟩) (hhalted.trans (State.halted_of_live hl)) hpending,
      s.alignFail_leads hp⟩
  case retrain =>
    obtain ⟨hstate, hcause⟩ := s.portDown_stat (cause := 1) hp (by decide)
    exact ⟨_, act_portDown hl (if_pos ⟨hp, hst, hlate⟩) rfl, hstate, hcause, s.portDown_replay p 1⟩
  case fits =>
    obtain ⟨hstate, hpeer, hnode, hcredit⟩ := s.configTaken_up hp payload
    refine ⟨_, exec_configFlit_fits hl hp hphase hhead hfault hprobe, hstate, hpeer, hnode, fun htrained v hv => ?_⟩
    rw [hcredit htrained]
    exact mget_foldl_each 0 _ hv
  case refused =>
    exact ⟨_, exec_configFlit_refused hl hp hphase hhead hfault, State.portDown_stat _ hp (State.peerFault_lt hfault)⟩
  case weak =>
    intro n
    have hport : (s.setPort p ((s.port p).correctedOn lane codewords symbols)).port p =
        (s.port p).correctedOn lane codewords symbols := s.port_setPort_same p _
    have hcount : ((s.port p).correctedOn lane codewords symbols).laneErrors lane = n := Port.correctedOn_laneErrors _ _ _ _
    refine ⟨_, exec_laneWeak hl hp hlane hst hactive, ?_⟩
    split
    next hmany =>
      refine ⟨by rw [State.laneMarked, State.port_fset, hport, hcount], fun _ => ?_, fun h => absurd hmany (Nat.not_lt.mpr h),
        fun l hl' hne => ?_, (portsOnly_setPort s p _).trainOnly.trans (regsOnly_fset _ _ p _).trainOnly⟩
      · rw [State.laneMarked_weak _ hlane, if_pos rfl]
      · rw [State.laneMarked_weak _ hl', if_neg hne, State.fget_setPort]
    next hfew =>
      exact ⟨by rw [hport, hcount], fun h => absurd h hfew, fun _ => rfl, fun _ _ _ => rfl, (portsOnly_setPort s p _).trainOnly⟩

end Sys2Proof.Machine
end

section
/-! Responses to this module's requests, requests that get none, and RACK_UPDATE (R260 to R262). -/

namespace Sys2Proof.Machine

/-! ### A transaction that arrives (R258) -/

theorem State.onTxn_arrives {s : State} {p ttype : Nat} {x : Txn} (harr : s.arrives p x = true) (hscr : s.screen p x = none)
    (htype : x.ttype = ttype) (f : State → State) : s.onTxn p ttype x f = f (s.takeRx p x) := by
  unfold State.onTxn
  rw [if_neg (by simp [harr]), hscr]
  exact if_pos htype

/-- Where nothing waits for its stream, nothing goes on. -/
theorem State.retryWaiting_idle {s : State} (h : s.waitTxns = []) : s.retryWaiting = s := by
  unfold State.retryWaiting
  rw [h, List.foldl_nil, ← h]

/-! ### Responses (R260, R262) -/

/-- Only requests, ports and the TAGs that rest differ. -/
abbrev ResponseOnly (s t : State) : Prop := t = { s with reqs := t.reqs, ports := t.ports, onceTags := t.onceTags }

theorem ResponseOnly.trans {s t u : State} (h : ResponseOnly s t) (k : ResponseOnly t u) : ResponseOnly s u := by
  unfold ResponseOnly at *
  rw [k, h]

section
variable {s : State} (q : Req) (qs : List Req)

/-- A request that has its response: it goes, and its TAG rests. -/
def State.ended : State := ({ s with reqs := qs } : State).restTag q.txn

theorem State.ended_only : ResponseOnly s (s.ended q qs) ∧ (s.ended q qs).reqs = qs ∧
    (s.ended q qs).waitTxns = s.waitTxns := by
  unfold State.ended State.restTag
  split <;> exact ⟨rfl, rfl, rfl⟩

theorem State.ended_rests (h : q.txn.once = true) : (q.txn.tag, s.now) ∈ (s.ended q qs).onceTags := by
  unfold State.ended State.restTag
  rw [if_pos h]
  exact List.mem_append_right _ (.head _)

end

/-- What a response to a request of a type does where nothing waits for its stream. -/
theorem State.complete_ends {s : State} (h : s.waitTxns = []) (ttype : Nat) (x : Txn) :
    ResponseOnly s (s.complete ttype x) ∧ (s.complete ttype x).reqs = s.reqs.eraseP (fun q => q.answers ttype x) ∧
      ∀ q, s.reqs.find? (fun q => q.answers ttype x) = some q → q.txn.once = true →
        (q.txn.tag, s.now) ∈ (s.complete ttype x).onceTags := by
  match hfind : s.reqs.find? fun q => q.answers ttype x with
  | none =>
    have heq : s.complete ttype x = s := by
      unfold State.complete
      rw [hfind]
    rw [heq]
    exact ⟨rfl, (List.eraseP_of_forall_not (List.find?_eq_none.mp hfind)).symm, fun q hq => absurd (hfind.symm.trans hq) nofun⟩
  | some q =>
    obtain ⟨honly, hreqs, hwait⟩ := State.ended_only (s := s) q (s.reqs.eraseP fun q => q.answers ttype x)
    have heq : s.complete ttype x = s.ended q (s.reqs.eraseP fun q => q.answers ttype x) := by
      unfold State.complete
      rw [hfind]
      exact State.retryWaiting_idle (hwait.trans h)
    rw [heq]
    refine ⟨honly, hreqs, fun r hr honce => ?_⟩
    obtain rfl := Option.some.inj (hfind.symm.trans hr)
    exact State.ended_rests q _ honce

/-- A command that answers with what a response does. -/
theorem act_response {s : State} {p ttype req : Nat} {x : Txn} (hl : s.live = true) (harr : s.arrives p x = true)
    (hscr : s.screen p x = none) (htype : x.ttype = ttype) (hwait : s.waitTxns = []) (hrx : PortsOnly s (s.takeRx p x)) :
    act s (fun s => s.onTxn p ttype x fun s => s.complete req x) = .next ((s.takeRx p x).complete req x) ∧
      ResponseOnly s ((s.takeRx p x).complete req x) ∧
      ((s.takeRx p x).complete req x).reqs = s.reqs.eraseP (fun q => q.answers req x) ∧
      ∀ q, s.reqs.find? (fun q => q.answers req x) = some q → q.txn.once = true →
        (q.txn.tag, s.now) ∈ ((s.takeRx p x).complete req x).onceTags := by
  have hwait' : (s.takeRx p x).waitTxns = [] := by rw [hrx, hwait]
  have hreqs' : (s.takeRx p x).reqs = s.reqs := by rw [hrx]
  have hnow : (s.takeRx p x).now = s.now := by
    rw [hrx]
    rfl
  obtain ⟨honly, hreqs, hrests⟩ := State.complete_ends hwait' req x
  rw [hreqs'] at hreqs hrests
  rw [hnow] at hrests
  have hsame : ResponseOnly s ((s.takeRx p x).complete req x) :=
    ResponseOnly.trans (by unfold ResponseOnly; rw [hrx]) honly
  exact ⟨act_eq_next hl (State.onTxn_arrives harr hscr htype _) (by rw [hsame]; exact State.halted_of_live hl) (by rw [hsame]),
    hsame, hreqs, hrests⟩

/-! ### A request without its response (R260) -/

/-- The port of a request sent again: another one than before, where there is one. -/
def otherPort (via : Nat) (ports : List Nat) : Option Nat := (ports.find? fun p => p ≠ via).or ports.head?

theorem otherPort_cons (via r : Nat) (ps : List Nat) :
    ∃ p, otherPort via (r :: ps) = some p ∧ ((∃ b ∈ r :: ps, b ≠ via) → p ≠ via) := by
  unfold otherPort
  match hfind : (r :: ps).find? fun p => p ≠ via with
  | some p => exact ⟨p, rfl, fun _ => by simpa using List.find?_some hfind⟩
  | none =>
    refine ⟨r, rfl, fun ⟨b, hb, hne⟩ => absurd hne ?_⟩
    simpa using List.find?_eq_none.mp hfind b hb

/-- A request sent again. -/
def Req.resent (q : Req) (via now : Nat) : Req := { q with via := via, again := true, since := now }

section
variable {s : State} {tag : Nat} {q : Req} (hl : s.live = true)
  (hfind : s.reqs.find? (fun r => r.txn.tag == tag && s.overdue r) = some q)
  (hwho : q.who = .order ∨ q.who = .alias_ ∨ ∃ n, q.who = .op n)
include hl hfind hwho

theorem exec_remoteTimeout_first (hagain : q.again = false) {ports : List Nat} {p : Nat}
    (hroutes : s.routes (s.aliased q.txn.dst) q.stream q.txn.vc false = ports) (hport : otherPort q.via ports = some p) :
    exec (.remoteTimeout tag) s = .next
      (({ s with reqs := s.reqs.map fun r => if r = q then r.resent p s.now else r } : State).place p q.txn) := by
  show execRemoteTimeout tag s = _
  unfold execRemoteTimeout
  refine act_eq_next hl ?_ (State.halted_of_live (s := s) hl) rfl
  rw [hfind]
  dsimp only
  rcases hwho with h | h | ⟨n, h⟩ <;>
  · rw [h]
    dsimp only
    rw [hagain, State.reissue, h]
    dsimp only
    rw [hroutes]
    unfold otherPort at hport
    rw [hport]
    rfl

theorem exec_remoteTimeout_second (hagain : q.again = true) (hwait : s.waitTxns = []) :
    exec (.remoteTimeout tag) s = .next { s with reqs := s.reqs.erase q } := by
  show execRemoteTimeout tag s = _
  unfold execRemoteTimeout
  refine act_eq_next hl ?_ (State.halted_of_live (s := s) hl) rfl
  rw [hfind]
  dsimp only
  have hidle : ({ s with reqs := s.reqs.erase q } : State).retryWaiting = { s with reqs := s.reqs.erase q } :=
    State.retryWaiting_idle hwait
  rcases hwho with h | h | ⟨n, h⟩ <;>
  · rw [h]
    dsimp only
    rw [if_pos hagain, State.timedOut, h]
    exact hidle

end

/-! ### RACK_UPDATE (R261, R262) -/

theorem exec_rackUpdate {s : State} {p : Nat} {x : Txn} (hl : s.live = true) (harr : s.arrives p x = true)
    (hscr : s.screen p x = none) (htype : x.ttype = ttMgmt) (hmsg : x.arg0.toNat % 256 = 3) (hwait : s.waitTxns = [])
    (hrx : PortsOnly s (s.takeRx p x)) {a : Nat} (ha : s.fget Fl.routeCtlRackTbl 0 + 2 * wbits x.arg1 11 0 = a)
    (hcommons : inCommons a 2 = true) :
    exec (.rackUpdate p x) s = .next ((s.takeRx p x).memWrite a (leBytes 2 (wbits x.arg1 27 16))) := by
  have hfields := (s.takeRx p x).memWrite_fields a (leBytes 2 (wbits x.arg1 27 16))
  have ha' : (s.takeRx p x).fget Fl.routeCtlRackTbl 0 + 2 * wbits x.arg1 11 0 = a := by
    rw [State.fget_of_regs hrx.regs, ha]
  refine act_eq_next hl ?_ ?_ ?_
  · refine (s.onMgmt_arrives harr hscr htype hmsg _).trans ?_
    dsimp only
    rw [ha', if_pos hcommons]
    exact State.retryWaiting_idle (by rw [hfields, hrx]; exact hwait)
  · rw [hfields, hrx]
    exact State.halted_of_live hl
  · rw [hfields, hrx]

/-! ### The obligation -/

/-- Settles O51: a response takes the request it answers from the list, the timeouts send once more and then give up, and
RACK_UPDATE is a write of two bytes. -/
theorem responses : Obligations.Responses := by
  unfold Obligations.Responses
  refine ⟨fun s p x hl harr hscr hwait hrx c hc htype => ?answered, fun s tag q hl hfind hwho =>
    ⟨fun hagain r ps hroutes => ?first, fun hagain hwait => ?second⟩, fun s p x hl harr hscr htype hmsg hwait hrx => ?rack⟩
  case answered =>
    have h (req : Nat) := act_response (req := req) hl harr hscr htype hwait hrx
    simp only [List.mem_cons, List.not_mem_nil, or_false] at hc
    rcases hc with rfl | rfl | rfl
    · obtain ⟨hexec, honly, hreqs, hrests⟩ := h ttRead
      exact ⟨_, hexec, hreqs, hrests, honly⟩
    · obtain ⟨hexec, honly, hreqs, hrests⟩ := h ttWrite
      exact ⟨_, hexec, hreqs, hrests, honly⟩
    · obtain ⟨hexec, honly, hreqs, hrests⟩ := h ttWorkOrder
      exact ⟨_, hexec, hreqs, hrests, honly⟩
  case first =>
    obtain ⟨port, hport, hother⟩ := otherPort_cons q.via r ps
    refine ⟨_, q.resent port s.now, exec_remoteTimeout_first hl hfind hwho hagain hroutes hport,
      List.mem_map.mpr ⟨q, List.mem_of_find?_eq_some hfind, if_pos rfl⟩, rfl, rfl, hother, ?_, rfl⟩
    unfold State.place Req.resent
    dsimp only
    rw [State.port_setPort_same, mget_mput_same]
    rfl
  case second => exact ⟨_, exec_remoteTimeout_second hl hfind hwho hagain hwait, rfl⟩
  case rack =>
    intro a hcommons
    have hlen : (leBytes 2 (wbits x.arg1 27 16)).length = 2 := leBytes_length 2 _
    refine ⟨_, exec_rackUpdate hl harr hscr htype hmsg hwait hrx rfl hcommons, ?_, fun b hb => ?_, ?_⟩
    · have hpeek := (s.takeRx p x).peek_memWrite a (leBytes 2 (wbits x.arg1 27 16))
      rw [hlen] at hpeek
      rw [State.peekNat, hpeek, leNat_leBytes]
      exact Nat.mod_eq_of_lt (bitsOf_lt _ 27 16 |>.trans (by decide))
    · rw [State.byteAt_memWrite, hlen, if_neg (by omega), hrx]
      rfl
    · rw [State.memWrite_fields, hrx]

end Sys2Proof.Machine
end

section
/-! READ, WRITE and WORK_ORDER of a peer, and the ONCE cache (R258 to R260, R264, R272, R294 to R296). -/

namespace Sys2Proof.Machine

/-! ### What the receive buffer leaves to a request -/

/-- The ONCE cache and the node served besides this one stand, and no line comes to be in error. -/
structure PeerKeeps (s t : State) : Prop where
  once : t.once = s.once
  serves : t.twin.serves = s.twin.serves
  sound : s.hbm.ueLines = [] → t.hbm.ueLines = []

namespace PeerKeeps

variable {s t u : State}

theorem refl (s : State) : PeerKeeps s s := ⟨rfl, rfl, id⟩

theorem trans (h : PeerKeeps s t) (k : PeerKeeps t u) : PeerKeeps s u :=
  ⟨k.once.trans h.once, k.serves.trans h.serves, fun hs => k.sound (h.sound hs)⟩

theorem of_regs (h : RegsOnly s t) : PeerKeeps s t := ⟨by rw [h], by rw [h], fun hs => by rw [h]; exact hs⟩

theorem of_link (h : LinkOnly s t) : PeerKeeps s t := ⟨by rw [h], by rw [h], fun hs => by rw [h]; exact hs⟩

theorem of_write (s : State) (a : Nat) (bs : List Byte) : PeerKeeps s (s.memWrite a bs) := by
  refine ⟨by rw [s.memWrite_storesOnly a bs], ?serves, fun hs => ?sound⟩ <;>
    unfold State.memWrite State.markDirty State.clearUe <;> rw [State.poke_fields]
  case serves => split <;> rfl
  case sound =>
    rw [if_pos (List.isEmpty_iff.mpr hs)]
    exact hs

theorem of_alert (s : State) (e : Event) : PeerKeeps s (s.alertFor e) := by
  have hmgmt (t : State) (x : Mgmt) : PeerKeeps t { t with mgmt := x } := ⟨rfl, rfl, id⟩
  unfold State.alertFor
  split
  · exact (of_regs (regsOnly_fset s _ _ _)).trans (hmgmt _ _)
  · exact .refl s

theorem of_entry (s : State) (e : Event) : PeerKeeps s (s.logEntry e) := by
  unfold State.logEntry
  dsimp only
  split
  · exact .refl s
  · exact .of_write s _ _

theorem of_event (s : State) {e : Event} (he : e.cls ≠ .fatal) : PeerKeeps s (s.logEvent e) := by
  unfold State.logEvent
  dsimp only
  rw [if_neg he]
  exact ((of_alert s e).trans (of_entry _ e)).trans (of_regs (State.errEvt_regsBut _ e).regs)

end PeerKeeps

section
variable {s u : State} {p v : Nat} {x : Txn}

theorem State.refuseColl_peerKeeps (s : State) (x : Txn) : PeerKeeps s (s.refuseColl x) := by
  have hissue (y : Txn) : PeerKeeps s (s.issueOn y 0 none false) := .of_link (s.issueOn_linkOnly (.inl rfl) 0 false)
  unfold State.refuseColl
  dsimp only
  split
  · split
    · exact hissue _
    · exact .refl s
  · split
    · exact hissue _
    · exact .refl s

theorem State.GivesUp.peerKeeps (h : s.GivesUp p v x u) : PeerKeeps s u := by
  have hpop : PeerKeeps s (s.popped p v) := ⟨rfl, rfl, id⟩
  rcases h with ⟨d4, d5, rfl⟩ | rfl | rfl | rfl
  · exact hpop.trans (.of_event _ (by exact nofun))
  · exact hpop.trans (State.refuseColl_peerKeeps _ x)
  · exact hpop.trans ⟨rfl, rfl, id⟩
  · exact hpop

theorem State.takeRx_peerKeeps (s : State) (p : Nat) (x : Txn) : PeerKeeps s (s.takeRx p x) := by
  unfold State.takeRx
  split
  · have hport (y : Port) : PeerKeeps s (s.setPort p y) := ⟨rfl, rfl, id⟩
    exact (hport _).trans (State.drainRx_keeps _ p x.vc (PeerKeeps (s.setPort p ((s.port p).popRx x.vc)))
      (fun _ _ _ h hgive => h.trans hgive.peerKeeps) _ (.refl _))
  · exact .refl s

/-- A transaction that leaves its buffer changes neither this module's node, nor the top of its memory. -/
theorem State.takeRx_node (s : State) (p : Nat) (x : Txn) : (s.takeRx p x).node = s.node :=
  (s.takeRx_rxOnly p x).frame.fget Fl.glbNodeNode 0 (by decide) ⟨by decide, by decide⟩

theorem State.takeRx_populated (s : State) (p : Nat) (x : Txn) (a n : Nat) :
    (s.takeRx p x).populated a n = s.populated a n := by
  unfold State.populated State.hbmTop
  rw [(s.takeRx_rxOnly p x).frame.fget Fl.memRetireN 0 (by decide) ⟨by decide, by decide⟩]

theorem State.takeRx_answersFor (s : State) (p : Nat) (x : Txn) (n : Nat) :
    (s.takeRx p x).answersFor n = s.answersFor n := by
  unfold State.answersFor
  rw [s.takeRx_node, (s.takeRx_peerKeeps p x).serves]

theorem State.takeRx_onceHit (s : State) (p : Nat) (x : Txn) (src tag : Nat) :
    (s.takeRx p x).onceHit src tag = s.onceHit src tag := by
  unfold State.onceHit
  rw [(s.takeRx_peerKeeps p x).once]

theorem State.answersFor_node (h : x.dst = s.node) : s.answersFor x.dst = true := by
  unfold State.answersFor
  rw [h, beq_self_eq_true, Bool.true_or]

end

/-! ### Requests answered (R258, R260) -/

theorem State.reply_linkOnly (s : State) (r : Txn) : LinkOnly s (s.reply r) := s.issueOn_linkOnly (.inl rfl) 0 false

/-- The state with a response in the ONCE cache. -/
def State.cached (s : State) (x r : Txn) : State := { s with once := s.once ++ [(x.src, x.tag, r)] }

section
variable {s : State} {x : Txn} {ttype vc : Nat} (hans : s.answersFor x.dst = true) (f : State → State × Nat × List Byte)
include hans

theorem State.serve_plain (honce : x.once = false) :
    s.serve x ttype vc f = (f s).1.reply (replyTo x ttype vc (f s).2.1 (f s).2.2) := by
  unfold State.serve
  rw [if_neg (by simp [hans]), if_pos (by simp [honce])]

theorem State.serve_repeated (honce : x.once = true) {r : Txn} (hhit : s.onceHit x.src x.tag = some r) :
    s.serve x ttype vc f = s.reply r := by
  unfold State.serve
  rw [if_neg (by simp [hans]), if_neg (by simp [honce]), hhit]

theorem State.serve_first (honce : x.once = true) (hhit : s.onceHit x.src x.tag = none) (hroom : s.once.length < 65536) :
    s.serve x ttype vc f = ((f s).1.cached x (replyTo x ttype vc (f s).2.1 (f s).2.2)).reply
      (replyTo x ttype vc (f s).2.1 (f s).2.2) := by
  unfold State.serve
  rw [if_neg (by simp [hans]), if_neg (by simp [honce]), hhit]
  exact if_neg (Nat.not_le.mpr hroom)

end

/-- An answer that is kept and sent adds itself to the cache, and leaves the registers and every byte. -/
theorem State.cached_reply (s : State) (x r : Txn) : ((s.cached x r).reply r).regs = s.regs ∧
    ((s.cached x r).reply r).mem = s.mem ∧ ((s.cached x r).reply r).once = s.once ++ [(x.src, x.tag, r)] ∧
    ((s.cached x r).reply r).byteAt = s.byteAt := by
  have h := (s.cached x r).reply_linkOnly r
  generalize (s.cached x r).reply r = t at h
  rw [h]
  exact ⟨rfl, rfl, rfl, rfl⟩

/-- A command that answers with a response sent. -/
theorem act_reply {s u : State} {f : State → State} {r : Txn} (hl : s.live = true) (ht : f s = u.reply r)
    (hhalted : u.halted = s.halted) (hpending : u.pending = s.pending) : act s f = .next (u.reply r) := by
  have hreply := u.reply_linkOnly r
  refine act_eq_next hl ht ?_ ?_
  · rw [hreply]
    exact hhalted.trans (State.halted_of_live hl)
  · rw [hreply]
    exact hpending

section
variable {s : State} {p : Nat} {x : Txn} (hl : s.live = true) (harr : s.arrives p x = true) (hscr : s.screen p x = none)
include hl harr hscr

theorem exec_read (hopen : s.mustWait x = false) (htype : x.ttype = ttRead) {u : State} {r : Txn}
    (hserve : (s.takeRx p x).serve x ttReadRsp 4 (fun u => u.peerRead (s.aclFor p x) p x) = u.reply r)
    (hhalted : u.halted = s.halted) (hpending : u.pending = s.pending) : exec (.read p x) s = .next (u.reply r) := by
  show execRead p x s = _
  unfold execRead
  refine act_reply hl ?_ hhalted hpending
  rw [if_neg (by simp [hopen])]
  exact (State.onTxn_arrives harr hscr htype _).trans hserve

theorem exec_write (hopen : s.mustWait x = false) (htype : x.ttype = ttWrite) {u : State} {r : Txn}
    (hserve : (s.takeRx p x).serve x ttWriteAck 4 (fun u => u.peerWrite (s.aclFor p x) p x) = u.reply r)
    (hhalted : u.halted = s.halted) (hpending : u.pending = s.pending) : exec (.write p x) s = .next (u.reply r) := by
  show execWrite p x s = _
  unfold execWrite
  refine act_reply hl ?_ hhalted hpending
  rw [if_neg (by simp [hopen])]
  exact (State.onTxn_arrives harr hscr htype _).trans hserve

theorem exec_workOrder (htype : x.ttype = ttWorkOrder) {u : State} {r : Txn}
    (hserve : (s.takeRx p x).serve x ttWorkAck 5 (fun u => u.peerOrder (s.aclFor p x) x) = u.reply r)
    (hhalted : u.halted = s.halted) (hpending : u.pending = s.pending) : exec (.workOrder p x) s = .next (u.reply r) := by
  show execWorkOrder p x s = _
  unfold execWorkOrder
  exact act_reply hl ((State.onTxn_arrives harr hscr htype _).trans hserve) hhalted hpending

end

/-! ### READ and WRITE of memory (R259, R264, R266, R296) -/

section
variable {s : State} {acl : List AclEntry} {p : Nat} {x : Txn} (haddr : x.addr < 0xFF00000000)
include haddr

theorem State.peerRead_denied (h : rightIn acl 0 .read x.src = false) : s.peerRead acl p x = (s, rsDenied, []) := by
  unfold State.peerRead regBase
  dsimp only
  rw [if_neg (Nat.not_le.mpr haddr), if_pos (by simp [h])]

theorem State.peerWrite_denied (h : rightIn acl 0 .write x.src = false) : s.peerWrite acl p x = (s, rsDenied, []) := by
  unfold State.peerWrite regBase
  dsimp only
  rw [if_neg (Nat.not_le.mpr haddr), if_pos (by simp [h])]

variable (hdst : x.dst = s.node) (hpanel : inPanel x.addr = false) (hue : s.hbm.ueLines = [])
include hdst hpanel hue

theorem State.peerRead_own (h : rightIn acl 0 .read x.src = true) (hpop : s.populated x.addr x.len = true) :
    s.peerRead acl p x = (s, rsOk, (List.range x.len).map fun i => s.byteAt (x.addr + i)) := by
  have hown : (x.dst != s.node) = false := by simp [hdst]
  unfold State.peerRead regBase
  dsimp only
  rw [if_neg (Nat.not_le.mpr haddr), if_neg (by simp [h]), hown, if_neg (by simp [hpanel, State.readable, hpop])]
  exact if_pos (by simp [State.ctxUe, hue])

theorem State.peerWrite_own (h : rightIn acl 0 .write x.src = true) (hpop : s.populated x.addr x.data.length = true) :
    s.peerWrite acl p x = (s.memWrite x.addr x.data, rsOk, []) := by
  have hown : (x.dst != s.node) = false := by simp [hdst]
  have hnone : s.ctxPartial false x.addr x.data.length = [] := by
    simp [State.ctxPartial, State.ctxExtents, State.uePartial, State.ueIn, hue]
  unfold State.peerWrite regBase
  dsimp only
  rw [if_neg (Nat.not_le.mpr haddr), if_neg (by simp [h]), hown, if_neg (by simp [hpanel, State.readable, hpop]), hnone]
  rfl

end

/-! ### Work orders (R294) -/

/-- The byte at which the next work order of a room goes (R291). -/
def State.nextSlot (s : State) (n : Nat) : Nat := s.ringBase n + 256 * (s.fget Fl.roomTailTail n % s.ringSlots n)

/-- The slots of a room that are taken. -/
def State.ringFill (s : State) (n : Nat) : Nat := (s.fget Fl.roomTailTail n + 2 ^ 17 - s.fget Fl.roomHeadHead n) % 2 ^ 17

/-- A room is read from the registers alone. -/
theorem State.room_of_regs {s t : State} (h : t.regs = s.regs) (n : Nat) :
    t.ringSlots n = s.ringSlots n ∧ t.ringFill n = s.ringFill n ∧ t.nextSlot n = s.nextSlot n := by
  unfold State.ringFill State.nextSlot State.ringSlots State.ringBase
  simp only [State.fget_of_regs h, and_self]

/-- The state with a work order in its room. -/
def State.orderTaken (s : State) (n : Nat) (x : Txn) : State :=
  ((s.memWrite (s.nextSlot n) x.data).logEnqueue n x.src x.data).fset Fl.roomTailTail n
    ((s.fget Fl.roomTailTail n + 1) % 2 ^ 17)

section
variable {s : State} {acl : List AclEntry} {x : Txn} {n : Nat} (hdst : x.dst = s.node) (hn : x.arg0.toNat % 4096 = n)
include hdst hn

theorem State.orderRoom_own : s.orderRoom x = some n := by
  unfold State.orderRoom
  rw [if_pos hdst, hn]

theorem State.peerOrder_closed (h : s.fget Fl.roomAttrEnable n = 0) : s.peerOrder acl x = (s, rsDenied, []) := by
  unfold State.peerOrder
  rw [State.orderRoom_own hdst hn]
  exact if_pos (by simp [State.fon, h])

variable (honce : x.once = true) (hen : s.fget Fl.roomAttrEnable n = 1) (hsrc : s.fget Fl.roomAttrSrc n = 1)
  (hrole : s.fget Fl.glbNodeRole 0 ≠ 1) (hright : rightIn acl (s.fget Fl.roomAttrAcl n) .order x.src = true)
include honce hen hsrc hrole hright

theorem State.peerOrder_open : s.peerOrder acl x =
    if s.ringSlots n ≤ s.ringFill n then (s, rsFull, []) else
      (((s.ctxWrite (s.isPartnerRoom n) (s.nextSlot n) x.data).logEnqueue n x.src x.data).fset Fl.roomTailTail n
        ((s.fget Fl.roomTailTail n + 1) % 2 ^ 17), rsOk, []) := by
  unfold State.peerOrder
  rw [State.orderRoom_own hdst hn]
  dsimp only
  rw [if_neg (by simp [State.fon, honce, hen, hsrc, hrole, hright])]
  rfl

theorem State.peerOrder_full (hfull : s.ringSlots n ≤ s.ringFill n) : s.peerOrder acl x = (s, rsFull, []) :=
  (State.peerOrder_open hdst hn honce hen hsrc hrole hright).trans (if_pos hfull)

theorem State.peerOrder_takes (hserves : s.twin.serves = none) (hroom : s.ringFill n < s.ringSlots n) :
    s.peerOrder acl x = (s.orderTaken n x, rsOk, []) := by
  have hown : s.isPartnerRoom n = false := by simp [State.isPartnerRoom, hserves]
  rw [State.peerOrder_open hdst hn honce hen hsrc hrole hright, if_neg (Nat.not_le.mpr hroom), hown]
  rfl

end

/-! ### What a work order leaves -/

/-- What an answer needs of the state: the halt, the queue and the ONCE cache. -/
def State.answerView (s : State) : Bool × List Instr × List (Nat × Nat × Txn) := (s.halted, s.pending, s.once)

theorem entryKeeps_answerView : EntryKeeps State.answerView where
  stores h := by
    unfold State.answerView
    rw [h]
  log _ _ := rfl
  broken s := by
    unfold State.answerView
    rw [State.fset_halted, State.fset_pending, regsOnly_fset s Fl.waymarkCtlBroken 0 1]
  event s e he := by
    unfold State.answerView
    rw [s.logEvent_eventOnly he]

theorem EntryKeeps.logEnqueue {γ : Type} {q : State → γ} (h : EntryKeeps q) (s : State) (room src : Nat) (desc : List Byte) :
    q (s.logEnqueue room src desc) = q s := by
  unfold State.logEnqueue
  exact (h.setLog _ _ _).trans (h.logAppend s _ _ _)

section
variable (s : State) (n : Nat) (x : Txn)

theorem State.orderTaken_answerView : (s.orderTaken n x).answerView = s.answerView := by
  have hfset (t : State) (v : Nat) : (t.fset Fl.roomTailTail n v).answerView = t.answerView := by
    unfold State.answerView
    rw [regsOnly_fset t Fl.roomTailTail n v]
  rw [State.orderTaken, hfset, entryKeeps_answerView.logEnqueue, entryKeeps_answerView.stores (s.memWrite_storesOnly _ _)]

theorem State.orderTaken_tail : (s.orderTaken n x).fget Fl.roomTailTail n = (s.fget Fl.roomTailTail n + 1) % 2 ^ 17 :=
  State.fget_fset_fits _ n (by decide) (Nat.mod_lt _ (by decide))

end

theorem State.logEnqueue_off {s : State} {n : Nat} (hown : s.isPartnerRoom n = false) (hoff : s.logOn false = false)
    (src : Nat) (desc : List Byte) : (s.logEnqueue n src desc).byteAt = s.byteAt := by
  have hnone (kind : Nat) (bs : List Byte) : s.logAppend false kind bs = s := by
    unfold State.logAppend
    exact if_neg (by simp [hoff])
  unfold State.logEnqueue
  rw [hown]
  dsimp only
  rw [hnone]
  rfl

/-- With its log off, a work order writes its slot and no other byte. -/
theorem State.orderTaken_byteAt {s : State} {n : Nat} {x : Txn} (hn : n < 4096) (hserves : s.twin.serves = none)
    (hoff : s.fget Fl.waymarkCtlLogEn 0 = 0) : (s.orderTaken n x).byteAt = (s.memWrite (s.nextSlot n) x.data).byteAt := by
  have hkeeps := PeerKeeps.of_write s (s.nextSlot n) x.data
  have hown : (s.memWrite (s.nextSlot n) x.data).isPartnerRoom n = false := by
    simp [State.isPartnerRoom, hkeeps.serves, hserves]
  have hlog : (s.memWrite (s.nextSlot n) x.data).logOn false = false := by
    unfold State.logOn State.wayFld
    rw [State.fget_of_regs (s := s) (by rw [s.memWrite_storesOnly])]
    simp [hoff]
  rw [State.orderTaken, State.byteAt_fset _ _ hn (by decide), State.logEnqueue_off hown hlog]

/-! ### Responses forgotten (R260) -/

/-- The ONCE cache without the response of a source and tag. -/
def State.forgets (s : State) (src tag : Nat) : State :=
  { s with once := s.once.filter fun e => !(e.1 == src && e.2.1 == tag) }

theorem exec_onceCacheExpiry {s : State} (hl : s.live = true) (src tag : Nat) :
    exec (.onceCacheExpiry src tag) s = .next (s.forgets src tag) := by
  show execOnceCacheExpiry src tag s = _
  unfold execOnceCacheExpiry
  exact act_eq_next hl rfl (State.halted_of_live (s := s) hl) rfl

section
variable (s : State) (src tag : Nat)

theorem State.forgets_none : (s.forgets src tag).onceHit src tag = none := by
  unfold State.onceHit State.forgets
  rw [List.find?_filter, List.find?_eq_none.mpr fun e _ => by cases (e.1 == src && e.2.1 == tag) <;> decide]
  rfl

theorem State.forgets_other {a b : Nat} (h : a ≠ src ∨ b ≠ tag) : (s.forgets src tag).onceHit a b = s.onceHit a b := by
  have hsame : (fun e : Nat × Nat × Txn => decide ((!(e.1 == src && e.2.1 == tag)) = true ∧ (e.1 == a && e.2.1 == b) = true)) =
      fun e => e.1 == a && e.2.1 == b := by
    funext e
    by_cases he : (e.1 == a && e.2.1 == b) = true
    · obtain ⟨rfl, rfl⟩ : e.1 = a ∧ e.2.1 = b := by simpa using he
      simp only [beq_self_eq_true, Bool.and_self, and_true, decide_eq_true_eq, Bool.not_eq_true', Bool.and_eq_false_iff,
        beq_eq_false_iff_ne]
      exact h
    · simp [he]
  unfold State.onceHit State.forgets
  rw [List.find?_filter, hsame]

end

/-! ### The obligation -/

/-- A READ or a WRITE of memory by a peer. -/
theorem peer_memory {s : State} {p : Nat} {x : Txn} (hl : s.live = true) (harr : s.arrives p x = true)
    (hscr : s.screen p x = none) (hdst : x.dst = s.node) (honce : x.once = false) (haddr : x.addr < 0xFF00000000)
    (hshut : s.shut x.addr = false) :
    (x.ttype = ttRead →
      (rightIn (s.aclFor p x) 0 .read x.src = false →
        exec (.read p x) s = .next ((s.takeRx p x).reply (replyTo x ttReadRsp 4 rsDenied []))) ∧
      (rightIn (s.aclFor p x) 0 .read x.src = true → inPanel x.addr = false → s.populated x.addr x.len = true →
        s.hbm.ueLines = [] →
        exec (.read p x) s = .next ((s.takeRx p x).reply (replyTo x ttReadRsp 4 rsOk
          ((List.range x.len).map fun i => (s.takeRx p x).byteAt (x.addr + i)))))) ∧
    (x.ttype = ttWrite →
      (rightIn (s.aclFor p x) 0 .write x.src = false →
        exec (.write p x) s = .next ((s.takeRx p x).reply (replyTo x ttWriteAck 4 rsDenied []))) ∧
      (rightIn (s.aclFor p x) 0 .write x.src = true → inPanel x.addr = false → s.populated x.addr x.data.length = true →
        s.hbm.ueLines = [] →
        exec (.write p x) s = .next (((s.takeRx p x).memWrite x.addr x.data).reply (replyTo x ttWriteAck 4 rsOk [])))) := by
  have hopen : s.mustWait x = false := by simp [State.mustWait, hshut]
  have hrx := (s.takeRx_rxOnly p x).frame
  have hans := (s.takeRx_answersFor p x x.dst).trans (State.answersFor_node hdst)
  have hdst' : x.dst = (s.takeRx p x).node := hdst.trans (s.takeRx_node p x).symm
  have hsound := (s.takeRx_peerKeeps p x).sound
  refine ⟨fun htype => ⟨fun hright => ?_, fun hright hpanel hpop hue => ?_⟩,
    fun htype => ⟨fun hright => ?_, fun hright hpanel hpop hue => ?_⟩⟩
  · refine exec_read hl harr hscr hopen htype ?_ hrx.halted hrx.pending
    rw [State.serve_plain hans _ honce, State.peerRead_denied haddr hright]
  · refine exec_read hl harr hscr hopen htype ?_ hrx.halted hrx.pending
    rw [State.serve_plain hans _ honce, State.peerRead_own haddr hdst' hpanel (hsound hue) hright
      ((s.takeRx_populated p x _ _).trans hpop)]
  · refine exec_write hl harr hscr hopen htype ?_ hrx.halted hrx.pending
    rw [State.serve_plain hans _ honce, State.peerWrite_denied haddr hright]
  · have hstores := (s.takeRx p x).memWrite_storesOnly x.addr x.data
    refine exec_write hl harr hscr hopen htype ?_ (by rw [hstores]; exact hrx.halted) (by rw [hstores]; exact hrx.pending)
    rw [State.serve_plain hans _ honce, State.peerWrite_own haddr hdst' hpanel (hsound hue) hright
      ((s.takeRx_populated p x _ _).trans hpop)]

/-- A first work order: answered as its room says, and the answer kept. -/
theorem exec_workOrder_first {s : State} {p : Nat} {x : Txn} (hl : s.live = true) (harr : s.arrives p x = true)
    (hscr : s.screen p x = none) (hdst : x.dst = s.node) (htype : x.ttype = ttWorkOrder) (honce : x.once = true)
    (hhit : s.onceHit x.src x.tag = none) (hroom : s.once.length < 65536) {u : State} {status : Nat}
    (horder : (s.takeRx p x).peerOrder (s.aclFor p x) x = (u, status, [])) (hview : u.answerView = (s.takeRx p x).answerView) :
    exec (.workOrder p x) s = .next ((u.cached x (replyTo x ttWorkAck 5 status [])).reply (replyTo x ttWorkAck 5 status [])) ∧
      u.once = s.once := by
  have hrx := (s.takeRx_rxOnly p x).frame
  have hkeeps := (s.takeRx_peerKeeps p x).once
  obtain ⟨hhalted, hrest⟩ := Prod.ext_iff.mp hview
  obtain ⟨hpending, honce'⟩ := Prod.ext_iff.mp hrest
  refine ⟨exec_workOrder hl harr hscr htype ?_ (hhalted.trans hrx.halted) (hpending.trans hrx.pending), honce'.trans hkeeps⟩
  rw [State.serve_first ((s.takeRx_answersFor p x x.dst).trans (State.answersFor_node hdst)) _ honce
    ((s.takeRx_onceHit p x _ _).trans hhit) (by rw [hkeeps]; exact hroom), horder]

/-- Settles O50: each request is answered by its checks in their order, and a ONCE request once. -/
theorem peerAccess : Obligations.PeerAccess := by
  unfold Obligations.PeerAccess
  refine ⟨fun s p x hl harr hscr hdst honce haddr hshut => ?memory, fun s p x hl harr hscr hans honce hopen c hc htype r hhit =>
    ?repeated, fun s p x hl harr hscr hdst htype honce hhit hroom hserves hlen hrx => ?order,
    fun s src tag hl => ⟨_, exec_onceCacheExpiry hl src tag, s.forgets_none src tag,
      fun a b h => s.forgets_other src tag h, rfl⟩⟩
  case memory =>
    obtain ⟨hread, hwrite⟩ := peer_memory hl harr hscr hdst honce haddr hshut
    refine ⟨hread, fun htype => ⟨(hwrite htype).1, fun hright hpanel hpop hue hrx => ?_⟩⟩
    refine ⟨_, (hwrite htype).2 hright hpanel hpop hue, ?_⟩
    have hlink := ((s.takeRx p x).memWrite x.addr x.data).reply_linkOnly (replyTo x ttWriteAck 4 rsOk [])
    have hstores := (s.takeRx p x).memWrite_storesOnly x.addr x.data
    generalize ((s.takeRx p x).memWrite x.addr x.data).reply (replyTo x ttWriteAck 4 rsOk []) = t at hlink ⊢
    have hbyte (a : Nat) : t.byteAt a = if x.addr ≤ a ∧ a < x.addr + x.data.length then x.data.getD (a - x.addr) 0
        else s.byteAt a := by
      rw [hlink]
      refine (State.byteAt_memWrite _ _ _ _).trans ?_
      rw [hrx]
      rfl
    refine ⟨by rw [hlink, hstores, hrx], by rw [hlink, hstores, hrx], fun i hi => ?_, fun a ha => ?_⟩
    · rw [hbyte, if_pos (by omega), Nat.add_sub_cancel_left]
    · rw [hbyte, if_neg (by omega)]
  case repeated =>
    have hrx := (s.takeRx_rxOnly p x).frame
    have hserve (ttype vc : Nat) (f : State → State × Nat × List Byte) :=
      State.serve_repeated (ttype := ttype) (vc := vc) ((s.takeRx_answersFor p x x.dst).trans hans) f honce
        ((s.takeRx_onceHit p x _ _).trans hhit)
    simp only [List.mem_cons, List.not_mem_nil, or_false] at hc
    rcases hc with rfl | rfl | rfl
    · exact exec_read hl harr hscr hopen htype (hserve _ _ _) hrx.halted hrx.pending
    · exact exec_write hl harr hscr hopen htype (hserve _ _ _) hrx.halted hrx.pending
    · exact exec_workOrder hl harr hscr htype (hserve _ _ _) hrx.halted hrx.pending
  case order =>
    have hn : x.arg0.toNat % 4096 < 4096 := Nat.mod_lt _ (by decide)
    have hregs : (s.takeRx p x).regs = s.regs := by rw [hrx]
    have hmem : (s.takeRx p x).mem = s.mem := by rw [hrx]
    have hf (f : Fld) (i : Nat) : (s.takeRx p x).fget f i = s.fget f i := State.fget_of_regs hregs f i
    have hdst' : x.dst = (s.takeRx p x).node := hdst.trans (s.takeRx_node p x).symm
    obtain ⟨hslots, hfill, hslot⟩ := State.room_of_regs hregs (x.arg0.toNat % 4096)
    refine ⟨fun hclosed => ?closed, fun hen hsrc hrole hright => ⟨fun hfree => ?taken, fun hfull => ?full⟩⟩
    case closed =>
      obtain ⟨hexec, -⟩ := exec_workOrder_first hl harr hscr hdst htype honce hhit hroom
        (State.peerOrder_closed hdst' rfl ((hf _ _).trans hclosed)) rfl
      obtain ⟨hregs', hmem', honce', -⟩ := (s.takeRx p x).cached_reply x (replyTo x ttWorkAck 5 rsDenied [])
      exact ⟨_, hexec, hregs'.trans hregs, hmem'.trans hmem, honce'.trans (by rw [hrx])⟩
    case full =>
      obtain ⟨hexec, -⟩ := exec_workOrder_first hl harr hscr hdst htype honce hhit hroom
        (State.peerOrder_full hdst' rfl honce ((hf _ _).trans hen) ((hf _ _).trans hsrc) (by rw [hf]; exact hrole)
          (by rw [hf]; exact hright) (by rw [hslots, hfill]; exact hfull)) rfl
      obtain ⟨hregs', hmem', honce', -⟩ := (s.takeRx p x).cached_reply x (replyTo x ttWorkAck 5 rsFull [])
      exact ⟨_, hexec, hregs'.trans hregs, hmem'.trans hmem, honce'.trans (by rw [hrx])⟩
    case taken =>
      have hserves' : (s.takeRx p x).twin.serves = none := (s.takeRx_peerKeeps p x).serves.trans hserves
      obtain ⟨hexec, hkept⟩ := exec_workOrder_first hl harr hscr hdst htype honce hhit hroom
        (State.peerOrder_takes hdst' rfl honce ((hf _ _).trans hen) ((hf _ _).trans hsrc) (by rw [hf]; exact hrole)
          (by rw [hf]; exact hright) hserves' (by rw [hslots, hfill]; exact hfree)) (State.orderTaken_answerView _ _ _)
      obtain ⟨hregs', -, honce', hbytes⟩ :=
        ((s.takeRx p x).orderTaken (x.arg0.toNat % 4096) x).cached_reply x (replyTo x ttWorkAck 5 rsOk [])
      refine ⟨_, hexec, ?_, honce'.trans (by rw [hkept]), fun hoff _ => ?_⟩
      · rw [State.fget_of_regs hregs', State.orderTaken_tail, hf]
      · have hbyte (b : Nat) : _ = _ := (congrFun (hbytes.trans (State.orderTaken_byteAt hn hserves'
          ((hf Fl.waymarkCtlLogEn 0).trans hoff))) b).trans (State.byteAt_memWrite _ _ _ _)
        have hold (b : Nat) : (s.takeRx p x).byteAt b = s.byteAt b := State.byteAt_eq hmem (by rw [hrx]) (hf _ _) b
        rw [hslot, hlen, State.nextSlot] at hbyte
        refine ⟨fun i hi => ?_, fun b hb => ?_⟩
        · refine (hbyte _).trans ((if_pos ⟨Nat.le_add_right _ _, by omega⟩).trans ?_)
          rw [Nat.add_sub_cancel_left]
        · exact (hbyte b).trans ((if_neg (by omega)).trans (hold b))

end Sys2Proof.Machine
end
